-- ==== Sys2Proof/Word.lean ====
section
/-! DEFINITION. Word types of the QX4 (R4, R66, R97) and the sparse map type the state is built from. -/

namespace Sys2Proof

/-- One byte of memory. -/
abbrev Byte := BitVec 8
/-- An instruction halfword (R119). -/
abbrev Half := BitVec 16
/-- A stack entry, frame register or uniform register (R66, R72). -/
abbrev Word := BitVec 32
/-- A 64-bit value, held as two entries (R66). -/
abbrev DWord := BitVec 64
/-- A generic 64-bit address (R239). -/
abbrev Addr := BitVec 64
/-- One bit per logical lane (R57). -/
abbrev Mask := BitVec 32
/-- A value of DTIME (R250). -/
abbrev DTime := BitVec 48

/-- The 32 lane values of one entry or register, lane 0 first. -/
abbrev Lanes := List Word

/-- A sparse map from numbers, sorted by key, one entry a key; a key that is not bound has the reader's default. -/
abbrev AMap (α : Type) := List (Nat × α)

/-- The low word of a 64-bit value (R66). -/
def loWord (x : DWord) : Word := x.setWidth 32
/-- The high word of a 64-bit value (R66). -/
def hiWord (x : DWord) : Word := (x >>> 32).setWidth 32
/-- A 64-bit value from its low and high words (R66). -/
def dword (lo hi : Word) : DWord := hi ++ lo

end Sys2Proof
end

