-- ==== Sys2Proof/Config.lean ====
section
/-! DEFINITION. What the spec leaves to an implementation or leaves open: opaque free values, and the fixed figures of R22. -/

namespace Sys2Proof.Config

/-- LEASE in cc (R22). -/
def lease : Nat := 2048
/-- SKEW in cc (R22). -/
def skew : Nat := 64

/-- Which of the two neighbours of the exact value a 32-bit special function returns for a bit pattern: true for the
upper one (R178, R185; log 5). -/
opaque sfuUpper : Nat → Word → Bool

/-- The same for the two-operand functions (R184; log 5). -/
opaque sfuUpper2 : Nat → Word → Bool

/-- The parts of a firmware image, to which the spec gives no layout: the bytes that are signed, the public key and the
signature (R429; log 6). -/
opaque imageParts : List Byte → List Byte × List Byte × List Byte

/-- The fused SHA3-256 digest of the firmware's public key (R429; log 6). -/
opaque keyDigest : List Byte

/-- The fused settings, as bytes (R430; log 6). -/
opaque fused : List Byte

/-- The device's identity public key (R430; log 6). -/
opaque identityKey : List Byte

/-- The ML-DSA-44 signature made with the identity private key (R430; log 6). -/
opaque signature : List Byte → List Byte

/-- A byte the spec leaves open, one for each use (log 2). -/
opaque freeByte : Nat → Byte

/-- A word the spec leaves open, one for each use (log 2). -/
opaque freeWord : Nat → Word

/-- LPDDR fitted, in units of 32 GiB (R16, R407; log 14). -/
opaque fitted : Fin 33

/-- Voltage steps of a cluster from its start to the ceiling (R428; log 14). -/
opaque voltCeiling : Nat

/-- What a request to another package asks for (R420): the spec gives its payload no layout. A store is a synchronising one
(`stw`) or a plain one; an append is that of `ringput` (R292). -/
inductive LinkKind | load | store (sync : Bool) | atomic (op : Fin 8) (sgn : Bool) | append
  deriving DecidableEq, Repr

/-- A request to another package: its source and number, the context, the physical address, the size in bytes, a value and a
compare value (R420). -/
structure LinkRequest where
  pkg : BitVec 13
  num : BitVec 32
  guest : Nat
  kind : LinkKind
  addr : Nat
  size : Nat
  val : BitVec 128
  cmp : DWord
  deriving DecidableEq, Repr

/-- A message of another package (R290, R420). -/
structure LinkMessage where
  guest : Nat
  die : Nat
  pkg : BitVec 13
  sdie : BitVec 2
  words : List Word
  tok : Bool
  deriving DecidableEq, Repr

/-- The payload of the flit that carries a request of this package (R420; log 15). -/
opaque linkPack : LinkRequest → List Byte

/-- The payload of the flit that carries a message to another package, and of one that carries a time (R290, R420, R422; log
15). -/
opaque linkPackMessage : LinkMessage → List Byte
opaque linkPackTime : DTime → List Byte

/-- The payload of the answer to a time flit: DTIME at its arrival and at the reply (R422; log 15). -/
opaque linkPackTimeReply : DTime → DTime → List Byte

/-- A time flit's payload asks for an answer (R422; log 15). -/
opaque linkTimeAsks : List Byte → Bool

/-- The payload of a replay request from a sequence number on (R420; log 15). -/
opaque linkPackReplay : BitVec 16 → List Byte

/-- The responses that a response flit's payload holds: a request's number, and the bytes that stood at its home (R420; log
15). -/
opaque linkAnswers : List Byte → List (BitVec 32 × List Byte)

/-- The sequence number from which a replay request asks for flits again (R420; log 15). -/
opaque replayFrom : List Byte → BitVec 16

/-- The requests that a request flit's payload holds (R420; log 15). -/
opaque linkRequests : List Byte → List LinkRequest

/-- The message that a message flit's payload holds (R420; log 15). -/
opaque linkMessage : List Byte → Option LinkMessage

/-- The payload of a response flit (R420; log 15). -/
opaque linkResponse : BitVec 13 → BitVec 32 → BitVec 1024 → List Byte

end Sys2Proof.Config
end

