-- ==== Sys2Proof/Machine/Maps.lean ====
section
/-! DEFINITION. Sparse maps (`AMap`, sorted by key) and byte memories (sorted cells, unlisted bytes read 0; R4, R246). -/

namespace Sys2Proof.Machine

/-- The value bound to `k`, if any. -/
def mfind {α : Type} : AMap α → Nat → Option α
  | [], _ => none
  | (k', v) :: m, k => if k = k' then some v else mfind m k

/-- The value bound to `k`, or `d`. -/
def mget {α : Type} (m : AMap α) (k : Nat) (d : α) : α := (mfind m k).getD d

/-- `m` with `k` bound to `v`, in key order. -/
def mset {α : Type} : AMap α → Nat → α → AMap α
  | [], k, v => [(k, v)]
  | (k', v') :: m, k, v =>
    if k < k' then (k, v) :: (k', v') :: m
    else if k = k' then (k, v) :: m
    else (k', v') :: mset m k v

/-- `m` without a binding of `k`. -/
def mdel {α : Type} (m : AMap α) (k : Nat) : AMap α := m.filter (fun x => x.1 != k)

/-- `m` with the value at `k` changed by `f`, where `k` is bound. -/
def mmod {α : Type} (m : AMap α) (k : Nat) (f : α → α) : AMap α :=
  match mfind m k with
  | some v => mset m k (f v)
  | none => m

/-- A byte memory: cells in strictly rising address order, none of them 0; every unlisted byte reads 0. -/
abbrev Memory := List Host.Cell

/-- The byte of an address that no cell lists (R432 step 5 for the package's own memory; log 4). -/
def unlistedByte : Byte := 0

/-- One byte of memory. -/
def rdByte : Memory → Nat → Byte
  | [], _ => unlistedByte
  | (a', b) :: m, a => if a = a' then b else if a < a' then unlistedByte else rdByte m a

/-- Memory with one byte written; the canonical form is kept. -/
def wrByte : Memory → Nat → Byte → Memory
  | [], a, b => if b = unlistedByte then [] else [(a, b)]
  | (a', b') :: m, a, b =>
    if a < a' then (if b = unlistedByte then (a', b') :: m else (a, b) :: (a', b') :: m)
    else if a = a' then (if b = unlistedByte then m else (a, b) :: m)
    else (a', b') :: wrByte m a b

/-- Every address of `m` is above `lo`, rising, and no listed byte is the unlisted one. -/
def Memory.wfFrom : Option Nat → Memory → Bool
  | _, [] => true
  | lo, (a, b) :: m =>
    (match lo with | none => true | some l => decide (l < a)) && decide (b ≠ unlistedByte) && Memory.wfFrom (some a) m

/-- The canonical form of a byte memory. -/
def Memory.wf (m : Memory) : Bool := Memory.wfFrom none m

/-- `n` bytes from `a` upwards. -/
def rdBytes (m : Memory) (a n : Nat) : List Byte := (List.range n).map (fun i => rdByte m (a + i))

/-- Memory with consecutive bytes written from `a` upwards. -/
def wrBytes : Memory → Nat → List Byte → Memory
  | m, _, [] => m
  | m, a, b :: bs => wrBytes (wrByte m a b) (a + 1) bs

/-- Memory with the `n` bytes from `a` set to 0. -/
def zeroBytes (m : Memory) (a n : Nat) : Memory := m.filter (fun c => !(decide (a ≤ c.1) && decide (c.1 < a + n)))

/-- The little-endian value of bytes (R4). -/
def leNat : List Byte → Nat
  | [] => 0
  | b :: bs => b.toNat + 256 * leNat bs

/-- The `n` little-endian bytes of a value (R4). -/
def leBytes : Nat → Nat → List Byte
  | 0, _ => []
  | n + 1, v => BitVec.ofNat 8 v :: leBytes n (v / 256)

/-- `n` little-endian bytes at `a` as a number. -/
def rdLE (m : Memory) (a n : Nat) : Nat := leNat (rdBytes m a n)

/-- Write a number as `n` little-endian bytes at `a`. -/
def wrLE (m : Memory) (a n v : Nat) : Memory := wrBytes m a (leBytes n v)

/-- Element `i` of a list, or 0 (lane reads). -/
def laneAt (v : Lanes) (l : Nat) : Word := v.getD l 0

/-- Lane values by a function of the lane number. -/
def mkLanes (f : Nat → Word) : Lanes := (List.range 32).map f

/-- Lane `l` of a mask. -/
def laneOn (m : Mask) (l : Nat) : Bool := m.getLsbD l

/-- The mask of the lanes that satisfy `p`. -/
def maskOf (p : Nat → Bool) : Mask :=
  BitVec.ofNat 32 ((List.range 32).foldl (fun acc l => if p l then acc + 2 ^ l else acc) 0)

/-- The lanes of a mask in ascending order. -/
def lanesOf (m : Mask) : List Nat := (List.range 32).filter (laneOn m)

/-- The lowest lane of a mask. -/
def lowLane (m : Mask) : Option Nat := (lanesOf m).head?

/-- The number of lanes of a mask. -/
def maskCount (m : Mask) : Nat := (lanesOf m).length

/-- Lane values of `new` in the lanes of `m`, of `old` elsewhere. -/
def mergeLanes (m : Mask) (new old : Lanes) : Lanes := mkLanes (fun l => if laneOn m l then laneAt new l else laneAt old l)

/-- A list with element `i` replaced (unchanged where there is none). -/
def lset {α : Type} (xs : List α) (i : Nat) (x : α) : List α := xs.set i x

/-- A fixed number of bytes: cut off, or filled with 0. -/
def padTo (n : Nat) (bs : List Byte) : List Byte := (List.range n).map (fun k => bs.getD k 0)

/-- A little-endian field of a byte list. -/
def fieldLE (bs : List Byte) (o n : Nat) : Nat := leNat ((bs.drop o).take n)

end Sys2Proof.Machine
end

