-- ==== Sys2Proof/Syntax.lean ====
section
/-! DEFINITION. The instructions and events of the QX4 (opcode_table.json; R119 to R137, R324), one constructor per row. -/

namespace Sys2Proof

/-- The guard fields E, S and G of a first halfword (R119, R31). -/
structure Guard where
  /-- E: the instruction is guarded by predicate pG. -/
  e : Bool
  /-- S: the sense. -/
  s : Bool
  /-- G: the guard predicate's number. -/
  p : BitVec 4
  deriving DecidableEq, Repr

/-- The guard fields of an instruction without a guard (R31). -/
def Guard.none : Guard := ⟨false, false, 0⟩

/-- Integer type code t of R132. -/
inductive IntTy | i32 | z32 | i64 | z64
  deriving DecidableEq, Repr

/-- Width choice of the instructions that take .i32 or .i64 only (R131, R134). -/
inductive OpW | w32 | w64
  deriving DecidableEq, Repr

/-- Element size of `lea` (R149). -/
inductive ESize | b8 | b16 | b32 | b64
  deriving DecidableEq, Repr

/-- Source width of `sext` (R157). -/
inductive SextW | i8 | i16 | i32
  deriving DecidableEq, Repr

/-- Integer conditions (R158). -/
inductive Cond | eq | ne | lt | le | gt | ge
  deriving DecidableEq, Repr

/-- Floating-point conditions (R180). -/
inductive FCond | eq | ne | lt | le | gt | ge | un | ord
  deriving DecidableEq, Repr

/-- Rounding modes (R99). -/
inductive RMode | rn | rz | ru | rd
  deriving DecidableEq, Repr

/-- Formats of the special functions, `tab` and `dqblk` (R184, R193). -/
inductive SFmt | f32 | f16 | bf16
  deriving DecidableEq, Repr

/-- Formats of the packed operations (R182). -/
inductive HFmt | f16 | bf16
  deriving DecidableEq, Repr

/-- Formats of `dot4` (R183). -/
inductive DotFmt | i8 | z8 | e4m3 | e5m2
  deriving DecidableEq, Repr

/-- The formats of R98 that a conversion may name, codes 0x0 to 0xC. -/
inductive Fmt | f32 | f16 | bf16 | e4m3 | e5m2 | i8 | z8 | i16 | z16 | i32 | z32 | i64 | z64
  deriving DecidableEq, Repr

/-- Operand of `cvt` (R121 kind CV). -/
structure CvtSpec where
  dst : Fmt
  src : Fmt
  mode : RMode
  deriving DecidableEq, Repr

/-- Block types 0 to 3 of R105. -/
inductive BlkTy | ui | e2m1 | pow2 | ilog
  deriving DecidableEq, Repr

/-- Modes of `shfl` (R197). -/
inductive ShflMode | idx | up | down | xor
  deriving DecidableEq, Repr

/-- Modes of `vote` (R198). -/
inductive VoteMode | any | all | ballot
  deriving DecidableEq, Repr

/-- Operations of `red` and `scan` (R121 kind RS). -/
inductive RedOp | add | min | max | and | or | xor
  deriving DecidableEq, Repr

/-- Types of `red` and `scan` (R121 kind RS). -/
inductive RedTy | f32 | i32 | z32 | i64 | z64
  deriving DecidableEq, Repr

/-- Types of `argmax` and `argmin` (R201). -/
inductive ArgTy | f32 | i32 | z32
  deriving DecidableEq, Repr

/-- Load widths in opcode order (R211, R214). -/
inductive LdW | i8 | z8 | i16 | z16 | i32 | i64
  deriving DecidableEq, Repr

/-- Store widths in opcode order (R221). -/
inductive StW | i8 | i16 | i32 | i64
  deriving DecidableEq, Repr

/-- Scope of a synchronising access, codes 0b01 to 0b11 (R121 kind AT, R230). -/
inductive Scope | wg | dev | sys
  deriving DecidableEq, Repr

/-- Operand of an atomic (R121 kind AT). -/
structure AtOp where
  scope : Scope
  w : Bool
  deriving DecidableEq, Repr

/-- The four counter limits of `wait` (R121 kind WT). -/
structure Limits where
  ld : BitVec 4
  st : BitVec 4
  cp : BitVec 3
  tl : BitVec 3
  deriving DecidableEq, Repr

/-- Operand formats of the matrix engine (R325). -/
inductive MFmt | f32 | bf16 | e4m3 | e5m2 | i8 | z8 | b4
  deriving DecidableEq, Repr

/-- Regions of the matrix engine (R321). -/
inductive Region | all | top | bot | q0 | q1 | q2 | q3 | left | right
  deriving DecidableEq, Repr

/-- Slice selections (R323). -/
inductive Slice | none | h | m | l
  deriving DecidableEq, Repr

/-- Where a load lane takes its bytes from (R256): a leased L1 line or private line, a fill requested now, or a held line. -/
inductive LoadSrc | l1 | fill | held
  deriving DecidableEq, Repr

/-- Storage in which an uncorrectable error is found (R376), with its place. -/
inductive Storage
  | cleanLine (core line : Nat)
  | groupStore (core slot : Nat)
  | scratch (core wslot : Nat)
  | heldLine (core line : Nat)
  | accum (cluster half : Nat)
  | ctxMemory (guest : Nat)
  | saveArea (unit : Nat)
  deriving DecidableEq, Repr

/-- The instructions of runs (with their guard), the trailer, the sequencer words, and the events of the
machine's other agents. An event's arguments name the unit it happens to and what the manual leaves open in it. -/
inductive Instr
  /-- `NOP` (R142): Pops nothing, pushes nothing and has no effect. -/
  | nop (gd : Guard)
  /-- `DUP` (R143): Duplicates the top entry. -/
  | dup (gd : Guard)
  /-- `DROP` (R143): Removes the top entry. -/
  | drop (gd : Guard)
  /-- `SWAP` (R143): Exchanges the top two entries. -/
  | swap (gd : Guard)
  /-- `OVER` (R143): Pushes a copy of the second entry. -/
  | over (gd : Guard)
  /-- `ROT` (R143): Rotates the third entry to the top. -/
  | rot (gd : Guard)
  /-- `NIP` (R143): Removes the second entry. -/
  | nip (gd : Guard)
  /-- `TUCK` (R143): Copies the top entry beneath the second. -/
  | tuck (gd : Guard)
  /-- `DUP2` (R143): Duplicates the top two entries. -/
  | dup2 (gd : Guard)
  /-- `DROP2` (R143): Removes the top two entries. -/
  | drop2 (gd : Guard)
  /-- `SWAP2` (R143): Exchanges the top two pairs of entries. -/
  | swap2 (gd : Guard)
  /-- `DEPTH` (R144): Pushes the split's stack depth, or the handler depth in the handler split. -/
  | depth (gd : Guard)
  /-- `PICK` (R144): Pushes a copy of entry n below the top. -/
  | pick (gd : Guard) (n : BitVec 3)
  /-- `ROLL` (R144): Moves entry n below the top to the top. -/
  | roll (gd : Guard) (n : BitVec 3)
  /-- `LDI` (R145): Pushes a sign-extended 16-bit immediate. -/
  | ldi (gd : Guard) (imm : BitVec 16)
  /-- `LDI_LIT` (R145): Pushes a 32-bit literal unchanged. -/
  | ldiLit (gd : Guard) (lit : BitVec 32)
  /-- `LDK` (R145): Pushes a uniform register. -/
  | ldk (gd : Guard) (k : BitVec 6)
  /-- `LDK2` (R145): Pushes a 64-bit uniform register pair. -/
  | ldk2 (gd : Guard) (k : BitVec 6)
  /-- `LDU` (R147): Pops an index and pushes the uniform register it names, per lane. -/
  | ldu (gd : Guard)
  /-- `LDF` (R145): Pushes a frame register of the lane. -/
  | ldf (gd : Guard) (f : BitVec 8)
  /-- `STF` (R145): Pops the top entry into a frame register. -/
  | stf (gd : Guard) (f : BitVec 8)
  /-- `LDF2` (R145): Pushes a 64-bit frame register pair. -/
  | ldf2 (gd : Guard) (f : BitVec 8)
  /-- `STF2` (R145): Pops a 64-bit value into a frame register pair. -/
  | stf2 (gd : Guard) (f : BitVec 8)
  /-- `TEEF` (R145): Copies the top entry into a frame register and keeps it. -/
  | teef (gd : Guard) (f : BitVec 8)
  /-- `STU` (R145): Writes a uniform register from the lowest guarded-on lane. -/
  | stu (gd : Guard) (k : BitVec 6)
  /-- `LDX` (R145): Pushes a run temporary. -/
  | ldx (gd : Guard) (x : BitVec 2)
  /-- `STX` (R145): Pops the top entry into a run temporary. -/
  | stx (gd : Guard) (x : BitVec 2)
  /-- `LDP` (R145): Pushes a predicate as 0 or 1. -/
  | ldp (gd : Guard) (p : BitVec 4)
  /-- `STP` (R145): Pops a value and sets a predicate to whether it is nonzero. -/
  | stp (gd : Guard) (p : BitVec 4)
  /-- `WID` (R148): Pushes the lane's 64-bit work identifier. -/
  | wid (gd : Guard)
  /-- `LANE` (R148): Pushes the logical lane number. -/
  | lane (gd : Guard)
  /-- `SEGI` (R148): Pushes the lane's offset within its segment. -/
  | segi (gd : Guard)
  /-- `LEA` (R149): Computes base plus index times element size. -/
  | lea (gd : Guard) (sz : ESize)
  /-- `ADD` (R151): Integer addition modulo 2^n. -/
  | add (gd : Guard) (t : IntTy)
  /-- `SUB` (R151): Integer subtraction modulo 2^n. -/
  | sub (gd : Guard) (t : IntTy)
  /-- `MUL` (R151): Low half of an integer product. -/
  | mul (gd : Guard) (t : IntTy)
  /-- `MULH` (R151): High half of an integer product, signed or unsigned. -/
  | mulh (gd : Guard) (t : IntTy)
  /-- `MAD` (R151): Integer multiply-add, low n bits. -/
  | mad (gd : Guard) (t : IntTy)
  /-- `DIV` (R152): Integer division truncating towards zero, DZ on a zero divisor. -/
  | div (gd : Guard) (t : IntTy)
  /-- `REM` (R152): Integer remainder with the sign of the dividend. -/
  | rem (gd : Guard) (t : IntTy)
  /-- `NEG` (R151): Integer negation. -/
  | neg (gd : Guard) (t : IntTy)
  /-- `ABS` (R151): Signed integer absolute value. -/
  | abs (gd : Guard) (w : OpW)
  /-- `MIN` (R151): Smaller of two integers. -/
  | min (gd : Guard) (t : IntTy)
  /-- `MAX` (R151): Larger of two integers. -/
  | max (gd : Guard) (t : IntTy)
  /-- `AND` (R151): Bitwise and. -/
  | and (gd : Guard) (t : IntTy)
  /-- `OR` (R151): Bitwise or. -/
  | or (gd : Guard) (t : IntTy)
  /-- `XOR` (R151): Bitwise exclusive or. -/
  | xor (gd : Guard) (t : IntTy)
  /-- `NOT` (R151): Bitwise complement. -/
  | not (gd : Guard) (t : IntTy)
  /-- `SHL` (R153): Left shift, 0 for counts of n or more. -/
  | shl (gd : Guard) (t : IntTy)
  /-- `SHR` (R153): Logical right shift. -/
  | shr (gd : Guard) (t : IntTy)
  /-- `SAR` (R153): Arithmetic right shift. -/
  | sar (gd : Guard) (t : IntTy)
  /-- `ROTL` (R153): Left rotation by the count modulo n. -/
  | rotl (gd : Guard) (t : IntTy)
  /-- `CLZ` (R154): Counts leading zero bits. -/
  | clz (gd : Guard) (t : IntTy)
  /-- `POPC` (R154): Counts set bits. -/
  | popc (gd : Guard) (t : IntTy)
  /-- `BREV` (R154): Reverses the bit order. -/
  | brev (gd : Guard) (t : IntTy)
  /-- `ADDC` (R155): Adds with carry in and pushes the carry out. -/
  | addc (gd : Guard) (t : IntTy)
  /-- `SUBB` (R155): Subtracts with borrow in and pushes the borrow out. -/
  | subb (gd : Guard) (t : IntTy)
  /-- `BFE` (R156): Extracts a bit field. -/
  | bfe (gd : Guard) (t : IntTy)
  /-- `BFI` (R156): Inserts a bit field. -/
  | bfi (gd : Guard) (t : IntTy)
  /-- `SEXT` (R157): Sign-extends 8, 16 or 32 bits. -/
  | sext (gd : Guard) (w : SextW)
  /-- `SETP` (R158): Compares two integers and writes a predicate. -/
  | setp (gd : Guard) (c : Cond) (t : IntTy) (p : BitVec 4)
  /-- `SEL` (R159): Chooses one of two values by a condition entry. -/
  | sel (gd : Guard) (w : OpW)
  /-- `BR` (R160): Sends guarded-on lanes to the target. -/
  | br (gd : Guard) (off : BitVec 16)
  /-- `BZ` (R160): Branches lanes whose popped entry is zero. -/
  | bz (gd : Guard) (off : BitVec 16)
  /-- `BNZ` (R160): Branches lanes whose popped entry is nonzero. -/
  | bnz (gd : Guard) (off : BitVec 16)
  /-- `BP_ANY` (R162): Branches the whole split when any guarded-on lane has the predicate set. -/
  | bpAny (gd : Guard) (p : BitVec 4) (off : BitVec 16)
  /-- `BP_ALL` (R162): Branches the whole split when every guarded-on lane has the predicate set. -/
  | bpAll (gd : Guard) (p : BitVec 4) (off : BitVec 16)
  /-- `JMP` (R160): Sends guarded-on lanes to a target with a 32-bit offset. -/
  | jmp (gd : Guard) (off : BitVec 32)
  /-- `CALL` (R163): Writes the return address to f0, f1 and branches. -/
  | call (gd : Guard) (off : BitVec 32)
  /-- `RET` (R163): Sends each lane to the address in its f0, f1. -/
  | ret (gd : Guard)
  /-- `BX` (R164): Sends each lane to its popped 64-bit address. -/
  | bx (gd : Guard)
  /-- `EXIT` (R165): Ends the guarded-on lanes at the trailer. -/
  | exit (gd : Guard)
  /-- `YIELD` (R166): Makes the group ineligible until another group is chosen or 16 cc pass. -/
  | yield (gd : Guard)
  /-- `WAIT` (R167): Holds the run until the four counters are at or below their limits. -/
  | wait (gd : Guard) (lim : Limits)
  /-- `ARRIVE` (R169): Arrives on a barrier for the group. -/
  | arrive (gd : Guard) (b : BitVec 4)
  /-- `BWAIT` (R169): Makes the group wait until the barrier's phase advances. -/
  | bwait (gd : Guard) (b : BitVec 4)
  /-- `BSYNC` (R169): Arrives on a barrier and then waits on it. -/
  | bsync (gd : Guard) (b : BitVec 4)
  /-- `FADD` (R175): Rounded f32 addition. -/
  | fadd (gd : Guard) (m : RMode)
  /-- `FSUB` (R175): Rounded f32 subtraction. -/
  | fsub (gd : Guard) (m : RMode)
  /-- `FMUL` (R175): Rounded f32 multiplication. -/
  | fmul (gd : Guard) (m : RMode)
  /-- `FFMA` (R175): Fused f32 multiply-add with one rounding. -/
  | ffma (gd : Guard) (m : RMode)
  /-- `FDIV` (R175): Rounded f32 division. -/
  | fdiv (gd : Guard) (m : RMode)
  /-- `FSQRT` (R175): Rounded f32 square root. -/
  | fsqrt (gd : Guard) (m : RMode)
  /-- `FRND` (R176): Rounds an f32 to an integral value in the mode. -/
  | frnd (gd : Guard) (m : RMode)
  /-- `FMIN` (R177): minimumNumber of two f32 values. -/
  | fmin (gd : Guard)
  /-- `FMAX` (R177): maximumNumber of two f32 values. -/
  | fmax (gd : Guard)
  /-- `FABS` (R177): Clears the sign bit. -/
  | fabs (gd : Guard)
  /-- `FNEG` (R177): Inverts the sign bit. -/
  | fneg (gd : Guard)
  /-- `FSGN` (R177): Copies the sign of y onto x. -/
  | fsgn (gd : Guard)
  /-- `FCLS` (R179): Pushes the f32 class mask. -/
  | fcls (gd : Guard)
  /-- `FRCP` (R178): Correctly rounded f32 reciprocal. -/
  | frcp (gd : Guard)
  /-- `FRSQ` (R178): Faithful f32 reciprocal square root. -/
  | frsq (gd : Guard)
  /-- `FSETP` (R180): Compares two f32 values and writes a predicate. -/
  | fsetp (gd : Guard) (c : FCond) (p : BitVec 4)
  /-- `CVT` (R181): Converts between formats under R104. -/
  | cvt (gd : Guard) (cv : CvtSpec)
  /-- `HADD2` (R182): Packed 16-bit float addition. -/
  | hadd2 (gd : Guard) (f : HFmt)
  /-- `HMUL2` (R182): Packed 16-bit float multiplication. -/
  | hmul2 (gd : Guard) (f : HFmt)
  /-- `HFMA2` (R182): Packed 16-bit float fused multiply-add. -/
  | hfma2 (gd : Guard) (f : HFmt)
  /-- `HMAX2` (R182): Packed 16-bit float maximumNumber. -/
  | hmax2 (gd : Guard) (f : HFmt)
  /-- `DOT4` (R183): Four-element 8-bit dot product added to an accumulator. -/
  | dot4 (gd : Guard) (f : DotFmt)
  /-- `EXP2` (R184): Special function 2^x. -/
  | exp2 (gd : Guard) (f : SFmt)
  /-- `LOG2` (R184): Special function log2 x. -/
  | log2 (gd : Guard) (f : SFmt)
  /-- `SIN` (R184): Special function sine. -/
  | sin (gd : Guard) (f : SFmt)
  /-- `COS` (R184): Special function cosine. -/
  | cos (gd : Guard) (f : SFmt)
  /-- `TANH` (R184): Special function hyperbolic tangent. -/
  | tanh (gd : Guard) (f : SFmt)
  /-- `SIGM` (R184): Special function logistic sigmoid. -/
  | sigm (gd : Guard) (f : SFmt)
  /-- `ERF` (R184): Special function error function. -/
  | erf (gd : Guard) (f : SFmt)
  /-- `GELU` (R184): Special function GELU. -/
  | gelu (gd : Guard) (f : SFmt)
  /-- `LSE2` (R184): Special function log2(2^x + 2^y). -/
  | lse2 (gd : Guard) (f : SFmt)
  /-- `TAB` (R188): Evaluates the bound activation table. -/
  | tab (gd : Guard) (f : SFmt)
  /-- `TLOAD` (R189): Starts loading an activation table image into the non-current bank. -/
  | tload (gd : Guard)
  /-- `TBIND` (R189): Binds the group to the current table bank. -/
  | tbind (gd : Guard)
  /-- `QBLK` (R192): Quantises one 32-lane block to a block-scaled 4-bit type. -/
  | qblk (gd : Guard) (ty : BlkTy)
  /-- `DQBLK` (R193): Decodes one block-scaled element. -/
  | dqblk (gd : Guard) (f : SFmt)
  /-- `PK4` (R194): Packs 4-bit codes across lanes into words. -/
  | pk4 (gd : Guard)
  /-- `UPK4` (R194): Unpacks words into 4-bit codes across lanes. -/
  | upk4 (gd : Guard)
  /-- `SEGW` (R195): Sets the group's segment width. -/
  | segw (gd : Guard) (n : BitVec 3)
  /-- `SHFL` (R197): Moves a value between lanes of a segment. -/
  | shfl (gd : Guard) (m : ShflMode)
  /-- `VOTE` (R198): Any, all or ballot over a segment. -/
  | vote (gd : Guard) (m : VoteMode)
  /-- `RED` (R199): Reduces each segment. -/
  | red (gd : Guard) (op : RedOp) (t : RedTy)
  /-- `SCAN` (R200): Inclusive scan over each segment. -/
  | scan (gd : Guard) (op : RedOp) (t : RedTy)
  /-- `ARGMAX` (R201): Greatest value of a segment with its index. -/
  | argmax (gd : Guard) (t : ArgTy)
  /-- `ARGMIN` (R201): Least value of a segment with its index. -/
  | argmin (gd : Guard) (t : ArgTy)
  /-- `DRAW` (R206): Draws one index per segment with probability proportional to weight. -/
  | draw (gd : Guard) (k : BitVec 6) (p : BitVec 4)
  /-- `DRAWM` (R207): Merges two carried draw pairs per lane. -/
  | drawm (gd : Guard)
  /-- `COIN` (R208): Pushes one coin per lane. -/
  | coin (gd : Guard)
  /-- `DKEY` (R209): Sets DKEY and DRCTR from the stack. -/
  | dkey (gd : Guard)
  /-- `LD` (R214): Dispatches a load whose result is a pending stack entry. -/
  | ld (gd : Guard) (w : LdW)
  /-- `LDQ` (R214): Dispatches a 16-byte load to the stack. -/
  | ldq (gd : Guard)
  /-- `LDW` (R217): Dispatches a load bounded by a witness. -/
  | ldw (gd : Guard) (w : LdW)
  /-- `LD_F` (R214): Dispatches a load into frame registers. -/
  | ldF (gd : Guard) (f : BitVec 8) (w : LdW)
  /-- `LDQ_F` (R214): Dispatches a 16-byte load into four frame registers. -/
  | ldqF (gd : Guard) (f : BitVec 8)
  /-- `LDW_F` (R217): Dispatches a witnessed load into frame registers. -/
  | ldwF (gd : Guard) (f : BitVec 8) (w : LdW)
  /-- `LDS` (R218): Reads the workgroup's scratchpad at a byte offset. -/
  | lds (gd : Guard) (w : LdW)
  /-- `STS` (R218): Writes the workgroup's scratchpad at the trailer. -/
  | sts (gd : Guard) (w : StW)
  /-- `ST` (R222): Releases a plain store to the store queue. -/
  | st (gd : Guard) (w : StW)
  /-- `STQ` (R222): Releases a 16-byte plain store. -/
  | stq (gd : Guard)
  /-- `STW_WG` (R224): Synchronising store at workgroup scope returning a witness. -/
  | stwWg (gd : Guard) (w : StW)
  /-- `STW_DEV` (R224): Synchronising store at device scope returning a witness. -/
  | stwDev (gd : Guard) (w : StW)
  /-- `STW_SYS` (R224): Synchronising store at system scope returning a witness. -/
  | stwSys (gd : Guard) (w : StW)
  /-- `PRF` (R225): Requests a line into the L1 without result or fault. -/
  | prf (gd : Guard)
  /-- `SDRAIN` (R226): Holds until every earlier store is accepted or faulted. -/
  | sdrain (gd : Guard)
  /-- `AADD` (R228): Atomic integer add at the home. -/
  | aadd (gd : Guard) (w : OpW) (at_ : AtOp)
  /-- `AMIN_32` (R228): Atomic 32-bit minimum, signed or unsigned. -/
  | amin32 (gd : Guard) (u : Bool) (at_ : AtOp)
  /-- `AMIN_64` (R228): Atomic 64-bit minimum, signed or unsigned. -/
  | amin64 (gd : Guard) (u : Bool) (at_ : AtOp)
  /-- `AMAX_32` (R228): Atomic 32-bit maximum, signed or unsigned. -/
  | amax32 (gd : Guard) (u : Bool) (at_ : AtOp)
  /-- `AMAX_64` (R228): Atomic 64-bit maximum, signed or unsigned. -/
  | amax64 (gd : Guard) (u : Bool) (at_ : AtOp)
  /-- `AAND` (R228): Atomic bitwise and. -/
  | aand (gd : Guard) (w : OpW) (at_ : AtOp)
  /-- `AOR` (R228): Atomic bitwise or. -/
  | aor (gd : Guard) (w : OpW) (at_ : AtOp)
  /-- `AXOR` (R228): Atomic bitwise exclusive or. -/
  | axor (gd : Guard) (w : OpW) (at_ : AtOp)
  /-- `AXCH` (R228): Atomic exchange. -/
  | axch (gd : Guard) (w : OpW) (at_ : AtOp)
  /-- `ACAS` (R228): Atomic compare-and-swap. -/
  | acas (gd : Guard) (w : OpW) (at_ : AtOp)
  /-- `AFADD` (R228): Atomic f32 add rounded to nearest-even. -/
  | afadd (gd : Guard) (at_ : AtOp)
  /-- `WWAIT` (R236): Consumes witnesses and drops older L1 lines so later loads observe the stores. -/
  | wwait (gd : Guard)
  /-- `WMAX` (R235): Merges two witnesses. -/
  | wmax (gd : Guard)
  /-- `WNULL` (R234): Pushes the null witness. -/
  | wnull (gd : Guard)
  /-- `WEXP` (R234): Tests whether a witness is null or expired. -/
  | wexp (gd : Guard)
  /-- `WSCP` (R237): Pushes a witness's scope, passability and expiry. -/
  | wscp (gd : Guard)
  /-- `GROW` (R276): Requests more frame granules, queueing oldest first. -/
  | grow (gd : Guard) (n : BitVec 6)
  /-- `SHRINK` (R277): Releases the highest frame granules. -/
  | shrink (gd : Guard) (n : BitVec 6)
  /-- `MFS` (R273): Pushes a system register. -/
  | mfs (gd : Guard) (r : BitVec 12)
  /-- `MTS` (R274): Writes a system register with its register-specific effect. -/
  | mts (gd : Guard) (r : BitVec 12)
  /-- `TRAP` (R279): Enters the handler with CLASS 3 at the trailer. -/
  | trap (gd : Guard) (n : BitVec 8)
  /-- `WATCH` (R286): Reads a watch descriptor to arm a tensor watch unit. -/
  | watch (gd : Guard) (n : BitVec 2)
  /-- `UNWATCH` (R286): Disarms a tensor watch unit on every core. -/
  | unwatch (gd : Guard) (n : BitVec 2)
  /-- `TRCM` (R287): Writes a MARK trace packet. -/
  | trcm (gd : Guard) (n : BitVec 16)
  /-- `PMARK` (R287): Sets the group's profile mark. -/
  | pmark (gd : Guard) (n : BitVec 16)
  /-- `SLEEP` (R288): Makes the group ineligible for n cc. -/
  | sleep (gd : Guard) (n : BitVec 16)
  /-- `TRET` (R280): Leaves the handler and resumes the parked parts. -/
  | tret (gd : Guard)
  /-- `REPLAY` (R283): Reissues the unfinished lanes of the record named by XCAUSE.IDX. -/
  | replay (gd : Guard)
  /-- `KILL` (R285): Ends every lane of the group and records KILLED. -/
  | kill (gd : Guard)
  /-- `ENQ` (R289): Launches child work from a launch header. -/
  | enq (gd : Guard)
  /-- `ENQW` (R289): Launches child work and returns status when it ends, using the reserve credit if needed. -/
  | enqw (gd : Guard)
  /-- `LSEND` (R290): Sends a 128-byte message to a die's mailbox. -/
  | lsend (gd : Guard)
  /-- `MRECV` (R291): Takes the oldest message from the die's mailbox. -/
  | mrecv (gd : Guard)
  /-- `RINGPUT` (R292): Appends a token to a delivery ring per lane. -/
  | ringput (gd : Guard)
  /-- `PGMAP` (R284): Maps first-touch pages from the device-local pool. -/
  | pgmap (gd : Guard)
  /-- `CFLUSH` (R293): Invalidates instruction caches after earlier stores are applied. -/
  | cflush (gd : Guard)
  /-- `CPY` (R314): Starts a scatter-gather chain on the transfer unit. -/
  | cpy (gd : Guard)
  /-- `CPYSTAT` (R315): Pushes the workgroup's copy status and clears a failure. -/
  | cpystat (gd : Guard)
  /-- `MOULD` (R316): Binds a mould to a global buffer. -/
  | mould (gd : Guard)
  /-- `UNVEIL` (R317): Publishes a mould's shadow and returns a witness. -/
  | unveil (gd : Guard)
  /-- `CPYSCOUT` (R318): Sets the scout distance. -/
  | cpyscout (gd : Guard) (n : BitVec 7)
  /-- `MCATCH` (R335): Posts an arming to the core's edge-port queue. -/
  | mcatch (gd : Guard) (f : BitVec 8) (nm : BitVec 4)
  /-- `ACCLD` (R339): Loads accumulator entries into frame registers. -/
  | accld (gd : Guard) (f : BitVec 8) (nm : BitVec 4)
  /-- `ACCST` (R339): Writes frame registers into accumulator entries. -/
  | accst (gd : Guard) (f : BitVec 8) (nm : BitVec 4)
  /-- `ACCPATCH` (R339): Writes one accumulator entry per lane. -/
  | accpatch (gd : Guard)
  /-- `ENDRUN` (R78): Trailer commits the run indivisibly and determines successors. -/
  | endrun (safe : Bool) (idx : BitVec 11) (pmask : BitVec 8)
  /-- `M_WLOAD` (R328): Loads weights into a region and latches the format. -/
  | mWload (fmt : MFmt) (reg : Region) (t : Bool) (ax : Bool) (o : BitVec 2) (code : BitVec 19) (scale : BitVec 19)
  /-- `M_PASS` (R330): Streams activation vectors through a region into accumulators. -/
  | mPass (fmt : MFmt) (reg : Region) (t : Bool) (ax : Bool) (o : BitVec 2) (gth : Bool) (code : BitVec 19) (e0 : BitVec 9) (nm : BitVec 9) (z : Bool)
  /-- `M_DRAIN` (R336): Drains accumulator entries to the edge-port armings. -/
  | mDrain (reg : Region) (e0 : BitVec 9) (nm : BitVec 4) (z : Bool)
  /-- `M_ZERO` (R333): Zeroes accumulator entries. -/
  | mZero (reg : Region) (e0 : BitVec 9) (nm : BitVec 9)
  /-- `M_SAVE` (R345): Writes accumulator entries to scratchpad. -/
  | mSave (reg : Region) (o : BitVec 2) (code : BitVec 19) (e0 : BitVec 9) (nm : BitVec 9)
  /-- `M_RESTORE` (R345): Reads accumulator entries back from scratchpad. -/
  | mRestore (reg : Region) (o : BitVec 2) (code : BitVec 19) (e0 : BitVec 9) (nm : BitVec 9)
  /-- `M_BAR_ARRIVE` (R340): The sequencer arrives on a barrier once earlier operations retire. -/
  | mBarArrive (b : BitVec 4)
  /-- `M_BAR_WAIT` (R340): The sequencer waits on a barrier. -/
  | mBarWait (b : BitVec 4)
  /-- `M_BAR_SYNC` (R340): The sequencer arrives and waits on a barrier. -/
  | mBarSync (b : BitVec 4)
  /-- `M_LOOP` (R344): Counts a loop, steps an offset register and branches. -/
  | mLoop (c : BitVec 2) (cm : BitVec 16) (r : BitVec 2) (stride : BitVec 16) (off : BitVec 16)
  /-- `M_JMP` (R344): Sequencer jump. -/
  | mJmp (off : BitVec 16)
  /-- `M_STOP` (R343): Ends the sequencer without CTXERR. -/
  | mStop
  /-- `M_FMT` (R324): Sets a pitch, scale, gather or offset register. -/
  | mFmt (sel : BitVec 3) (v : BitVec 19)
  /-- `M_SLICE` (R328): Sets the weight and activation slice selection. -/
  | mSlice (w : Slice) (a : Slice)
  /-- `ISSUE_SELECT` (R360): Each cc with no run in progress the scheduler chooses a group and its split. -/
  | issueSelect (core : Nat) (sched : Nat)
  /-- `SPLIT_PASSED_OVER_EXPIRY` (R61): A ready split passed over for 1,024 cc gains first rank. -/
  | splitPassedOverExpiry (core : Nat) (slot : Nat) (split : Nat)
  /-- `STARVATION_PROMOTION` (R360): A group waiting 256 cc in E is promoted above priority. -/
  | starvationPromotion (core : Nat) (slot : Nat)
  /-- `RUN_DECODE` (R126): The fetched run is checked whole before it can become eligible. -/
  | runDecode (core : Nat) (slot : Nat) (split : Nat)
  /-- `SPILL_START` (R68): Preparation begins a spill of up to four resident entries. -/
  | spillStart (core : Nat) (slot : Nat)
  /-- `SPILL_COMPLETE` (R69): A spill releases the window port after 4 cc. -/
  | spillComplete (core : Nat) (slot : Nat)
  /-- `FILL_START` (R68): Preparation begins a fill of up to four entries from the plinth. -/
  | fillStart (core : Nat) (slot : Nat)
  /-- `FILL_COMPLETE` (R69): A fill writes the window and completes the transfer. -/
  | fillComplete (core : Nat) (slot : Nat)
  /-- `JOIN_RELEASE_TIMEOUT` (R62): A split held at a JOIN for 1,024 cc is released. -/
  | joinReleaseTimeout (core : Nat) (slot : Nat) (split : Nat)
  /-- `PENDING_ENTRY_TIMEOUT` (R64): A hardware pending entry has waited 1,024 cc and becomes due for promotion. -/
  | pendingEntryTimeout (core : Nat) (slot : Nat) (idx : Nat)
  /-- `OPERATION_COMPLETE` (R75): A variable-latency operation completes, clearing pending state and lowering its counter. -/
  | operationComplete (op : Nat)
  /-- `YIELD_EXPIRY` (R166): 16 cc after a yield the group becomes eligible again. -/
  | yieldExpiry (core : Nat) (slot : Nat)
  /-- `SLEEP_EXPIRY` (R288): The sleep of a group ends. -/
  | sleepExpiry (core : Nat) (slot : Nat)
  /-- `SPAN_PLACEMENT` (R351): A leaf places all workgroups of a span and starts their groups. -/
  | spanPlacement (launch : Nat) (cluster : Nat) (cores : List Nat) (pbs : List Addr)
  /-- `PREEMPT_REQUEST` (R378): A pre-emption request reaches every group of a span or gang. -/
  | preemptRequest (unit : Nat)
  /-- `GROUP_SAVE` (R86): A group stopped at a run boundary is saved by flashback or whole. -/
  | groupSave (core : Nat) (slot : Nat)
  /-- `SAVE_COMPLETE` (R378): The unit's save completes once stores, engines and held lines are settled. -/
  | saveComplete (unit : Nat)
  /-- `RESUME` (R384): A saved unit is placed, restored and its records replayed before it issues. -/
  | resume (unit : Nat) (cluster : Nat) (cores : List Nat)
  /-- `TABLE_LOAD_COMPLETE` (R189): A table load completes, making its bank ready and current. -/
  | tableLoadComplete (core : Nat) (bank : Nat)
  /-- `STORE_ACCEPT` (R253): A released store queue entry is translated, checked and placed in its home's apply queue. -/
  | storeAccept (core : Nat) (slot : Nat) (idx : Nat)
  /-- `HOME_APPLY` (R254): A home applies the oldest entry for a line, stamped with its DTIME. -/
  | homeApply (line : Nat)
  /-- `HELD_LINE_TAKE` (R258): A workgroup-scope access takes its line in held state from the device home. -/
  | heldLineTake (core : Nat) (line : Nat)
  /-- `HELD_LINE_LEASE_RELEASE` (R258): A held line unused for LEASE cc is written back and released. -/
  | heldLineLeaseRelease (core : Nat) (line : Nat)
  /-- `FILL_SERVE` (R255): A home serves a fill request and the line is installed with its stamp. -/
  | fillServe (line : Nat)
  /-- `LOAD_PERFORM` (R256): A dispatched load lane takes its bytes from an allowed source. -/
  | loadPerform (op : Nat) (lane : Nat) (src : LoadSrc)
  /-- `RECORD_RETRANSLATE` (R366): With the record area full, faulting lanes are retranslated every 1,024 cc. -/
  | recordRetranslate (op : Nat) (lane : Nat)
  /-- `L1_EVICT` (R257): The L1 evicts a line, writing back a dirty per-thread line. -/
  | l1Evict (core : Nat) (line : Nat)
  /-- `KERNEL_BOUNDARY` (R262): At a launch start or completion the context's writes are applied and L1s invalidated. -/
  | kernelBoundary (launch : Nat)
  /-- `ENQ_HEADER_READ` (R289): After earlier stores apply, a child launch header is read at its home. -/
  | enqHeaderRead (op : Nat)
  /-- `CHILD_LAUNCH_END` (R357): A child launch ends, returning its quota unit or credit and any enqw status. -/
  | childLaunchEnd (launch : Nat)
  /-- `MESSAGE_DELIVERY` (R290): A link message is stored in the destination mailbox or refused as full. -/
  | messageDelivery (op : Nat)
  /-- `WATCH_ARMED` (R286): A watch descriptor has reached every core and the unit is armed. -/
  | watchArmed (op : Nat)
  /-- `CHAIN_START` (R314): A chain's first element starts after earlier stores are applied. -/
  | chainStart (chain : Nat)
  /-- `ELEMENT_FETCH` (R299): An element's bytes are read and checked before any data moves. -/
  | elementFetch (chain : Nat)
  /-- `SKIP_WORD_READ` (R298): A conditional element reads its skip word and is skipped or proceeds. -/
  | skipWordRead (chain : Nat)
  /-- `SCOUT_TRANSLATE` (R307): The scout translates a page ahead of the data engine. -/
  | scoutTranslate (chain : Nat)
  /-- `ELEMENT_COMPLETE` (R300): An element's writes are applied and its arrival is made. -/
  | elementComplete (chain : Nat)
  /-- `UNVEIL_REPLACE` (R312): After overlapping elements complete, the shadow replaces the buffer at DTIME T. -/
  | unveilReplace (op : Nat)
  /-- `SEQ_BLOCK_FETCH` (R323): A requested block of stream words becomes available. -/
  | seqBlockFetch (core : Nat) (wslot : Nat)
  /-- `SEQ_RESUME` (R343): After replay and earlier patches apply, the sequencer resumes at the held word. -/
  | seqResume (core : Nat) (wslot : Nat)
  /-- `ARBITER_GRANT` (R334): Each cc the arbiter grants posted engine operations in rank order. -/
  | arbiterGrant (cluster : Nat)
  /-- `ARBITER_AGE_PROMOTION` (R334): An operation waiting 4,096 cc ranks above all others. -/
  | arbiterAgePromotion (cluster : Nat) (eop : Nat)
  /-- `ENGINE_OP_RETIRE` (R333): An engine operation releases its resources and its updates become final. -/
  | engineOpRetire (cluster : Nat) (eop : Nat)
  /-- `GATHER_COMPLETE` (R331): The gather unit has collected a pass's vectors and the pass is posted. -/
  | gatherComplete (core : Nat) (wslot : Nat)
  /-- `DRAIN_WRITE` (R336): A granted drain writes entries into the arming's registers cc by cc. -/
  | drainWrite (cluster : Nat) (eop : Nat) (k : Nat)
  /-- `RUN_BOUNDARY_DELIVERY` (R364): At a run boundary the first due stop, record or preparation fault is delivered. -/
  | runBoundaryDelivery (core : Nat) (slot : Nat)
  /-- `FW_RESUME` (R373): Firmware resumes an escalated group after any repair. -/
  | fwResume (gid : Nat)
  /-- `FW_END` (R373): Firmware ends an escalated group with cause FW_END. -/
  | fwEnd (gid : Nat)
  /-- `FW_REFER` (R373): Firmware refers an escalation to host software. -/
  | fwRefer (gid : Nat)
  /-- `POOL_REFILL` (R374): Firmware answers the pool-empty trap by writing the pool registers. -/
  | poolRefill (guest : Nat) (base : Addr) (next : Addr) (end_ : Addr)
  /-- `ATOMIC_EMULATION` (R375): Firmware emulates an ATOMIC_PATH atomic that is alone in its run. -/
  | atomicEmulation (gid : Nat)
  /-- `MCHECK` (R376): An uncorrectable error ends or stops the storage's owner. -/
  | mcheck (what : Storage)
  /-- `CORRECTED_ERROR` (R424): A corrected ECC error is counted without changing results. -/
  | correctedError (cluster : Nat)
  /-- `SAVED_RECORD_REPLY` (R383): A reply for a saved record is written to DATA and sets RSLV. -/
  | savedRecordReply (op : Nat) (lane : Nat) (data : BitVec 128)
  /-- `SUBMIT_LAUNCH` (R350): A submission of kind 1 queues or refuses a launch header. -/
  | submitLaunch (guest : Nat) (addr : Addr) (tag : DWord)
  /-- `SUBMIT_PIPELINE` (R352): A submission of kind 2 starts a stage pipeline. -/
  | submitPipeline (guest : Nat) (addr : Addr) (tag : DWord)
  /-- `SUBMIT_RESUME` (R411): A submission of kind 3 resumes an escalated group. -/
  | submitResume (guest : Nat) (addr : Addr) (tag : DWord)
  /-- `SUBMIT_END` (R411): A submission of kind 4 ends an escalated group. -/
  | submitEnd (guest : Nat) (addr : Addr) (tag : DWord)
  /-- `SUBMIT_ABORT` (R411): A submission of kind 5 aborts the current launch. -/
  | submitAbort (guest : Nat) (tag : DWord)
  /-- `STAGE_GATHER` (R354): With 32 records present the leaf takes them as one gathered group. -/
  | stageGather (pipe : Nat) (stage : Nat) (cluster : Nat)
  /-- `STAGE_GATHER_TIMEOUT` (R354): The gathering timer lapses and the leaf gathers the records present. -/
  | stageGatherTimeout (pipe : Nat) (stage : Nat) (cluster : Nat)
  /-- `STAGE_BALANCE` (R356): Every 4,096 cc neighbouring clusters move records between input rings. -/
  | stageBalance (pipe : Nat) (stage : Nat) (cluster : Nat)
  /-- `GANG_STOP_TIMEOUT` (R359): A gang group not at a SAFE trailer within 2^20 cc stops at its next boundary. -/
  | gangStopTimeout (unit : Nat)
  /-- `SAMPLE_TICK` (R388): Each 2^K cc each scheduler writes one sample. -/
  | sampleTick (core : Nat)
  /-- `TRACE_SYNC_TICK` (R396): Each 2^SK cc the SYNC flag of every traced group is set. -/
  | traceSyncTick (guest : Nat)
  /-- `DBGCMD_STOP` (R402): Stops the DBGSEL group at its next run boundary. -/
  | dbgcmdStop (guest : Nat)
  /-- `DBGCMD_RESUME` (R401): Resumes or steps the DBGSEL group. -/
  | dbgcmdResume (guest : Nat)
  /-- `DBGCMD_STEP_ON` (R401): Turns step mode on for the DBGSEL group. -/
  | dbgcmdStepOn (guest : Nat)
  /-- `DBGCMD_STEP_OFF` (R401): Turns step mode off for the DBGSEL group. -/
  | dbgcmdStepOff (guest : Nat)
  /-- `DBGCMD_STOP_ALL` (R402): Stops every group of the context. -/
  | dbgcmdStopAll (guest : Nat)
  /-- `DBGCMD_RESUME_ALL` (R402): Resumes every group of the context. -/
  | dbgcmdResumeAll (guest : Nat)
  /-- `DEBUG_WINDOW_WRITE` (R403): A debugger write changes the stopped group's working or committed state. -/
  | debugWindowWrite (guest : Nat) (off : Nat) (v : Word)
  /-- `TRCTL_WRITE` (R396): Enabling trace sets the SYNC flag of the context's groups. -/
  | trctlWrite (guest : Nat) (v : Word)
  /-- `ERRCLR_WRITE` (R413): An accepted write advances ERRCLR and may clear CTXERR and ERRCNT. -/
  | errclrWrite (guest : Nat) (v : DWord)
  /-- `REGISTER_WRITE` (R407): A host write to a register with no behaviour of its own stores the value. `off`: the offset, and
  2^24 times the agent: 1 port A, 2 port B, 3 firmware, each of which has the whole space of 16 MiB (R406). -/
  | registerWrite (off : Nat) (v : DWord)
  /-- `SEMA_ACQUIRE` (R408): A write of 1 acquires a free semaphore. -/
  | semaAcquire (n : Nat) (a : Bool) (b : Bool) (fw : Bool)
  /-- `SEMA_RELEASE` (R408): A write of 0 by the owner releases a semaphore. -/
  | semaRelease (n : Nat) (agent : Nat)
  /-- `SET_PARTITION` (R416): Administrative command 1 sets a partition's clusters and memory. -/
  | setPartition (agent : Nat)
  /-- `ASSIGN_TENANT` (R417): Administrative command 2 assigns tenants to a cluster or its row halves. -/
  | assignTenant (agent : Nat)
  /-- `SET_QUOTA` (R409): Administrative command 3 sets a guest's quota pool sizes. -/
  | setQuota (agent : Nat)
  /-- `FENCE_CLUSTER` (R426): Administrative command 4 fences a cluster and re-places its spans. -/
  | fenceCluster (agent : Nat)
  /-- `RESTORE_CLUSTER` (R409): Administrative command 4 restores a cluster not fenced for a fault. -/
  | restoreCluster (agent : Nat)
  /-- `FIRMWARE_UPDATE` (R429): Administrative command 5 verifies and stages a firmware image. -/
  | firmwareUpdate (agent : Nat)
  /-- `ATTEST` (R430): Administrative command 6 writes a signed attestation report. -/
  | attest (agent : Nat)
  /-- `DEVICE_RESET` (R431): Administrative command 7 ends every context and reboots from step 2. -/
  | deviceReset (agent : Nat)
  /-- `GUEST_RESET` (R431): Administrative command 7 ends a guest's launches and discards its moulds and mailboxes. -/
  | guestReset (agent : Nat)
  /-- `READ_HEALTH_LOG` (R409): Administrative command 8 writes recent health log entries. -/
  | readHealthLog (agent : Nat)
  /-- `WRITE_ROUTE_TABLE` (R421): Administrative command 9 writes the Maelber route table. -/
  | writeRouteTable (agent : Nat)
  /-- `LINK_ENABLE` (R421): Administrative command 10 brings up the Maelber link. -/
  | linkEnable (agent : Nat)
  /-- `DIRTY_LOG_THROTTLE_LIFT` (R419): The guest's throttle lifts when log occupancy falls below 7/8. -/
  | dirtyLogThrottleLift (guest : Nat)
  /-- `FLIT_RECEIVE` (R420): A received flit is checked by CRC and acted on or replayed. -/
  | flitReceive (port : Nat) (flit : BitVec 2048)
  /-- `PORT_DOWN` (R420): After 16 failed replays a port goes down and its traffic is rerouted. -/
  | portDown (port : Nat)
  /-- `PORT_TRAINED` (R421): A port completes training, possibly setting LINKUP. -/
  | portTrained (port : Nat)
  /-- `TIME_EXCHANGE` (R422): Every 4,096 cc ports exchange time flits and clocks are corrected. -/
  | timeExchange (port : Nat) (t0 : DTime) (t1 : DTime) (t2 : DTime) (t3 : DTime) (dist : Nat)
  /-- `POWER_ON_RESET` (R431): Power-on resets everything and runs boot. -/
  | powerOnReset
  /-- `LANE_TEST_FAIL` (R425): A failed periodic lane test remaps lanes or fences the cluster. -/
  | laneTestFail (core : Nat) (sched : Nat) (lane : Nat)
  /-- `DRAM_SPARE` (R426): A DRAM row or bank with repeated errors is spared. -/
  | dramSpare (bank : Nat) (last : Bool)
  /-- `PATINA_CHECK` (R428): Every 2^30 cc firmware reads canaries and raises voltage or fences a cluster. -/
  | patinaCheck (cluster : Nat) (low : Bool)
  /-- `NOTIFY` (R412): A write to a guest's NOTIFY register makes firmware read the guest table entry and command page and process submissions from SQHEAD to SQTAIL. -/
  | notify (guest : Nat)
  /-- `CQHEAD_ADVANCE` (R411): Host software advances CQHEAD, freeing completion ring entries so that a device waiting to write a completion entry proceeds. -/
  | cqheadAdvance (guest : Nat) (v : Word)
  /-- `ISSUE_SLOT_WITHHOLDING` (R20): Firmware starts or stops withholding issue slots in the schedulers and matrix arrays to hold a domain within its power ceiling. -/
  | issueSlotWithholding (core : Nat) (sched : Nat) (on : Bool)
  /-- `UCIE_PORT_TRAINED` (R406): UCIe port A or B completes training and becomes present to its agent. -/
  | uciePortTrained (agent : Nat)
  /-- `UCIE_PORT_DOWN` (R362): A UCIe port is lost, so accesses to host-memory pages it carries fail with PATH_DOWN and its agent is absent. -/
  | uciePortDown (agent : Nat)  deriving DecidableEq, Repr

end Sys2Proof
end

