-- ==== Sys2Proof/Machine/State.lean ====
section
/-! DEFINITION. The state of one QX4 package, the reasons a step can stop, and the state right after reset. -/

namespace Sys2Proof.Machine

/-! ## Cause codes and small enumerations -/

/-- A cause code (R362). -/
abbrev Cause := BitVec 6

/-- The four counters (R72, R76). -/
inductive Ctr | ld | st | cp | tl
  deriving DecidableEq, Repr

/-- Kinds of read-modify-write (R227). -/
inductive AtomOp | add | min | max | and | or | xor | xch | cas | fadd
  deriving DecidableEq, Repr

/-- Where an operation's results go (R75, R367): `n` entries from depth index `i` up, or `n` registers from `fi` up. -/
inductive Dest
  | none
  | stack (i n : Nat)
  | frame (i n : Nat)
  deriving DecidableEq, Repr

/-- How the bytes of a load become a result (R211). -/
inductive Ext | sign | zero
  deriving DecidableEq, Repr

/-! ## Requests and outstanding operations -/

/-- One lane of a memory instruction: its address, its value or operand, a compare value, and a witness (R211, R227). -/
structure LaneReq where
  lane : Nat
  va : Addr
  val : BitVec 128
  cmp : DWord
  wit : DWord
  deriving DecidableEq, Repr

/-- What an instruction leaves to its trailer (R78), one item per instruction in program order. -/
inductive Staged
  /-- `sts`: size and lanes (va holds the offset; R218). -/
  | sts (size : Nat) (lanes : List LaneReq)
  /-- `st`, `stq` (R221). -/
  | store (size : Nat) (lanes : List LaneReq)
  /-- `stw` (R224). -/
  | stw (scope : Scope) (size : Nat) (lanes : List LaneReq)
  /-- Loads; `wit`: a witness form (R214, R217). -/
  | load (size : Nat) (ext : Ext) (wit : Bool) (frame : Option Nat) (lanes : List LaneReq)
  /-- `prf` (R225). -/
  | prf (lanes : List LaneReq)
  /-- Atomics: operation, width in bytes, signedness, scope, witness form (R227). -/
  | atomic (op : AtomOp) (size : Nat) (sgn : Bool) (scope : Scope) (wit : Bool) (lanes : List LaneReq)
  /-- `arrive`, `bwait`, `bsync` (R169). -/
  | arrive (b : Nat) | bwait (b : Nat) | bsync (b : Nat)
  /-- `yield` (R166), `sleep` (R288). -/
  | yield | sleep (n : Nat)
  /-- `grow`, `shrink` (R276, R277). -/
  | grow (n : Nat) | shrink (n : Nat)
  /-- `trap` with its guarded-on lanes, none where it does not act (R279); `tret`, which acts with a lane guarded on (R280);
  `replay`, `kill` (R283, R285). -/
  | trap (n : BitVec 8) (m : Mask) | tret (acts : Bool) | replay | kill
  /-- `watch`, `unwatch` (R286). -/
  | watch (n : Nat) (va : Addr) (lane : Nat) | unwatch (n : Nat)
  /-- `trcm`, `pmark` (R287). -/
  | trcm (n : BitVec 16) | pmark (n : BitVec 16)
  /-- `enq`, `enqw` (R289). -/
  | enq (w : Bool) (m : Mask) (va : Addr)
  /-- `lsend`, `mrecv` (R290, R291). -/
  | lsend (m : Mask) (d : Word) (words : List Word) | mrecv (m : Mask)
  /-- `ringput` (R292). -/
  | ringput (lanes : List LaneReq)
  /-- Writes to context-scope and workgroup-scope registers (R274). -/
  | asgen | wstat (n : Nat) (v : Word) | mxflags (v : Word)
  /-- `pgmap`: of each page mapped, where its entry stands, its frame and the entry; `mould`: the handle bound, with the
  buffer's base, length and frames (R284, R316). -/
  | pgmap (pages : List (Nat × Nat × Nat)) | mould (h : Nat) (base : Addr) (len : Word) (frames : List Nat)
  /-- `tload`, `tbind` (R187, R189). -/
  | tload (acts : Bool) (va : Addr) (lane : Nat) | tbind
  /-- An instruction that no lane has guarded on: only its counter rises (R91). -/
  | idle (c : Ctr)
  /-- `cpy`, `cpyscout`, `mould`, `unveil` (R313 to R318). -/
  | cpy (acts : Bool) (va : Addr) (lane : Nat) | cpyscout (n : Nat)
  | unveil (m : Mask) (h : Word)
  /-- `cpystat` read a failure, and clears it (R315). -/
  | cpystat
  /-- `mcatch`; `accld`, and `accst` or `accpatch` with the accumulator cells as addresses (R337 to R339). -/
  | mcatch (f n : Nat) (m : Mask)
  | accld (f n : Nat) (cells : List LaneReq) | accWrite (cells : List LaneReq)
  /-- `wwait`: the stamps below which the core's L1 drops its global lines, and whether a witness was of workgroup scope
  (R236). -/
  | dropL1 (bounds : List DTime) (wg : Bool)
  deriving DecidableEq, Repr

/-- What an outstanding operation is (R75, R76). -/
inductive OpKind
  | load | store | stw | atomic | ringput | prf
  | tload (bank : Nat) | watch (n : Nat)
  | enq | enqw | lsend | mrecv | unveil (h : Nat) | chain (id : Nat) | arming | accld | accWrite | timer
  deriving DecidableEq, Repr

/-- Progress of one lane of an operation. -/
inductive LaneSt
  | todo | queued | done
  | faulted (c : Cause)
  /-- The group is saved; a reply, now in `val`, is on its way to the saved record, or stands there with RSLV set (R383). -/
  | replied | resolved
  deriving DecidableEq, Repr

/-- One lane of an outstanding operation. -/
structure OpLane where
  req : LaneReq
  st : LaneSt
  deriving DecidableEq, Repr

/-- A variable-latency operation of a group (R75, R215, R216). -/
structure Op where
  id : Nat
  kind : OpKind
  core : Nat
  slot : Nat
  guest : Nat
  pc : Addr
  /-- Lanes whose destination the operation fills. -/
  mask : Mask
  lanes : List OpLane
  dest : Dest
  ctr : Option Ctr
  size : Nat
  ext : Ext
  atom : AtomOp
  sgn : Bool
  /-- Of a load: `.wg` where it follows a `wwait` on a witness of workgroup scope (R236). -/
  scope : Scope
  wit : Bool
  gen : BitVec 12
  /-- Dispatch time in cc. -/
  at_ : Nat
  /-- Status or other value the operation answers, once known. -/
  status : Option Word
  /-- The group has ended or discards the result (R86, R165). -/
  dropped : Bool
  /-- The group is saved whole with the operation outstanding (R382); `core` then names the saved group. -/
  saved : Bool
  /-- Slot of the record area that the operation's record takes while the group is saved (R382). -/
  area : Option Nat := none
  deriving DecidableEq, Repr

/-! ## Runs -/

/-- One working stack entry of a run: lane values, and the staged item that will fill it where it is pending (R79). -/
structure Entry where
  v : Lanes
  pend : Option Nat
  deriving DecidableEq, Repr

/-- A run as the decoder holds it (R124 to R128). -/
structure RunImage where
  /-- Header payload. -/
  hdr : Word
  /-- Halfwords from the first instruction to the end of the trailer. -/
  code : List Half
  deriving DecidableEq, Repr

/-- How a run ends in a control transfer (R126, R394). -/
inductive Xfer | direct | indirect | exit
  deriving DecidableEq, Repr

/-- The run in progress of a group (R77, R78, R140). -/
structure Run where
  /-- Slot of the split that runs. -/
  split : Nat
  image : RunImage
  /-- Header address. -/
  hpc : Addr
  /-- Address of the next instruction's first halfword. -/
  pc : Addr
  /-- Halfwords still to be executed, from `pc` on. -/
  code : List Half
  /-- Halfwords the instruction being executed occupies. -/
  ilen : Nat
  /-- Active lanes. -/
  mask : Mask
  /-- Depth of the split at the header (R66). -/
  depth0 : Nat
  /-- Working stack, top first: at the header the top dmin entries. -/
  stk : List Entry
  /-- Frame, uniform and predicate writes of this run: lanes written and values (R77). -/
  frm : AMap (Mask × Lanes)
  uni : AMap Word
  prd : AMap (Mask × Mask)
  /-- Run temporaries (R72). -/
  tmp : AMap Lanes
  segw : BitVec 3
  dkey : DWord
  drctr : BitVec 56
  dcoin : Word
  /-- Flag events of the run, flags of the group it cleared first by `mts AFLAGS` (R102, R103, R274). -/
  aflags : BitVec 6
  xpc : Addr
  /-- Table binding as seen in the run (R189). -/
  tab : Option Nat
  staged : List Staged
  /-- Successors of lanes that a transfer sends elsewhere than the fall-through; `none`: the lane exits (R160). -/
  succ : AMap (Option Addr)
  /-- The run has ended in a control transfer. -/
  xfer : Option Xfer
  /-- `call` writes the link at the trailer in these lanes (R163). -/
  link : Mask
  /-- Effects that set the no-flashback flag at commit (R85). -/
  nofb : Bool
  /-- Timing (R140): cc of choice, start of the previous instruction, latest ready time, whether the previous one
  co-issued, and what it wrote. -/
  chosen : Nat
  start : Nat
  ready : Nat
  co : Bool
  first : Bool
  /-- The first halfword of the instruction last begun, and whether the run holds at it (R390). -/
  lastOp : Half
  holding : Bool
  /-- Registers, predicates and temporaries the previous instruction wrote, as numbers (R140). -/
  wrote : List Nat
  /-- Window words that the debugger has written inside the run where the run's own stack does not stand: lanes and values
  (R403). -/
  wpoke : AMap (Mask × Lanes)
  deriving DecidableEq, Repr

/-! ## Parts and groups -/

/-- What a run that rolled back waits for at its header (R80, R81, R276, R301, R306, R338). -/
inductive WaitOn
  | nothing
  /-- Pending bits of registers `n` to `n + k - 1`. -/
  | frame (n k : Nat)
  /-- A copy over physical scratchpad bytes `lo` up to `hi` of the core. -/
  | copy (lo hi : Nat)
  /-- A grant of frame granules. -/
  | grow
  /-- A free scoreboard entry. -/
  | score
  /-- A free place in the edge port's queue. -/
  | port
  /-- A table bank. -/
  | bank
  /-- `wait` on these limits, where a record holds what it waits for; `sdrain` (R226, R369). -/
  | counters (ld st cp tl : Nat)
  | drain
  deriving DecidableEq, Repr

/-- Resident entries, `n` from a depth index up, that some lanes of a merged split have still to spill (R62). -/
structure Excess where
  mask : Mask
  lo : Nat
  n : Nat
  deriving DecidableEq, Repr

/-- A split or a pending-list entry (R57, R59). -/
structure Part where
  pc : Addr
  mask : Mask
  depth : Nat
  res : Nat
  /-- cc of arrival at a JOIN header at which the part is held (R62). -/
  held : Option Nat
  /-- cc at which a split came to its PC, or an entry entered the hardware pending list (R62, R64). -/
  queued : Nat
  /-- Passed-over time in cc, and the cc from which the split has been ready (R61). -/
  passed : Nat
  readyAt : Option Nat
  /-- The passed-over bound was reached (R61); the promotion is due (R64). -/
  due : Bool
  wait : WaitOn
  /-- Watch units that a precise WATCH_TENSOR delivery suppresses until a run of the part commits (R400). -/
  watchOff : BitVec 4
  image : Option RunImage
  /-- A precise fault met at its header and due for delivery: cause, lanes, their addresses (R63, R71, R126). -/
  fault : Option (Cause × Mask × AMap DWord)
  /-- Excess entries of the parts that merged into it, not yet spilled (R62). -/
  excess : List Excess
  /-- It has been released since it came to its PC, or no other part has stood below it then: a JOIN there does not hold it
  (R62). -/
  clear : Bool
  /-- It runs the maquette of a flashback resumption and has not come to the resume PC (R87). -/
  maq : Bool
  deriving DecidableEq, Repr

/-- Depth-indexed pending state (R70, R75): the entry at `idx` of `mask` waits for operation `op`. -/
structure PendEnt where
  idx : Nat
  mask : Mask
  op : Nat
  deriving DecidableEq, Repr

/-- A pending frame register and the operation that will clear it (R75). -/
structure PendFrm where
  reg : Nat
  op : Nat
  deriving DecidableEq, Repr

/-- The part that a handler or a delivery belongs to: a split slot, or a position in the pending list, its overflow counted on
after the hardware entries. -/
inductive PartRef
  | slot (n : Nat)
  | pend (n : Nat)
  deriving DecidableEq, Repr

/-- The parts parked while the handler runs (R278). -/
structure Parked where
  splits : List (Option Part)
  pend : List Part
  ovf : List Part
  base : Nat
  deliv : PartRef
  deriving DecidableEq, Repr

/-- The safe record (R83). `entry` is the safe-point index, none for the start entry. -/
structure SafeRec where
  entry : Option Nat
  /-- The 64 bytes of the table entry (R40). -/
  bytes : List Byte
  segw : BitVec 3
  dkey : DWord
  drctr : BitVec 56
  dcoin : Word
  deriving DecidableEq, Repr

/-- A store, `stw`, atomic or `ringput` of one lane in the group's store queue, not yet accepted (R252, R253). -/
structure SQEntry where
  op : Nat
  lane : Nat
  va : Addr
  size : Nat
  val : BitVec 128
  gen : BitVec 12
  pc : Addr
  /-- The translation that a synchronising access met before commit (R229). -/
  pa : Option Nat
  deriving DecidableEq, Repr

/-- Why a group is stopped for the debugger (R401, R402). -/
inductive DbgStop
  | running
  | requested
  | stopped (cause : Cause)
  deriving DecidableEq, Repr

/-- A transfer in progress on the window port (R69): a spill or fill of `n` entries of a split, begun at `at_`. -/
structure PortXfer where
  fill : Bool
  split : Nat
  n : Nat
  at_ : Nat
  /-- The part the transfer was begun for. -/
  pc : Addr
  mask : Mask
  /-- Every line of a fill was in the L1 as it began (R69). -/
  hit : Bool
  deriving DecidableEq, Repr

/-- An exception of R278: class, record index, INFO, cause, resume PC, lanes and their addresses (R365). -/
structure Exc where
  cls : Nat
  idx : Nat
  info : BitVec 8
  cause : Cause
  xpc : Addr
  mask : Mask
  addr : AMap DWord
  deriving DecidableEq, Repr

/-- An escalation that firmware holds (R282, R373). `info`: the number of a `trap` that escalated (R374); `entry`: the
exception that escalated (R278, R375); `pool`: firmware has answered a pool-empty request (R374). -/
structure Escal where
  id : Nat
  cause : Cause
  /-- Address of the group save block, and its length where it stands in the save area (R379, R380; log 26). -/
  addr : Addr
  len : Nat
  referred : Bool
  pool : Bool
  info : BitVec 8
  entry : Option (PartRef × Exc)
  deriving DecidableEq, Repr

/-- A group in a group slot (R57, R72 to R88, R267). -/
structure Group where
  /-- WID with its W0 field zero. -/
  wid : DWord
  launch : Nat
  guest : Nat
  wslot : Nat
  /-- Lanes live at the start, and those that have not exited (R54, R165). -/
  start : Mask
  live : Mask
  splits : List (Option Part)
  pend : List Part
  ovf : List Part
  /-- Window words by depth index mod 8 (R248). -/
  win : AMap Lanes
  pendEnt : List PendEnt
  pendFrm : List PendFrm
  frame : AMap Lanes
  fgran : Nat
  /-- The granules of the core's pool that hold f0 to f7, f8 to f15, and so on (R248). -/
  grans : List Nat
  uni : AMap Word
  prd : AMap Mask
  segw : BitVec 3
  ld : BitVec 8
  st : BitVec 8
  cp : BitVec 8
  tl : BitVec 8
  aflags : BitVec 6
  dkey : DWord
  drctr : BitVec 56
  dcoin : Word
  xcause : Word
  xpc : Addr
  xmask : Mask
  xaddr : AMap DWord
  sup : Bool
  step : Bool
  /-- Step mode as it will be from the next run boundary on, where a command has asked (R401). -/
  stepAsk : Option Bool
  /-- A stop was asked for while the group stood stopped inside a run: it stops at the next run boundary (R402). -/
  stopAsk : Bool
  nofb : Bool
  runs : Nat
  parked : Option Parked
  safe : SafeRec
  /-- Resume PC while a part of the group runs its maquette (R87). -/
  maq : Option Addr
  pb : Addr
  plinth : Nat
  tab : Option Nat
  /-- Image of the table to be bound again before the next run (R190). -/
  tabAddr : Option Addr
  pmark : BitVec 16
  /-- Held from issue by `yield` until this cc, or by `sleep` (R166, R288). -/
  yieldAt : Option Nat
  sleepAt : Option Nat
  /-- cc from which wait(g) counts, and promotion (R360). -/
  inE : Option Nat
  starved : Bool
  credit : Bool
  sq : List SQEntry
  /-- A `wwait` has consumed a witness of workgroup scope: later loads observe the held lines of the workgroup (R236). -/
  wgSeen : Bool
  /-- Barriers and phases the group waits for (R169). -/
  bwait : List (Nat × Nat)
  bwaitAt : Nat
  dbg : DbgStop
  sync : Bool
  /-- The headers at which parts of unequal depths were released, the oldest first: STACK_SKEW is due there (R63). -/
  skew : List Addr
  preempt : Bool
  /-- The group is saved: whole, or by flashback (R86). -/
  saved : Option Bool
  esc : Option Escal
  /-- A gang stop is requested at the next SAFE trailer since this cc (R359). -/
  gangStop : Option Nat
  /-- The group has ended and waits for its counters (R165). -/
  ended : Bool
  port : Option PortXfer
  run : Option Run
  deriving DecidableEq, Repr

/-! ## Workgroups, launches, contexts -/

/-- One barrier of a workgroup (R168, R303). -/
structure Bar where
  en : Nat
  an : Nat
  pn : Nat
  /-- ArrN of member groups by W1, of the transfer unit (32) and of the sequencer (33). -/
  arr : AMap Nat
  /-- Held transfer-unit arrivals, and the member that made the last Arrive of the phase (R391). -/
  held : Nat
  last : Nat
  deriving DecidableEq, Repr

/-- A sequencer (R323, R343). -/
structure Seq where
  pc : Addr
  lc : List (BitVec 16)
  o : List (BitVec 19)
  wpitch : BitVec 19
  apitch : BitVec 19
  ascale : BitVec 19
  gindex : BitVec 19
  wsl : Slice
  asl : Slice
  mxflags : BitVec 3
  /-- The cc in which a pass last raised flags, and those it raised in it (R274). -/
  mxAt : Nat
  mxNew : BitVec 3
  /-- Block buffer: address of the block last requested, its words, and the cc of the request (R323). -/
  block : Option (Addr × List DWord × Nat)
  /-- The engine operation posted and not granted; the cc at which the gather for a pass began (R331, R333). -/
  posted : Option Nat
  gathering : Option Nat
  /-- A record holds the word, and its cause; the number of the next operation when `replay` resolved it (R343). -/
  heldRec : Bool
  heldCause : Cause
  resolved : Option Nat
  /-- Barrier and phase waited for; the number of the next operation when the phase was seen complete (R340). -/
  bwait : Option (Nat × Nat)
  mark : Option Nat
  stopped : Bool
  /-- Watch units whose check is waived for the held word (R343). -/
  waived : BitVec 4
  /-- Barrier arrivals held until granted operations with smaller numbers have retired: the barrier, and that number;
  16 stands for leaving every barrier (R340, R343, R346). -/
  held : List (Nat × Nat)
  /-- The `m.bar.sync` at the PC has made its arrival. -/
  arrived : Bool
  deriving DecidableEq, Repr

/-- A workgroup in a workgroup slot of a core (R55, R249, R315). -/
structure WGroup where
  wid : DWord
  w2 : Nat
  launch : Nat
  guest : Nat
  /-- The keys of the span's workgroups, by W2 (core * 16 + workgroup slot). -/
  span : List Nat
  sbase : Nat
  sgran : Nat
  bars : AMap Bar
  bmask : List Word
  cpbar : BitVec 16
  sqbar : BitVec 16
  prod : Nat
  groups : AMap Nat
  felem : BitVec 20
  fcause : Cause
  fail : Bool
  detach : Bool
  scout : Nat
  /-- Domain alias and Tsave (R233). -/
  alias_ : Option (BitVec 14 × DTime)
  /-- Group that holds the critical token (R391). -/
  token : Nat
  /-- Every group has ended, and the scratchpad has returned (R165). -/
  freed : Bool
  seq : Option Seq
  deriving DecidableEq, Repr

/-- A launch header (R348). -/
structure Hdr where
  code : Addr
  seq : Addr
  safetab : Addr
  w : List Nat
  prod : Nat
  fgran : Nat
  sgran : Nat
  nsafe : Nat
  plinth : Nat
  e : List Nat
  flags : Byte
  cls : Byte
  cpbar : BitVec 16
  sqbar : BitVec 16
  stage : Word
  bmask : List Word
  deriving DecidableEq, Repr

/-- Where a launch stands (R350). -/
inductive LPhase | queued | running
  deriving DecidableEq, Repr

/-- What a child launch gives back when it ends (R289, R357). -/
inductive Quota
  | none
  | unit (cls : Nat)
  | credit (core slot : Nat)
  deriving DecidableEq, Repr

/-- A launch (R348 to R350, R357). -/
structure Launch where
  guest : Nat
  hdr : Hdr
  parent : Option Nat
  root : Nat
  lstart : DTime
  prio : Nat
  phase : LPhase
  /-- Index of the next span to place, in (W5, W4, W3) order. -/
  nextSpan : Nat
  quota : Quota
  /-- The `enqw` operation that waits for the end. -/
  waiter : Option Nat
  host : Bool
  tag : DWord
  /-- Pipeline and stage of a stage launch. -/
  stage : Option (Nat × Nat)
  /-- A group of the launch set CTXERR. -/
  err : Bool
  /-- Groups placed or saved that have not ended; sequencers that have not stopped. -/
  groups : Nat
  seqs : Nat
  aborted : Bool
  deriving DecidableEq, Repr

/-- A mould (R310, R311). -/
structure Mould where
  bound : Bool
  base : Addr
  len : DWord
  /-- Physical address of each 64 KiB page at the bind, as extended addresses. -/
  frames : List Nat
  /-- Shadow(m): bytes by offset, where they differ from 0. -/
  shadow : List Host.Cell
  lastw : DWord
  deriving DecidableEq, Repr

/-- A tensor watch unit (R272, R398). -/
structure Watch where
  hit : Bool
  lock : Bool
  armed : Bool
  desc : List Byte
  deriving DecidableEq, Repr

/-- A message in a mailbox (R290). -/
structure Msg where
  pkg : BitVec 13
  die : BitVec 2
  words : List Word
  /-- The sender held its workgroup's critical token (R391). -/
  tok : Bool
  deriving DecidableEq, Repr

/-- A context, that is a guest (R267, R310, R410). -/
structure Ctx where
  valid : Bool
  cmdPage : Addr
  saveBase : Addr
  saveSize : DWord
  asroot : Addr
  ptmbase : Addr
  ptmsize : DWord
  xvec : Addr
  partition : Nat
  poolbase : Addr
  poolnext : Addr
  poolend : Addr
  asgen : BitVec 12
  ctxerr : Bool
  errcnt : BitVec 16
  /-- The cc of the last error, the entries written in it, and the rises of ERRCNT in it (R413). -/
  errCc : Option Nat
  errNew : Nat
  cntNew : Nat
  watch : List Watch
  moulds : List Mould
  /-- Quota pools: size and units in use. -/
  quota : List (Nat × Nat)
  smpctl : Word
  trctl : Word
  dbgbase : DWord
  dbgsel : Word
  /-- Mailboxes by die. -/
  mail : AMap (List Msg)
  /-- Submissions queued behind the current launch, and the current host launch. -/
  queue : List Nat
  current : Option Nat
  throttled : Bool
  /-- Completion entries that wait for room in the ring (R411). -/
  cqWait : List (List Byte)
  /-- Submissions taken from the ring that wait, with kind, address and tag: for bytes of another package, or for the replies of
  the group to be resumed (R384, R411, R420). -/
  held : List (Nat × Addr × DWord)
  lstart : DTime
  deriving DecidableEq, Repr

/-! ## Memory system -/

/-- What an apply-queue entry does at its home (R252 to R255). -/
inductive AQAct
  | store (bytes : List Byte)
  | stw (bytes : List Byte)
  | atomic
  | ringput (v : Word)
  | fill (stamp : DTime)
  deriving DecidableEq, Repr

/-- An accepted access or a fill request (R252). -/
structure AQEntry where
  /-- Extended physical byte address; its line is addr / 128. -/
  addr : Nat
  va : Addr
  pc : Addr
  act : AQAct
  op : Nat
  lane : Nat
  core : Nat
  slot : Nat
  guest : Nat
  launch : Nat
  /-- The WID of the group that released it (R370). -/
  owner : DWord
  gen : BitVec 12
  deriving DecidableEq, Repr

/-- Kind of an L1 line (R241, R251, R258). -/
inductive LineKind
  | clean (stamp : DTime) (gen : BitVec 12) (guest : Nat)
  | held (wslot : Nat) (lastUse : Nat) (guest : Nat)
  | priv (guest : Nat) (dirty : Bool) (va : Addr)
  deriving DecidableEq, Repr

/-- One line of a core's L1 (R252); `line` is the extended physical address / 128. -/
structure L1Line where
  core : Nat
  line : Nat
  data : List Byte
  kind : LineKind
  /-- Of a held line: the lanes of the workgroup that have written it (32 times W1, plus the lane), with offset and length of
  what each wrote (R223). Of a private line on its way from another package: the bytes written into it meanwhile. -/
  own : List (Nat × Nat × Nat)
  deriving DecidableEq, Repr

/-- A line of a core's instruction cache (R128). -/
structure ILine where
  core : Nat
  guest : Nat
  va : Addr
  data : List Byte
  deriving DecidableEq, Repr

/-- A TLB entry (R245, R252): the leaf that a walk of a context's tables found, its level, the page, and the generation
it was found under. -/
structure TlbEntry where
  guest : Nat
  gen : BitVec 12
  page : Nat
  entry : Nat
  level : Nat
  deriving DecidableEq, Repr

/-- A scope record (R264). -/
structure ScopeRec where
  scope : Scope
  domain : BitVec 14
  stamp : DTime
  guest : Nat
  deriving DecidableEq, Repr

/-- A fault record (R367). -/
structure Rec where
  core : Nat
  guest : Nat
  slot : Nat
  pc : Addr
  unf : Mask
  rslv : Mask
  cause : Cause
  kind : BitVec 8
  size : BitVec 8
  dest : Word
  owner : DWord
  gen : BitVec 12
  seqno : BitVec 16
  /-- Hardware index, none while spilled; whether it is pinned and was delivered. -/
  hw : Option Nat
  pinned : Bool
  delivered : Bool
  store : Bool
  addr : AMap DWord
  data : AMap (BitVec 128)
  /-- The operation, chain or sequencer (workgroup key) the record belongs to. -/
  op : Nat
  /-- Slot of the record area while spilled or saved (R366, R382). -/
  area : Option Nat := none
  deriving DecidableEq, Repr

/-- A `grow` request in a core's queue (R276). -/
structure GrowReq where
  core : Nat
  slot : Nat
  /-- The header and the lanes of the part that asks. -/
  pc : Addr
  mask : Mask
  n : Nat
  granted : Bool
  deriving DecidableEq, Repr

/-- A table bank (R189). -/
inductive BankSt | empty | loading | ready
  deriving DecidableEq, Repr

/-- One table bank of a core (R187 to R190). -/
structure Bank where
  st : BankSt
  addr : Addr
  guest : Nat
  image : List Byte
  binds : Nat
  op : Nat
  deriving DecidableEq, Repr

/-! ## Transfer unit and matrix engine -/

/-- What a chain is doing (R300, R307). -/
inductive ChainPhase | waiting | fetch | skip | check | moving | arriving | stopped
  deriving DecidableEq, Repr

/-- A chain of the transfer unit (R300, R305 to R309). -/
structure Chain where
  id : Nat
  op : Nat
  core : Nat
  wslot : Nat
  slot : Nat
  cluster : Nat
  guest : Nat
  sup : Bool
  lane : Nat
  elem : Addr
  index : Nat
  phase : ChainPhase
  /-- The cause of the record it last stopped at (R305, R308). -/
  cause : Cause
  bytes : List Byte
  /-- Bytes of the element moved so far. -/
  moved : Nat
  scoutAt : Nat
  scoutOff : Bool
  scout : Nat
  /-- Where a chain stopped at a record goes on after `replay` (R308). -/
  after : ChainPhase
  watchOff : BitVec 4
  /-- Scoreboard ranges: core, first physical scratchpad byte, length. -/
  range : List (Nat × Nat × Nat)
  at_ : Nat
  deriving DecidableEq, Repr

/-- An arming of a core's edge port (R335). -/
structure Arming where
  id : Nat
  op : Nat
  core : Nat
  slot : Nat
  guest : Nat
  reg : Nat
  n : Nat
  m : Mask
  deriving DecidableEq, Repr

/-- An engine operation posted by a sequencer (R333, R334). -/
structure EOp where
  id : Nat
  cluster : Nat
  core : Nat
  wslot : Nat
  guest : Nat
  prio : Nat
  word : Instr
  /-- The sequencer's registers as the word was posted. -/
  seq : Seq
  /-- The vectors that a gathered pass has collected: scale and code by K position (R331). -/
  vecs : Option (List (List (Nat × Nat)))
  /-- The weight format latched in a pass's region when it was posted (R328). -/
  wf : MFmt
  posted : Nat
  granted : Option Nat
  aged : Bool
  /-- Armings a granted drain consumed, and how many entries it has written (R336). -/
  taken : List Arming
  done : Nat
  /-- What a granted pass will add to each entry, by accumulator key, and the flags of forming it (R111). -/
  sums : List (Nat × Word)
  flags : BitVec 3
  deriving DecidableEq, Repr

/-- The format latch of a quadrant (R328). -/
structure Latch where
  fmt : MFmt
  region : Region
  slice : Slice
  guest : Nat
  deriving DecidableEq, Repr

/-- A cluster: accumulators, weights, latches, tenants, service state (R14, R320 to R347, R416 to R428). -/
structure Cluster where
  acc : AMap Word
  weights : AMap Word
  /-- Scale bytes of block-scaled weights, by row and block (R109). -/
  wscales : AMap Byte
  latches : AMap Latch
  /-- Context that uses the upper and the lower row half (R322). -/
  user : List (Option Nat)
  perf : AMap DWord
  /-- The fault domains by tenant, 0 the upper or only one: cause and word address of each sequencer's stop, the latest first
  (R322, R343). -/
  faults : AMap (List (Cause × Addr))
  fenced : Bool
  faulty : Bool
  volts : Nat
  ce : Nat
  split : Bool
  upper : Option Nat
  lower : Option Nat
  deriving DecidableEq, Repr

/-! ## Pipelines, saved units, link and host -/

/-- A stage pipeline (R352 to R356). `launches`: those of its stages, stage 0 first. -/
structure Pipe where
  guest : Nat
  desc : List Byte
  launches : List Nat
  tag : DWord
  /-- Per (stage * 256 + cluster): the cc at which the gathering timer started, and gathered groups waiting. -/
  timer : AMap Nat
  waiting : AMap (List (List Word))
  /-- Its launch has started (R350). -/
  live : Bool
  deriving DecidableEq, Repr

/-- A saved group (R86 to R88, R380): its number in the workgroup, whether it is saved whole, and the number that its
outstanding operations and its records bear in place of a core. -/
structure SavedGroup where
  w1 : Nat
  whole : Bool
  g : Group
  ghost : Nat
  deriving DecidableEq, Repr

/-- A saved workgroup (R346, R379): where it stood and the DTIME of the save (R233), its engine state, its armings in
queue order and its stopped chains; where its save block stands, and the row halves that it holds. -/
structure SavedWG where
  wg : WGroup
  block : Option (Nat × Nat)
  halves : List Nat
  core : Nat
  wslot : Nat
  tsave : DTime
  scratch : List Host.Cell
  groups : List SavedGroup
  acc : AMap Word
  weights : AMap Word
  wscales : AMap Byte
  latches : AMap Latch
  arms : List Arming
  chains : List Chain
  /-- The ungranted word, if one was posted. -/
  eop : Option EOp
  deriving DecidableEq, Repr

/-- The unit of pre-emption: a span, or a gang (R378, R384). -/
structure Unit_ where
  guest : Nat
  launch : Nat
  /-- Keys of its workgroups while it is resident, by span and W2. -/
  wgs : List Nat
  /-- A pre-emption request has been made (R378). -/
  asked : Bool
  saved : List SavedWG
  /-- A shrink waits for it since this cc (R359). -/
  shrink : Option Nat
  deriving DecidableEq, Repr

/-- A Maelber port (R420, R422): the sequence numbers of the next flit each way; how often in a row the flit awaited has
failed its CRC; the flit that the neighbour last asked for, and how often in a row; the flits last sent, credits, and the
neighbour's hop distance and clock offset as last measured. -/
structure Port where
  trained : Bool
  down : Bool
  sendSeq : BitVec 16
  recvSeq : BitVec 16
  bad : Nat
  askSeq : BitVec 16
  asks : Nat
  replay : List (List Byte)
  /-- What the port has put on its lanes, oldest first. -/
  out : List (List Byte)
  credits : Nat
  dist : Option Nat
  offset : Int
  deriving DecidableEq, Repr

/-- A request of a group's access sent to another package and not answered (R420): number, operation, lane, and the port it is
in flight on. -/
structure Sent where
  num : Word
  op : Nat
  lane : Nat
  port : Option Nat
  deriving DecidableEq, Repr

/-- Whose an access to memory of another package is, where no group's load, store or atomic makes it (R420). -/
inductive FarUser
  /-- A private line of a core's L1 (R241), a line of its instruction cache (R128). -/
  | l1 (core guest : Nat) (va : Addr) | code (core : Nat)
  /-- A chain (R259), an operation (R189, R286, R289), the group in a slot (R84, R375), a sequencer (R323), the submissions of
  a context (R349), a ring (R292, R387). -/
  | chain (id : Nat) | op (id : Nat) | group (key : Nat) | seq (key : Nat) | host (guest : Nat) | ring
  deriving DecidableEq, Repr

/-- Such an access, from its request on (R420): a read of the line at `addr`, whose bytes stand here once they have come, or,
with `bytes`, a write of them. `va` is the address it is made for, `port` the port its request is in flight on. -/
structure Far where
  num : Word
  who : FarUser
  guest : Nat
  va : Addr
  addr : Nat
  bytes : List Byte
  answer : Option (List Byte)
  port : Option Nat
  deriving DecidableEq, Repr

/-- An entry of the route table (R421). -/
structure Route where
  port : Nat
  path : BitVec 3
  deriving DecidableEq, Repr

/-- A partition (R416): clusters and 1 GiB ranges. -/
structure Partition where
  clusters : BitVec 144
  memory : BitVec 1280
  deriving DecidableEq, Repr

/-- Device registers and service state (R407 to R410, R424 to R432). -/
structure Device where
  lpddr : BitVec 8
  clusters : BitVec 8
  linkup : Bool
  fwerr : Bool
  replaceReq : Bool
  degraded : Bool
  ready : Bool
  pkgid : BitVec 13
  admcmd : DWord
  /-- The ports through which ADMCMD and FWADDR were last written (R409). -/
  admPort : BitVec 2
  fwPort : BitVec 2
  admBusy : Bool
  admStatus : BitVec 8
  /-- The block of the command under way (R408). -/
  admBlock : List Byte
  guesttab : DWord
  fwaddr : DWord
  fwlen : Word
  /-- FWADDR and FWLEN have been written since the reset (R432). -/
  fwaddrSet : Bool
  fwlenSet : Bool
  sema : List (BitVec 2)
  semaLast : List (BitVec 2)
  /-- The image last staged by an update, and the running one (R409, R429, R432). -/
  staged : Option (List Byte)
  running : Option (List Byte)
  health : List (List Byte)
  routes : AMap Route
  ports : AMap Port
  linkEnabled : Bool
  ucieA : Bool
  ucieB : Bool
  parts : AMap Partition
  /-- Lane map of each scheduler (core * 4 + scheduler): physical lane of each logical lane. -/
  laneMap : AMap (List Nat)
  laneFail : AMap Nat
  spared : AMap Nat
  /-- A DRAM bank has no spare row left; the clock is too far from every time parent (R422, R427). -/
  spareOut : Bool
  timeBad : Bool
  /-- cc of the last step of the clock's correction, and the steps that are due, backward where negative (R250, R422). -/
  lastFix : Nat
  timeDue : Int
  /-- DRAM has not been initialised since power-on (R432 step 5). -/
  cold : Bool
  /-- The number of the next request to another package (R420). -/
  reqNum : Word
  withheld : AMap Bool
  /-- Clusters that are being vacated: nothing is placed on them (R416, R417, R425, R426). -/
  leaving : List Nat
  /-- Guests and tags that were told SHRINK_DEFERRED and are owed its completion (R359). -/
  deferred : List (Nat × DWord)
  deriving DecidableEq, Repr

/-! ## The whole machine -/

/-- Who moves (log 1). -/
inductive Actor
  | group (core slot : Nat)
  | seq (core wslot : Nat)
  | event (i : Instr)
  /-- A translation of a context's page enters the TLB, or leaves it (R245; log 24). -/
  | tlbFill (guest va : Nat)
  | tlbDrop (guest va : Nat)
  /-- A line leaves its slice of the L2, or a core's instruction cache (R12, R16, R264; log 66). -/
  | l2Drop (line : Nat)
  | codeDrop (core va : Nat)
  /-- Firmware writes 8-byte entries of a context's translation tables and advances its ASGEN (R373; log 79). -/
  | fwTables (guest : Nat) (writes : List (Nat × DWord))
  /-- The debugger or host software sets or clears LOCK of a watch unit (R272; log 72). -/
  | watchLock (guest n : Nat) (on : Bool)
  deriving DecidableEq, Repr

/-- One entry of the agenda: the cc that pass before it, and who moves (log 1). -/
structure Move where
  lapse : Nat
  actor : Actor
  deriving DecidableEq, Repr

/-- A packet of a trace ring (R393): scheduler, GTAG, split, type, and what follows its header word. -/
structure Packet where
  sched : Nat
  tag : Nat
  split : Nat
  type : Nat
  payload : List Byte
  deriving DecidableEq, Repr

/-- The trace ring of a context on a core (R393, R395): the cc of the last packet written, and of the last one before the
packets of cc `at_`; where WR and LOST stood as that cc began, and its packets. -/
structure TraceLast where
  last : Option Nat
  prev : Option Nat
  at_ : Nat
  wr : Nat
  lost : Nat
  items : List Packet
  deriving DecidableEq, Repr

/-- The state of the package. -/
structure State where
  /-- Clock: cc since reset, and DTIME (R5, R250). -/
  cc : Nat
  dtime : DTime
  agenda : List Move
  /-- The group (core, slot) and the sequencer (core, workgroup slot) whose instruction runs. -/
  focus : Option (Nat × Nat)
  seqFocus : Option (Nat × Nat)
  fresh : Nat
  nextId : Nat
  mem : List Host.Cell
  dev : Device
  ctxs : AMap Ctx
  launches : AMap Launch
  pipes : AMap Pipe
  units : AMap Unit_
  groups : AMap Group
  wgroups : AMap WGroup
  ops : AMap Op
  chains : List Chain
  armings : List Arming
  eops : List EOp
  clusters : AMap Cluster
  aq : List AQEntry
  l1 : List L1Line
  icache : List ILine
  tlb : List TlbEntry
  lastApply : AMap Nat
  /-- cc of the last fill served from a line (R254). -/
  lastFill : AMap Nat
  scopes : AMap ScopeRec
  recs : List Rec
  seqnos : AMap Nat
  growq : List GrowReq
  banks : AMap Bank
  curBank : AMap Nat
  scratch : AMap (List Host.Cell)
  /-- What stands in frame granules (core * 4096 + granule * 8 + register) and stack windows (group key * 8 + word) that no
  group holds (R248). -/
  pool : AMap Lanes
  winPool : AMap Lanes
  /-- Requests sent to other packages and not answered, and the accesses of units to memory there (R420). -/
  sent : List Sent
  far : List Far
  /-- Responses kept for requests of other packages, the latest first (R420): package, number, response. -/
  applied : List (BitVec 13 × BitVec 32 × BitVec 1024)
  lastSlot : AMap Nat
  /-- The packets last written to a trace ring, by guest * 1024 + core (R393, R395). -/
  lastTrace : AMap TraceLast
  /-- cc of the last trailer or rollback of a group slot, by group key (R61, R69). -/
  trailAt : AMap Nat
  deriving DecidableEq, Repr

/-! ## Stops -/

/-- Why the machine stops. Both are safe: the hardware has no such step. -/
inductive Fault
  /-- A run instruction is to execute and the focused group has no run in progress (raised by every meaning of a
  run instruction; safe). -/
  | noRun
  /-- A sequencer word is to execute and no sequencer is in focus (raised by every meaning of a sequencer word; safe). -/
  | noSequencer
  deriving DecidableEq, Repr

/-- Why an instruction has no meaning here. -/
inductive Refusal
  /-- The instruction is not modelled yet (raised by its arm of `exec` only; safe). -/
  | notModelled (mnemonic : String)
  deriving DecidableEq, Repr

/-! ## Initial values -/

/-- A free mould (R310). -/
def Mould.free : Mould := ⟨false, 0, 0, [], [], 0⟩

/-- A disarmed watch unit (R272). -/
def Watch.off : Watch := ⟨false, false, false, []⟩

/-- A context before the guest table entry is read (R410; log 3). -/
def Ctx.initial : Ctx where
  valid := false
  cmdPage := 0
  saveBase := 0
  saveSize := 0
  asroot := 0
  ptmbase := 0
  ptmsize := 0
  xvec := 0
  partition := 0
  poolbase := 0
  poolnext := 0
  poolend := 0
  asgen := 0
  ctxerr := false
  errcnt := 0
  errCc := none
  errNew := 0
  cntNew := 0
  watch := List.replicate 4 Watch.off
  moulds := List.replicate 8 Mould.free
  quota := List.replicate 4 (0, 0)
  smpctl := 0
  trctl := 0
  dbgbase := 0
  dbgsel := 0
  mail := []
  queue := []
  current := none
  throttled := false
  cqWait := []
  held := []
  lstart := 0

/-- A cluster after on-chip memory is initialised (R432 step 5). -/
def Cluster.initial : Cluster := ⟨[], [], [], [], [none, none], [], [], false, false, 0, 0, false, none, none⟩

/-- A port before training (R420; log 3). -/
def Port.initial : Port := ⟨false, false, 0, 0, 0, 0, 0, [], [], 0, none, 0⟩

/-- The device registers at reset (R407; log 3). -/
def Device.initial : Device where
  lpddr := 0
  clusters := 0
  linkup := false
  fwerr := false
  replaceReq := false
  degraded := false
  ready := false
  pkgid := 0
  admcmd := 0
  admPort := 1
  fwPort := 1
  admBusy := false
  admStatus := 0
  admBlock := []
  guesttab := 0
  fwaddr := 0
  fwlen := 0
  fwaddrSet := false
  fwlenSet := false
  sema := List.replicate 8 0
  semaLast := List.replicate 8 0
  staged := none
  running := none
  health := []
  routes := []
  ports := []
  linkEnabled := false
  ucieA := false
  ucieB := false
  parts := []
  laneMap := []
  laneFail := []
  spared := []
  spareOut := false
  timeBad := false
  lastFix := 0
  timeDue := 0
  cold := true
  reqNum := 0
  withheld := []
  leaving := []
  deferred := []

/-- The machine right after reset, before boot has run (R407, R431, R432; logs 1 to 4). -/
def State.reset : State where
  cc := 0
  dtime := 0
  agenda := []
  focus := none
  seqFocus := none
  fresh := 0
  nextId := 0
  mem := []
  dev := Device.initial
  ctxs := []
  launches := []
  pipes := []
  units := []
  groups := []
  wgroups := []
  ops := []
  chains := []
  armings := []
  eops := []
  clusters := []
  aq := []
  l1 := []
  icache := []
  tlb := []
  lastApply := []
  lastFill := []
  scopes := []
  recs := []
  seqnos := []
  growq := []
  banks := []
  curBank := []
  scratch := []
  pool := []
  winPool := []
  sent := []
  far := []
  applied := []
  lastSlot := []
  lastTrace := []
  trailAt := []

end Sys2Proof.Machine
end

