-- ==== Sys2Proof/Machine/Memory.lean ====
section
/-! DEFINITION. The clock, physical addresses, translation, groups and workgroups by their places, and the dirty log (R239 to R250,
R416, R418). -/

namespace Sys2Proof.Machine

/-! ## Clock -/

/-- `n` cc pass (R5, R250). -/
def State.pass (s : State) (n : Nat) : State := { s with cc := s.cc + n, dtime := s.dtime + BitVec.ofNat 48 n }

/-- The clock moved forward to cc `t`, where that lies ahead. -/
def State.passTo (s : State) (t : Nat) : State := s.pass (t - s.cc)

/-- The signed difference of two DTIME values (R250). -/
def dtDiff (a b : DTime) : Int := (a - b).toInt

/-- Later(a, b) of R250. -/
def dtLater (a b : DTime) : Bool := decide (0 < dtDiff a b)

/-- A lease of `len` cc from `stamp` is live (R251, R264). -/
def leaseLive (now stamp : DTime) (len : Nat) : Bool := decide (dtDiff now stamp < (len : Int))

/-! ## Bits of plain numbers -/

/-- Bits [hi:lo] of a number. -/
def nbits (x hi lo : Nat) : Nat := (x / 2 ^ lo) % 2 ^ (hi - lo + 1)

/-! ## Physical addresses -/

/-- End of the local physical space; memory of package `p` starts at (p + 1) times this (log 4). -/
def physSpan : Nat := 2 ^ 51
/-- Extended address of a byte of another package (log 4). -/
def remoteAddr (pkg pa : Nat) : Nat := (pkg + 1) * physSpan + pa
/-- Extended address of a byte of host memory (log 4). -/
def hostAddr (pa : Nat) : Nat := 8193 * physSpan + pa
/-- Extended address of a byte of host memory behind port A (1) or B (2) (R409; log 4). -/
def portAddr (port : BitVec 2) (pa : Nat) : Nat := hostAddr (if port = 2 then 2 ^ 63 + pa else pa)
/-- An extended address of another package. -/
def isRemote (a : Nat) : Bool := decide (physSpan ≤ a) && decide (a < hostAddr 0)

/-- A local address inside stacked DRAM or fitted LPDDR (R246). -/
def backed (pa : Nat) : Bool :=
  decide (pa < 0x4000000000) ||
    (decide (0x10000000000 ≤ pa) && decide (pa < 0x10000000000 + Config.fitted.val * 32 * 2 ^ 30))

/-- The 1 GiB range of a backed local address, as the memory bitmap numbers it (R409). -/
def memRange (pa : Nat) : Nat :=
  if pa < 0x4000000000 then pa / 2 ^ 30 else 256 + (pa - 0x10000000000) / 2 ^ 30

/-- The home slice of a local line: 32 times the die plus the slice within it (R247). -/
def homeSlice (pa : Nat) : Nat :=
  let die := if pa < 0x4000000000 then nbits pa 37 36 else nbits pa 16 12 / 8
  32 * die + (nbits pa 11 7 ^^^ nbits pa 16 12 ^^^ nbits pa 21 17 ^^^ nbits pa 26 22 ^^^ nbits pa 31 27 ^^^ nbits pa 36 32)

/-! ## Contexts -/

/-- The context of a guest. -/
def State.ctx (s : State) (guest : Nat) : Ctx := mget s.ctxs guest Ctx.initial

/-- The state with a context replaced. -/
def State.setCtx (s : State) (guest : Nat) (c : Ctx) : State := { s with ctxs := mset s.ctxs guest c }

/-- The state with a context changed. -/
def State.modCtx (s : State) (guest : Nat) (f : Ctx → Ctx) : State := s.setCtx guest (f (s.ctx guest))

/-- A partition's memory bitmap holds the range of a local address (R416). -/
def State.inPartition (s : State) (guest pa : Nat) : Bool :=
  match mfind s.dev.parts (s.ctx guest).partition with
  | some p => p.memory.getLsbD (memRange pa)
  | none => false

/-! ## Translation -/

/-- Where a walk of the five-level table ends (R242 to R244). -/
inductive Walk
  /-- A well-formed valid leaf at a level. -/
  | leaf (entry : Nat) (level : Nat)
  /-- An entry with V = 0 at a level, and the entry's physical address. -/
  | hole (level : Nat) (at_ : Nat)
  /-- A valid entry that R243 or R244 forbids, or a table outside backed memory. -/
  | bad
  deriving DecidableEq, Repr

/-- The entry index of a level (R242). -/
def walkIndex (va level : Nat) : Nat :=
  match level with
  | 1 => nbits va 56 48
  | 2 => nbits va 47 39
  | 3 => nbits va 38 30
  | 4 => nbits va 29 21
  | _ => nbits va 20 16

/-- A valid leaf entry is well formed at its level (R243, R244). -/
def State.leafOk (s : State) (guest e level : Nat) : Bool :=
  let kind := nbits e 5 4
  let frame := nbits e 50 16 * 2 ^ 16
  decide (3 ≤ level) && decide (nbits e 15 9 = 0) && decide (kind ≠ 3)
    && (kind == 1 || decide (nbits e 63 51 = 0))
    && (level != 4 || decide (nbits e 20 16 = 0)) && (level != 3 || decide (nbits e 29 16 = 0))
    && (kind != 0 || (backed frame && s.inPartition guest frame))

/-- A valid non-leaf entry is well formed at its level (R243, R244). -/
def nodeOk (e level : Nat) : Bool :=
  decide (level < 5) && decide (nbits e 7 2 = 0) && decide (nbits e 63 51 = 0) && backed (nbits e 50 8 * 2 ^ 8)

/-- The walk from `table` at `level`, with `fuel` levels to go. A table that is not 4 KiB aligned, for which R244 names no
fault, is walked from its address as it stands (log 67). -/
def State.walkFrom (s : State) (guest va : Nat) : Nat → Nat → Nat → Walk
  | 0, _, _ => .bad
  | fuel + 1, table, level =>
    if backed table = false then .bad else
    let at_ := table + 8 * walkIndex va level
    let e := rdLE s.mem at_ 8
    if e % 2 = 0 then .hole level at_
    else if nbits e 1 1 = 1 then (if s.leafOk guest e level then .leaf e level else .bad)
    else if nodeOk e level then s.walkFrom guest va fuel (nbits e 50 8 * 2 ^ 8) (level + 1)
    else .bad

/-- The walk of a context's tables for a global virtual address (R242). -/
def State.walk (s : State) (guest va : Nat) : Walk := s.walkFrom guest va 5 (s.ctx guest).asroot.toNat 1

/-- What an access asks of a page (R244). -/
inductive Access | load | write | exec
  deriving DecidableEq, Repr

/-- Bytes of the page that a leaf of a level maps. -/
def pageBits (level : Nat) : Nat := match level with | 3 => 30 | 4 => 21 | _ => 16

/-- A TLB entry of a context covers an address; one of another generation is not used (R245). -/
def TlbEntry.covers (x : TlbEntry) (guest va : Nat) (gen : BitVec 12) : Bool :=
  x.guest == guest && x.gen == gen && x.page == va / 2 ^ pageBits x.level

/-- The translation that an access uses: that of the TLB where one stands there, else that of a walk (R242, R245). A frame that
lies outside the partition is absent for both (R416). -/
def State.lookup (s : State) (guest va : Nat) : Walk :=
  match s.tlb.find? (fun x => x.covers guest va (s.ctx guest).asgen) with
  | some x => if nbits x.entry 5 4 = 0 ∧ s.inPartition guest (nbits x.entry 50 16 * 2 ^ 16) = false then .bad else .leaf x.entry x.level
  | none => s.walk guest va

/-- A translation enters the TLB where a walk finds a leaf; no entry holds an absent page (R245, R284; log 24). -/
def State.tlbFill (s : State) (guest va : Nat) : State :=
  match s.lookup guest va with
  | .leaf e level =>
    let gen := (s.ctx guest).asgen
    if s.tlb.any (fun x => x.covers guest va gen) then s
    else { s with tlb := ⟨guest, gen, va / 2 ^ pageBits level, e, level⟩ :: s.tlb }
  | _ => s

/-- A translation leaves the TLB (R245; log 24). -/
def State.tlbDrop (s : State) (guest va : Nat) : State :=
  { s with tlb := s.tlb.filter (fun x => !(x.guest == guest && x.page == va / 2 ^ pageBits x.level)) }

/-- A route to a package stands in the table and its port is trained and up (R420, R421). -/
def State.reaches (s : State) (pkg : Nat) : Bool :=
  match mfind s.dev.routes pkg with
  | some r => match mfind s.dev.ports r.port with
    | some p => p.trained && !p.down
    | none => false
  | none => false

/-- The home of an extended physical address can be reached: this package, a routed one, or host memory (R362, R420). -/
def State.homeUp (s : State) (a : Nat) : Bool :=
  if a < physSpan then true
  else if a < hostAddr 0 then s.reaches (a / physSpan - 1)
  else s.dev.ucieA || s.dev.ucieB

/-- Translation of a global virtual address: extended physical address and leaf, or the fault (R244, R362, R416). -/
def State.translate (s : State) (guest va : Nat) (acc : Access) : Except Cause (Nat × Nat) :=
  match s.lookup guest va with
  | .hole _ _ => .error 0x12
  | .bad => .error 0x12
  | .leaf e level =>
    let pa := (nbits e 50 16 * 2 ^ 16) / 2 ^ pageBits level * 2 ^ pageBits level + va % 2 ^ pageBits level
    let kind := nbits e 5 4
    if acc = .write ∧ nbits e 2 2 = 0 then .error 0x14
    else if acc = .exec ∧ nbits e 3 3 = 0 then .error 0x13
    else if kind = 0 then .ok (pa, e)
    else if kind = 1 then
      (if s.reaches (nbits e 63 51) then .ok (remoteAddr (nbits e 63 51) pa, e) else .error 0x15)
    else if s.dev.ucieA || s.dev.ucieB then .ok (hostAddr pa, e) else .error 0x15

/-! ## Apertures -/

/-- The aperture of a generic address (R239). -/
inductive Aperture | scratch | thread | global | none
  deriving DecidableEq, Repr

/-- R239. -/
def aperture (va : Addr) : Aperture :=
  let top := va.toNat / 2 ^ 56
  if top = 0xFF then .scratch else if top = 0xFE then .thread
  else if va.toNat / 2 ^ 57 = 0 then .global else .none

/-- The global virtual address of a per-thread address, where the access of `n` bytes is inside the region (R241). -/
def State.threadVa (s : State) (guest : Nat) (va : Addr) (n : Nat) : Option Nat :=
  let c := s.ctx guest
  let off := va.toNat % 2 ^ 56
  if off + n ≤ c.ptmsize.toNat ∧ c.ptmbase.toNat + off + n ≤ 2 ^ 57 then some (c.ptmbase.toNat + off) else none

/-- The global virtual address of a global or per-thread address. -/
def State.globalVa (s : State) (guest : Nat) (va : Addr) (n : Nat) : Option Nat :=
  match aperture va with
  | .global => some va.toNat
  | .thread => s.threadVa guest va n
  | _ => none

/-! ## Groups, cores, workgroups -/

/-- Key of a core's slot in the maps of groups. -/
def gkey (core slot : Nat) : Nat := core * 64 + slot
/-- Key of a workgroup slot. -/
def wkey (core wslot : Nat) : Nat := core * 16 + wslot
/-- Cluster of a core (R9, R11). -/
def clusterOf (core : Nat) : Nat := core / 4
/-- Scheduler of a group slot (R13). -/
def schedOf (slot : Nat) : Nat := slot / 12

/-- The group in a slot. -/
def State.group (s : State) (core slot : Nat) : Option Group := mfind s.groups (gkey core slot)

/-- The state with the group of a slot replaced. -/
def State.setGroup (s : State) (core slot : Nat) (g : Group) : State :=
  { s with groups := mset s.groups (gkey core slot) g }

/-- The state with the group of a slot changed. -/
def State.modGroup (s : State) (core slot : Nat) (f : Group → Group) : State :=
  { s with groups := mmod s.groups (gkey core slot) f }

/-- The workgroup in a workgroup slot. -/
def State.wgroup (s : State) (core wslot : Nat) : Option WGroup := mfind s.wgroups (wkey core wslot)

/-- The state with a workgroup changed. -/
def State.modWG (s : State) (core wslot : Nat) (f : WGroup → WGroup) : State :=
  { s with wgroups := mmod s.wgroups (wkey core wslot) f }

/-- A cluster. -/
def State.cluster (s : State) (n : Nat) : Cluster := mget s.clusters n Cluster.initial

/-- The state with a cluster changed. -/
def State.modCluster (s : State) (n : Nat) (f : Cluster → Cluster) : State :=
  { s with clusters := mset s.clusters n (f (s.cluster n)) }

/-- A core's scratchpad. -/
def State.scratchOf (s : State) (core : Nat) : Memory := mget s.scratch core []

/-- The state with a core's scratchpad replaced. -/
def State.setScratch (s : State) (core : Nat) (m : Memory) : State := { s with scratch := mset s.scratch core m }

/-- A fresh identifier. -/
def State.newId (s : State) : State × Nat := ({ s with nextId := s.nextId + 1 }, s.nextId)

/-- The state with the device changed. -/
def State.modDev (s : State) (f : Device → Device) : State := { s with dev := f s.dev }

/-! ## Storage that no group holds (R248, R432) -/

/-- Where a register of a granule of a core's frame pool stands. -/
def poolKey (core gran reg : Nat) : Nat := core * 4096 + gran * 8 + reg

/-- Granules that a group gives up keep what its registers held: those from its `n`-th on. -/
def State.parkGrans (s : State) (core : Nat) (g : Group) (n : Nat) : State :=
  { s with pool := (g.grans.drop n).zipIdx.foldl (fun m x => (List.range 8).foldl (fun m r =>
      mset m (poolKey core x.1 r) (mget g.frame (8 * (n + x.2) + r) [])) m) s.pool }

/-- A slot that a group leaves keeps what its window held. -/
def State.parkWin (s : State) (core slot : Nat) (g : Group) : State :=
  { s with winPool := (List.range 8).foldl (fun m k => mset m (gkey core slot * 8 + k) (mget g.win k [])) s.winPool }

/-- A group leaves its slot: its storage keeps what it held. -/
def State.parkGroup (s : State) (core slot : Nat) (g : Group) : State := (s.parkGrans core g 0).parkWin core slot g

/-! ## Lanes of an operation -/

/-- The operand and compare value of a lane. -/
def Op.req (o : Op) (l : Nat) : LaneReq :=
  match o.lanes.find? (fun x => x.req.lane == l) with
  | some x => x.req
  | none => ⟨l, 0, 0, 0, 0⟩

/-- An operation of loads, whose lanes keep their order with other accesses of theirs (R223, R189, R286). -/
def Op.reads (o : Op) : Bool := match o.kind with | .load | .tload _ | .watch _ => true | _ => false

/-! ## The L2 (R16, R264) -/

/-- 128-byte lines of one of the 128 slices of 256 MiB. -/
def sliceLines : Nat := 16384

/-- A line's scope record goes with the line (R264). -/
def State.l2Drop (s : State) (line : Nat) : State := { s with scopes := mdel s.scopes line }

/-! ## The dirty log (R418, R419) -/

/-- A field of a guest's command page (R411). -/
def State.cmdField (s : State) (guest o n : Nat) : Nat := rdLE s.mem ((s.ctx guest).cmdPage.toNat + o) n

/-- A field of a guest's command page written. -/
def State.setCmd (s : State) (guest o n v : Nat) : State :=
  { s with mem := wrLE s.mem ((s.ctx guest).cmdPage.toNat + o) n v }

/-- Entries of the dirty log that host software has not taken. -/
def State.logUsed (s : State) (guest : Nat) : Nat := (s.cmdField guest 52 4 + 2 ^ 32 - s.cmdField guest 56 4) % 2 ^ 32

/-- A page is logged before a write to it; `none` while the ring is full (R418, R419). -/
def State.logPage (s : State) (guest pa : Nat) : Option State :=
  let x := s.ctx guest
  let size := s.cmdField guest 48 4
  if !x.valid || size = 0 || decide (physSpan ≤ pa) then some s
  else
    let used := s.logUsed guest
    if size ≤ used then none else
    let dlp := s.cmdField guest 52 4
    let s := { s with mem := wrLE s.mem (s.cmdField guest 40 8 + 8 * (dlp % size)) 8 (pa / 65536 * 65536) }
    let s := s.setCmd guest 52 4 ((dlp + 1) % 2 ^ 32)
    some (s.modCtx guest (fun x => { x with
      throttled := decide (7 * size ≤ 8 * (used + 1)) }))

/-! ## A value the spec leaves open -/

/-- A value the spec leaves open (log 2). -/
def State.freeWord (s : State) : State × Word := ({ s with fresh := s.fresh + 1 }, Config.freeWord s.fresh)

/-- A byte the spec leaves open (log 2). -/
def State.freeByte (s : State) : State × Byte := ({ s with fresh := s.fresh + 1 }, Config.freeByte s.fresh)

end Sys2Proof.Machine
end

