-- ==== Sys2Proof/Machine/Flit.lean ====
section
/-! DEFINITION. What leaves a port of the Maelber link: flits, and the accesses of groups and of units to memory of other packages
that they carry as numbered requests (R241, R259, R420). -/

namespace Sys2Proof.Machine

/-- A port, and the state with a port changed. -/
def State.port (s : State) (n : Nat) : Port := mget s.dev.ports n Port.initial
def State.modPort (s : State) (n : Nat) (f : Port → Port) : State :=
  s.modDev (fun d => { d with ports := mset d.ports n (f (s.port n)) })

/-! ## Flits (R420) -/

/-- One bit of the CRC-32 of IEEE 802.3, low bit first. -/
def crcBit (c : BitVec 32) : BitVec 32 := if c.getLsbD 0 then (c >>> 1) ^^^ 0xEDB88320 else c >>> 1

/-- One byte of it. -/
def crcByte (c : BitVec 32) (b : Byte) : BitVec 32 := (List.range 8).foldl (fun c _ => crcBit c) (c ^^^ b.setWidth 32)

/-- CRC-32 over bytes (R420). -/
def crc32 (bs : List Byte) : BitVec 32 := bs.foldl crcByte 0xFFFFFFFF ^^^ 0xFFFFFFFF

/-- A flit of this package: sequence number, type, credits returned, payload, CRC (R420). -/
def flitBytes (seq : BitVec 16) (type : Nat) (credits : Byte) (payload : List Byte) : List Byte :=
  let body := leBytes 2 seq.toNat ++ [BitVec.ofNat 8 type, credits] ++ padTo 248 payload
  body ++ leBytes 4 (crc32 body).toNat

/-- A flit leaves a port and stands in the buffer of the last 64 (R420); how many credits it returns is open (log 15). -/
def State.sendFlit (s : State) (n type : Nat) (payload : List Byte) : State :=
  let r := s.freeByte
  r.1.modPort n (fun p =>
    let b := flitBytes p.sendSeq type r.2 payload
    { p with sendSeq := p.sendSeq + 1, replay := (b :: p.replay).take 64, out := p.out ++ [b] })

/-! ## Requests to other packages (R420) -/

/-- The read-modify-write that a link atomic names (R265, R420): integer operations only. -/
def linkAtom (n : Nat) : AtomOp :=
  match n with
  | 0 => .add
  | 1 => .min
  | 2 => .max
  | 3 => .and
  | 4 => .or
  | 5 => .xor
  | 6 => .xch
  | _ => .cas

/-- Its number. -/
def linkCode (a : AtomOp) : Fin 8 :=
  match a with
  | .add | .fadd => 0
  | .min => 1
  | .max => 2
  | .and => 3
  | .or => 4
  | .xor => 5
  | .xch => 6
  | .cas => 7

/-- The request that an access to memory of another package becomes: a load is that of its line. -/
def State.linkRequestOf (s : State) (e : AQEntry) (num : Word) : Config.LinkRequest :=
  let pa := e.addr % physSpan
  let mk (kind : Config.LinkKind) (addr size : Nat) (val : BitVec 128) (cmp : DWord) : Config.LinkRequest :=
    ⟨s.dev.pkgid, num, e.guest, kind, addr, size, val, cmp⟩
  match e.act with
  | .fill _ => mk .load (pa / 128 * 128) 128 0 0
  | .store bs => mk (.store false) pa bs.length (BitVec.ofNat 128 (leNat bs)) 0
  | .stw bs => mk (.store true) pa bs.length (BitVec.ofNat 128 (leNat bs)) 0
  | .ringput v => mk .append pa 4 (v.setWidth 128) 0
  | .atomic => match mfind s.ops e.op with
    | some o => let q := o.req e.lane; mk (.atomic (linkCode o.atom) o.sgn) pa o.size q.val q.cmp
    | none => mk .load pa 0 0 0

/-- The package an extended address lies on. -/
def pkgOf (a : Nat) : Nat := a / physSpan - 1

/-- A request goes out on the port of its package's route, and that port; none where nothing reaches the package. -/
def State.putRequest (s : State) (pkg : Nat) (r : Config.LinkRequest) : State × Option Nat :=
  match mfind s.dev.routes pkg with
  | some x => if s.reaches pkg then (s.sendFlit x.port 1 (Config.linkPack r), some x.port) else (s, none)
  | none => (s, none)

/-- The number of the next request. -/
def State.nextNum (s : State) : State × Word := (s.modDev (fun d => { d with reqNum := d.reqNum + 1 }), s.dev.reqNum)

/-- An access of a group to a home on another package sets out: for the first time under a fresh number, again under the one it
has. One in flight, or that no route reaches, waits. -/
def State.request (s : State) (e : AQEntry) : State :=
  if !isRemote e.addr || !s.homeUp e.addr then s else
  match s.sent.find? (fun x => x.op == e.op && x.lane == e.lane) with
  | some x =>
    if x.port.isSome then s else
    let r := s.putRequest (pkgOf e.addr) (s.linkRequestOf e x.num)
    { r.1 with sent := r.1.sent.map (fun y => if y.num = x.num then { y with port := r.2 } else y) }
  | none =>
    let n := s.nextNum
    let r := n.1.putRequest (pkgOf e.addr) (n.1.linkRequestOf e n.2)
    { r.1 with sent := r.1.sent ++ [⟨n.2, e.op, e.lane, r.2⟩] }

/-- An access is given up: an answer to its request is not waited for. -/
def State.unsent (s : State) (e : AQEntry) : State := { s with sent := s.sent.filter (fun x => !(x.op == e.op && x.lane == e.lane)) }

/-- An accepted access, or a fill request, joins those that their homes have to serve. -/
def State.enqueue (s : State) (e : AQEntry) : State := { s with aq := s.aq ++ [e] }.request e

/-! ## Units that reach memory of other packages (R241, R259, R420) -/

/-- The request of a unit's access: a read of its line, or a plain store. -/
def State.farRequest (s : State) (f : Far) : Config.LinkRequest :=
  let pa := f.addr % physSpan
  if f.bytes.isEmpty then ⟨s.dev.pkgid, f.num, f.guest, .load, pa, 128, 0, 0⟩
  else ⟨s.dev.pkgid, f.num, f.guest, .store false, pa, f.bytes.length, BitVec.ofNat 128 (leNat f.bytes), 0⟩

/-- A unit's access sets out, unless it is in flight or answered. -/
def State.farGo (s : State) (f : Far) : State :=
  if f.port.isSome || f.answer.isSome then s else
  let r := s.putRequest (pkgOf f.addr) (s.farRequest f)
  { r.1 with far := r.1.far.map (fun y => if y.num = f.num then { y with port := r.2 } else y) }

/-- A unit's access under a fresh number. -/
def State.farAdd (s : State) (who : FarUser) (guest : Nat) (va : Addr) (addr : Nat) (bytes : List Byte) : State :=
  let n := s.nextNum
  let f : Far := ⟨n.2, who, guest, va, addr, bytes, none, none⟩
  { n.1 with far := n.1.far ++ [f] }.farGo f

/-- A read of a line that a unit has asked for. -/
def State.farRead (s : State) (who : FarUser) (line : Nat) : Option Far :=
  s.far.find? (fun f => f.who == who && f.addr == line * 128 && f.bytes.isEmpty)

/-- A line of another package is asked for, once. -/
def State.farAsk (s : State) (who : FarUser) (guest : Nat) (va : Addr) (line : Nat) : State :=
  if (s.farRead who line).isSome then s else s.farAdd who guest va (line * 128) []

/-- The lines of `n` bytes from an extended address that lie on another package. -/
def farLines (pa n : Nat) : List Nat :=
  if isRemote pa then (List.range ((pa + n - 1) / 128 - pa / 128 + 1)).map (fun k => pa / 128 + k) else []

/-- A unit asks for what it reads of another package. -/
def State.farWant (s : State) (who : FarUser) (guest : Nat) (va : Addr) (pa n : Nat) : State :=
  (farLines pa n).foldl (fun (s : State) line => s.farAsk who guest va line) s

/-- The bytes a unit reads at their home; none while they have not all come from another package. -/
def State.farBytes (s : State) (who : FarUser) (pa n : Nat) : Option (List Byte) :=
  if isRemote pa then
    (List.range n).mapM (fun k => ((s.farRead who ((pa + k) / 128)).bind (·.answer)).map (fun d => d.getD ((pa + k) % 128) 0))
  else some (rdBytes s.mem pa n)

/-- A unit reads `n` bytes at their home: at once in memory of this package, else once they have been asked for and have come. -/
def State.farGet (s : State) (who : FarUser) (guest : Nat) (va : Addr) (pa n : Nat) : State × Option (List Byte) :=
  match s.farBytes who pa n with
  | some bs => (s, some bs)
  | none => (s.farWant who guest va pa n, none)

/-- It is a fetch of code (R128). -/
def Far.isCode (f : Far) : Bool := match f.who with | .code _ => true | _ => false

/-- A unit has done with the lines it asked for. -/
def State.farDone (s : State) (who : FarUser) : State :=
  { s with far := s.far.filter (fun f => !(f.who == who && f.bytes.isEmpty)) }

/-- A write of a unit to memory of another package, in stores of up to 16 bytes. -/
def State.farStore (s : State) (who : FarUser) (guest : Nat) (va : Addr) (addr : Nat) (bs : List Byte) : State :=
  (List.range ((bs.length + 15) / 16)).foldl (fun (s : State) k =>
    s.farAdd who guest va (addr + 16 * k) ((bs.drop (16 * k)).take 16)) s

/-- A unit's writes to other packages have not all been answered. -/
def State.farOut (s : State) (p : Far → Bool) : Bool := s.far.any (fun f => p f && !f.bytes.isEmpty)

/-- Bytes written at an extended address: into memory, and, on another package, sent there (log 77). -/
def State.putHome (s : State) (guest addr : Nat) (bs : List Byte) : State :=
  let s' := { s with mem := wrBytes s.mem addr bs }
  if isRemote addr then s'.farStore .ring guest 0 addr bs else s'

/-- What was in flight on a port is in flight no more, and sets out again where a route is left (R420). -/
def State.resendPort (s : State) (port : Nat) : State :=
  let s : State := { s with
    sent := s.sent.map (fun x => if x.port = some port then { x with port := none } else x)
    far := s.far.map (fun x => if x.port = some port then { x with port := none } else x) }
  s.far.foldl State.farGo (s.aq.foldl State.request s)

/-- Whatever is not in flight sets out (R420). -/
def State.resend (s : State) : State := s.far.foldl State.farGo (s.aq.foldl State.request s)

end Sys2Proof.Machine
end

