-- ==== Sys2Proof/Machine/Lines.lean ====
section
/-! DEFINITION. Lines of the L1s and of the instruction caches, private lines and the plinth, and accesses of units to memory of
other packages (R12, R67 to R71, R128, R241, R245, R257, R264, R418). -/

namespace Sys2Proof.Machine

/-! ## L1 lines -/

/-- 128 bytes of a line at its home. -/
def State.homeLine (s : State) (line : Nat) : List Byte := rdBytes s.mem (line * 128) 128

/-- A line's bytes replaced from offset `off` on. -/
def patchLine (data : List Byte) (off : Nat) (bs : List Byte) : List Byte :=
  (List.range 128).map (fun i => if off ≤ i ∧ i < off + bs.length then bs.getD (i - off) 0 else data.getD i 0)

/-- The private line of a core that holds a per-thread address (R241). -/
def L1Line.isPriv (x : L1Line) (core guest : Nat) (va : Addr) : Bool :=
  match x.kind with
  | .priv g _ a => x.core == core && g == guest && a == va
  | _ => false

/-- A write meets a page with W = 0 at a per-thread line of which the core holds no dirty copy (R244; log 60). -/
def State.privDenied (s : State) (core guest : Nat) (va : Addr) : Bool :=
  s.l1.all (fun x => !(x.isPriv core guest va && (match x.kind with | .priv _ d _ => d | _ => false))) &&
    (match s.threadVa guest va 128 with
      | some g => (match s.translate guest g .write with | .error k => k == 0x14 | .ok _ => false)
      | none => false)

/-- A private line has been asked for and has not come from another package (R241, R420). -/
def State.coming (s : State) (x : L1Line) : Bool :=
  match x.kind with
  | .priv g _ va => (s.farRead (.l1 x.core g va) x.line).isSome
  | _ => false

/-- Write-back of a dirty private line to its recorded frame (R241, R245); one on another package is written there (R420). -/
def State.writeBack (s : State) (x : L1Line) : State :=
  match x.kind with
  | .priv g true va =>
    if isRemote (x.line * 128) then s.farStore (.l1 x.core g va) g va (x.line * 128) x.data
    else { s with mem := wrBytes s.mem (x.line * 128) x.data }
  | .held _ _ _ => { s with mem := wrBytes s.mem (x.line * 128) x.data }
  | _ => s

/-! ## Write-backs that are logged (R418) -/

/-- The context an L1 line is written back for. -/
def LineKind.guest : LineKind → Nat
  | .clean _ _ g => g
  | .held _ _ g => g
  | .priv g _ _ => g

/-- A line written back, with its page logged (R241, R258, R418); `none` while the log is full. -/
def State.writeBackLog (s : State) (x : L1Line) : Option State :=
  match x.kind with
  | .clean _ _ _ => some s
  | .priv _ false _ => some s
  | k => (s.logPage k.guest (x.line * 128)).map (fun s => s.writeBack x)

/-- A synchronising access leaves its record on a line (R264); where the line's slice is full of lines with records, one leaves
it, which one the spec does not say (R16; log 66). -/
def State.putScope (s : State) (line : Nat) (r : ScopeRec) : State :=
  let there := s.scopes.filter (fun x => x.1 != line && homeSlice (x.1 * 128) == homeSlice (line * 128))
  let s := if there.length < sliceLines then s else
    let f := s.freeWord
    match there[f.2.toNat % there.length]? with
    | some x => f.1.l2Drop x.1
    | none => f.1
  { s with scopes := mset s.scopes line r }

/-- 128-byte lines of a core's 64 KiB instruction cache (R12). -/
def codeLines : Nat := 512

/-- A line leaves a core's instruction cache. -/
def State.codeDrop (s : State) (core : Nat) (va : Addr) : State :=
  { s with icache := s.icache.filter (fun x => !(x.core == core && x.va == va)) }

/-- Room for one more line in a core's instruction cache: where it is full one line leaves, which one the spec does not say
(log 66). -/
def State.codeRoom (s : State) (core : Nat) : State :=
  let mine := s.icache.filter (fun x => x.core == core)
  if mine.length < codeLines then s else
  let f := s.freeWord
  match mine[f.2.toNat % mine.length]? with
  | some x => { f.1 with icache := f.1.icache.erase x }
  | none => f.1

/-- A line comes into a core's instruction cache. -/
def State.putCode (s : State) (core guest : Nat) (va : Addr) (bs : List Byte) : State :=
  let s := s.codeRoom core
  { s with icache := ⟨core, guest, va, bs⟩ :: s.icache }

/-- A line leaves a core's L1. -/
def State.dropLine (s : State) (x : L1Line) : State := { s with l1 := s.l1.filter (fun y => y != x) }

/-! ## The size of an L1 (R12, R257) -/

/-- 128-byte lines of 256 KiB. -/
def l1Lines : Nat := 2048

/-- A line that may be evicted (R257): every line but a held one. -/
def L1Line.evictable (x : L1Line) : Bool := match x.kind with | .held _ _ _ => false | _ => true

/-- Room for one more line in a core's L1: where it is full one line leaves, which one the spec does not say. Where none
may leave, all being held or on their way, or the dirty log full, the new line waits beside the L1 (log 66). -/
def State.l1Room (s : State) (core : Nat) : State :=
  let mine := s.l1.filter (fun x => x.core == core)
  if mine.length < l1Lines then s else
  let out := mine.filter (fun x => x.evictable && !s.coming x)
  let r := s.freeWord
  let k := r.2.toNat % out.length
  ((out.drop k ++ out.take k).findSome? (fun x => (r.1.writeBackLog x).map (fun s => s.dropLine x))).getD s

/-! ## Private lines and the plinth (R67 to R71, R241) -/

/-- The state with the private line of per-thread line address `va` in the core's L1 (R241): found, or filled from
its home; a translation fault stops it (R71, R244). A line of another package is asked for; until it comes, what is written
into it is kept beside it (R420; log 77). -/
def State.privFill (s : State) (core guest : Nat) (va : Addr) (acc : Access) : Except Cause State :=
  if acc = .write ∧ s.privDenied core guest va then .error 0x14
  else if s.l1.any (fun x => x.isPriv core guest va) then .ok s
  else match s.threadVa guest va 128 with
    | none => .error 0x02
    | some g => match s.translate guest g acc with
      | .error c => .error c
      | .ok (pa, _) =>
        let s := s.l1Room core
        let s := if isRemote pa then s.farAsk (.l1 core guest va) guest va (pa / 128) else s
        .ok { s with l1 := ⟨core, pa / 128, s.homeLine (pa / 128), .priv guest false va, []⟩ :: s.l1 }

/-- The private line is in the L1, with its bytes. -/
def State.privHere (s : State) (core guest : Nat) (va : Addr) : Bool := s.l1.any (fun x => x.isPriv core guest va && !s.coming x)

/-- The bytes of a private line that is in the L1. -/
def State.privData (s : State) (core guest : Nat) (va : Addr) : List Byte :=
  match s.l1.find? (fun x => x.isPriv core guest va) with
  | some x => x.data
  | none => []

/-- Bytes written into a private line that is in the L1; the line becomes dirty. -/
def State.privStore (s : State) (core guest : Nat) (va : Addr) (off : Nat) (bs : List Byte) : State :=
  { s with l1 := s.l1.map (fun x => if x.isPriv core guest va
      then { x with data := patchLine x.data off bs, kind := .priv guest true va
                    own := if s.coming x then (0, off, bs.length) :: x.own else x.own } else x) }

/-- A private line has come from another package: what has been written into it meanwhile stands (R241, R420). -/
def L1Line.arrive (x : L1Line) (bs : List Byte) : L1Line :=
  { x with own := []
           data := (List.range 128).map (fun i =>
             if x.own.any (fun w => decide (w.2.1 ≤ i) && decide (i < w.2.1 + w.2.2)) then x.data.getD i 0 else bs.getD i 0) }

/-- The private line that was asked for at an address has come. -/
def State.privArrive (s : State) (core guest : Nat) (va : Addr) (line : Nat) (bs : List Byte) : State :=
  { s with l1 := s.l1.map (fun x => if x.isPriv core guest va && x.line == line then x.arrive bs else x) }

/-- The line address of the plinth entry at a depth index (R67). -/
def plinthLine (pb : Addr) (idx : Nat) : Addr := pb + BitVec.ofNat 64 ((4 + idx) * 128)

/-- The word of lane `l` of a line. -/
def lineWord (data : List Byte) (l : Nat) : Word := BitVec.ofNat 32 (leNat ((data.drop (4 * l)).take 4))

/-- Plinth words of a mask of lanes at a depth index, written (R68). -/
def State.plinthWrite (s : State) (core guest : Nat) (pb : Addr) (idx : Nat) (m : Mask) (v : Lanes) :
    Except Cause State :=
  (s.privFill core guest (plinthLine pb idx) .write).map (fun s =>
    (lanesOf m).foldl (fun s l => s.privStore core guest (plinthLine pb idx) (4 * l) (leBytes 4 (laneAt v l).toNat)) s)

/-- Plinth words at a depth index, read (R68). -/
def State.plinthRead (s : State) (core guest : Nat) (pb : Addr) (idx : Nat) : Except Cause (State × Lanes) :=
  (s.privFill core guest (plinthLine pb idx) .load).map (fun s =>
    (s, mkLanes (fun l => lineWord (s.privData core guest (plinthLine pb idx)) l)))

end Sys2Proof.Machine
end

