-- ==== Sys2Proof/Machine/Trace.lean ====
section
/-! DEFINITION. The branch-and-mask trace: rings, packets, LOSS and SYNC (R387, R393 to R397). -/

namespace Sys2Proof.Machine

/-- The physical bytes of `n` bytes at a global address, where all of them translate as writable (R387). -/
def State.ringBytes (s : State) (guest va n : Nat) : Option (List Nat) :=
  (List.range n).mapM (fun k => match s.translate guest (va + k) .write with
    | .ok (pa, _) => some pa
    | .error _ => none)

/-- Bytes at physical addresses. -/
def rdAt (m : Memory) (as : List Nat) : List Byte := as.map (rdByte m)

/-- Bytes written at physical addresses. -/
def wrAt (m : Memory) (as : List Nat) (bs : List Byte) : Memory := (as.zip bs).foldl (fun m x => wrByte m x.1 x.2) m

/-- Bytes at physical addresses, in pieces that lie together within 16. -/
def spansOf : List (Nat × Byte) → List (Nat × List Byte)
  | [] => []
  | (a, b) :: xs => match spansOf xs with
    | (c, bs) :: rest => if c = a + 1 ∧ c % 16 ≠ 0 then (a, b :: bs) :: rest else (a, [b]) :: (c, bs) :: rest
    | [] => [(a, [b])]

/-- Bytes written at physical addresses, those on other packages by stores to them (R420; log 77). -/
def State.putAt (s : State) (guest : Nat) (as : List Nat) (bs : List Byte) : State :=
  (spansOf ((as.zip bs).filter (fun x => isRemote x.1))).foldl (fun (s : State) x => s.farStore .ring guest 0 x.1 x.2)
    { s with mem := wrAt s.mem as bs }

/-- A power of two of at least `lo` and at most `hi`. -/
def powerIn (n lo hi : Nat) : Bool := decide (n = 2 ^ Nat.log2 n) && decide (lo ≤ n) && decide (n ≤ hi)

/-- An active ring of the debug area (R387): its context, addresses of its descriptor's bytes, base, size, WR, RD and LOST. -/
structure Ring where
  guest : Nat
  desc : List Nat
  base : Nat
  size : Nat
  wr : Nat
  rd : Nat
  lost : Nat
  deriving DecidableEq, Repr

/-- The ring whose descriptor lies at a global address; none where the channel is inactive (R387). -/
def State.ringAt (s : State) (guest va : Nat) : Option Ring :=
  match s.ringBytes guest va 32 with
  | none => none
  | some as =>
    let b := rdAt s.mem as
    let f (o n : Nat) := leNat ((b.drop o).take n)
    if powerIn (f 8 4) 256 (2 ^ 30) && decide (f 24 8 = 0) then some ⟨guest, as, f 0 8, f 8 4, f 12 4, f 16 4, f 20 4⟩ else none

/-- Free bytes of a ring (R387). -/
def Ring.free (r : Ring) : Nat := r.size - (r.wr + 2 ^ 32 - r.rd) % 2 ^ 32

/-- A word of the ring's descriptor written. -/
def State.ringField (s : State) (r : Ring) (o v : Nat) : State :=
  s.putAt r.guest ((r.desc.drop o).take 4) (leBytes 4 v)

/-- The physical places of the next `n` bytes of a ring. -/
def State.ringRoom (s : State) (guest : Nat) (r : Ring) (n : Nat) : Option (List Nat) :=
  (List.range n).mapM (fun k => match s.translate guest (r.base + (r.wr + k) % r.size) .write with
    | .ok (pa, _) => some pa
    | .error _ => none)

/-- GTAG of a group (R386). -/
def gtag (core slot : Nat) : Nat := core * 64 + slot

/-- A packet's header word (R393). -/
def packetHead (tag delta split type : Nat) : List Byte :=
  leBytes 4 (tag * 2 ^ 16 + delta * 2 ^ 8 + split * 2 ^ 6 + type)

/-- TIME packets that carry a gap (R393, R394). -/
def timePackets : Nat → Nat → List Byte
  | 0, _ => []
  | fuel + 1, gap =>
    if gap = 0 then []
    else packetHead 0 0 0 0xD ++ leBytes 4 (min gap (2 ^ 32 - 1)) ++ timePackets fuel (gap - min gap (2 ^ 32 - 1))

/-- Key of a context's trace ring on a core. -/
def traceKey (guest core : Nat) : Nat := guest * 1024 + core

/-- Every group of a context on a core has its SYNC flag set. -/
def State.setSync (s : State) (guest : Nat) (onCore : Nat → Bool) : State :=
  { s with groups := s.groups.map (fun x =>
      if x.2.guest = guest && onCore (x.1 / 64) then (x.1, { x.2 with sync := true }) else x) }

/-- The trace ring of a context on a core, where its channel is active (R387). -/
def State.traceRing (s : State) (guest core : Nat) : Option Ring :=
  s.ringAt guest ((s.ctx guest).dbgbase.toNat + 0x8000 + 32 * core)

/-- One item written to a trace ring or counted as lost; `last` is the cc of the packet before it, and the answer that of the
last one now (R393, R397). -/
def State.traceItem (s : State) (guest core : Nat) (last : Option Nat) (p : Packet) : State × Option Nat :=
  match s.traceRing guest core with
  | none => (s, none)
  | some r =>
    let gap := match last with | some t => s.cc - t | none => 0
    let time := if 255 < gap then timePackets (gap / (2 ^ 32 - 1) + 1) gap else []
    let delta := if 255 < gap then 0 else gap
    let n := time.length + 4 + p.payload.length
    let body (d : Nat) := packetHead p.tag d p.split p.type ++ p.payload
    let item := if r.lost ≠ 0 then time ++ packetHead 0 delta 0 0xC ++ leBytes 4 r.lost ++ body 0 else time ++ body delta
    let need := if r.lost ≠ 0 then n + 16 else n + 8
    match s.ringRoom guest r item.length with
    | some as =>
      if need ≤ r.free then
        let s := (s.putAt guest as item).ringField r 12 ((r.wr + item.length) % 2 ^ 32)
        (if r.lost ≠ 0 then (s.ringField r 20 0).setSync guest (fun c => c == core) else s, some s.cc)
      else (s.ringField r 20 (r.lost + 1), last)
    | none => (s.ringField r 20 (r.lost + 1), last)

/-- Items written one after the other. -/
def State.traceItems (s : State) (guest core : Nat) (last : Option Nat) (ps : List Packet) : State × Option Nat :=
  ps.foldl (fun acc p => acc.1.traceItem guest core acc.2 p) (s, last)

/-- A trace packet of a group, whose event is now (R393). Packets of one cc stand in scheduler order: those of higher
schedulers that the ring has taken in this cc are written again after it (R395). -/
def State.trace (s : State) (guest core slot split type : Nat) (payload : List Byte) : State :=
  let key := traceKey guest core
  if (s.ctx guest).trctl.getLsbD 31 = false then s else
  match s.traceRing guest core with
  | none => { s with lastTrace := mdel s.lastTrace key }
  | some r =>
    let p : Packet := ⟨schedOf slot, gtag core slot, split, type, payload⟩
    let t : TraceLast := match mfind s.lastTrace key with
      | some t => if t.at_ = s.cc then t else ⟨t.last, t.last, s.cc, r.wr, r.lost, []⟩
      | none => ⟨none, none, s.cc, r.wr, r.lost, []⟩
    let items := t.items.filter (fun q => decide (q.sched ≤ p.sched)) ++ p :: t.items.filter (fun q => decide (p.sched < q.sched))
    let w := if t.items.all (fun q => decide (q.sched ≤ p.sched)) then s.traceItem guest core t.last p
      else ((s.ringField r 12 t.wr).ringField r 20 t.lost).traceItems guest core t.prev items
    { w.1 with lastTrace := mset s.lastTrace key { t with last := w.2, items := items } }

/-- The SYNC payload of a part (R394). -/
def State.syncPayload (s : State) (pc : Addr) (m : Mask) (depth : Nat) : List Byte :=
  leBytes 8 pc.toNat ++ leBytes 4 m.toNat ++ leBytes 6 s.dtime.toNat ++ leBytes 2 (min depth 65535)

/-- One SYNC for each occupied slot of a group, or for its handler split (R396). -/
def State.traceSyncs (s : State) (core slot : Nat) : State :=
  match s.group core slot with
  | none => s
  | some g =>
    let base := match g.parked with | some k => k.base | none => 0
    (List.range 4).foldl (fun s k => match g.splits.getD k none with
      | some p => s.trace g.guest core slot k 0xA (s.syncPayload p.pc p.mask (p.depth - base))
      | none => s) s

/-- The SYNC flag of a group is served (R396). -/
def State.serveSync (s : State) (core slot : Nat) : State :=
  match s.group core slot with
  | none => s
  | some g =>
    if g.sync then (s.traceSyncs core slot).modGroup core slot (fun g => { g with sync := false }) else s

end Sys2Proof.Machine
end

