-- ==== Sys2Proof/Machine/Ready.lean ====
section
/-! DEFINITION. When a split is ready, when a group stands in E, and the upkeep of both (R61, R68, R76, R360). -/

namespace Sys2Proof.Machine

/-! ## Cause codes (R362) -/

def cIllegal : Cause := 0x01
def cAddrForm : Cause := 0x02
def cAlign : Cause := 0x03
def cRunForm : Cause := 0x04
def cRunHazard : Cause := 0x05
def cStackSkew : Cause := 0x06
def cStackUnderflow : Cause := 0x07
def cStackLimit : Cause := 0x08
def cFrameRange : Cause := 0x09
def cSegForm : Cause := 0x0A
def cPriv : Cause := 0x0B
def cTrap : Cause := 0x0C
def cKilled : Cause := 0x0D
def cPageAbsent : Cause := 0x12
def cExecDenied : Cause := 0x13
def cWriteDenied : Cause := 0x14
def cPathDown : Cause := 0x15
def cStep : Cause := 0x20
def cDebugStop : Cause := 0x21
def cWatch : Cause := 0x2A
def cScratchBounds : Cause := 0x30
def cScope : Cause := 0x31
def cAccRange : Cause := 0x32
def cAtomicPath : Cause := 0x33
def cBlockAxis : Cause := 0x34
def cStreamRights : Cause := 0x35
def cSeqIllegal : Cause := 0x36
def cCopyForm : Cause := 0x37
def cMcheck : Cause := 0x3C
def cFwEnd : Cause := 0x3D

/-! ## Header fields (R124) -/

def RunImage.dmin (m : RunImage) : Nat := nbits m.hdr.toNat 26 23
def RunImage.dmax (m : RunImage) : Nat := nbits m.hdr.toNat 22 19
def RunImage.limLd (m : RunImage) : Nat := nbits m.hdr.toNat 18 15
def RunImage.limSt (m : RunImage) : Nat := nbits m.hdr.toNat 14 11
def RunImage.limCp (m : RunImage) : Nat := nbits m.hdr.toNat 10 8
def RunImage.limTl (m : RunImage) : Nat := nbits m.hdr.toNat 7 5
def RunImage.join (m : RunImage) : Bool := m.hdr.getLsbD 4
/-- The header's SOLO bit (R124). -/
def RunImage.solo (m : RunImage) : Bool := m.hdr.getLsbD 3

/-- A counter is at or below a limit, or the limit waits for nothing (R76, R167). -/
def limitOk (v : BitVec 8) (lim free : Nat) : Bool := lim == free || decide (v.toNat ≤ lim)

/-- The four counters meet their limits (R76, R167). -/
def Group.limitsOk (g : Group) (ld st cp tl : Nat) : Bool :=
  limitOk g.ld ld 15 && limitOk g.st st 15 && limitOk g.cp cp 7 && limitOk g.tl tl 7

/-! ## Where an access lands (R223, R240) -/

/-- Byte ranges of two accesses meet. -/
def rangesMeet (a n b m : Nat) : Bool := decide (a < b + m) && decide (b < a + n)

/-- The core and first physical scratchpad byte of a scratchpad-aperture access (R240), for a workgroup. -/
def State.scratchTarget (s : State) (core wslot : Nat) (va : Addr) (n : Nat) : Option (Nat × Nat) :=
  match s.wgroup core wslot with
  | none => none
  | some w =>
    let off := nbits va.toNat 18 0
    let key := if nbits va.toNat 21 21 = 0 then some (wkey core wslot) else w.span[nbits va.toNat 20 19]?
    match key with
    | none => none
    | some k => match mfind s.wgroups k with
      | some t => if off + n ≤ 1024 * t.sgran then some (k / 16, 1024 * t.sbase + off) else none
      | none => none

/-- Where an access lands: a scratchpad byte of a core (tag core + 1), or an extended physical byte (tag 0); none where it does
not translate, and for the per-thread aperture, which is ordered with no other (R241). -/
def State.placeOf (s : State) (core wslot guest : Nat) (va : Addr) (n : Nat) : Option (Nat × Nat) :=
  match aperture va with
  | .scratch => (s.scratchTarget core wslot va n).map (fun x => (x.1 + 1, x.2))
  | .global => match s.translate guest va.toNat .load with
    | .ok (pa, _) => some (0, pa)
    | .error _ => none
  | _ => none

/-- Two accesses of a group touch one byte: by their generic addresses, or where they land (R223; log 70). -/
def State.overlap (s : State) (core : Nat) (g : Group) (a : Addr) (n : Nat) (b : Addr) (m : Nat) : Bool :=
  rangesMeet a.toNat n b.toNat m ||
    (match s.placeOf core g.wslot g.guest a n, s.placeOf core g.wslot g.guest b m with
      | some x, some y => x.1 == y.1 && rangesMeet x.2 n y.2 m
      | _, _ => false)

/-- Two accesses of a group are to one line: by their generic addresses, or where they land (R253; log 70). -/
def State.sameLine (s : State) (core : Nat) (g : Group) (a : Addr) (n : Nat) (b : Addr) (m : Nat) : Bool :=
  a.toNat / 128 == b.toNat / 128 ||
    (match s.placeOf core g.wslot g.guest a n, s.placeOf core g.wslot g.guest b m with
      | some x, some y => x.1 == y.1 && x.2 / 128 == y.2 / 128
      | _, _ => false)

/-! ## What records hold (R216, R223, R369) -/

/-- A load or store record of an operation. -/
def Rec.isFor (r : Rec) (id : Nat) : Bool := r.op == id && r.kind != 3 && r.kind != 4

/-- A load-class record that a group awaits. -/
def isFrq (r : Rec) : Bool := !r.store && r.kind != 3 && r.kind != 4

/-- A record holds a load that stands before an access of one of its lanes to the same bytes (R223). -/
def State.recBefore (s : State) (core : Nat) (g : Group) (r : Rec) (id lane : Nat) (va : Addr) (n : Nat) : Bool :=
  isFrq r && decide (r.op < id) && laneOn r.unf lane && (match mfind s.ops r.op with
    | some o => o.reads && o.lanes.any (fun y => y.req.lane == lane && s.overlap core g y.req.va o.size va n)
    | none => false)

/-- A record holds an operation of a group: it is the operation's, or of a load that stands before a lane of it. -/
def State.holdsOp (s : State) (core slot : Nat) (g : Group) (r : Rec) (id : Nat) : Bool :=
  r.isFor id || (match mfind s.ops id with
    | some o => o.core == core && o.slot == slot && r.core == core && r.slot == slot && r.unf != 0 &&
        ((o.reads && o.lanes.any (fun y => y.st == .todo && s.recBefore core g r id y.req.lane y.req.va o.size))
          || g.sq.any (fun e => e.op == id && s.recBefore core g r id e.lane e.va e.size))
    | none => false)

/-- Operations of a group that a counter counts and that an FRQ record not delivered holds (R216, R369). -/
def State.stuck (s : State) (core slot : Nat) (c : Ctr) : Nat :=
  let due (r : Rec) : Bool := r.core == core && r.slot == slot && !r.delivered && !r.store && r.unf != 0
  match s.group core slot with
  | none => 0
  | some g =>
    if c = .cp then (s.recs.filter (fun r => due r && r.kind == 3)).length
    else (s.ops.filter (fun x => x.2.core == core && x.2.slot == slot && x.2.ctr == some c
      && s.recs.any (fun r => due r && s.holdsOp core slot g r x.1))).length

/-- A counter cannot come down to a limit while the operations that records hold are outstanding (R216, R369). -/
def State.outOfReach (s : State) (core slot : Nat) (c : Ctr) (lim free : Nat) : Bool := lim != free && decide (lim < s.stuck core slot c)

/-! ## Parts of a group -/

/-- Parts that take part in scheduling: splits, then the pending list, then its overflow. -/
def Group.parts (g : Group) : List Part := g.splits.filterMap id ++ g.pend ++ g.ovf

/-- Depth below which the running parts may not reach: the handler base in supervisor mode, else 0 (R278). -/
def Group.floor (g : Group) : Nat := match g.parked with | some k => k.base | none => 0

/-- An entry of a part is pending (R75, R62). -/
def Group.pendingAt (g : Group) (m : Mask) (idx : Nat) : Bool :=
  g.pendEnt.any (fun p => p.idx == idx && p.mask &&& m != 0)

/-- An entry among the top `n` of a part is pending (R76 item 5). -/
def Group.pendingTop (g : Group) (p : Part) (n : Nat) : Bool :=
  g.pendEnt.any (fun e => decide (p.depth - n ≤ e.idx) && decide (e.idx < p.depth) && e.mask &&& p.mask != 0)

/-- A run of the group in progress uses a split. -/
def Group.running (g : Group) (n : Nat) : Bool := match g.run with | some r => r.split == n | none => false

/-- The split of a group that no run of the group uses. -/
def Group.idleSplit (g : Group) (n : Nat) : Option Part := if g.running n then none else g.splits.getD n none

/-- The best of a list by a strict order, the first of equals. -/
def pickBy {α : Type} (better : α → α → Bool) : List α → Option α
  | [] => none
  | x :: xs => some (xs.foldl (fun b y => if better y b then y else b) x)

/-- A split takes first rank by the passed-over rule (R61). -/
def Part.overdue (p : Part) : Bool := p.due || decide (1024 ≤ p.passed)

/-- Split `x` ranks before `y` (R61): first by the passed-over rule, then by the lowest PC, then by the lowest slot. -/
def splitBefore (x y : Nat × Part) : Bool :=
  let (n, p) := x
  let (m, q) := y
  if p.overdue && q.overdue && p.passed != q.passed then decide (q.passed < p.passed)
  else if p.overdue != q.overdue then p.overdue
  else decide (p.pc.toNat < q.pc.toNat) || (p.pc == q.pc && decide (n < m))

/-- The occupied split slots. -/
def Group.slots (g : Group) : List (Nat × Part) :=
  (List.range 4).filterMap (fun n => (g.splits.getD n none).map (fun p => (n, p)))

/-- The part observed: the running one, else the one with the lowest PC, the lowest slot of equals (R388). -/
def Group.observed (g : Group) : Option (Option Nat × Part) :=
  let slots := g.slots.map (fun x => (some x.1, x.2))
  match g.run with
  | some r => (g.splits.getD r.split none).map (fun p => (some r.split, p))
  | none => pickBy (fun x y => decide (x.2.pc.toNat < y.2.pc.toNat)) (slots ++ (g.pend ++ g.ovf).map (fun p => (none, p)))

/-- The lowest free split slot. -/
def Group.freeSlot (g : Group) : Option Nat := (List.range 4).find? (fun n => (g.splits.getD n none).isNone)

/-- The hardware list holds the eight oldest entries (R59). -/
def Group.refill (g : Group) (now : Nat) : Group :=
  let n := 8 - g.pend.length
  { g with pend := g.pend ++ (g.ovf.take n).map (fun p => { p with queued := now }), ovf := g.ovf.drop n }

/-- The position of the least element by a key, the first of equals. -/
def minIdx {α : Type} (xs : List α) (key : α → Nat) : Option Nat :=
  ((List.range xs.length).foldl (fun (best : Option (Nat × Nat)) i =>
    match xs[i]? with
    | none => best
    | some x => match best with
      | some (k, _) => if key x < k then some (key x, i) else best
      | none => some (key x, i)) none).map (·.2)

/-- Pending entries move into free slots, lowest PC first, and the slots that took one (R60). An overflow entry that comes
into the hardware list for one slot competes for the next (log 64). -/
def Group.fillSlots : Nat → Nat → Group → Group × List Nat
  | 0, _, g => (g, [])
  | fuel + 1, now, g =>
    match g.freeSlot, minIdx g.pend (fun p => p.pc.toNat) with
    | some n, some i =>
      match g.pend[i]? with
      | none => (g, [])
      | some p =>
        let r := Group.fillSlots fuel now
          ({ g with splits := lset g.splits n (some { p with queued := now, due := false }), pend := g.pend.eraseIdx i }.refill now)
        (r.1, n :: r.2)
    | _, _ => (g, [])

/-- No other part of the group stands at a PC below that of a split. -/
def Group.lowestAt (g : Group) (pc : Addr) : Bool := g.parts.all (fun p => decide (pc.toNat ≤ p.pc.toNat))

/-- The parts that no run of the group uses. -/
def Group.idleParts (g : Group) : List Part := (List.range 4).filterMap g.idleSplit ++ g.pend ++ g.ovf

/-- The parts that stand at a PC, the split of a run in progress left out. -/
def Group.partsAt (g : Group) (pc : Addr) : List Part := g.idleParts.filter (fun p => p.pc == pc)

/-- Splits not yet decoded below which no other part stands: they have been released at their arrival (R62). -/
def Group.markClear (g : Group) : Group :=
  { g with splits := g.splits.map (Option.map (fun p =>
      if p.image.isNone && g.lowestAt p.pc then { p with clear := true } else p)) }

/-! ## Preparation and deliveries (R68, R364, R434) -/

/-- Resident entries that preparation aims at: t of R68. -/
def prepTarget (p : Part) (m : RunImage) : Nat := min p.depth (max m.dmin (min p.res (8 - m.dmax)))

/-- The preparation of a part is complete (R434). -/
def Group.prepared (g : Group) (n : Nat) (p : Part) (m : RunImage) : Bool :=
  p.excess.isEmpty && decide (p.res = prepTarget p m) && decide (g.floor + m.dmin ≤ p.depth) && decide (p.depth - p.res ≤ g.plinth / 4)
    && (match g.port with | some x => x.split != n | none => true)

/-- The fault that preparation of a decoded part meets (R68). -/
def Group.prepFault (g : Group) (p : Part) : Option Cause :=
  match p.image with
  | none => none
  | some m =>
    if p.depth < g.floor + m.dmin then some cStackUnderflow
    else if g.plinth / 4 < p.depth - prepTarget p m then some cStackLimit else none

/-- The bank a `tload` of the core would take, where it may (R189); earlier ones of its run have taken the banks `busy`. -/
def State.bankFor (s : State) (core slot : Nat) (busy : List Nat) : Option Nat :=
  let st (b : Nat) : BankSt := if busy.contains b then .loading else
    match mfind s.banks (core * 2 + b) with | some k => k.st | none => .empty
  let t := match mfind s.curBank core with
    | some 0 => 1
    | some _ => 0
    | none => if st 0 = .loading then 1 else 0
  let bound := s.groups.any (fun x => x.1 / 64 == core && x.1 != gkey core slot && x.2.tab == some t)
  if st t = .loading ∨ bound then none else some t

/-- The bank that one `tload` would take. -/
def State.bankFree (s : State) (core slot : Nat) : Option Nat := s.bankFor core slot []

/-- A request for granules is that of a part: of its header and of a lane of it (R276). -/
def GrowReq.isOf (q : GrowReq) (core slot : Nat) (pc : Addr) (m : Mask) : Bool :=
  q.core == core && q.slot == slot && q.pc == pc && q.mask &&& m != 0

/-- What a rolled-back run of a part waits for has come about. -/
def State.waitOver (s : State) (core slot : Nat) (g : Group) (p : Part) : Bool :=
  match p.wait with
  | .nothing => true
  | .frame n k => !g.pendFrm.any (fun p => decide (n ≤ p.reg) && decide (p.reg < n + k))
  | .copy lo hi => !s.chains.any (fun c => c.range.any (fun x => x.1 == core && decide (x.2.1 < hi) && decide (lo < x.2.1 + x.2.2)))
  | .grow => s.growq.any (fun q => q.isOf core slot p.pc p.mask) &&
      s.growq.all (fun q => q.granted || !q.isOf core slot p.pc p.mask)
  | .score => decide ((s.chains.filter (fun x => x.core == core)).length < 8)
  | .port => decide ((s.armings.filter (fun a => a.core == core)).length < 4)
  | .bank => (s.bankFree core slot).isSome
  | .counters _ _ _ _ | .drain => true

/-- The group waits at a barrier whose phase has not advanced (R169, R170). -/
def State.barHeld (s : State) (core : Nat) (g : Group) : Bool :=
  g.bwait.any (fun x => match s.wgroup core g.wslot with
    | none => false
    | some w => match mfind w.bars x.1 with
      | some b => decide (b.pn = x.2) && decide (0 < b.en)
      | none => false)

/-- The group stands still: it is being saved, or firmware holds it (R86, R282, R378). -/
def Group.frozen (g : Group) : Bool := g.preempt || g.saved.isSome || g.esc.isSome

/-- A load of a table on a group's behalf (R190). -/
def Op.behalf (o : Op) (core slot : Nat) : Bool :=
  o.core == core && o.slot == slot && o.ctr.isNone && (match o.kind with | .tload _ => true | _ => false)

/-- The group awaits the table it was bound to when it was saved (R190); its handler runs meanwhile (log 78). -/
def Group.awaitsTable (g : Group) : Bool := !g.sup && g.tabAddr.isSome

/-- A split of a group is ready: its run is eligible (R76) and may be issued, but for a stop for the debugger, in which the
timers go on (R402). -/
def State.ready (s : State) (core slot : Nat) (g : Group) (n : Nat) (p : Part) : Bool :=
  match p.image with
  | none => false
  | some m =>
    p.held.isNone && g.limitsOk m.limLd m.limSt m.limCp m.limTl
      && decide (g.ld.toNat ≤ 231) && decide (g.st.toNat ≤ 231) && decide (g.cp.toNat ≤ 231) && decide (g.tl.toNat ≤ 231)
      && !g.pendingTop p m.dmin && g.prepared n p m && s.waitOver core slot g p
      && !g.ended && !g.frozen && !g.awaitsTable && !s.barHeld core g

/-- An FRQ record of the group that a part's header awaits: it holds an operation of a pending entry, of a counter limit, or of
what a rolled-back run of the part waits for (R216, R369), or the table it is to be bound to (R190). -/
def State.awaits (s : State) (core slot : Nat) (g : Group) (p : Part) (r : Rec) : Bool :=
  match p.image with
  | none => false
  | some m =>
    let holds (id : Nat) : Bool := s.holdsOp core slot g r id
    let past (ld st cp tl : Nat) (c : Ctr) : Bool := match c with
      | .ld => s.outOfReach core slot c ld 15
      | .st => s.outOfReach core slot c st 15
      | .cp => s.outOfReach core slot c cp 7
      | .tl => s.outOfReach core slot c tl 7
    g.pendEnt.any (fun e => holds e.op && decide (p.depth - m.dmin ≤ e.idx) && decide (e.idx < p.depth) && e.mask &&& p.mask != 0)
      || s.ops.any (fun x => holds x.1 && x.2.ctr.any (past m.limLd m.limSt m.limCp m.limTl))
      || (g.awaitsTable && s.ops.any (fun x => holds x.1 && x.2.behalf core slot))
      || (match p.wait with
          | .frame n k => g.pendFrm.any (fun f => holds f.op && decide (n ≤ f.reg) && decide (f.reg < n + k))
          | .counters ld st cp tl => s.ops.any (fun x => holds x.1 && x.2.ctr.any (past ld st cp tl))
          | .drain => g.sq.any (fun e => s.recBefore core g r e.op e.lane e.va e.size)
          | _ => false)

/-- A record of the group that has not been delivered. -/
def Rec.dueTo (r : Rec) (core slot : Nat) (p : Rec → Bool) : Bool :=
  r.core == core && r.slot == slot && !r.delivered && !r.pinned && r.unf != 0 && p r

/-- Position of the oldest record that satisfies a condition; records stand in creation order (R364). -/
def State.oldestRec (s : State) (core slot : Nat) (p : Rec → Bool) : Option Nat :=
  s.recs.findIdx? (fun r => r.dueTo core slot p)

/-- Something of item 6 of R364 is due at a part's header. -/
def State.headerDue (s : State) (core slot : Nat) (g : Group) (p : Part) : Bool :=
  p.fault.isSome || (p.held.isNone && (g.prepFault p).isSome) ||
    (p.held.isNone && (s.oldestRec core slot (fun r => isFrq r && s.awaits core slot g p r)).isSome)

/-- The part that R61 would choose next among those that can go on or have something due; failing that, the first of
all (R364). -/
def State.nextPart (s : State) (core slot : Nat) (g : Group) : Option (Nat × Part) :=
  match pickBy splitBefore (g.slots.filter (fun x => x.2.readyAt.isSome || s.headerDue core slot g x.2)) with
  | some x => some x
  | none => pickBy splitBefore g.slots

/-- The record that R364 delivers at the group's next boundary: a store record, one of a copy or the sequencer, or one that
the next part's header awaits. -/
def State.dueRec (s : State) (core slot : Nat) (g : Group) : Option Nat :=
  if g.sup || g.dbg != .running || g.frozen then none else
  match s.oldestRec core slot (fun r => r.store) with
  | some i => some i
  | none => match s.oldestRec core slot (fun r => r.kind == 3 || r.kind == 4) with
    | some i => some i
    | none => if !g.skew.isEmpty then none else match s.nextPart core slot g with
      | none => none
      | some (_, p) =>
        if p.fault.isSome || p.held.isSome || (g.prepFault p).isSome then none
        else s.oldestRec core slot (fun r => isFrq r && s.awaits core slot g p r)

/-- The delivery of a spilled record waits for an entry of its queue that is not pinned, and the group is not eligible
(R366). -/
def State.deliveryWaits (s : State) (core slot : Nat) (g : Group) : Bool :=
  s.recs.any (fun r => r.core == core && r.slot == slot && r.hw.isNone) &&
    (match s.dueRec core slot g with
      | none => false
      | some i => match s.recs[i]? with
        | none => false
        | some r => r.hw.isNone && !s.recs.any (fun x => x.core == r.core && x.guest == r.guest && x.store == r.store
            && x.hw.isSome && !x.pinned))

/-- A split that has become ready, stays so, or is not (R61). -/
def State.touchSplit (s : State) (core slot : Nat) (g : Group) (n : Nat) (p : Part) : Part :=
  if s.ready core slot g n p then { p with readyAt := some (p.readyAt.getD s.cc) }
  else { p with readyAt := none, passed := 0, due := false }

/-- The group stands in E apart from its splits' readiness (R360). -/
def State.inEnow (s : State) (key : Nat) (g : Group) : Bool :=
  g.run.isNone && g.yieldAt.isNone && g.sleepAt.isNone && !(s.ctx g.guest).throttled
    && g.splits.any (fun o => match o with | some p => p.readyAt.isSome | none => false)
    && !s.deliveryWaits (key / 64) (key % 64) g

/-- The upkeep of one group: ready times of its splits, and the cc at which it entered E. A group that yielded enters E as
its hold ends, and waits from then (R166, R360; log 65). -/
def State.touchGroup (s : State) (key : Nat) (g : Group) : Group :=
  let splits := (List.range 4).map (fun n => (g.splits.getD n none).map
    (fun p => if g.running n then p else s.touchSplit (key / 64) (key % 64) g n p))
  let g1 := { g with splits := splits }
  { g1 with inE := if s.inEnow key g1 then some (g.inE.getD s.cc) else none,
            starved := s.inEnow key g1 && g.starved }

/-- The header of a group's observed part waits on copies in flight: its cp limit is unmet (R390 code 16). -/
def Group.waitsCopy (g : Group) : Bool :=
  g.run.isNone && (match g.observed with
    | some (_, p) => (match p.image with | some m => !limitOk g.cp m.limCp 7 | none => false)
    | none => false)

/-- A run of the holder of the critical token waits on a copy in flight: the token passes to the producer (R391). -/
def State.tokenStep (s : State) (key : Nat) (w : WGroup) : WGroup :=
  match (mfind w.groups w.token).bind (fun slot => s.group (key / 16) slot) with
  | some g => if g.waitsCopy then { w with token := w.prod } else w
  | none => w

/-- The upkeep of every group, made when anything has happened that may bear on it; a trace ring whose channel has become
inactive has no previous packet (R393). -/
def State.refresh (s : State) : State :=
  { s with groups := s.groups.map (fun x => (x.1, s.touchGroup x.1 x.2))
           wgroups := s.wgroups.map (fun x => (x.1, s.tokenStep x.1 x.2))
           lastTrace := s.lastTrace.filter (fun x => (s.traceRing (x.1 / 1024) (x.1 % 1024)).isSome) }

/-- An event of the machine: its effect, then the upkeep. -/
def State.event (s : State) (f : State → State) : Host.Outcome State Fault Refusal := .next (f s).refresh

end Sys2Proof.Machine
end

