-- ==== Sys2Proof/Machine/Area.lean ====
section
/-! DEFINITION. The context save area in memory: the images of records and of group save blocks, the slots of the record
area, and the places of save blocks (R59, R366, R367, R379 to R381; log 26). -/

namespace Sys2Proof.Machine

/-! ## Images -/

/-- The cells of consecutive bytes from an offset up. -/
def cellsAt : Nat → List Byte → List Host.Cell
  | _, [] => []
  | off, b :: bs => (off, b) :: cellsAt (off + 1) bs

/-- `n` bytes of memory from `a` up become an image: the cells listed by their offsets, 0 elsewhere. -/
def putImage (m : Memory) (a n : Nat) (cells : List Host.Cell) : Memory :=
  cells.foldl (fun m c => if c.1 < n then wrByte m (a + c.1) c.2 else m) (zeroBytes m a n)

/-- Bytes rounded up to whole lines of 128. -/
def lineUp (n : Nat) : Nat := (n + 127) / 128 * 128

/-- Lane values as 128 bytes. -/
def laneBytes (v : Lanes) : List Byte := (List.range 32).flatMap (fun l => leBytes 4 (laneAt v l).toNat)

/-- The HW field of a record that is not pinned (R367). -/
def noHw : Nat := 0xFFFF

/-- The 832 bytes of a record (R367). -/
def Rec.image (r : Rec) (hw : Nat) : List Host.Cell :=
  cellsAt 0 (leBytes 8 r.pc.toNat ++ leBytes 4 r.unf.toNat ++ leBytes 4 r.rslv.toNat
    ++ [r.cause.setWidth 8, r.kind, r.size, 0] ++ leBytes 4 r.dest.toNat ++ leBytes 8 r.owner.toNat
    ++ leBytes 2 r.gen.toNat ++ leBytes 2 r.seqno.toNat ++ leBytes 2 hw)
  ++ (lanesOf r.unf).flatMap (fun l => cellsAt (64 + 8 * l) (leBytes 8 (mget r.addr l 0).toNat))
  ++ (lanesOf (if r.store then r.unf else r.rslv)).flatMap (fun l => cellsAt (320 + 16 * l) (leBytes 16 (mget r.data l 0).toNat))

/-! ## The record area (R366, R379) -/

/-- The address of a slot of a context's record area. -/
def State.slotAddr (s : State) (guest k : Nat) : Nat := (s.ctx guest).saveBase.toNat + 0x2000 + 832 * k

/-- NSLOT (R379). -/
def State.slots (s : State) (guest : Nat) : Nat := rdLE s.mem ((s.ctx guest).saveBase.toNat + 24) 4

/-- The slots that records, and operations in flight of saved groups, stand in. -/
def State.slotsTaken (s : State) (guest : Nat) : List Nat :=
  s.recs.filterMap (fun r => if r.guest = guest then r.area else none)
    ++ s.ops.filterMap (fun x => if x.2.guest = guest then x.2.area else none)

/-- A slot of the record area is free (R366). -/
def State.recordRoom (s : State) (guest : Nat) : Bool := decide ((s.slotsTaken guest).length < s.slots guest)

/-- The lowest slot that nothing stands in. -/
def State.freeSlot (s : State) (guest : Nat) : Nat :=
  let taken := s.slotsTaken guest
  ((List.range (taken.length + 1)).find? (fun k => !taken.contains k)).getD taken.length

/-- An image written to a slot, where the record area has that slot. -/
def State.writeSlot (s : State) (guest k : Nat) (cells : List Host.Cell) : State :=
  if k < s.slots guest then { s with mem := putImage s.mem (s.slotAddr guest k) 832 cells } else s

/-- A record by its position stands in the record area, in the lowest free slot (R366, R382). -/
def State.spillRec (s : State) (i hw : Nat) : State :=
  match s.recs[i]? with
  | none => s
  | some r =>
    let k := s.freeSlot r.guest
    { s with recs := s.recs.set i { r with hw := none, area := some k } }.writeSlot r.guest k (r.image hw)

/-- Replies written into a slot: RSLV, and DATA of lanes (R383). -/
def State.patchSlot (s : State) (guest k : Nat) (rslv : Mask) (data : List (Nat × Nat)) : State :=
  if k < s.slots guest then
    let a := s.slotAddr guest k
    { s with mem := data.foldl (fun m x => wrLE m (a + 320 + 16 * x.1) 16 x.2) (wrLE s.mem (a + 12) 4 rslv.toNat) }
  else s

/-- A spilled record's image written afresh, after a change of the record. -/
def State.rewriteRec (s : State) (i : Nat) : State :=
  match s.recs[i]? with
  | some r => match r.area with
    | some k => s.writeSlot r.guest k (r.image noHw)
    | none => s
  | none => s

/-! ## Hardware entries (R366) -/

/-- A free hardware index of a queue of a core and context (R366). -/
def State.freeHw (s : State) (core guest : Nat) (store : Bool) : Option Nat :=
  (List.range (if store then 16 else 32)).find? (fun k =>
    !s.recs.any (fun r => r.core == core && r.guest == guest && r.store == store && r.hw == some k))

/-- The oldest spilled record of a queue moves into a free hardware entry (R366). -/
def State.refillRecs (s : State) (core guest : Nat) (store : Bool) : State :=
  match s.freeHw core guest store, s.recs.findIdx? (fun r => r.core == core && r.guest == guest && r.store == store && r.hw.isNone) with
  | some k, some i => { s with recs := s.recs.modify i (fun r => { r with hw := some k, area := none }) }
  | _, _ => s

/-- Records that satisfy a condition are discarded, and the queues refilled (R366). -/
def State.dropRecs (s : State) (p : Rec → Bool) : State :=
  let gone := s.recs.filter p
  gone.foldl (fun s r => s.refillRecs r.core r.guest r.store) { s with recs := s.recs.filter (fun r => !p r) }

/-! ## Group save blocks (R380, R381) -/

/-- Live bits of the safe record's entry (R40). -/
def SafeRec.frameLive (r : SafeRec) (n : Nat) : Bool := (r.bytes.getD (n / 8) 0).getLsbD (n % 8)
def SafeRec.uniLive (r : SafeRec) (n : Nat) : Bool := (r.bytes.getD (32 + n / 8) 0).getLsbD (n % 8)
def SafeRec.prdLive (r : SafeRec) (n : Nat) : Bool := (r.bytes.getD (40 + n / 8) 0).getLsbD (n % 8)

/-- The 16 bytes of a part (R59). -/
def Part.bytes16 (p : Part) : List Byte :=
  leBytes 8 p.pc.toNat ++ leBytes 4 p.mask.toNat ++ leBytes 4 (p.res % 16 + 16 * p.depth)

/-- CNTS (R267). -/
def Group.cnts (g : Group) : Nat := g.ld.toNat + g.st.toNat * 2 ^ 8 + g.cp.toNat * 2 ^ 16 + g.tl.toNat * 2 ^ 24

/-- The header's fields that both kinds of block hold (R380). -/
def Group.headBoth (g : Group) (whole : Bool) : List Byte :=
  [if whole then 2 else 1, BitVec.ofNat 8 (g.sup.toNat + 2 * g.step.toNat + 4 * g.nofb.toNat), BitVec.ofNat 8 g.fgran,
    (if whole then g.segw else g.safe.segw).setWidth 8]
  ++ leBytes 4 g.live.toNat ++ leBytes 8 g.wid.toNat ++ leBytes 8 g.pb.toNat ++ leBytes 8 (g.tabAddr.getD 0).toNat
  ++ leBytes 8 (if whole then g.dkey else g.safe.dkey).toNat ++ leBytes 8 (if whole then g.drctr else g.safe.drctr).toNat
  ++ leBytes 4 (if whole then g.dcoin else g.safe.dcoin).toNat ++ leBytes 4 g.aflags.toNat
  ++ leBytes 2 (g.safe.entry.getD 0xFFFF) ++ leBytes 2 g.runs

/-- The header's fields of a whole block (R380). -/
def Group.headWhole (g : Group) : List Host.Cell :=
  cellsAt 64 (leBytes 4 g.cnts ++ leBytes 4 g.xcause.toNat ++ leBytes 4 g.xmask.toNat ++ leBytes 4 g.floor
    ++ leBytes 8 g.xpc.toNat)
  ++ (List.range 4).flatMap (fun k => match g.splits.getD k none with
    | some p => cellsAt (88 + 16 * k) p.bytes16
    | none => [])
  ++ (List.range 8).flatMap (fun k => match g.pend[k]? with
    | some p => cellsAt (152 + 16 * k) p.bytes16
    | none => [])

/-- The frame pending bits (R75, R381). -/
def Group.pendingBits (g : Group) : List Byte :=
  (List.range 32).map (fun k => BitVec.ofNat 8 ((List.range 8).foldl (fun n j =>
    if g.pendFrm.any (fun p => p.reg == 8 * k + j) then n + 2 ^ j else n) 0))

/-- The body of a whole block, after f0 to f(8g - 1) (R381). -/
def Group.bodyWhole (g : Group) : List Host.Cell :=
  let at_ := 512 + 1024 * g.fgran
  g.frame.flatMap (fun x => if x.1 < 8 * g.fgran then cellsAt (512 + 128 * x.1) (laneBytes x.2) else [])
  ++ cellsAt at_ g.pendingBits
  ++ g.uni.flatMap (fun x => cellsAt (at_ + 128 + 4 * x.1) (leBytes 4 x.2.toNat))
  ++ g.prd.flatMap (fun x => cellsAt (at_ + 384 + 4 * x.1) (leBytes 4 x.2.toNat))
  ++ g.win.flatMap (fun x => cellsAt (at_ + 512 + 128 * x.1) (laneBytes x.2))
  ++ g.xaddr.flatMap (fun x => cellsAt (at_ + 1536 + 8 * x.1) (leBytes 8 x.2.toNat))

/-- The body of a flashback block: the live frame, uniform and predicate registers in ascending order (R381). -/
def Group.bodyFlash (g : Group) : List Host.Cell :=
  let fs := (List.range 256).filter g.safe.frameLive
  let us := (List.range 64).filter g.safe.uniLive
  let ps := (List.range 16).filter g.safe.prdLive
  let u := 512 + 128 * fs.length
  let p := u + lineUp (4 * us.length)
  cellsAt 512 (fs.flatMap (fun n => laneBytes (mget g.frame n [])))
  ++ cellsAt u (us.flatMap (fun n => leBytes 4 (mget g.uni n 0).toNat))
  ++ cellsAt p (ps.flatMap (fun n => leBytes 4 (mget g.prd n 0).toNat))

/-- The bytes of a group save block (R380, R381). -/
def Group.image (g : Group) (whole : Bool) : List Host.Cell :=
  cellsAt 0 (g.headBoth whole) ++ (if whole then g.headWhole ++ g.bodyWhole else g.bodyFlash)

/-- The length of a group save block (R380, R381). -/
def Group.blockLen (g : Group) (whole : Bool) : Nat :=
  if whole then 512 + 1024 * g.fgran + 1792
  else 512 + 128 * ((List.range 256).filter g.safe.frameLive).length
    + lineUp (4 * ((List.range 64).filter g.safe.uniLive).length) + lineUp (4 * ((List.range 16).filter g.safe.prdLive).length)

/-! ## The place of a save block (R379) -/

/-- The save blocks that stand in memory: those of saved workgroups and of escalated groups. -/
def State.blocks (s : State) : List (Nat × Nat) :=
  s.units.flatMap (fun x => x.2.saved.filterMap (·.block))
    ++ s.groups.filterMap (fun x => match x.2.esc with
      | some e => if e.len = 0 then none else some (e.addr.toNat, e.len)
      | none => none)

/-- A block of `n` bytes may stand at `a`: beyond the record area, within the save area, apart from every other. -/
def State.blockFits (s : State) (guest a n : Nat) : Bool :=
  let x := s.ctx guest
  a % 128 == 0 && decide (s.slotAddr guest (s.slots guest) ≤ a) && decide (a + n ≤ x.saveBase.toNat + x.saveSize.toNat)
    && s.blocks.all (fun b => decide (b.1 + b.2 ≤ a) || decide (a + n ≤ b.1))

/-- Where a block of `n` bytes may stand, if anywhere: the place that a number names where it fits, else the first one that
fits after the record area or after another block. -/
def State.blockPlace (s : State) (guest n k : Nat) : Option Nat :=
  let x := s.ctx guest
  let lo := lineUp (s.slotAddr guest (s.slots guest))
  let hi := x.saveBase.toNat + x.saveSize.toNat
  if hi < lo + n then none else
  ((lo + 128 * (k % ((hi - n - lo) / 128 + 1))) :: lo :: s.blocks.map (fun b => lineUp (b.1 + b.2))).find?
    (fun a => s.blockFits guest a n)

end Sys2Proof.Machine
end

