-- ==== Sys2Proof/Machine/Saved.lean ====
section
/-! DEFINITION. Operations and records of a group that is saved whole: how they leave its slot for the record area, and how
they come back (R366, R367, R382 to R384). -/

namespace Sys2Proof.Machine

/-- The key that stands in a span for a workgroup that has gone. -/
def deadKey : Nat := 2 ^ 30

/-- The bank number of a `tload` that holds no bank. -/
def noBank : Nat := 2

/-! ## Records of operations (R367, R382) -/

/-- The SIZE byte of a record (R367); of a size that is no S of R211 the three bits are a choice (log 63). -/
def sizeByte (size : Nat) (sgn : Bool) : BitVec 8 := BitVec.ofNat 8 (Nat.log2 size % 8 + (if sgn then 8 else 0))

/-- The KIND and DEST of a load-class record (R367). -/
def destKind : Dest → BitVec 8 × Word
  | .stack i _ => (0, BitVec.ofNat 32 i)
  | .frame i _ => (1, BitVec.ofNat 32 i)
  | .none => (5, 0)

/-- The lanes of an operation that records hold. -/
def State.recorded (s : State) (id : Nat) : Mask := (s.recs.filter (fun r => r.isFor id)).foldl (fun m r => m ||| r.unf) 0

/-- The lanes of an operation that are still owed a reply. -/
def Op.owedLanes (o : Op) : Mask :=
  let status : Bool := (match o.kind with | .enq | .enqw | .lsend => true | _ => false) && o.status.isNone
  maskOf (fun l => (status && laneOn o.mask l) || o.lanes.any (fun x => x.req.lane == l && x.st != .done))

/-- The record of an operation in flight, of its owed lanes that no record holds (R382). -/
def Op.flight (o : Op) (owner : DWord) (seqno : Nat) (held : Mask) : Rec :=
  { core := o.core, guest := o.guest, slot := o.slot, pc := o.pc, unf := o.owedLanes &&& ~~~held, rslv := 0, cause := 0
    kind := (destKind o.dest).1, size := sizeByte o.size (o.ext == .sign), dest := (destKind o.dest).2, owner := owner
    gen := o.gen, seqno := BitVec.ofNat 16 seqno, hw := none, pinned := false, delivered := false, store := false
    addr := o.lanes.map (fun x => (x.req.lane, x.req.va)), data := [], op := o.id }

/-- An operation in flight is recorded in the record area, without lanes that have exited (R368, R382). -/
def State.spillOp (s : State) (core id : Nat) (owner : DWord) (live : Mask) : State :=
  match mfind s.ops id with
  | none => s
  | some o =>
    let k := s.freeSlot o.guest
    let n := mget s.seqnos core 0
    { s with ops := mset s.ops id { o with area := some k }, seqnos := mset s.seqnos core (n + 1) }.writeSlot o.guest k
      ((o.flight owner n (s.recorded id ||| ~~~live)).image noHw)

/-! ## Leaving a slot (R382) -/

/-- An operation, a record or an arming is the group's. -/
def Op.isOf (o : Op) (core slot : Nat) : Bool := o.core == core && o.slot == slot
def Rec.isOf (r : Rec) (core slot : Nat) : Bool := r.core == core && r.slot == slot

/-- An operation leaves its core for a saved group's number (R382); one whose result is discarded counts no more, and a
lane of it that has not gone out does not. -/
def Op.takeAway (o : Op) (ghost : Nat) : Op :=
  let o := { o with core := ghost, slot := 0, saved := !o.dropped, ctr := if o.dropped then none else o.ctr
                    kind := match o.kind with | .tload _ => .tload noBank | k => k }
  if o.dropped then { o with lanes := o.lanes.map (fun x => if x.st = .todo then { x with st := .done } else x) } else o

/-- A discarded operation that owes nothing more. -/
def Op.spent (o : Op) : Bool :=
  o.dropped && o.lanes.all (fun x => x.st == .done) && (match o.kind with
    | .load | .prf | .stw | .atomic | .ringput | .tload _ | .watch _ => true
    | _ => false)

/-- A record leaves its hardware entry for the record area (R382). -/
def Rec.takeAway (r : Rec) (ghost : Nat) : Rec :=
  { r with core := ghost, slot := 0, hw := none }

/-- A reserve credit held by a group follows it (R357). -/
def Quota.moved (q : Quota) (core slot core' slot' : Nat) : Quota :=
  match q with
  | .credit c k => if c = core ∧ k = slot then .credit core' slot' else q
  | _ => q

/-- The hardware index that a saved group's XCAUSE pins (R382, R384). -/
def Group.pinIdx (g : Group) : Nat := nbits g.xcause.toNat 20 16

/-- A saved group's records and its operations in flight that count on ld stand in the record area (R382). -/
def State.recordAll (s : State) (core ghost : Nat) (g : Group) : State :=
  let fresh (r : Rec) : Bool := r.core == ghost && r.area.isNone
  let s := (List.range s.recs.length).foldl (fun (s : State) i => match s.recs[i]? with
    | some r => if fresh r then s.spillRec i (if r.pinned then g.pinIdx else noHw) else s
    | none => s) s
  let flying (x : Nat × Op) : Bool := x.2.core == ghost && x.2.saved && x.2.ctr == some .ld && x.2.area.isNone
    && (s.recorded x.1 == 0 || x.2.owedLanes &&& ~~~s.recorded x.1 != 0)
  (s.ops.filter flying).foldl (fun (s : State) x => s.spillOp core x.1 g.wid g.live) s

/-- The bank that a load was filling is empty again; a saved group's own `tload` gives its bank up so (R190; log 78). -/
def State.dropBanks (s : State) (mine : Op → Bool) : State :=
  let hit (b : Bank) : Bool := (match mfind s.ops b.op with | some o => mine o | none => false) && b.st == .loading
  { s with banks := s.banks.map (fun (x : Nat × Bank) => (x.1, if hit x.2 then { x.2 with st := .empty } else x.2)) }

/-- Operations of a group, and all its records, leave its slot for a number (R382). -/
def State.detach (s : State) (core slot ghost : Nat) (g : Group) (mine : Op → Bool) : State :=
  let move (x : Nat × Op) : Nat × Op := if mine x.2 then (x.1, x.2.takeAway ghost) else x
  let gone := s.recs.filter (fun r => r.isOf core slot)
  let s := s.dropBanks mine
  let s : State := { s with
    ops := (s.ops.map move).filter (fun x => !(x.2.core == ghost && x.2.spent))
    recs := s.recs.map (fun r => if r.isOf core slot then r.takeAway ghost else r) }
  gone.foldl (fun s r => s.refillRecs r.core r.guest r.store) (s.recordAll core ghost g)

/-- An operation counted on ld whose result the group awaits. -/
def Op.awaited (o : Op) (core slot : Nat) : Bool := o.isOf core slot && o.ctr == some .ld && !o.dropped

/-- A group's operations, records and credits leave the core under a number; a prefetch is not kept. -/
def State.detachGroup (s : State) (core slot ghost : Nat) (g : Group) : State :=
  let s : State := { s with
    ops := s.ops.filter (fun x => !(x.2.isOf core slot && x.2.kind == .prf))
    launches := s.launches.map (fun (x : Nat × Launch) =>
      (x.1, { x.2 with quota := x.2.quota.moved core slot ghost 0 })) }
  let s := s.detach core slot ghost g (fun o => o.isOf core slot)
  { s with recs := s.recs.map (fun r => if r.core = ghost ∧ r.kind = 4 then { r with op := deadKey + ghost } else r) }

/-- A saved group's number: no core has it. -/
def ghostOf (id : Nat) : Nat := 4096 + id

/-! ## Coming back (R384) -/

/-- One record back on a core (R384 step 5): a pinned one in its entry, from which any other moves, and the rest in free
entries in SEQNO order. -/
def State.returnRec (s : State) (i core slot wk idx : Nat) : State :=
  match s.recs[i]? with
  | none => s
  | some r =>
    let r' := { r with core := core, slot := slot, op := if r.kind = 4 then wk else r.op }
    if r.pinned then
      let there (q : Rec) : Bool := q.core == core && q.guest == r.guest && q.store == r.store && q.hw == some idx
      let s' := { s with recs := s.recs.set i { r' with hw := some idx, area := none } }
      let s' := match s.recs.findIdx? there with
        | some j => s'.spillRec j noHw
        | none => s'
      s'.refillRecs core r.guest r.store
    else match s.freeHw core r.guest r.store with
      | some k => { s with recs := s.recs.set i { r' with hw := some k, area := none } }
      | none => { s with recs := s.recs.set i { r' with hw := none } }

/-- Operations and credits of a saved group are a slot's again. -/
def State.attachOps (s : State) (ghost core slot : Nat) (which : Op → Bool) : State :=
  let move (y : Nat × Op) : Nat × Op :=
    if y.2.core = ghost ∧ which y.2 then (y.1, { y.2 with core := core, slot := slot, saved := false, area := none }) else y
  { s with ops := s.ops.map move
           launches := s.launches.map (fun (y : Nat × Launch) => (y.1, { y.2 with quota := y.2.quota.moved ghost 0 core slot })) }

/-- The operations, records and credits of a saved group are the new slot's (R384 step 5). -/
def State.attachGroup (s : State) (ghost idx core slot wk : Nat) : State :=
  let idxs := (List.range s.recs.length).filter (fun i => match s.recs[i]? with | some r => r.core == ghost | none => false)
  idxs.foldl (fun (s : State) i => s.returnRec i core slot wk idx) (s.attachOps ghost core slot (fun _ => true))

/-- A pinned record under a number can return to its index on a core. -/
def State.pinFree (s : State) (core ghost idx : Nat) : Bool :=
  s.recs.all (fun r => !(r.core == ghost && r.pinned) ||
    s.recs.all (fun q => !(q.core == core && q.guest == r.guest && q.store == r.store && q.pinned && q.hw == some idx)))

/-- What an escalated group has saved comes back to its slot as it is. -/
def State.unsave (s : State) (ghost core slot : Nat) : State :=
  { s.attachOps ghost core slot (fun _ => true) with
           recs := s.recs.map (fun r => if r.core = ghost then { r with core := core, slot := slot } else r) }

end Sys2Proof.Machine
end

