-- ==== Sys2Proof/Machine/Ops.lean ====
section
/-! DEFINITION. The run in progress, results of an instruction, and the shared operations: ending a group, error
entries, taking an exception and returning from one (R77 to R92, R127, R165, R170, R276 to R282, R363, R377). -/

namespace Sys2Proof.Machine

/-! ## The run in progress -/

/-- The group in focus with its run in progress. -/
structure Cur where
  core : Nat
  slot : Nat
  g : Group
  r : Run
  deriving DecidableEq, Repr

/-- The run the next instruction belongs to. -/
def State.cur (s : State) : Option Cur :=
  match s.focus with
  | none => none
  | some (core, slot) =>
    match s.group core slot with
    | none => none
    | some g => match g.run with
      | none => none
      | some r => some ⟨core, slot, g, r⟩

/-- What executing one instruction of a run comes to. -/
inductive Res
  /-- Done: the state, the run, and the latency L of R140. -/
  | ok (s : State) (r : Run) (lat : Nat)
  /-- A precise fault: cause, lanes and their XADDR (R81, R365). -/
  | fault (s : State) (c : Cause) (m : Mask) (xa : AMap DWord)
  /-- The run rolls back to its header and waits (R80, R81). -/
  | wait (s : State) (w : WaitOn)
  /-- The run holds at the instruction. -/
  | hold (s : State)

/-- The run after its current instruction: the next halfwords and the ready time (R140). -/
def Run.advance (r : Run) (lat : Nat) : Run :=
  { r with holding := false, code := r.code.drop r.ilen, pc := r.pc + BitVec.ofNat 64 (2 * r.ilen), ready := max r.ready (r.start + lat) }

/-- The group of a run's slot with the run replaced. -/
def State.putRun (s : State) (c : Cur) (r : Run) : State :=
  s.modGroup c.core c.slot (fun g => { g with run := some r })

/-- The group with a split slot changed. -/
def Group.modSplit (g : Group) (n : Nat) (f : Part → Part) : Group :=
  { g with splits := lset g.splits n ((g.splits.getD n none).map f) }

/-- The other splits that were ready while a run of the group was in progress have been passed over for each of its cc,
the last one included (R61). -/
def Group.passOver (g : Group) (now : Nat) : Group :=
  match g.run with
  | none => g
  | some r => { g with splits := (List.range 4).map (fun n => (g.splits.getD n none).map (fun p =>
      match p.readyAt with
      | some t => if n = r.split then p else { p with passed := p.passed + (now + 1 - max t r.chosen), readyAt := some now }
      | none => p)) }

/-- Step mode as last asked for (R401). -/
def Group.stepNow (g : Group) : Group := { g with step := g.stepAsk.getD g.step, stepAsk := none }

/-- A run of a group slot has ended in this cc (R61, R69), and a command on step mode takes effect (R401); what the run has read
on another package is not kept. -/
def State.trailed (s : State) (core slot : Nat) : State :=
  ({ s with trailAt := mset s.trailAt (gkey core slot) s.cc }.modGroup core slot Group.stepNow).farDone (.group (gkey core slot))

/-- SLOT packets of the slots that pending entries took (R394). -/
def State.traceSlots (s : State) (core slot : Nat) (ns : List Nat) : State :=
  ns.foldl (fun s n => match s.group core slot with
    | some g => match g.splits.getD n none with
      | some p => s.trace g.guest core slot n 6 (leBytes 8 p.pc.toNat ++ leBytes 4 p.mask.toNat)
      | none => s
    | none => s) s

/-- The overflow entries of the pending list stand in the plinth control area in creation order, 16 bytes each from its
start (R59, R67; log 7). A line that does not translate is left. -/
def State.keepOvf (s : State) (core slot : Nat) : State :=
  match s.group core slot with
  | none => s
  | some g => (g.ovf.zipIdx).foldl (fun (s : State) x =>
      let line := g.pb + BitVec.ofNat 64 (128 * (x.2 / 8))
      match s.privFill core g.guest line .write with
      | .ok s => s.privStore core g.guest line (16 * (x.2 % 8)) x.1.bytes16
      | .error _ => s) s

/-- At a run boundary in user mode the pending entries take the free slots, with their SLOT packets (R60); what stands lowest
as it comes is released at a JOIN (R62). -/
def State.fillAt (s : State) (core slot : Nat) : State :=
  match s.group core slot with
  | none => s
  | some g =>
    if g.sup then s else
    let f := Group.fillSlots 4 s.cc (g.refill s.cc)
    ((s.setGroup core slot f.1.markClear).traceSlots core slot f.2).keepOvf core slot

/-- Rollback (R81): the run is discarded and its split stands at its header, waiting as said; the group stands at a run
boundary. -/
def State.rollback (s : State) (core slot split : Nat) (w : WaitOn) : State :=
  ((s.trailed core slot).modGroup core slot (fun g =>
    { (g.passOver s.cc).modSplit split (fun p => { p with wait := w, readyAt := none }) with run := none })).fillAt core slot

/-! ## The error record -/

/-- An error entry of the context (R377): CTXERR is set; the entry is written, or counted as lost. -/
def State.errorEntry (s : State) (guest : Nat) (addr : Addr) (owner : DWord) (cause : Cause) (source core : Nat) : State :=
  let c := s.ctx guest
  let base := c.saveBase.toNat
  let errw := rdLE s.mem base 8
  let clr := rdLE s.mem (base + 8) 8
  let now := c.errCc == some s.cc
  let s := s.setCtx guest { c with ctxerr := true, errCc := some s.cc, errNew := if now then c.errNew else 0
                                   cntNew := if now then c.cntNew else 0 }
  if (errw + 2 ^ 64 - clr) % 2 ^ 64 ≥ 128 then
    { s with mem := wrLE s.mem (base + 16) 8 (rdLE s.mem (base + 16) 8 + 1) }
  else
    let at_ := base + 0x1000 + 32 * (errw % 128)
    let bytes := leBytes 8 addr.toNat ++ leBytes 8 owner.toNat ++ leBytes 6 s.dtime.toNat
      ++ [cause.setWidth 8, BitVec.ofNat 8 source] ++ leBytes 2 core ++ leBytes 6 0
    { s with mem := wrLE (wrBytes s.mem at_ bytes) base 8 (errw + 1) }.modCtx guest (fun x => { x with errNew := x.errNew + 1 })

/-- A group of a launch has set CTXERR (R289). -/
def State.launchErr (s : State) (launch : Nat) : State :=
  { s with launches := mmod s.launches launch (fun l => { l with err := true }) }

/-- The group in a slot, where there is one, has set CTXERR (R289). -/
def State.groupErr (s : State) (core slot : Nat) : State :=
  match s.group core slot with
  | some g => s.launchErr g.launch
  | none => s

/-- ERRCNT rises (R270), at the error just entered. -/
def State.countError (s : State) (guest : Nat) : State :=
  s.modCtx guest (fun c => { c with errcnt := if c.errcnt = 0xFFFF then c.errcnt else c.errcnt + 1, cntNew := c.cntNew + 1 })

/-! ## Barriers (R168 to R170, R303) -/

/-- The member number of the transfer unit and of the sequencer in a barrier's arrivals. -/
def memTU : Nat := 32
def memSeq : Nat := 33

/-- Group W1 = `j` is a member of bN (R168); the engines by their registrations (R302). -/
def WGroup.member (w : WGroup) (n j : Nat) : Bool :=
  if j = memTU then w.cpbar.getLsbD n && !w.detach
  else if j = memSeq then w.sqbar.getLsbD n
  else (w.bmask.getD n 0).getLsbD j

/-- A phase completes: the arrival count restarts and a held transfer-unit arrival is made (R169, R303). -/
def Bar.complete (b : Bar) : Bar :=
  let b1 := { b with an := 0, pn := b.pn + 1 }
  if 0 < b.held then { b1 with held := b.held - 1, an := 1, arr := mset b.arr memTU b1.pn } else b1

/-- The phase completes when every expected arrival has been made; with EN = 0 nothing completes (R169, R170). -/
def Bar.settle : Nat → Bar → Bar
  | 0, b => b
  | fuel + 1, b => if 0 < b.en ∧ b.an = b.en then Bar.settle fuel b.complete else b

/-- A held arrival that completes a phase makes the next one, at most 65,535 times (R303). -/
def Bar.settled (b : Bar) : Bar := b.settle (b.held + 1)

/-- Arrive(member, N) of R169 on a barrier the member belongs to. -/
def Bar.arrive (b : Bar) (j : Nat) : Bar :=
  if mfind b.arr j = some b.pn then b
  else Bar.settled { b with arr := mset b.arr j b.pn, an := b.an + 1, last := j }

/-- A barrier changes; where its phase completes and the holder of the critical token arrived in that phase, the token
passes to the group of the phase's last Arrive, or to the producer group where that was an engine's (R391). -/
def WGroup.barStep (w : WGroup) (n : Nat) (last : Bar → Nat) (f : Bar → Bar) : WGroup :=
  match mfind w.bars n with
  | none => w
  | some b =>
    let b' := f b
    let w' := { w with bars := mset w.bars n b' }
    if b'.pn ≠ b.pn ∧ mfind b'.arr w.token = some b.pn then
      { w' with token := if 32 ≤ last b then w.prod else last b }
    else w'

/-- Arrive(member, N) of a workgroup. -/
def WGroup.arrive (w : WGroup) (n j : Nat) : WGroup :=
  if w.member n j then w.barStep n (fun _ => j) (fun b => b.arrive j) else w

/-- The member `j` leaves a barrier (R170); the transfer unit's held arrivals go with it (R303). -/
def Bar.leave (b : Bar) (j : Nat) : Bar :=
  Bar.settled { b with held := if j = memTU then 0 else b.held, en := b.en - 1, an := if mfind b.arr j = some b.pn then b.an - 1 else b.an, arr := mdel b.arr j }

/-- The member `j` leaves every barrier it belongs to (R170, R305, R343). -/
def WGroup.leave (w : WGroup) (j : Nat) : WGroup :=
  let w1 := (List.range 16).foldl
    (fun (w' : WGroup) n => if w.member n j then w'.barStep n (fun b => b.last) (fun b => b.leave j) else w') w
  if j = memTU ∨ j = memSeq then w1
  else { w1 with bmask := w1.bmask.map (fun m => m &&& ~~~((1#32) <<< j)) }

/-- The W1 field of a group: its number in its workgroup. -/
def State.w1Of (s : State) (g : Group) : Nat :=
  match mfind s.launches g.launch with
  | some l => nbits g.wid.toNat (l.hdr.w.getD 0 0 + l.hdr.w.getD 1 0 - 1) (l.hdr.w.getD 0 0)
      * (if l.hdr.w.getD 1 0 = 0 then 0 else 1)
  | none => 0

/-! ## Frame granules (R276) -/

/-- Granules of a core's pool that no group holds and no request has reserved. -/
def State.freeGranules (s : State) (core : Nat) : Nat :=
  512 - (s.groups.foldl (fun n x => if x.1 / 64 = core then n + x.2.fgran else n) 0)
    - (s.growq.foldl (fun n q => if q.core = core ∧ q.granted then n + q.n else n) 0)

/-- The lowest `n` granules of a core's pool that no group holds (log 11). -/
def State.pickGranules (s : State) (core n : Nat) : List Nat :=
  ((List.range 512).filter (fun k => !s.groups.any (fun x => x.1 / 64 == core && x.2.grans.contains k))).take n

/-- The head ungranted request of a core's queue is granted when the pool covers it, again and again (R276). -/
def State.growGrant (s : State) (core : Nat) : Nat → State
  | 0 => s
  | fuel + 1 =>
    match s.growq.find? (fun q => q.core == core && !q.granted) with
    | none => s
    | some h =>
      if h.n ≤ s.freeGranules core then
        State.growGrant { s with growq := s.growq.map (fun q => if q = h then { q with granted := true } else q) } core fuel
      else s

/-- Granules have returned to a core's pool. -/
def State.granulesBack (s : State) (core : Nat) : State := s.growGrant core s.growq.length

/-- A group's request leaves the queue (R276). -/
def State.growLeave (s : State) (core slot : Nat) : State :=
  ({ s with growq := s.growq.filter (fun q => !(q.core == core && q.slot == slot)) }).granulesBack core

/-! ## Ending groups -/

/-- The counters of a group are all 0. -/
def Group.idle (g : Group) : Bool := g.ld == 0 && g.st == 0 && g.cp == 0 && g.tl == 0

/-! ## Tenant counters (R347) -/

/-- Tenant of a core in its cluster: 0 the upper or only one, 1 the lower (R322). -/
def State.tenantOf (s : State) (core : Nat) : Nat := if (s.cluster (clusterOf core)).split && decide (2 ≤ core % 4) then 1 else 0

/-- Places of the counters of a tenant: PASSES, VECTORS, BUSYCC, WAITCC, DRAINS, STOPS, then the cc up to which busy
time is counted and the cc up to which waiting time is. -/
def perfKey (tenant n : Nat) : Nat := tenant * 8 + n

/-- A counter of a cluster raised. -/
def State.perfAdd (s : State) (cluster tenant n v : Nat) : State :=
  s.modCluster cluster (fun k => { k with perf := mset k.perf (perfKey tenant n) (mget k.perf (perfKey tenant n) 0 + BitVec.ofNat 64 v) })

/-- An operation of a tenant is posted and not granted. -/
def State.posted (s : State) (cluster tenant : Nat) : Bool :=
  s.eops.any (fun e => e.cluster == cluster && e.granted.isNone && s.tenantOf e.core == tenant)

/-- WAITCC is brought up to now, before the set of posted operations of a tenant changes. -/
def State.perfWait (s : State) (cluster tenant : Nat) : State :=
  let waiting := s.posted cluster tenant
  let since := (mget (s.cluster cluster).perf (perfKey tenant 7) 0).toNat
  let s := if waiting then s.perfAdd cluster tenant 3 (s.cc - since) else s
  s.modCluster cluster (fun k => { k with perf := mset k.perf (perfKey tenant 7) (BitVec.ofNat 64 s.cc) })

/-- BUSYCC counts quadrants held from now for `n` cc. -/
def State.perfBusy (s : State) (cluster tenant n : Nat) : State :=
  let upto := (mget (s.cluster cluster).perf (perfKey tenant 6) 0).toNat
  let end_ := max upto (s.cc + n)
  (s.perfAdd cluster tenant 2 (end_ - max upto s.cc)).modCluster cluster (fun k =>
    { k with perf := mset k.perf (perfKey tenant 6) (BitVec.ofNat 64 end_) })

/-! ## Ends of groups and workgroups -/

/-- A binding of a group to a table bank is given up (R189). -/
def State.unbind (s : State) (core : Nat) (tab : Option Nat) : State :=
  match tab with
  | none => s
  | some b => { s with banks := mmod s.banks (core * 2 + b) (fun k => { k with binds := k.binds - 1 }) }

/-- A line that a workgroup of a core holds (R258). -/
def L1Line.heldBy (x : L1Line) (core wslot : Nat) : Bool :=
  match x.kind with
  | .held w _ _ => x.core == core && w == wslot
  | _ => false

/-- A workgroup's held lines are written back and released, but for those for which the dirty log has no room (R258, R418). -/
def State.releaseHeld (s : State) (core wslot : Nat) : State :=
  (s.l1.filter (fun x => x.heldBy core wslot)).foldl (fun (s : State) x => match s.writeBackLog x with
    | some s => { s with l1 := s.l1.filter (fun y => y != x) }
    | none => s) s

/-- Every group of a workgroup has ended. -/
def State.groupsOver (s : State) (core : Nat) (w : WGroup) : Bool :=
  w.groups.all (fun x => match s.group core x.2 with | some g => g.ended | none => true)

/-- The last group of a workgroup has ended (R165, R258, R346): its scratchpad returns, its held lines are written back, and
its sequencer posts nothing more; the cc its posted word has waited are counted (R347). -/
def State.freeWorkgroup (s : State) (core wslot : Nat) : State :=
  match s.wgroup core wslot with
  | none => s
  | some w =>
    if w.freed || !s.groupsOver core w then s else
    let s := (s.modWG core wslot (fun w => { w with freed := true })).releaseHeld core wslot
    let s := s.perfWait (clusterOf core) (s.tenantOf core)
    { s with eops := s.eops.filter (fun e => !(e.core == core && e.wslot == wslot && e.granted.isNone)) }

/-- A workgroup whose groups have all returned is gone, and its sequencer with it (R165, R346). -/
def State.endWorkgroup (s : State) (core wslot : Nat) : State :=
  let s := match s.wgroup core wslot with
    | some w => { s with launches := mmod s.launches w.launch (fun l =>
        { l with seqs := l.seqs - (match w.seq with | some q => if q.stopped then 0 else 1 | none => 0) }) }
    | none => s
  let leave (x : Nat × Unit_) : Nat × Unit_ := (x.1, { x.2 with wgs := x.2.wgs.filter (fun k => k != wkey core wslot) })
  let cut (x : Nat × WGroup) : Nat × WGroup :=
    (x.1, { x.2 with span := x.2.span.map (fun k => if k = wkey core wslot then deadKey else k) })
  { s with wgroups := (mdel s.wgroups (wkey core wslot)).map cut,
           units := (s.units.map leave).filter (fun (x : Nat × Unit_) => !(x.2.wgs.isEmpty && x.2.saved.isEmpty)) }

/-- A workgroup whose groups have all gone ends once its sequencer's granted operations have retired and its held lines are
written back (R165, R258, R346). -/
def State.wgroupGone (s : State) (core wslot : Nat) : State :=
  match s.wgroup core wslot with
  | some w =>
    if w.groups.isEmpty && !s.eops.any (fun e => e.core == core && e.wslot == wslot && e.granted.isSome)
        && !s.l1.any (fun x => x.heldBy core wslot)
    then s.endWorkgroup core wslot else s
  | none => s

/-- An ended group whose counters are 0 returns its slot, window and granules (R165); a store that was replayed, which no counter
counts (R283), is accepted first. -/
def State.returnGroup (s : State) (core slot : Nat) : State :=
  match s.group core slot with
  | none => s
  | some g =>
    if g.ended && g.idle && g.sq.isEmpty then
      let s := s.parkGroup core slot g
      let s := { s with groups := mdel s.groups (gkey core slot),
                        launches := mmod s.launches g.launch (fun l => { l with groups := l.groups - 1 }) }
      let s := s.modWG core g.wslot (fun w => { w with groups := w.groups.filter (fun x => x.2 != slot) })
      (s.wgroupGone core g.wslot).granulesBack core
    else s

/-- The plinth block of a group is discarded from the L1 (R71, R241). -/
def State.dropPlinth (s : State) (core : Nat) (g : Group) : State :=
  let hi := g.pb.toNat + 32 * (g.plinth + 16)
  { s with l1 := s.l1.filter (fun x => match x.kind with
      | .priv guest _ va => !(x.core == core && guest == g.guest && decide (g.pb.toNat ≤ va.toNat) && decide (va.toNat < hi))
      | _ => true) }

/-- The W1 of the group of the workgroup that comes first in an order given by a key, `slot` left out. -/
def State.firstMember (s : State) (core slot : Nat) (w : WGroup) (key : Group → Option Nat) : Option Nat :=
  (w.groups.foldl (fun (best : Option (Nat × Nat)) x =>
    if x.2 = slot then best else
    match s.group core x.2 with
    | none => best
    | some g => if g.ended then best else match key g with
      | none => best
      | some k => match best with
        | some (k0, _) => if k < k0 then some (k, x.1) else best
        | none => some (k, x.1)) none).map (·.2)

/-- The holder of the critical token ends: the token passes to the group that has waited on a barrier longest, else to
the live group with the lowest W1 (R391). -/
def State.tokenOnEnd (s : State) (core slot : Nat) (g : Group) (w1 : Nat) : State :=
  s.modWG core g.wslot (fun w =>
    if w.token ≠ w1 then w else
    match s.firstMember core slot w (fun x => if s.barHeld core x then some x.bwaitAt else none) with
    | some j => { w with token := j }
    | none => match s.firstMember core slot w (fun x => some (s.w1Of x)) with
      | some j => { w with token := j }
      | none => w)

/-- Results still owed are discarded; lanes whose record is discarded, or has its reply, owe nothing (R165, R368). -/
def Op.drop (o : Op) : Op :=
  { o with dropped := true, lanes := o.lanes.map (fun x => match x.st with
      | .faulted _ | .replied | .resolved => { x with st := .done }
      | _ => x) }

/-- A counter one lower. -/
def Group.lower (g : Group) (c : Option Ctr) : Group :=
  match c with
  | none => g
  | some .ld => { g with ld := g.ld - 1 }
  | some .st => { g with st := g.st - 1 }
  | some .cp => { g with cp := g.cp - 1 }
  | some .tl => { g with tl := g.tl - 1 }

/-- A counter one higher (R76). -/
def Group.raise (g : Group) (c : Option Ctr) : Group :=
  match c with
  | none => g
  | some .ld => { g with ld := g.ld + 1 }
  | some .st => { g with st := g.st + 1 }
  | some .cp => { g with cp := g.cp + 1 }
  | some .tl => { g with tl := g.tl + 1 }

/-- An operation completes (R75, R215): its pending entries become ordinary, its pending bits clear and its counter
falls; an ended group may then return its resources (R165). -/
def State.completeOp (s : State) (id : Nat) : State :=
  match mfind s.ops id with
  | none => s
  | some o =>
    let s := { s with ops := mdel s.ops id }
    let s := s.modGroup o.core o.slot (fun g => { g.lower o.ctr with
      pendEnt := g.pendEnt.filter (fun p => p.op != id), pendFrm := g.pendFrm.filter (fun p => p.op != id) })
    s.returnGroup o.core o.slot

/-- Every lane has its data, and a status is known where the operation answers one. -/
def Op.finished (o : Op) : Bool :=
  !o.saved && o.lanes.all (fun x => x.st == .done) &&
    (match o.kind with
      | .enq | .enqw | .lsend | .mrecv | .unveil _ => o.status.isSome
      | .tload _ | .watch _ => !o.lanes.isEmpty
      | .chain _ | .arming | .accld | .accWrite | .timer => false
      | .load | .store | .stw | .atomic | .ringput | .prf => true)

/-- A bank that an operation was filling is empty (R189). -/
def State.emptyBank (s : State) (id : Nat) : State :=
  { s with banks := s.banks.map (fun (x : Nat × Bank) =>
      (x.1, if x.2.op = id ∧ x.2.st = .loading then { x.2 with st := .empty } else x.2)) }

/-- The operation completes as soon as it is finished; one without lanes not before 1 cc after dispatch (R215, R222). A `tload`
whose lane has exited leaves its bank empty (R368; log 78). -/
def State.settleOp (s : State) (id : Nat) : State :=
  match mfind s.ops id with
  | none => s
  | some o => if o.finished && (!o.lanes.isEmpty || decide (o.at_ < s.cc)) then (s.emptyBank id).completeOp id else s

/-- A load of a table on a group's behalf is given up (R190; log 78). -/
def State.dropBehalf (s : State) (core slot : Nat) : State :=
  match s.ops.find? (fun x => x.2.behalf core slot) with
  | none => s
  | some x => ({ s with ops := mdel s.ops x.1 }.emptyBank x.1).dropRecs (fun r => r.isFor x.1)

/-- The store records of a group that ends which have not been delivered: the error record takes each, with its cause and its
instruction's PC (R370). -/
def State.storeErrors (s : State) (mine : Rec → Bool) (launch core : Nat) : State :=
  (s.recs.filter (fun r => mine r && r.store && !r.delivered)).foldl
    (fun s r => (s.errorEntry r.guest r.pc r.owner r.cause 0 core).launchErr launch) s

/-- No live lane of the group remains: it has ended (R165, R170, R189, R368). Results still outstanding are discarded on
arrival, its records are discarded, released stores go on, its table is unbound, and its resources return once its counters
are 0. -/
def State.endGroup (s : State) (core slot : Nat) : State :=
  match s.group core slot with
  | none => s
  | some g =>
    let w1 := s.w1Of g
    let s := match g.esc with | some e => s.unsave (ghostOf e.id) core slot | none => s
    let s := (((s.growLeave core slot).dropPlinth core g).unbind core g.tab).dropBehalf core slot
    let s := s.storeErrors (fun r => r.isOf core slot) g.launch core
    let arms := (s.armings.filter (fun a => a.core == core && a.slot == slot)).map (·.op)
    let s := s.dropRecs (fun r => r.isOf core slot)
    let s := { s with ops := (s.ops.filter (fun (x : Nat × Op) => !arms.contains x.1)).map
                        (fun (x : Nat × Op) => (x.1, if x.2.isOf core slot then x.2.drop else x.2)),
                      armings := s.armings.filter (fun a => !(a.core == core && a.slot == slot)) }
    let s := s.modWG core g.wslot (fun w => w.leave w1)
    let s := s.tokenOnEnd core slot g w1
    let s := s.setGroup core slot { g with
      live := 0, splits := [none, none, none, none], pend := [], ovf := [], pendEnt := [], pendFrm := [],
      run := none, parked := none, ended := true, bwait := [], port := none, preempt := false, saved := none, esc := none,
      skew := [], tab := none, tabAddr := none, tl := g.tl - BitVec.ofNat 8 arms.length }
    let mine := (s.ops.filter (fun x => x.2.isOf core slot)).map (·.1)
    ((mine.foldl State.settleOp s).freeWorkgroup core g.wslot).returnGroup core slot

/-- The group ends with an error entry and CTXERR, and no handler; `count`: ERRCNT rises too (R127, R270). -/
def State.endError (s : State) (core slot : Nat) (g : Group) (addr : Addr) (cause : Cause) (source : Nat) (count : Bool) : State :=
  let s := s.errorEntry g.guest addr g.wid cause source core
  ((if count then s.countError g.guest else s).launchErr g.launch).endGroup core slot

/-- The group ends as `kill` ends it (R127, R285): CTXERR, ERRCNT, an error entry, and no handler. With a `packet`, the end of
a resident group by an End disposition or by `kill`, an EXC packet is written for that split slot (R270, R394). -/
def State.killGroup (s : State) (core slot : Nat) (addr : Addr) (cause : Cause) (source : Nat) (packet : Option Nat) : State :=
  match s.group core slot with
  | none => s
  | some g =>
    let s := match packet with
      | some n => s.trace g.guest core slot n 8 (leBytes 4 cause.toNat ++ leBytes 4 g.live.toNat)
      | none => s
    s.endError core slot g addr cause source true

/-! ## Taking an exception -/

/-- `n` entries from a depth index up, of some lanes, written to the plinth, lowest first. -/
def State.spillFrom (s : State) (core : Nat) (g : Group) (m : Mask) (lo n : Nat) : Except Cause State :=
  (List.range n).foldlM (fun s k => let idx := lo + k
    s.plinthWrite core g.guest g.pb idx m (mget g.win (idx % 8) [])) s

/-- A spill's words written to the plinth: the lowest `n` entries of the first excess range, else the lowest `n` resident
entries (R62, R68). -/
def State.spillWords (s : State) (core : Nat) (g : Group) (p : Part) (n : Nat) : Except Cause State :=
  let x := match p.excess with
    | e :: _ => (e.lo, e.mask &&& p.mask)
    | [] => (p.depth - p.res, p.mask)
  s.spillFrom core g x.2 x.1 n

/-- A part after a transfer of `n` entries (R62, R68). -/
def Part.moved (p : Part) (fill : Bool) (n : Nat) : Part :=
  match p.excess, fill with
  | e :: es, false => { p with excess := if e.n ≤ n then es else { e with lo := e.lo + n, n := e.n - n } :: es }
  | _, true => { p with res := p.res + n }
  | [], false => { p with res := p.res - n }

/-- Transfers that spill every resident entry of a part, up to one that faults (R278). -/
def State.spillPart (core : Nat) (g : Group) : Nat → State → Part → State × Part × Option Cause
  | 0, s, p => (s, p, none)
  | fuel + 1, s, p =>
    if p.excess.isEmpty && p.res == 0 then (s, p, none) else
    let n := min 4 (match p.excess with | e :: _ => e.n | [] => p.res)
    match s.spillWords core g p n with
    | .error k => (s, p, some k)
    | .ok s => s.spillPart core g fuel (p.moved false n)

/-- Every part spilled in turn, up to a transfer that faults: the state, the parts as they then are, and the fault (R278). -/
def State.spillParts (core : Nat) (g : Group) : State → List (Option Part) → State × List (Option Part) × Option Cause
  | s, [] => (s, [], none)
  | s, none :: ps => let r := s.spillParts core g ps; (r.1, none :: r.2.1, r.2.2)
  | s, some p :: ps =>
    let x := s.spillPart core g (p.res + (p.excess.map (·.n)).sum) p
    match x.2.2 with
    | some k => (x.1, some x.2.1 :: ps, some k)
    | none => let r := x.1.spillParts core g ps; (r.1, some x.2.1 :: r.2.1, r.2.2)

/-- The group with its parts replaced, splits first, then the pending list, then its overflow. -/
def Group.withParts (g : Group) (ps : List (Option Part)) : Group :=
  { g with splits := ps.take 4, pend := ((ps.drop 4).take g.pend.length).filterMap id,
           ovf := (ps.drop (4 + g.pend.length)).filterMap id }

/-- XCAUSE (R269). -/
def xcauseOf (idx : Nat) (info : BitVec 8) (cls : Nat) (cause : Cause) : Word :=
  BitVec.ofNat 32 (cause.toNat + cls * 2 ^ 6 + info.toNat * 2 ^ 8 + (idx % 32) * 2 ^ 16)

/-- The registers of R278 step 4. -/
def Group.writeX (g : Group) (e : Exc) : Group :=
  { g with xcause := xcauseOf e.idx e.info e.cls e.cause, xpc := e.xpc, xmask := e.mask,
           xaddr := e.addr.filter (fun x => laneOn e.mask x.1) }

/-- An address that the spec leaves open, at a multiple of 128 (log 2). -/
def State.freeBlock (s : State) : State × Addr :=
  let a := s.freeWord
  let b := a.1.freeWord
  (b.1, dword a.2 b.2 &&& ~~~(127 : Addr))

/-- Both kinds of save give up the table binding and keep the image's address (R190); a table not bound again yet stays due. -/
def State.releaseTable (s : State) (core slot : Nat) : State :=
  match s.group core slot with
  | none => s
  | some g => match g.tab with
    | none => s.dropBehalf core slot
    | some b =>
      let a := (mfind s.banks (core * 2 + b)).map (·.addr)
      (s.unbind core (some b)).modGroup core slot (fun g => { g with tab := none, tabAddr := a })

/-- The group's save block is written where firmware places it (R373, R379, R380; log 26): its address and length. Without
room in the save area no byte is written and the address is open. -/
def State.keepBlock (s : State) (core slot : Nat) : State × Addr × Nat :=
  let r := s.freeBlock
  match r.1.group core slot with
  | none => (r.1, r.2, 0)
  | some g =>
    let n := g.blockLen true
    match r.1.blockPlace g.guest n (r.2.toNat / 128) with
    | some a => ({ r.1 with mem := putImage r.1.mem a n (g.image true) }, BitVec.ofNat 64 a, n)
    | none => (r.1, r.2, 0)

/-- The group is stopped, saved whole and reported to its leaf controller with the escalating cause and, for a `trap`, its
number (R282, R373, R374): its records, and its operations in flight that count on ld, stand in the record area under the
escalation's number (R382). It keeps its slot until firmware resumes or ends it, or its unit is saved (log 13). -/
def State.escalate (s : State) (core slot : Nat) (cause : Cause) (info : BitVec 8) (entry : Option (PartRef × Exc)) : State :=
  let (s, id) := s.newId
  let r := (((s.growLeave core slot).releaseTable core slot).modGroup core slot (fun g => { g with run := none })).keepBlock core slot
  let s := match r.1.group core slot with
    | some g => r.1.detach core slot (ghostOf id) g (fun o => o.awaited core slot)
    | none => r.1
  s.modGroup core slot (fun g => { g with esc := some ⟨id, cause, r.2.1, r.2.2, false, false, info, entry⟩ })

/-- The handler split of R278 step 5. -/
def handlerSplit (xvec : Addr) (m : Mask) (base : Nat) : Part :=
  ⟨xvec, m, base, 0, none, 0, 0, none, false, .nothing, 0, none, none, [], false, false⟩

/-- Entry to the in-lane handler (R278): every part is parked and spilled, the registers are written, the group is in
supervisor mode and its one split starts at XVEC. At a spill that faults the entry stops: the transfers already made stand,
and the group escalates. -/
def State.enterHandler (s : State) (core slot : Nat) (deliv : PartRef) (e : Exc) : State :=
  match s.group core slot with
  | none => s
  | some g =>
    let r := s.spillParts core g (g.splits ++ (g.pend ++ g.ovf).map some)
    match r.2.2 with
    | some c => (r.1.modGroup core slot (fun g => (g.withParts r.2.1).writeX e)).escalate core slot c 0 (some (deliv, e))
    | none =>
      let s := r.1
      let base := g.parts.foldl (fun n p => max n p.depth) 0
      let park (p : Part) : Part := { p with res := 0, readyAt := none, excess := [] }
      let g := g.writeX e
      let s := s.trace g.guest core slot (match deliv with | .slot n => n | .pend _ => 0) 8
        (leBytes 4 g.xcause.toNat ++ leBytes 4 e.mask.toNat)
      s.setGroup core slot { g with
        sup := true, run := none,
        parked := some ⟨g.splits.map (Option.map park), g.pend.map park, g.ovf.map park, base, deliv⟩,
        splits := [some (handlerSplit (s.ctx g.guest).xvec e.mask base), none, none, none],
        pend := [], ovf := [] }

/-- The disposition of a cause (R363). -/
inductive Disposition | end_ | handler | firmware
  deriving DecidableEq, Repr

/-- Disposition column of R362 for the causes a group meets at a header or in a run. -/
def dispositionOf (c : Cause) : Disposition :=
  if c = cIllegal ∨ c = cRunForm ∨ c = cRunHazard then .end_
  else if c = cAtomicPath then .firmware
  else .handler

/-- An exception of a group is delivered by its disposition (R363): the group ends, escalates, or enters its handler.
In supervisor mode, or in a context without a handler, it escalates (R282, R372). -/
def State.deliver (s : State) (core slot : Nat) (deliv : PartRef) (e : Exc) : State :=
  match s.group core slot with
  | none => s
  | some g =>
    match dispositionOf e.cause with
    | .end_ => s.killGroup core slot e.xpc e.cause 0 (some (match deliv with | .slot n => n | .pend _ => 0))
    | .firmware => s.escalate core slot e.cause 0 (some (deliv, e))
    | .handler =>
      if g.sup then s.escalate core slot e.cause e.info none
      else if (s.ctx g.guest).xvec = 0 then s.escalate core slot e.cause e.info none
      else s.enterHandler core slot deliv e

/-- A precise fault inside a run (R81, R364): the run rolls back and the fault is delivered with XPC its header. -/
def State.preciseFault (s : State) (c : Cur) (cause : Cause) (m : Mask) (xa : AMap DWord) : State :=
  (s.rollback c.core c.slot c.r.split .nothing).deliver c.core c.slot (.slot c.r.split)
    ⟨0, 0, 0, cause, c.r.hpc, m, xa⟩

/-! ## Returning from an exception -/

/-- A parked part as it resumes: nothing is resident; one with a fault at its header meets its header afresh. -/
def Part.resumed (p : Part) : Part :=
  { p with readyAt := none, wait := .nothing, fault := none, res := 0, excess := [], image := if p.fault.isSome then none else p.image }

/-- The delivering part takes XPC as its PC (R280); at STACK_SKEW, or where XPC is another header, it meets it afresh, and at
another header it arrives now (R62). -/
def Part.atXpc (p : Part) (xpc : Addr) (skew : Bool) (now : Nat) : Part :=
  if p.pc = xpc ∧ skew = false then p
  else { p with pc := xpc, image := none, held := none, clear := false, queued := if p.pc = xpc then p.queued else now }

/-- The handler ends (R280): user mode, every parked part resumes, and the delivering part takes XPC as its PC; a part
whose lanes have all exited is gone (R281). At the resume PC its maquette is over (R87). -/
def Group.leaveHandler (g : Group) (now : Nat) : Group :=
  match g.parked with
  | none => { g with sup := false }
  | some k =>
    let keep (p : Part) : Option Part := if p.mask = 0 then none else some p.resumed
    let setPc (p : Part) : Part :=
      { p.atXpc g.xpc (g.xcause.setWidth 6 == cStackSkew) now with maq := p.maq && g.maq != some g.xpc }
    let splits := match k.deliv with
      | .slot n => lset k.splits n ((k.splits.getD n none).map setPc)
      | .pend _ => k.splits
    let pend := match k.deliv with
      | .pend n => k.pend.modify n setPc
      | .slot _ => k.pend
    let ovf := match k.deliv with
      | .pend n => if n < k.pend.length then k.ovf else k.ovf.modify (n - k.pend.length) setPc
      | .slot _ => k.ovf
    { g with sup := false, parked := none,
             splits := splits.map (fun o => o.bind keep), pend := pend.filterMap keep, ovf := ovf.filterMap keep }

/-! ## One instruction of a run -/

/-- A run of the holder of the critical token waits on a copy in flight: the token passes to the producer (R391). -/
def State.copyEdge (s : State) (c : Cur) (w : WaitOn) : State :=
  match w with
  | .copy _ _ => s.modWG c.core c.g.wslot (fun x => if x.token = s.w1Of c.g then { x with token := x.prod } else x)
  | _ => s

/-- A group in step mode stops with cause STEP (R401); a stop that was asked for stays due at its next run boundary (R402). -/
def State.stepStop (s : State) (c : Cur) : State :=
  if c.g.step then s.modGroup c.core c.slot (fun g =>
    { g with dbg := .stopped cStep, stopAsk := g.stopAsk || decide (g.dbg = .requested) }) else s

/-- An instruction of the run in progress: the one place where its result becomes the next state. -/
def State.runInstr (s : State) (f : Cur → Res) : Host.Outcome State Fault Refusal :=
  match s.cur with
  | none => .fault .noRun
  | some c => .next (match f c with
    | .ok s' r lat => (s'.putRun c (r.advance lat)).stepStop c
    | .fault s' cause m xa => (s'.preciseFault c cause m xa).refresh
    | .wait s' w => ((s'.rollback c.core c.slot c.r.split w).copyEdge c w).refresh
    | .hold s' => (s'.putRun c { c.r with holding := true }).pass 1)

end Sys2Proof.Machine
end

