-- ==== Sys2Proof/Machine/Operands.lean ====
section
/-! DEFINITION. Operands of run instructions: guards, stack entries, registers as the run sees them, and the lane-wise
shape shared by most instructions (R66, R72, R77, R80, R89 to R91). -/

namespace Sys2Proof.Machine

/-! ## Registers as the run sees them (R77) -/

/-- Predicate pN, with the run's own writes. -/
def Cur.pred (c : Cur) (p : Nat) : Mask :=
  let base := mget c.g.prd p 0
  match mfind c.r.prd p with
  | some (m, v) => (v &&& m) ||| (base &&& ~~~m)
  | none => base

/-- Frame register fN, with the run's own writes. -/
def Cur.frame (c : Cur) (n : Nat) : Lanes :=
  let base := mget c.g.frame n []
  match mfind c.r.frm n with
  | some (m, v) => mergeLanes m v base
  | none => base

/-- Uniform register kN, with the run's own writes. -/
def Cur.uniform (c : Cur) (k : Nat) : Word := (mfind c.r.uni k).getD (mget c.g.uni k 0)

/-- A frame write in the lanes of `m`. -/
def Run.writeFrame (r : Run) (n : Nat) (m : Mask) (v : Lanes) : Run :=
  { r with frm := mset r.frm n (match mfind r.frm n with
      | some (m', v') => (m ||| m', mergeLanes m v v')
      | none => (m, v)) }

/-- A predicate write in the lanes of `m`. -/
def Run.writePred (r : Run) (n : Nat) (m : Mask) (v : Mask) : Run :=
  { r with prd := mset r.prd n (match mfind r.prd n with
      | some (m', v') => (m ||| m', (v &&& m) ||| (v' &&& ~~~m))
      | none => (m, v)) }

/-- A uniform write from the lowest guarded-on lane, if there is one (R90). -/
def Run.writeUniform (r : Run) (k : Nat) (on : Mask) (v : Lanes) : Run :=
  match lowLane on with
  | some l => { r with uni := mset r.uni k (laneAt v l) }
  | none => r

/-- Work left to the trailer. -/
def Run.stage (r : Run) (x : Staged) : Run := { r with staged := r.staged ++ [x] }

/-! ## Guards (R89) -/

/-- The guarded-on active lanes. -/
def Cur.on (c : Cur) (gd : Guard) : Mask :=
  if gd.e then c.r.mask &&& (if gd.s then ~~~(c.pred gd.p.toNat) else c.pred gd.p.toNat) else c.r.mask

/-! ## Stack entries (R66, R139) -/

/-- The value whose lowest entry is number `k` of the popped entries, deepest first, at width `n`. -/
def item (n : Nat) (ws : List Word) (k : Nat) : BitVec n :=
  if n = 64 then (dword (ws.getD k 0) (ws.getD (k + 1) 0)).setWidth n else (ws.getD k 0).setWidth n

/-- The entries of a value of width `n`, low word first. -/
def push {n : Nat} (v : BitVec n) : List Word :=
  if n = 64 then [loWord (v.setWidth 64), hiWord (v.setWidth 64)] else [v.setWidth 32]

/-- The top `a` entries, deepest first. -/
def Run.popped (r : Run) (a : Nat) : List Lanes := ((r.stk.take a).map (·.v)).reverse

/-- What lane `l` holds in the popped entries, deepest first. -/
def argsOf (ps : List Lanes) (l : Nat) : List Word := ps.map (fun v => laneAt v l)

/-- `b` new entries in place of the top `a`, given deepest first. -/
def Run.replace (r : Run) (a : Nat) (new : List Entry) : Run := { r with stk := new.reverse ++ r.stk.drop a }

/-- The effect of an instruction on one lane: popped entries to pushed entries, both deepest first, and flag events. -/
abbrev LaneFn := Nat → List Word → List Word × BitVec 6

/-- Result words of every lane: the function's where guarded on, else the popped entries (R90). -/
def laneOuts (on : Mask) (ps : List Lanes) (f : LaneFn) : List (List Word × BitVec 6) :=
  (List.range 32).map (fun l => if laneOn on l then f l (argsOf ps l) else (argsOf ps l, 0))

/-- Entry `j` of the results. -/
def outEntry (outs : List (List Word × BitVec 6)) (j : Nat) : Entry := ⟨outs.map (fun o => o.1.getD j 0), none⟩

/-- Flag events of the results. -/
def outFlags (outs : List (List Word × BitVec 6)) : BitVec 6 := outs.foldl (fun x o => x ||| o.2) 0

/-- A lane-wise instruction: pops `a`, pushes `b`, raises the flags of its guarded-on lanes (R90, R103, R139). -/
def Run.lanewise (r : Run) (on : Mask) (a b : Nat) (f : LaneFn) : Run :=
  let outs := laneOuts on (r.popped a) f
  { r.replace a ((List.range b).map (outEntry outs)) with aflags := r.aflags ||| outFlags outs }

/-- A lane-wise instruction as a step of the machine. -/
def State.laneInstr (s : State) (gd : Guard) (a b lat : Nat) (f : LaneFn) : Host.Outcome State Fault Refusal :=
  s.runInstr (fun c => .ok s (c.r.lanewise (c.on gd) a b f) lat)

/-- Entries pushed pending: 0 in every lane until the operation of staged item `x` fills them (R75, R216). -/
def Run.pushPending (r : Run) (a b : Nat) (x : Staged) : Run :=
  let k := r.staged.length
  (r.replace a ((List.range b).map (fun _ => ⟨[], some k⟩))).stage x

/-! ## Frame registers named by an instruction (R73, R80) -/

/-- FRAME_RANGE in every lane, or a wait for a pending bit, or the instruction proper. -/
def Cur.frameCheck (c : Cur) (s : State) (n k : Nat) (f : Unit → Res) : Res :=
  if 8 * c.g.fgran < n + k then .fault s cFrameRange c.r.mask []
  else if c.g.pendFrm.any (fun p => decide (n ≤ p.reg) && decide (p.reg < n + k)) then .wait s (.frame n k)
  else f ()

/-- An effect made once for the group, with the lowest guarded-on lane (R91, R266). -/
def Cur.acts (c : Cur) (gd : Guard) : Option Nat := lowLane (c.on gd)

/-- Lanes that satisfy a condition on their popped entries. -/
def Run.lanesWhere (r : Run) (on : Mask) (a : Nat) (p : Nat → List Word → Bool) : Mask :=
  let ps := r.popped a
  maskOf (fun l => laneOn on l && p l (argsOf ps l))

end Sys2Proof.Machine
end

