-- ==== Sys2Proof/Machine/Access.lean ====
section
/-! DEFINITION. Shared operations of memory accesses: address checks, watch units, scratchpad targets, witnesses, the
scope checker, delivery of results, completion of operations and fault records (R212, R216, R229 to R237, R240, R263
to R265, R366 to R371, R398 to R400). -/

namespace Sys2Proof.Machine

/-! ## Watch units (R398 to R400) -/

/-- A two's complement number of `n` bits. -/
def signed (n x : Nat) : Int := (BitVec.ofNat n x).toInt

/-- A watched element's byte range meets [a, a + n): the indices of dimensions `ds`, from offset `at_` (R398). -/
def watchMeets (d : List Byte) (a n es : Nat) : List Nat → Int → Bool
  | [], at_ => (List.range es).any (fun k =>
      decide (((BitVec.ofInt 64 (at_ + k)) - BitVec.ofNat 64 a).toNat < n))
  | k :: ds, at_ =>
    let lo := fieldLE d (76 + 2 * k) 2
    let hi := fieldLE d (96 + 2 * k) 2
    (List.range (hi + 1 - lo)).any (fun i => watchMeets d a n es ds (at_ + ((lo + i : Nat) : Int) * signed 32 (fieldLE d (36 + 4 * k) 4)))

/-- A descriptor that arms a unit (R398). -/
def watchValid (d : List Byte) : Bool :=
  let ctl := fieldLE d 8 4
  let nd := nbits ctl 7 4
  decide (nbits ctl 1 0 < 2) && decide (nbits ctl 3 2 ≠ 0) && decide (1 ≤ nd) && decide (nd ≤ 10)
    && decide (nbits ctl 31 10 = 0) && decide (fieldLE d 12 4 = 0) && decide (fieldLE d 116 12 = 0)
    && (List.range nd).all (fun k => decide (fieldLE d (76 + 2 * k) 2 ≤ fieldLE d (96 + 2 * k) 2)
        && decide (fieldLE d (96 + 2 * k) 2 ≤ fieldLE d (16 + 2 * k) 2))

/-- An access of `n` bytes at `a` covers an armed unit (R399). -/
def Watch.covers (w : Watch) (space : Nat) (rd wr : Bool) (a n : Nat) : Bool :=
  let ctl := fieldLE w.desc 8 4
  w.armed && decide (nbits ctl 1 0 = space) && ((rd && nbits ctl 2 2 == 1) || (wr && nbits ctl 3 3 == 1))
    && watchMeets w.desc a n (2 ^ nbits ctl 9 8) (List.range (nbits ctl 7 4)) (fieldLE w.desc 0 8)

/-- The units of a context that an access covers, without those in `off`. -/
def State.watchHits (s : State) (guest : Nat) (off : BitVec 4) (space : Nat) (rd wr : Bool) (a n : Nat) : BitVec 4 :=
  (List.range 4).foldl (fun m k =>
    if !off.getLsbD k && ((s.ctx guest).watch.getD k Watch.off).covers space rd wr a n then m ||| (1 <<< k : Nat) else m) 0

/-- The address of the first piece of `step` bytes of an access that a unit covers: what a copy or sequencer record gives
(R308, R343; log 59). -/
def State.firstHit (s : State) (guest : Nat) (off : BitVec 4) (space : Nat) (rd wr : Bool) (a n step : Nat) : Nat :=
  a + step * ((List.range (n / step)).find? (fun k => s.watchHits guest off space rd wr (a + step * k) step != 0)).getD 0

/-- WATCH_TENSOR sets HIT of every unit covered (R400). -/
def State.setHits (s : State) (guest : Nat) (m : BitVec 4) : State :=
  s.modCtx guest (fun c => { c with watch := (List.range 4).map (fun k =>
    let w := c.watch.getD k Watch.off
    if m.getLsbD k then { w with hit := true } else w) })

/-- HIT is set, and the part is not checked against the units until a run of it commits (R400). -/
def State.raiseWatch (s : State) (c : Cur) (m : BitVec 4) : State :=
  (s.setHits c.g.guest m).modGroup c.core c.slot
    (fun g => g.modSplit c.r.split (fun p => { p with watchOff := p.watchOff ||| m }))

/-- The units suppressed for the running part. -/
def Cur.watchOff (c : Cur) : BitVec 4 :=
  match c.g.splits.getD c.r.split none with
  | some p => p.watchOff
  | none => 0

/-! ## Address checks (R212, R240, R241) -/

/-- The apertures an instruction accepts. -/
structure Accepts where
  scratch : Bool
  thread : Bool

/-- A scratchpad-aperture address's form (R240). -/
def scratchFormOk (va : Addr) : Bool :=
  decide (nbits va.toNat 55 22 = 0) && (decide (nbits va.toNat 21 21 = 1) || decide (nbits va.toNat 20 19 = 0))

/-- Check 1 of R212 passes. -/
def State.formOk (s : State) (guest : Nat) (acc : Accepts) (va : Addr) (n : Nat) : Bool :=
  match aperture va with
  | .global => true
  | .scratch => acc.scratch && scratchFormOk va
  | .thread => acc.thread && (s.threadVa guest va n).isSome
  | .none => false

/-- The lanes and addresses of a mask, for XADDR. -/
def xaddrOf (m : Mask) (addr : Nat → Addr) : AMap DWord := (lanesOf m).map (fun l => (l, addr l))

/-- The checks of R212 in order, each over the guarded-on lanes; the first that fails faults with its lanes. -/
def Cur.checkAddr (c : Cur) (s : State) (on : Mask) (n : Nat) (acc : Accepts) (rd wr : Bool) (addr : Nat → Addr)
    (f : Unit → Res) : Res :=
  let m1 := maskOf (fun l => laneOn on l && !s.formOk c.g.guest acc (addr l) n)
  if m1 ≠ 0 then .fault s cAddrForm m1 (xaddrOf m1 addr) else
  let m2 := maskOf (fun l => laneOn on l && decide ((addr l).toNat % n ≠ 0))
  if m2 ≠ 0 then .fault s cAlign m2 (xaddrOf m2 addr) else
  let hits (l : Nat) := s.watchHits c.g.guest c.watchOff 0 rd wr (addr l).toNat n
  let m3 := maskOf (fun l => laneOn on l && hits l != 0)
  if m3 ≠ 0 then
    .fault (s.raiseWatch c ((lanesOf m3).foldl (fun u l => u ||| hits l) 0)) cWatch m3 (xaddrOf m3 addr) else
  let m4 := maskOf (fun l => laneOn on l && aperture (addr l) == .scratch
    && (s.scratchTarget c.core c.g.wslot (addr l) n).isNone)
  if m4 ≠ 0 then .fault s cScratchBounds m4 (xaddrOf m4 addr) else f ()

/-- The checks of R212 on one lane's access of `n` bytes whose alignment the instruction makes itself (R189, R286). -/
def Cur.checkBlock (c : Cur) (s : State) (l n : Nat) (va : Addr) (f : Unit → Res) : Res :=
  let m : Mask := BitVec.ofNat 32 (2 ^ l)
  let hits := s.watchHits c.g.guest c.watchOff 0 true false va.toNat n
  if !s.formOk c.g.guest ⟨true, true⟩ va n then .fault s cAddrForm m [(l, va)]
  else if hits != 0 then .fault (s.raiseWatch c hits) cWatch m [(l, va)]
  else if aperture va == .scratch && (s.scratchTarget c.core c.g.wslot va n).isNone then .fault s cScratchBounds m [(l, va)]
  else f ()

/-- Every aperture, and global only. -/
def allApertures : Accepts := ⟨true, true⟩
def globalOnly : Accepts := ⟨false, false⟩

/-! ## Witnesses (R230 to R237) -/

def witScope (w : DWord) : Nat := nbits w.toNat 63 62
def witDomain (w : DWord) : Nat := nbits w.toNat 61 48
def witT (w : DWord) : DTime := w.setWidth 48
/-- A witness from its fields (R230). -/
def mkWit (scope dom : Nat) (t : DTime) : DWord := BitVec.ofNat 64 (scope * 2 ^ 62 + dom * 2 ^ 48 + t.toNat)
/-- The void witness's scope and domain (R230). -/
def isVoid (w : DWord) : Bool := witScope w == 1 && witDomain w == 0x3FFF

/-- The scope's code (R230). -/
def scopeCode : Scope → Nat
  | .wg => 1
  | .dev => 2
  | .sys => 3

/-- The domain of a scope for a workgroup (R230). -/
def State.domainOf (s : State) (core wslot : Nat) (sc : Scope) : Nat :=
  match sc with
  | .wg => core * 16 + wslot
  | .dev => s.dev.pkgid.toNat
  | .sys => 0x3FFF

/-- Expired (R232). -/
def State.witExpired (s : State) (w : DWord) : Bool :=
  !leaseLive s.dtime (witT w) (if witScope w = 3 then Config.lease + Config.skew else Config.lease)

/-- LSTART of the root launch of a group (R231, R267). -/
def State.lstartOf (s : State) (g : Group) : DTime :=
  match mfind s.launches g.launch with
  | some l => match mfind s.launches l.root with
    | some r => r.lstart
    | none => l.lstart
  | none => 0

/-- ConsumeWitness (R231): `none` is SCOPE_MISMATCH; else the effective witness, 0 where it adds nothing (R231 to R233). -/
def State.consume (s : State) (core : Nat) (g : Group) (w : DWord) : Option DWord :=
  let live (v : DWord) : DWord := if s.witExpired v then 0 else v
  match witScope w with
  | 0 => some 0
  | 1 =>
    if isVoid w then none
    else if dtLater (s.lstartOf g) (witT w) then some 0
    else if witDomain w = core * 16 + g.wslot then some (live w)
    else match s.wgroup core g.wslot with
      | some wg => match wg.alias_ with
        | some (d, t) => if d.toNat = witDomain w then some (live (mkWit 2 s.dev.pkgid.toNat t)) else none
        | none => none
      | none => none
  | 2 =>
    if dtLater (s.lstartOf g) (witT w) then some 0
    else if witDomain w = s.dev.pkgid.toNat then some (live w) else none
  | _ => some (live w)

/-- The stamp an L1 line needs under an effective witness (R217, R256). -/
def witBound (w : DWord) : DTime := if witScope w = 3 then witT w + BitVec.ofNat 48 Config.skew else witT w

/-- The lanes whose witness faults when consumed. -/
def Cur.badWitness (c : Cur) (s : State) (on : Mask) (w : Nat → DWord) : Mask :=
  maskOf (fun l => laneOn on l && (s.consume c.core c.g (w l)).isNone)

/-! ## Synchronising accesses (R229, R263 to R265) -/

/-- Classes of operation in the path table (R265). -/
inductive PathOp | exch | other | fadd | plain
  deriving DecidableEq, Repr

/-- The column of an atomic (R265). -/
def pathOf : AtomOp → PathOp
  | .add | .xch | .cas => .exch
  | .fadd => .fadd
  | _ => .other

/-- The path capability table (R265), by the leaf's KIND and PATH. -/
def pathCan (leaf : Nat) (op : PathOp) : Bool :=
  match op with
  | .plain => true
  | .exch => nbits leaf 5 4 == 0 || (nbits leaf 5 4 == 1 && decide (nbits leaf 8 6 ≤ 1)) || (nbits leaf 5 4 == 2 && nbits leaf 8 6 == 0)
  | .other => nbits leaf 5 4 == 0 || (nbits leaf 5 4 == 1 && nbits leaf 8 6 == 0)
  | .fadd => nbits leaf 5 4 == 0

/-- The scope checker on one line (R264): passes. -/
def State.scopePass (s : State) (guest line : Nat) (sc : Scope) (dom : BitVec 14) : Bool :=
  match mfind s.scopes line with
  | none => true
  | some r =>
    if r.guest ≠ guest ∨ !leaseLive s.dtime r.stamp (if r.scope = .sys then Config.lease + Config.skew else Config.lease) then true
    else match sc with
      | .wg => r.scope == .wg && r.domain == dom
      | .dev => r.scope != .sys
      | .sys => true

/-- What a synchronising lane meets before commit. -/
inductive SyncRes
  | ok (s : State)
  | trans (c : Cause)
  | path
  | scope
  deriving DecidableEq

/-- One lane's checks before commit (R229): translation, path capability at system scope, the scope checker. -/
def State.syncLane (s : State) (core : Nat) (g : Group) (sc : Scope) (op : PathOp) (va : Addr) : SyncRes :=
  match s.translate g.guest va.toNat .write with
  | .error c => .trans c
  | .ok (pa, leaf) =>
    let dom := BitVec.ofNat 14 (s.domainOf core g.wslot sc)
    if sc = .sys ∧ !pathCan leaf op then .path
    else if sc ≠ .sys ∧ nbits leaf 5 4 ≠ 0 then .scope
    else if !s.scopePass g.guest (pa / 128) sc dom then .scope
    else .ok (s.putScope (pa / 128) ⟨sc, dom, s.dtime, g.guest⟩)

/-- The checks of every guarded-on lane in ascending order, and the lanes that met each failure. -/
def State.syncLanes (s : State) (core : Nat) (g : Group) (sc : Scope) (op : PathOp) (addr : Nat → Addr) (ls : List Nat) :
    State × List (Nat × SyncRes) :=
  ls.foldl (fun acc l => match acc.1.syncLane core g sc op (addr l) with
    | .ok s' => (s', acc.2)
    | r => (acc.1, acc.2 ++ [(l, r)])) (s, [])

/-- Lanes of a list of failures that satisfy a condition, as a mask. -/
def failMask (xs : List (Nat × SyncRes)) (p : SyncRes → Bool) : Mask :=
  maskOf (fun l => xs.any (fun x => x.1 == l && p x.2))

/-- The handling of a synchronising access before commit (R229): the cause of the lowest faulting lane, with the lanes
that met it; then ATOMIC_PATH; then SCOPE_MISMATCH. -/
def Cur.checkSync (c : Cur) (s : State) (on : Mask) (sc : Scope) (op : PathOp) (addr : Nat → Addr) (f : State → Res) : Res :=
  let r := s.syncLanes c.core c.g sc op addr (lanesOf on)
  let trans := r.2.filterMap (fun x => match x.2 with | .trans k => some k | _ => none)
  match trans with
  | k :: _ =>
    let m := failMask r.2 (fun x => x == .trans k)
    .fault s k m (xaddrOf m addr)
  | [] =>
    let mp := failMask r.2 (fun x => x == .path)
    if mp ≠ 0 then .fault s cAtomicPath mp (xaddrOf mp addr) else
    let ms := failMask r.2 (fun x => x == .scope)
    if ms ≠ 0 then .fault s cScope ms (xaddrOf ms addr) else f r.1

/-! ## Delivery of results (R75, R215, R367) -/

/-- The part of a group that holds a lane: split, pending entry, or parked part. -/
def Group.partWith (g : Group) (l : Nat) : Option Part :=
  let ps := match g.parked with
    | some k => k.splits.filterMap id ++ k.pend ++ k.ovf ++ g.parts
    | none => g.parts
  ps.find? (fun p => laneOn p.mask l)

/-- One word of a stack result: into the window where the entry is resident, else into the plinth (R70, R88). Where the entry's
plinth line no longer translates the word is lost: the model's choice (log 87). -/
def State.putEntry (s : State) (core slot : Nat) (l idx : Nat) (w : Word) : State :=
  match s.group core slot with
  | none => s
  | some g =>
    match g.partWith l with
    | none => s
    | some p =>
      let m : Mask := BitVec.ofNat 32 (2 ^ l)
      if p.depth - p.res ≤ idx ∨ p.excess.any (fun e => laneOn e.mask l && decide (e.lo ≤ idx) && decide (idx < e.lo + e.n)) then
        s.setGroup core slot { g with win := mset g.win (idx % 8) (mergeLanes m (mkLanes (fun _ => w)) (mget g.win (idx % 8) [])) }
      else match s.plinthWrite core g.guest g.pb idx m (mkLanes (fun _ => w)) with
        | .ok s' => s'
        | .error _ => s

/-- One word of a frame result. -/
def State.putFrame (s : State) (core slot : Nat) (l n : Nat) (w : Word) : State :=
  let one (old : Lanes) : Lanes := mergeLanes (BitVec.ofNat 32 (2 ^ l)) (mkLanes (fun _ => w)) old
  s.modGroup core slot (fun g => { g with frame := mset g.frame n (one (mget g.frame n [])) })

/-- The result words of one lane written to an operation's destination, unless the lane has exited or the operation is
discarded (R86, R165). -/
def State.deliverLane (s : State) (o : Op) (l : Nat) (ws : List Word) : State :=
  match s.group o.core o.slot with
  | none => s
  | some g =>
    if o.dropped || !laneOn g.live l then s else
    match o.dest with
    | .none => s
    | .stack i n => (List.range n).foldl (fun s k => s.putEntry o.core o.slot l (i + k) (ws.getD k 0)) s
    | .frame i n => (List.range n).foldl (fun s k => s.putFrame o.core o.slot l (i + k) (ws.getD k 0)) s

/-- A lane of an operation changes its state. -/
def Op.setLane (o : Op) (l : Nat) (st : LaneSt) : Op :=
  { o with lanes := o.lanes.map (fun x => if x.req.lane = l then { x with st := st } else x) }

/-- The state with an operation changed. -/
def State.modOp (s : State) (id : Nat) (f : Op → Op) : State := { s with ops := mmod s.ops id f }

/-! ## Fault records (R366, R367) -/

/-- A record is placed in its queue, or spilled, or there is no room (R366). -/
def State.placeRec (s : State) (r : Rec) : Option State :=
  let seq := mget s.seqnos r.core 0
  let s' := { s with seqnos := mset s.seqnos r.core (seq + 1) }
  let r := { r with seqno := BitVec.ofNat 16 seq }
  match s.freeHw r.core r.guest r.store with
  | some k => some { s' with recs := s.recs ++ [{ r with hw := some k }] }
  | none => if s.recordRoom r.guest then some ({ s' with recs := s.recs ++ [{ r with hw := none }] }.spillRec s.recs.length noHw) else none

/-- The record of one faulting lane of a load-class operation (R216, R367). -/
def Op.record (o : Op) (owner : DWord) (l : Nat) (k : Cause) : Rec :=
  { core := o.core, guest := o.guest, slot := o.slot, pc := o.pc, unf := BitVec.ofNat 32 (2 ^ l), rslv := 0, cause := k
    kind := (destKind o.dest).1, size := sizeByte o.size (o.ext == .sign), dest := (destKind o.dest).2
    owner := owner, gen := o.gen, seqno := 0, hw := none, pinned := false, delivered := false, store := false
    addr := [(l, (o.req l).va)], data := [], op := o.id }

/-- One more lane of the same operation; the cause is that of the lowest lane (R367). -/
def Rec.join (r x : Rec) (l : Nat) : Rec :=
  { r with unf := r.unf ||| x.unf, cause := if r.unf.toNat % 2 ^ l = 0 then x.cause else r.cause
           addr := mset r.addr l (mget x.addr l 0), data := if r.store then mset r.data l (mget x.data l 0) else r.data }

/-- A faulting lane's record: it joins the record of its operation that has not been delivered, or it makes one (R216,
R370; log 59). `none`: no room (R366). -/
def State.recordLane (s : State) (x : Rec) (l : Nat) : Option State :=
  match s.recs.findIdx? (fun r => r.isFor x.op && r.core == x.core && !r.delivered && r.unf != 0) with
  | some i => some ({ s with recs := s.recs.modify i (fun r => r.join x l) }.rewriteRec i)
  | none => s.placeRec x

/-- The words of a lane's result as the DATA of a record holds them (R367). -/
def wordsData (ws : List Word) : BitVec 128 :=
  BitVec.ofNat 128 (leNat (ws.flatMap (fun w => leBytes 4 w.toNat)))

/-! ## Operations in flight and their records (R382, R383) -/

/-- The replies that a saved operation's record holds, written into its slot (R383). -/
def State.keepReplies (s : State) (id : Nat) : State :=
  match mfind s.ops id with
  | none => s
  | some o => match o.area with
    | none => s
    | some k =>
      let have_ := o.lanes.filter (fun x => x.st == .resolved)
      s.patchSlot o.guest k (maskOf (fun l => have_.any (fun x => x.req.lane == l))) (have_.map (fun x => (x.req.lane, x.req.val.toNat)))

/-- The status that an operation answers; for a saved group it is a reply to the record (R383). -/
def State.putStatus (s : State) (id : Nat) (v : Word) : State :=
  match mfind s.ops id with
  | none => s
  | some o =>
    let s := { s with ops := mset s.ops id { o with status := some v } }
    match o.area with
    | none => s
    | some k => s.patchSlot o.guest k o.mask ((lanesOf o.mask).map (fun l => (l, v.toNat)))

/-- A lane's result arrives for an operation: it is delivered and the lane is done; for a saved operation it is a reply
on its way to the record (R383). -/
def State.answer (s : State) (o : Op) (l : Nat) (ws : List Word) : State :=
  if o.saved then
    s.modOp o.id (fun o => { o with lanes := o.lanes.map (fun x =>
      if x.req.lane = l then { x with req := { x.req with val := wordsData ws }, st := .replied } else x) })
  else (s.deliverLane o l ws).modOp o.id (fun o => o.setLane l .done)

/-- The lanes of an operation's group that live, while its results count. -/
def State.liveOf (s : State) (o : Op) : Mask := match s.group o.core o.slot with | some g => if o.dropped then 0 else g.live | none => 0

/-- A lane of a load meets a fault and is recorded (R216), unless it has exited (R165, R368); with no room its lane waits
(R366); a saved operation makes no new record (R383). -/
def State.loadFault (s : State) (id l : Nat) (k : Cause) : State :=
  match mfind s.ops id with
  | none => s
  | some o =>
    if o.saved then s.modOp id (fun o => o.setLane l (if o.dropped then .done else .faulted k))
    else if !laneOn (s.liveOf o) l then (s.modOp id (fun o => o.setLane l .done)).settleOp id
    else
      let s := s.modOp id (fun o => o.setLane l (.faulted k))
      (s.recordLane (o.record (match s.group o.core o.slot with | some g => g.wid | none => 0) l k) l).getD s

/-- A lane of a load finishes with its data (R215). -/
def State.loadDone (s : State) (id l : Nat) (ws : List Word) : State :=
  match mfind s.ops id with
  | none => s
  | some o => (s.answer o l ws).settleOp id

/-- The words of a load's bytes (R211). -/
def loadWords (size : Nat) (ext : Ext) (bs : List Byte) : List Word :=
  match size with
  | 1 => [if ext = .sign then (BitVec.ofNat 8 (leNat bs)).signExtend 32 else BitVec.ofNat 32 (leNat bs)]
  | 2 => [if ext = .sign then (BitVec.ofNat 16 (leNat bs)).signExtend 32 else BitVec.ofNat 32 (leNat bs)]
  | 4 => [BitVec.ofNat 32 (leNat bs)]
  | 8 => [BitVec.ofNat 32 (leNat bs), BitVec.ofNat 32 (leNat (bs.drop 4))]
  | _ => (List.range 4).map (fun k => BitVec.ofNat 32 (leNat ((bs.drop (4 * k)).take 4)))

/-! ## Scratchpad ranges of copies in flight (R306) -/

/-- A copy's scoreboard range meets physical bytes of a core's scratchpad. -/
def State.scoreHit (s : State) (core lo n : Nat) : Bool :=
  s.chains.any (fun c => c.range.any (fun x => x.1 == core && decide (x.2.1 < lo + n) && decide (lo < x.2.1 + x.2.2)))

end Sys2Proof.Machine
end

