-- ==== Sys2Proof/Machine/Flags.lean ====
section
/-! DEFINITION. The arithmetic flags AFLAGS and their computations (R102, R103). -/

namespace Sys2Proof.Machine

/-- The working AFLAGS as `mfs` reads it (R102, R103). -/
def Run.flagWord (r : Run) : Word := r.aflags.setWidth 32

/-- `mts AFLAGS`: each bit written 1 clears (R102, R274). -/
def Run.clearFlags (r : Run) (v : Word) : Run := { r with aflags := r.aflags &&& ~~~(v.setWidth 6) }

/-- Flag events raised. -/
def Run.raise (r : Run) (f : BitVec 6) : Run := { r with aflags := r.aflags ||| f }

/-- DZ of an integer division (R152). -/
def divFlag {n : Nat} (y : BitVec n) : BitVec 6 := if y = 0 then 2 else 0

/-- INV of `ldu` (R147). -/
def lduFlag (i : Word) : BitVec 6 := if 64 ≤ i.toNat then 1 else 0

/-- Carry out of `addc`, borrow out of `subb` (R155). -/
def carryOut {n : Nat} (x y : BitVec n) (c : Bool) : Bool := decide (2 ^ n ≤ x.toNat + y.toNat + c.toNat)
def borrowOut {n : Nat} (x y : BitVec n) (c : Bool) : Bool := decide (x.toNat < y.toNat + c.toNat)

end Sys2Proof.Machine
end

