-- ==== Sys2Proof/Machine/LoadStore.lean ====
section
/-! DEFINITION. Loads, stores, scratchpad accesses, `prf` and `sdrain` inside a run (R211 to R226). -/

namespace Sys2Proof.Machine

/-- Size of a load width (R211). -/
def ldSize : LdW → Nat
  | .i8 | .z8 => 1
  | .i16 | .z16 => 2
  | .i32 => 4
  | .i64 => 8
/-- How its bytes are extended (R211). -/
def ldExt : LdW → Ext
  | .i8 | .i16 => .sign
  | _ => .zero
/-- Size of a store width (R221). -/
def stSize : StW → Nat
  | .i8 => 1
  | .i16 => 2
  | .i32 => 4
  | .i64 => 8
/-- Entries of an access of `n` bytes. -/
def sizeWords (n : Nat) : Nat := if n = 16 then 4 else if n = 8 then 2 else 1

/-- The value in popped entries `k` to `k + n - 1` of a lane, as bytes from the low word up. -/
def wordsVal (ws : List Word) (k n : Nat) : BitVec 128 :=
  BitVec.ofNat 128 ((List.range n).foldl (fun acc i => acc + (ws.getD (k + i) 0).toNat * 2 ^ (32 * i)) 0)

/-- Lane requests of the guarded-on lanes in ascending order. -/
def laneReqs (on : Mask) (va : Nat → Addr) (val : Nat → BitVec 128) (cmp wit : Nat → DWord) : List LaneReq :=
  (lanesOf on).map (fun l => ⟨l, va l, val l, cmp l, wit l⟩)

/-- A load (R214, R217): frame check, address check, witness, and the operation left to the trailer. -/
def State.loadInstr (s : State) (gd : Guard) (size : Nat) (ext : Ext) (wit : Bool) (frame : Option Nat) :
    Host.Outcome State Fault Refusal :=
  s.runInstr (fun c =>
    let on := c.on gd
    let a := if wit then 4 else 2
    let ps := c.r.popped a
    let va (l : Nat) : Addr := item 64 (argsOf ps l) 0
    let w (l : Nat) : DWord := if wit then item 64 (argsOf ps l) 2 else 0
    let go : Unit → Res := fun _ =>
      c.checkAddr s on size allApertures true false va (fun _ =>
        let bad := c.badWitness s on w
        if bad ≠ 0 then .fault s cScope bad [] else
        let x : Staged := .load size ext wit frame
          (laneReqs on va (fun _ => 0) (fun _ => 0) (fun l => (s.consume c.core c.g (w l)).getD 0))
        match frame with
        | none => .ok s (c.r.pushPending a (sizeWords size) x) 1
        | some _ => .ok s ((c.r.replace a []).stage x) 1)
    match frame with
    | none => go ()
    | some n => c.frameCheck s n (sizeWords size) go)

/-- R214. -/
def execLd (gd : Guard) (w : LdW) (s : State) : Host.Outcome State Fault Refusal := s.loadInstr gd (ldSize w) (ldExt w) false none
/-- R214. -/
def execLdq (gd : Guard) (s : State) : Host.Outcome State Fault Refusal := s.loadInstr gd 16 .zero false none
/-- R214, R217. -/
def execLdw (gd : Guard) (w : LdW) (s : State) : Host.Outcome State Fault Refusal := s.loadInstr gd (ldSize w) (ldExt w) true none
/-- R214. -/
def execLdF (gd : Guard) (f : BitVec 8) (w : LdW) (s : State) : Host.Outcome State Fault Refusal :=
  s.loadInstr gd (ldSize w) (ldExt w) false (some f.toNat)
/-- R214. -/
def execLdqF (gd : Guard) (f : BitVec 8) (s : State) : Host.Outcome State Fault Refusal := s.loadInstr gd 16 .zero false (some f.toNat)
/-- R214, R217. -/
def execLdwF (gd : Guard) (f : BitVec 8) (w : LdW) (s : State) : Host.Outcome State Fault Refusal :=
  s.loadInstr gd (ldSize w) (ldExt w) true (some f.toNat)

/-! ## Scratchpad (R218 to R220) -/

/-- Bytes of the issuing workgroup's allocation, and its first physical byte. -/
def State.allocOf (s : State) (c : Cur) : Nat × Nat :=
  match s.wgroup c.core c.g.wslot with
  | some w => (1024 * w.sgran, 1024 * w.sbase)
  | none => (0, 0)

/-- The checks of R218, then the wait for copies in flight (R306), then the access. -/
def Cur.checkScratch (c : Cur) (s : State) (on : Mask) (n : Nat) (off : Nat → Nat) (f : Unit → Res) : Res :=
  let xa (m : Mask) : AMap DWord := (lanesOf m).map (fun l => (l, BitVec.ofNat 64 (off l)))
  let m1 := maskOf (fun l => laneOn on l && decide (off l % n ≠ 0))
  if m1 ≠ 0 then .fault s cAlign m1 (xa m1) else
  let m2 := maskOf (fun l => laneOn on l && decide ((s.allocOf c).1 < off l + n))
  if m2 ≠ 0 then .fault s cScratchBounds m2 (xa m2) else
  match (lanesOf on).find? (fun l => s.scoreHit c.core ((s.allocOf c).2 + off l) n) with
  | some l => .wait s (.copy ((s.allocOf c).2 + off l) ((s.allocOf c).2 + off l + n))
  | none => f ()

/-- The bank count c of R219. -/
def bankCount (on : Mask) (n : Nat) (off : Nat → Nat) : Nat :=
  let words := ((lanesOf on).flatMap (fun l => (List.range (if n = 8 then 2 else 1)).map (fun k => off l / 4 + k))).dedup
  (List.range 48).foldl (fun m b => max m (words.filter (fun i => i % 48 = b)).length) 1

/-- Byte `o` of the allocation with one staged store of `n` bytes laid over it. -/
def laneByte (n o : Nat) (b : Byte) (q : LaneReq) : Byte :=
  if q.va.toNat ≤ o ∧ o < q.va.toNat + n then (q.val >>> (8 * (o - q.va.toNat))).setWidth 8 else b

/-- A byte of the allocation as the run sees it: its own earlier `sts`, latest first, else the scratchpad (R77, R220). -/
def Run.scratchByte (r : Run) (m : Memory) (base o : Nat) : Byte :=
  r.staged.foldl (fun b x => match x with
    | .sts n ls => ls.foldl (laneByte n o) b
    | _ => b) (rdByte m (base + o))

/-- R218. -/
def execLds (gd : Guard) (w : LdW) (s : State) : Host.Outcome State Fault Refusal :=
  s.runInstr (fun c =>
    let on := c.on gd
    let n := ldSize w
    let ps := c.r.popped 1
    let off (l : Nat) : Nat := (popWord ps l).toNat
    c.checkScratch s on n off (fun _ =>
      let base := (s.allocOf c).2
      let m := s.scratchOf c.core
      let bytes (l : Nat) := (List.range n).map (fun k => c.r.scratchByte m base (off l + k))
      let outs (l : Nat) := if laneOn on l then loadWords n (ldExt w) (bytes l) else [0, 0]
      let new := (List.range (sizeWords n)).map (fun j => (⟨mkLanes (fun l => (outs l).getD j 0), none⟩ : Entry))
      .ok s (c.r.replace 1 new) (3 + bankCount on n off)))
where
  popWord (ps : List Lanes) (l : Nat) : Word := laneAt (ps.getD 0 []) l

/-- R218: the bytes are written at the trailer. -/
def execSts (gd : Guard) (w : StW) (s : State) : Host.Outcome State Fault Refusal :=
  s.runInstr (fun c =>
    let on := c.on gd
    let n := stSize w
    let a := 1 + sizeWords n
    let ps := c.r.popped a
    let off (l : Nat) : Nat := ((argsOf ps l).getD 0 0).toNat
    c.checkScratch s on n off (fun _ =>
      .ok s ((c.r.replace a []).stage (.sts n (laneReqs on (fun l => BitVec.ofNat 64 (off l))
        (fun l => wordsVal (argsOf ps l) 1 (sizeWords n)) (fun _ => 0) (fun _ => 0)))) (3 + bankCount on n off)))

/-! ## Stores (R221 to R226) -/

/-- A plain store (R221, R222). -/
def State.storeInstr (s : State) (gd : Guard) (n : Nat) : Host.Outcome State Fault Refusal :=
  s.runInstr (fun c =>
    let on := c.on gd
    let a := 2 + sizeWords n
    let ps := c.r.popped a
    let va (l : Nat) : Addr := item 64 (argsOf ps l) 0
    c.checkAddr s on n allApertures false true va (fun _ =>
      .ok s ((c.r.replace a []).stage (.store n (laneReqs on va
        (fun l => wordsVal (argsOf ps l) 2 (sizeWords n)) (fun _ => 0) (fun _ => 0)))) 1))

/-- R221. -/
def execSt (gd : Guard) (w : StW) (s : State) : Host.Outcome State Fault Refusal := s.storeInstr gd (stSize w)
/-- R221. -/
def execStq (gd : Guard) (s : State) : Host.Outcome State Fault Refusal := s.storeInstr gd 16

/-- `stw` (R221, R224): checked before commit as R229 lays down; its witness is pending. -/
def State.stwInstr (s : State) (gd : Guard) (sc : Scope) (n : Nat) : Host.Outcome State Fault Refusal :=
  s.runInstr (fun c =>
    let on := c.on gd
    let a := 2 + sizeWords n
    let ps := c.r.popped a
    let va (l : Nat) : Addr := item 64 (argsOf ps l) 0
    c.checkAddr s on n globalOnly false true va (fun _ =>
      c.checkSync s on sc .plain va (fun s' =>
        .ok s' (c.r.pushPending a 2 (.stw sc n (laneReqs on va
          (fun l => wordsVal (argsOf ps l) 2 (sizeWords n)) (fun _ => 0) (fun _ => 0)))) 1)))

/-- R224. -/
def execStwWg (gd : Guard) (w : StW) (s : State) : Host.Outcome State Fault Refusal := s.stwInstr gd .wg (stSize w)
/-- R224. -/
def execStwDev (gd : Guard) (w : StW) (s : State) : Host.Outcome State Fault Refusal := s.stwInstr gd .dev (stSize w)
/-- R224. -/
def execStwSys (gd : Guard) (w : StW) (s : State) : Host.Outcome State Fault Refusal := s.stwInstr gd .sys (stSize w)

/-- R225: a request that never faults; addresses that fail a check are ignored. -/
def execPrf (gd : Guard) (s : State) : Host.Outcome State Fault Refusal :=
  s.runInstr (fun c =>
    let ps := c.r.popped 2
    let va (l : Nat) : Addr := item 64 (argsOf ps l) 0
    let on := maskOf (fun l => laneOn (c.on gd) l && s.formOk c.g.guest allApertures (va l) 1)
    .ok s ((c.r.replace 2 []).stage (.prf (laneReqs on va (fun _ => 0) (fun _ => 0) (fun _ => 0)))) 1)

/-- A store of the group waits behind a load that an undelivered record holds (R223, R369). -/
def State.drainHeld (s : State) (c : Cur) : Bool :=
  s.recs.any (fun r => r.core == c.core && r.slot == c.slot && !r.delivered
    && c.g.sq.any (fun e => s.recBefore c.core c.g r e.op e.lane e.va e.size))

/-- A faulting lane of a store of the group has no record yet, and stays in flight (R366). -/
def State.drainFull (s : State) (c : Cur) : Bool :=
  s.ops.any (fun x => x.2.core == c.core && x.2.slot == c.slot && x.2.kind == .store
    && x.2.lanes.any (fun y => match y.st with | .faulted _ => true | _ => false))

/-- R226: the run holds until every store released earlier is accepted or has faulted; an undelivered store record, or an
undelivered record that a store waits behind (R369), rolls it back. -/
def execSdrain (gd : Guard) (s : State) : Host.Outcome State Fault Refusal :=
  s.runInstr (fun c =>
    if (c.acts gd).isNone then .ok s c.r 1
    else if !c.g.sq.isEmpty then (if s.drainHeld c then .wait s .drain else .hold s)
    else if s.recs.any (fun r => r.core == c.core && r.slot == c.slot && r.store && !r.delivered) then .wait s .drain
    else if s.drainFull c then .hold s
    else .ok s { c.r with start := max c.r.start s.cc } 1)

end Sys2Proof.Machine
end

