-- ==== Sys2Proof/Machine/Accum.lean ====
section
/-! DEFINITION. The accumulators as the cores reach them (R321, R322, R337 to R339). -/

namespace Sys2Proof.Machine

/-- Key of accumulator entry `e` of row `i` in a bank side (R321); also its place in the window, in words (R248). -/
def accKey (i side e : Nat) : Nat := ((i / 64 * 2 + side) * 64 + i % 64) * 512 + e

/-- The window address of an accumulator entry of a cluster (R248). -/
def accWindow (cluster key : Nat) : Nat := 0x90000000000 + cluster * 0x100000 + 4 * key

/-- The rows of a core's tenant, first and end (R322). -/
def State.tenantRows (s : State) (core : Nat) : Nat × Nat :=
  if (s.cluster (clusterOf core)).split then (if core % 4 < 2 then (0, 64) else (64, 128)) else (0, 128)

/-- A context's first use of a row half since another used it: weights and accumulators of the half become +0 and its
latches invalid (R322). -/
def State.useHalf (s : State) (cluster half guest : Nat) : State :=
  let k := s.cluster cluster
  if k.user.getD half none = some guest then s else
  s.modCluster cluster (fun k => { k with
    acc := k.acc.filter (fun x => x.1 / 65536 != half), weights := k.weights.filter (fun x => x.1 / 8192 != half),
    wscales := k.wscales.filter (fun x => x.1 / (64 * 16) != half), latches := k.latches.filter (fun x => x.1 / 2 != half),
    user := lset k.user half (some guest) })

/-- The halves that a span of rows meets. -/
def halvesOf (lo hi : Nat) : List Nat := (List.range 2).filter (fun h => decide (lo < 64 * h + 64) && decide (64 * h < hi))

/-- Fields of the address word of R338. -/
def adRow (ad : Word) : Nat := nbits ad.toNat 6 0
def adSide (ad : Word) : Nat := nbits ad.toNat 7 7
def adEntry (ad : Word) : Nat := nbits ad.toNat 16 8
def adKey (ad : Word) : Nat := accKey (adRow ad) (adSide ad) (adEntry ad)

/-- The checks of R338 on each guarded-on lane, then the watch units on the accumulator window (R399). -/
def Cur.checkAcc (c : Cur) (s : State) (on : Mask) (n : Nat) (wr : Bool) (ad : Nat → Word) (f : Unit → Res) : Res :=
  let rows := s.tenantRows c.core
  let bad := maskOf (fun l => laneOn on l && (decide (nbits (ad l).toNat 31 17 ≠ 0)
    || decide (adRow (ad l) < rows.1) || decide (rows.2 ≤ adRow (ad l)) || decide (512 < adEntry (ad l) + n)))
  if bad ≠ 0 then .fault s cAccRange bad [] else
  let win (l : Nat) : Nat := accWindow (clusterOf c.core) (adKey (ad l))
  let hits (l : Nat) := s.watchHits c.g.guest c.watchOff 1 (!wr) wr (win l) (4 * n)
  let m := maskOf (fun l => laneOn on l && hits l != 0)
  if m ≠ 0 then
    .fault (s.raiseWatch c ((lanesOf m).foldl (fun u l => u ||| hits l) 0)) cWatch m
      (xaddrOf m (fun l => BitVec.ofNat 64 (win l)))
  else f ()

/-- Armings that occupy a core's edge-port queue (R335). -/
def State.portHeld (s : State) (core : Nat) : Nat := (s.armings.filter (fun a => a.core == core)).length

/-- `mcatch` instructions of the run so far. -/
def Run.mcatches (r : Run) : Nat := (r.staged.filter (fun x => match x with | .mcatch _ _ _ => true | _ => false)).length

/-- R338, R339: posted at the trailer whatever the guard. -/
def execMcatch (gd : Guard) (f : BitVec 8) (nm : BitVec 4) (s : State) : Host.Outcome State Fault Refusal :=
  s.runInstr (fun c =>
    c.frameCheck s f.toNat (nm.toNat + 1) (fun _ =>
      if 4 ≤ s.portHeld c.core + c.r.mcatches then .wait s .port
      else .ok s { c.r.stage (.mcatch f.toNat (nm.toNat + 1) (c.on gd)) with nofb := true } 1))

/-- Requests for `n` accumulator entries of each guarded-on lane, in ascending lane order. -/
def accCells (on : Mask) (n : Nat) (ad : Nat → Word) (val : Nat → Nat → Word) : List LaneReq :=
  (lanesOf on).flatMap (fun l => (List.range n).map (fun k =>
    (⟨l, BitVec.ofNat 64 (adKey (ad l) + k), (val l k).setWidth 128, 0, 0⟩ : LaneReq)))

/-- R339. -/
def execAccld (gd : Guard) (f : BitVec 8) (nm : BitVec 4) (s : State) : Host.Outcome State Fault Refusal :=
  s.runInstr (fun c =>
    let n := nm.toNat + 1
    let ps := c.r.popped 1
    let ad (l : Nat) : Word := (argsOf ps l).getD 0 0
    c.frameCheck s f.toNat n (fun _ => c.checkAcc s (c.on gd) n false ad (fun _ =>
      .ok s ((c.r.replace 1 []).stage (.accld f.toNat n (accCells (c.on gd) n ad (fun _ _ => 0)))) 1)))

/-- R339: the registers are read at the instruction. -/
def execAccst (gd : Guard) (f : BitVec 8) (nm : BitVec 4) (s : State) : Host.Outcome State Fault Refusal :=
  s.runInstr (fun c =>
    let n := nm.toNat + 1
    let ps := c.r.popped 1
    let ad (l : Nat) : Word := (argsOf ps l).getD 0 0
    c.frameCheck s f.toNat n (fun _ => c.checkAcc s (c.on gd) n true ad (fun _ =>
      .ok s { (c.r.replace 1 []).stage (.accWrite (accCells (c.on gd) n ad (fun l k => laneAt (c.frame (f.toNat + k)) l)))
              with nofb := true } 1)))

/-- R339. -/
def execAccpatch (gd : Guard) (s : State) : Host.Outcome State Fault Refusal :=
  s.runInstr (fun c =>
    let ps := c.r.popped 2
    let ad (l : Nat) : Word := (argsOf ps l).getD 0 0
    c.checkAcc s (c.on gd) 1 true ad (fun _ =>
      .ok s { (c.r.replace 2 []).stage (.accWrite (accCells (c.on gd) 1 ad (fun l _ => (argsOf ps l).getD 1 0)))
              with nofb := true } 1))

end Sys2Proof.Machine
end

