-- ==== Sys2Proof/Machine/Atomic.lean ====
section
/-! DEFINITION. The atomics inside a run (R227 to R229); the home performs them (Home.lean). -/

namespace Sys2Proof.Machine

/-- Entries of an atomic's type. -/
def opWords : OpW → Nat
  | .w32 => 1
  | .w64 => 2

/-- What an atomic asks (R227): its guard, operation, type, signedness, scope and form. -/
structure AtomReq where
  gd : Guard
  op : AtomOp
  w : OpW
  sgn : Bool
  x : AtOp
  deriving DecidableEq, Repr

/-- Entries an atomic pops and pushes (R227). -/
def AtomReq.pops (q : AtomReq) : Nat := if q.op = .cas then 2 + 2 * opWords q.w else 2 + opWords q.w
def AtomReq.pushes (q : AtomReq) : Nat := if q.x.w then opWords q.w + 2 else opWords q.w

/-- The address of lane `l` of an atomic. -/
def AtomReq.va (q : AtomReq) (r : Run) (l : Nat) : Addr := item 64 (argsOf (r.popped q.pops) l) 0

/-- The guarded-on lanes of an atomic with their addresses, operands and compare values. -/
def AtomReq.lanes (q : AtomReq) (c : Cur) : List LaneReq :=
  let n := opWords q.w
  let ps := c.r.popped q.pops
  let cmp (l : Nat) : DWord := if q.op = .cas then (wordsVal (argsOf ps l) 2 n).setWidth 64 else 0
  let val (l : Nat) : BitVec 128 := wordsVal (argsOf ps l) (if q.op = .cas then 2 + n else 2) n
  laneReqs (c.on q.gd) (q.va c.r) val cmp (fun _ => 0)

/-- An atomic (R227, R229): checked before commit, dispatched at the trailer; old, and with .w the witness, are pending. -/
def State.atomicWith (s : State) (q : AtomReq) : Host.Outcome State Fault Refusal :=
  s.runInstr (fun c =>
    let n := opWords q.w
    c.checkAddr s (c.on q.gd) (4 * n) globalOnly true true (q.va c.r) (fun _ =>
      c.checkSync s (c.on q.gd) q.x.scope (pathOf q.op) (q.va c.r) (fun s' =>
        .ok s' { c.r.pushPending q.pops q.pushes (.atomic q.op (4 * n) q.sgn q.x.scope q.x.w (q.lanes c)) with nofb := true } 1)))

/-- The same, by parts. -/
def State.atomicInstr (s : State) (gd : Guard) (op : AtomOp) (w : OpW) (sgn : Bool) (x : AtOp) :
    Host.Outcome State Fault Refusal := s.atomicWith ⟨gd, op, w, sgn, x⟩

/-- The atomic that an instruction is (R228). -/
def atomOf : Instr → Option AtomReq
  | .aadd gd w x => some ⟨gd, .add, w, true, x⟩
  | .amin32 gd u x => some ⟨gd, .min, .w32, !u, x⟩
  | .amin64 gd u x => some ⟨gd, .min, .w64, !u, x⟩
  | .amax32 gd u x => some ⟨gd, .max, .w32, !u, x⟩
  | .amax64 gd u x => some ⟨gd, .max, .w64, !u, x⟩
  | .aand gd w x => some ⟨gd, .and, w, true, x⟩
  | .aor gd w x => some ⟨gd, .or, w, true, x⟩
  | .axor gd w x => some ⟨gd, .xor, w, true, x⟩
  | .axch gd w x => some ⟨gd, .xch, w, true, x⟩
  | .acas gd w x => some ⟨gd, .cas, w, true, x⟩
  | .afadd gd x => some ⟨gd, .fadd, .w32, true, x⟩
  | _ => none

/-- R228. -/
def execAadd (gd : Guard) (w : OpW) (x : AtOp) (s : State) : Host.Outcome State Fault Refusal := s.atomicInstr gd .add w true x
/-- R228: `u` is .z32. -/
def execAmin32 (gd : Guard) (u : Bool) (x : AtOp) (s : State) : Host.Outcome State Fault Refusal := s.atomicInstr gd .min .w32 (!u) x
/-- R228: `u` is .z64. -/
def execAmin64 (gd : Guard) (u : Bool) (x : AtOp) (s : State) : Host.Outcome State Fault Refusal := s.atomicInstr gd .min .w64 (!u) x
/-- R228: `u` is .z32. -/
def execAmax32 (gd : Guard) (u : Bool) (x : AtOp) (s : State) : Host.Outcome State Fault Refusal := s.atomicInstr gd .max .w32 (!u) x
/-- R228: `u` is .z64. -/
def execAmax64 (gd : Guard) (u : Bool) (x : AtOp) (s : State) : Host.Outcome State Fault Refusal := s.atomicInstr gd .max .w64 (!u) x
/-- R228. -/
def execAand (gd : Guard) (w : OpW) (x : AtOp) (s : State) : Host.Outcome State Fault Refusal := s.atomicInstr gd .and w true x
/-- R228. -/
def execAor (gd : Guard) (w : OpW) (x : AtOp) (s : State) : Host.Outcome State Fault Refusal := s.atomicInstr gd .or w true x
/-- R228. -/
def execAxor (gd : Guard) (w : OpW) (x : AtOp) (s : State) : Host.Outcome State Fault Refusal := s.atomicInstr gd .xor w true x
/-- R228. -/
def execAxch (gd : Guard) (w : OpW) (x : AtOp) (s : State) : Host.Outcome State Fault Refusal := s.atomicInstr gd .xch w true x
/-- R228. -/
def execAcas (gd : Guard) (w : OpW) (x : AtOp) (s : State) : Host.Outcome State Fault Refusal := s.atomicInstr gd .cas w true x
/-- R228. -/
def execAfadd (gd : Guard) (x : AtOp) (s : State) : Host.Outcome State Fault Refusal := s.atomicInstr gd .fadd .w32 true x

end Sys2Proof.Machine
end

