-- ==== Sys2Proof/Machine/Control.lean ====
section
/-! DEFINITION. Control transfers, `yield`, `wait` and the barrier instructions (R160 to R171). -/

namespace Sys2Proof.Machine

/-- The target of a branch at the current instruction: its first halfword's address plus twice the offset (R123). -/
def Run.target {n : Nat} (r : Run) (off : BitVec n) : Addr := r.pc + off.signExtend 64 * 2

/-- In supervisor mode the whole split goes where its lowest guarded-on lane goes; with none on it falls through (R281). -/
def Cur.unify (c : Cur) (on : Mask) (succ : AMap (Option Addr)) : AMap (Option Addr) :=
  if c.g.sup then
    match lowLane on with
    | none => []
    | some l => match mfind succ l with
      | none => []
      | some a => (lanesOf c.r.mask).map (fun l' => (l', a))
  else succ

/-- A transfer: the lanes of `taken` go to their address, the others fall through (R92, R160). -/
def Cur.transfer (c : Cur) (on taken : Mask) (dest : Nat → Addr) (a : Nat) : Run :=
  { c.r.replace a [] with xfer := some .direct, succ := c.unify on ((lanesOf taken).map (fun l => (l, some (dest l)))) }

/-- R160. -/
def execBr (gd : Guard) (off : BitVec 16) (s : State) : Host.Outcome State Fault Refusal :=
  s.runInstr (fun c => .ok s (c.transfer (c.on gd) (c.on gd) (fun _ => c.r.target off) 0) 1)
/-- R160. -/
def execBz (gd : Guard) (off : BitVec 16) (s : State) : Host.Outcome State Fault Refusal :=
  s.runInstr (fun c => .ok s (c.transfer (c.on gd) (c.r.lanesWhere (c.on gd) 1 (fun _ ws => ws.getD 0 0 == 0))
    (fun _ => c.r.target off) 1) 1)
/-- R160. -/
def execBnz (gd : Guard) (off : BitVec 16) (s : State) : Host.Outcome State Fault Refusal :=
  s.runInstr (fun c => .ok s (c.transfer (c.on gd) (c.r.lanesWhere (c.on gd) 1 (fun _ ws => ws.getD 0 0 != 0))
    (fun _ => c.r.target off) 1) 1)
/-- R162. -/
def execBpAny (gd : Guard) (p : BitVec 4) (off : BitVec 16) (s : State) : Host.Outcome State Fault Refusal :=
  s.runInstr (fun c => .ok s (c.transfer (c.on gd) (if c.on gd &&& c.pred p.toNat != 0 then c.on gd else 0)
    (fun _ => c.r.target off) 0) 1)
/-- R162. -/
def execBpAll (gd : Guard) (p : BitVec 4) (off : BitVec 16) (s : State) : Host.Outcome State Fault Refusal :=
  s.runInstr (fun c => .ok s (c.transfer (c.on gd) (if c.on gd &&& ~~~(c.pred p.toNat) == 0 then c.on gd else 0)
    (fun _ => c.r.target off) 0) 1)
/-- R160. -/
def execJmp (gd : Guard) (off : BitVec 32) (s : State) : Host.Outcome State Fault Refusal :=
  s.runInstr (fun c => .ok s (c.transfer (c.on gd) (c.on gd) (fun _ => c.r.target off) 0) 1)
/-- R163: the link is written at the trailer. -/
def execCall (gd : Guard) (off : BitVec 32) (s : State) : Host.Outcome State Fault Refusal :=
  s.runInstr (fun c => c.frameCheck s 0 2 (fun _ =>
    .ok s { c.transfer (c.on gd) (c.on gd) (fun _ => c.r.target off) 0 with link := c.on gd } 1))
/-- R163. -/
def execRet (gd : Guard) (s : State) : Host.Outcome State Fault Refusal :=
  s.runInstr (fun c => c.frameCheck s 0 2 (fun _ =>
    .ok s { c.transfer (c.on gd) (c.on gd) (fun l => dword (laneAt (c.frame 0) l) (laneAt (c.frame 1) l)) 0
            with xfer := some .indirect } 1))
/-- R164. -/
def execBx (gd : Guard) (s : State) : Host.Outcome State Fault Refusal :=
  s.runInstr (fun c => .ok s { c.transfer (c.on gd) (c.on gd)
    (fun l => item 64 (argsOf (c.r.popped 2) l) 0) 2 with xfer := some .indirect } 1)
/-- R165: the lanes end at the trailer. In supervisor mode each guarded-on lane ends as well (R281). -/
def execExit (gd : Guard) (s : State) : Host.Outcome State Fault Refusal :=
  s.runInstr (fun c => .ok s { c.r with xfer := some .exit, succ := (lanesOf (c.on gd)).map (fun l => (l, none)) } 1)

/-- An item left to the trailer if some lane is guarded on (R91). -/
def Cur.stageIf (c : Cur) (gd : Guard) (x : Staged) : Run := if (c.acts gd).isSome then c.r.stage x else c.r

/-- R166. -/
def execYield (gd : Guard) (s : State) : Host.Outcome State Fault Refusal :=
  s.runInstr (fun c => .ok s (c.stageIf gd .yield) 1)

/-- A wait depends on an operation that an FRQ record holds (R369). -/
def State.recordHolds (s : State) (core slot : Nat) (l : Limits) : Bool :=
  s.outOfReach core slot .ld l.ld.toNat 15 || s.outOfReach core slot .st l.st.toNat 15
    || s.outOfReach core slot .cp l.cp.toNat 7 || s.outOfReach core slot .tl l.tl.toNat 7

/-- R167: the run holds until the counters meet their limits; an operation held by a record rolls it back (R369). -/
def execWait (gd : Guard) (l : Limits) (s : State) : Host.Outcome State Fault Refusal :=
  s.runInstr (fun c =>
    if (c.acts gd).isNone || c.g.limitsOk l.ld.toNat l.st.toNat l.cp.toNat l.tl.toNat then
      .ok s { c.r with start := max c.r.start s.cc } 1
    else if s.recordHolds c.core c.slot l then .wait s (.counters l.ld.toNat l.st.toNat l.cp.toNat l.tl.toNat)
    else .hold s)

/-- R169. -/
def execArrive (gd : Guard) (b : BitVec 4) (s : State) : Host.Outcome State Fault Refusal :=
  s.runInstr (fun c => .ok s { c.stageIf gd (.arrive b.toNat) with nofb := c.r.nofb || (c.acts gd).isSome } 1)
/-- R169. -/
def execBwait (gd : Guard) (b : BitVec 4) (s : State) : Host.Outcome State Fault Refusal :=
  s.runInstr (fun c => .ok s (c.stageIf gd (.bwait b.toNat)) 1)
/-- R169. -/
def execBsync (gd : Guard) (b : BitVec 4) (s : State) : Host.Outcome State Fault Refusal :=
  s.runInstr (fun c => .ok s { c.stageIf gd (.bsync b.toNat) with nofb := c.r.nofb || (c.acts gd).isSome } 1)

end Sys2Proof.Machine
end

