-- ==== Sys2Proof/Machine/System.lean ====
section
/-! DEFINITION. The system instructions inside a run (R266 to R293), and `mfs` and `mts`. -/

namespace Sys2Proof.Machine

/-! ## System registers (R267 to R274) -/

/-- Entries a system register occupies (R267). -/
def sysWords (n : Nat) : Nat :=
  if n ∈ [0x003, 0x004, 0x008, 0x011, 0x013, 0x014, 0x021, 0x022, 0x023, 0x024, 0x025, 0x026, 0x028, 0x029] then 2 else 1

/-- The register is named by R267. -/
def sysNamed (n : Nat) : Bool :=
  decide (n ≤ 0x009) || (decide (0x010 ≤ n) && decide (n ≤ 0x014)) || (decide (0x020 ≤ n) && decide (n ≤ 0x02A))
    || (decide (0x030 ≤ n) && decide (n ≤ 0x037)) || (decide (0x040 ≤ n) && decide (n ≤ 0x043))

/-- A mode may read the register (R267). -/
def sysReadable (sup : Bool) (n : Nat) : Bool :=
  sup || !(decide (n ∈ [0x010, 0x011, 0x012, 0x013, 0x014, 0x021, 0x024, 0x025, 0x026]))

/-- A mode may write the register (R267). -/
def sysWritable (sup : Bool) (n : Nat) : Bool :=
  decide (n ∈ [0x001, 0x002, 0x003, 0x004, 0x005, 0x009]) ||
    (sup && decide (n ∈ [0x011, 0x020, 0x040, 0x041, 0x042, 0x043]))

/-- A `grow` request of the group waits in the core's queue (R268, R276). -/
def State.growWaits (s : State) (core slot : Nat) : Bool :=
  s.growq.any (fun q => q.core == core && q.slot == slot && !q.granted)

/-- One bit as a number. -/
def bit (b : Bool) : Nat := if b then 1 else 0

/-- GSTAT (R268). -/
def State.gstat (s : State) (c : Cur) : Nat :=
  c.core * 2 ^ 22 + c.slot * 2 ^ 16 + min c.g.runs 1023 * 2 ^ 4 + bit (s.growWaits c.core c.slot) * 8 + bit c.g.nofb * 4
    + bit c.g.step * 2 + bit c.g.sup

/-- MXFLAGS of the group's workgroup (R267, R332). -/
def State.mxflagsOf (s : State) (c : Cur) : Nat :=
  match s.wgroup c.core c.g.wslot with
  | some w => match w.seq with
    | some q => q.mxflags.toNat
    | none => 0
  | none => 0

/-- CTXSTAT (R270). -/
def Ctx.ctxstat (x : Ctx) : Nat := x.errcnt.toNat * 2 ^ 16 + bit x.ctxerr

/-- WSTATn (R272). -/
def Watch.wstat (w : Watch) : Nat := bit w.hit * 4 + bit w.lock * 2 + bit w.armed

/-- The pages that earlier `pgmap`s of a run map at its trailer (R77, R284; log 30). -/
def Run.mapped (r : Run) : List (Nat × Nat × Nat) := r.staged.flatMap (fun x => match x with | .pgmap ps => ps | _ => [])

/-- The value of a system register as an instruction of the run sees it in a lane (R267 to R273). -/
def State.sysRead (s : State) (c : Cur) (n lane : Nat) : DWord :=
  let x := s.ctx c.g.guest
  match n with
  | 0x000 => BitVec.ofNat 64 (s.gstat c)
  | 0x001 => c.r.aflags.setWidth 64
  | 0x002 => c.r.segw.setWidth 64
  | 0x003 => c.r.dkey
  | 0x004 => c.r.drctr.setWidth 64
  | 0x005 => c.r.dcoin.setWidth 64
  | 0x006 => BitVec.ofNat 64 c.g.cnts
  | 0x007 => BitVec.ofNat 64 c.g.fgran
  | 0x008 => c.g.pb
  | 0x009 => BitVec.ofNat 64 (s.mxflagsOf c)
  | 0x010 => c.g.xcause.setWidth 64
  | 0x011 => c.r.xpc
  | 0x012 => c.g.xmask.setWidth 64
  | 0x013 => mget c.g.xaddr lane 0
  | 0x014 => x.xvec
  | 0x020 => x.asgen.setWidth 64
  | 0x021 => x.asroot
  | 0x022 => x.ptmbase
  | 0x023 => x.ptmsize
  | 0x024 => x.poolbase
  | 0x025 => x.poolnext + BitVec.ofNat 64 (0x10000 * c.r.mapped.length)
  | 0x026 => x.poolend
  | 0x027 => BitVec.ofNat 64 x.ctxstat
  | 0x028 => s.dtime.setWidth 64
  | 0x029 => (s.lstartOf c.g).setWidth 64
  | 0x02A => s.dev.pkgid.setWidth 64
  | _ =>
    if 0x030 ≤ n ∧ n ≤ 0x037 then (s.dev.sema.getD (n - 0x030) 0).setWidth 64
    else if 0x040 ≤ n ∧ n ≤ 0x043 then BitVec.ofNat 64 (x.watch.getD (n - 0x040) Watch.off).wstat
    else 0

/-- A number that names no register is ILLEGAL, one the mode may not use PRIV, in every active lane (R266, R267). -/
def Cur.sysCheck (c : Cur) (s : State) (n : Nat) (may : Bool) (f : Unit → Res) : Res :=
  if !sysNamed n then .fault s cIllegal c.r.mask []
  else if !may then .fault s cPriv c.r.mask []
  else f ()

/-- R273. -/
def execMfs (gd : Guard) (r : BitVec 12) (s : State) : Host.Outcome State Fault Refusal :=
  s.runInstr (fun c =>
    c.sysCheck s r.toNat (sysReadable c.g.sup r.toNat) (fun _ =>
      .ok s (c.r.lanewise (c.on gd) 0 (sysWords r.toNat)
        (fun l _ => ([loWord (s.sysRead c r.toNat l), hiWord (s.sysRead c r.toNat l)], 0))) 2))

/-- A synchronising access of the context is dispatched and not applied (R245). -/
def State.syncOut (s : State) (guest : Nat) : Bool :=
  s.ops.any (fun x => x.2.guest == guest && (x.2.kind == .stw || x.2.kind == .atomic || x.2.kind == .ringput))

/-- An access that bears a generation is in flight (R245). -/
def State.genOut (s : State) (guest : Nat) (gen : BitVec 12) : Bool :=
  s.ops.any (fun x => x.2.guest == guest && x.2.gen == gen && x.2.lanes.any (fun l => l.st == .todo || l.st == .queued))
    || s.aq.any (fun e => e.guest == guest && e.gen == gen)
    || s.groups.any (fun x => x.2.guest == guest && x.2.sq.any (fun e => e.gen == gen))

/-- Steps 1 and 2 of `n` advances of ASGEN have still to come about (R245). -/
def State.asgenWaits (s : State) (guest n : Nat) : Bool :=
  s.syncOut guest || (List.range n).any (fun k => s.genOut guest ((s.ctx guest).asgen + BitVec.ofNat 12 (k + 1)))

/-- ASGEN advances (R245): lines and translations left from 4,096 advances earlier go. -/
def State.advanceAsgen (s : State) (guest : Nat) : State :=
  let new := (s.ctx guest).asgen + 1
  let stale (l : L1Line) : Bool := match l.kind with | .clean _ t g => g == guest && t == new | _ => false
  { s.modCtx guest (fun y => { y with asgen := new }) with
    l1 := s.l1.filter (fun l => !stale l), tlb := s.tlb.filter (fun x => !(x.guest == guest && x.gen == new)) }

/-- Advances of ASGEN that the run has staged. -/
def Run.advances (r : Run) : Nat := (r.staged.filter (fun x => match x with | .asgen => true | _ => false)).length

/-- The write of a register that the mode may write, in the run (R274). -/
def Cur.sysWrite (c : Cur) (s : State) (r : Run) (n : Nat) (v : DWord) : Res :=
  match n with
  | 0x001 => .ok s { r with aflags := r.aflags &&& ~~~(v.setWidth 6) } 1
  | 0x002 => if 5 ≤ v.toNat % 8 then .fault s cSegForm c.r.mask [] else .ok s { r with segw := v.setWidth 3 } 1
  | 0x003 => .ok s { r with dkey := v } 1
  | 0x004 => .ok s { r with drctr := v.setWidth 56 } 1
  | 0x005 => .ok s { r with dcoin := v.setWidth 32 &&& 0x8003FFFF } 1
  | 0x009 => .ok s (r.stage (.mxflags (v.setWidth 32))) 1
  | 0x011 => .ok s { r with xpc := v } 1
  | 0x020 => if s.asgenWaits c.g.guest (r.advances + 1) then .hold s else .ok s { r.stage .asgen with start := max r.start s.cc } 1
  | _ => .ok s (r.stage (.wstat (n - 0x040) (v.setWidth 32))) 1

/-- R274: the value comes from the lowest guarded-on lane; with none nothing is written. -/
def execMts (gd : Guard) (r : BitVec 12) (s : State) : Host.Outcome State Fault Refusal :=
  s.runInstr (fun c =>
    c.sysCheck s r.toNat (sysWritable c.g.sup r.toNat) (fun _ =>
      let w := sysWords r.toNat
      let ps := c.r.popped w
      let run := { c.r.replace w [] with nofb := true }
      match c.acts gd with
      | none => .ok s run 1
      | some l =>
        let v : DWord := if w = 2 then item 64 (argsOf ps l) 0 else ((argsOf ps l).getD 0 0).setWidth 64
        c.sysWrite s run r.toNat v))

/-! ## Frame allotment (R276, R277) -/

/-- Granules as the run's earlier `grow` and `shrink` leave them. -/
def Cur.granules (c : Cur) : Nat :=
  c.r.staged.foldl (fun n x => match x with | .grow k => n + k | .shrink k => n - k | _ => n) c.g.fgran

/-- Requests of the running part in its core's queue, oldest first. -/
def State.growOf (s : State) (c : Cur) : List GrowReq := s.growq.filter (fun q => q.isOf c.core c.slot c.r.hpc c.r.mask)

/-- The request of the part for `n` granules that its `k` earlier requests do not stand for. -/
def State.growFor (s : State) (c : Cur) (k n : Nat) : Option GrowReq := ((s.growOf c).drop k).find? (fun q => q.n == n)

/-- The request joins the core's queue at its first attempt, and is granted where its turn has come (R276). -/
def State.growAsk (s : State) (c : Cur) (k n : Nat) : State :=
  if (s.growFor c k n).isSome then s
  else { s with growq := s.growq ++ [(⟨c.core, c.slot, c.r.hpc, c.r.mask, n, false⟩ : GrowReq)] }.granulesBack c.core

/-- R276: the k-th `grow` of a run stands for its part's k-th request; an ungranted one rolls the run back. The limit is
checked whatever the guard (R91). -/
def execGrow (gd : Guard) (n : BitVec 6) (s : State) : Host.Outcome State Fault Refusal :=
  s.runInstr (fun c =>
    let r := { c.r with nofb := true }
    if 32 < c.granules + n.toNat then .fault s cFrameRange c.r.mask []
    else if (c.acts gd).isNone ∨ n = 0 then .ok s r 1
    else
      let k := (c.r.staged.filter (fun x => match x with | .grow _ => true | _ => false)).length
      let s := s.growAsk c k n.toNat
      match s.growFor c k n.toNat with
      | some q => if q.granted then .ok s (r.stage (.grow n.toNat)) 1 else .wait s .grow
      | none => .wait s .grow)

/-- R277; the limit is checked whatever the guard (R91). -/
def execShrink (gd : Guard) (n : BitVec 6) (s : State) : Host.Outcome State Fault Refusal :=
  s.runInstr (fun c =>
    let r := { c.r with nofb := true }
    let g := c.granules
    if g < n.toNat then .fault s cFrameRange c.r.mask []
    else if (c.acts gd).isNone then .ok s r 1
    else if c.g.pendFrm.any (fun p => decide (8 * (g - n.toNat) ≤ p.reg) && decide (p.reg < 8 * g)) then
      .wait s (.frame (8 * (g - n.toNat)) (8 * n.toNat))
    else .ok s (r.stage (.shrink n.toNat)) 1)

/-! ## Group actions left to the trailer -/

/-- A group action left to the trailer if some lane is guarded on (R91, R266). -/
def State.groupAct (s : State) (gd : Guard) (x : Cur → Staged) : Host.Outcome State Fault Refusal :=
  s.runInstr (fun c => .ok s (if (c.acts gd).isSome then c.r.stage (x c) else c.r) 1)

/-- A privileged group action (R266). -/
def State.privAct (s : State) (gd : Guard) (x : Staged) : Host.Outcome State Fault Refusal :=
  s.runInstr (fun c =>
    if !c.g.sup then .fault s cPriv c.r.mask []
    else .ok s (if (c.acts gd).isSome then c.r.stage x else c.r) 1)

/-- R279; with no lane guarded on it does not act, but the form of its run is checked (R91). -/
def execTrap (gd : Guard) (n : BitVec 8) (s : State) : Host.Outcome State Fault Refusal :=
  s.runInstr (fun c => .ok s (c.r.stage (.trap n (c.on gd))) 1)
/-- R280; with no lane guarded on it does not act, but the handler depth is checked (R91). -/
def execTret (gd : Guard) (s : State) : Host.Outcome State Fault Refusal :=
  s.runInstr (fun c =>
    if !c.g.sup then .fault s cPriv c.r.mask [] else .ok s (c.r.stage (.tret (c.acts gd).isSome)) 1)
/-- R283. -/
def execReplay (gd : Guard) (s : State) : Host.Outcome State Fault Refusal := s.privAct gd .replay
/-- R285. -/
def execKill (gd : Guard) (s : State) : Host.Outcome State Fault Refusal := s.groupAct gd (fun _ => .kill)
/-- R287. -/
def execTrcm (gd : Guard) (n : BitVec 16) (s : State) : Host.Outcome State Fault Refusal := s.groupAct gd (fun _ => .trcm n)
/-- R287. -/
def execPmark (gd : Guard) (n : BitVec 16) (s : State) : Host.Outcome State Fault Refusal := s.groupAct gd (fun _ => .pmark n)
/-- R288. -/
def execSleep (gd : Guard) (n : BitVec 16) (s : State) : Host.Outcome State Fault Refusal :=
  s.groupAct gd (fun _ => .sleep n.toNat)

/-- The watch unit of the context is locked (R272). -/
def State.watchLocked (s : State) (guest n : Nat) : Bool := ((s.ctx guest).watch.getD n Watch.off).lock

/-- R286: the descriptor, at an address with bits [6:0] ignored (R398), is read at dispatch as a plain load; its address is
checked as one (R212). With no lane guarded on only the counter rises (R91; log 20). -/
def execWatch (gd : Guard) (n : BitVec 2) (s : State) : Host.Outcome State Fault Refusal :=
  s.runInstr (fun c =>
    let ps := c.r.popped 2
    let r := c.r.replace 2 []
    if s.watchLocked c.g.guest n.toNat then .fault s cPriv c.r.mask []
    else match c.acts gd with
      | none => .ok s (r.stage (.idle .ld)) 1
      | some l =>
        let va := item 64 (argsOf ps l) 0 &&& ~~~(127 : Addr)
        c.checkBlock s l 128 va (fun _ => .ok s (r.stage (.watch n.toNat va l)) 1))

/-- R286. -/
def execUnwatch (gd : Guard) (n : BitVec 2) (s : State) : Host.Outcome State Fault Refusal :=
  s.runInstr (fun c =>
    if s.watchLocked c.g.guest n.toNat then .fault s cPriv c.r.mask []
    else .ok s (if (c.acts gd).isSome then c.r.stage (.unwatch n.toNat) else c.r) 1)

/-! ## Child launches, messages, rings (R289 to R292) -/

/-- `enq`, `enqw` (R289): the header's address is checked and its 128 bytes translated before commit; the status is pending. -/
def State.enqInstr (s : State) (gd : Guard) (w : Bool) : Host.Outcome State Fault Refusal :=
  s.runInstr (fun c =>
    let ps := c.r.popped 2
    let go (va : Addr) : Res := .ok s (c.r.pushPending 2 1 (.enq w (c.on gd) va)) 1
    match c.acts gd with
    | none => go 0
    | some l =>
      let va := item 64 (argsOf ps l) 0
      let m : Mask := BitVec.ofNat 32 (2 ^ l)
      if aperture va ≠ .global then .fault s cAddrForm m [(l, va)]
      else if va.toNat % 64 ≠ 0 then .fault s cAlign m [(l, va)]
      else match s.translate c.g.guest va.toNat .load, s.translate c.g.guest (va.toNat + 127) .load with
        | .ok _, .ok _ => go va
        | .error k, _ => .fault s k m [(l, va)]
        | .ok _, .error k => .fault s k m [(l, va)])

/-- R289. -/
def execEnq (gd : Guard) (s : State) : Host.Outcome State Fault Refusal := s.enqInstr gd false
/-- R289. -/
def execEnqw (gd : Guard) (s : State) : Host.Outcome State Fault Refusal := s.enqInstr gd true

/-- R290: destination of the lowest guarded-on lane, and the message words. -/
def execLsend (gd : Guard) (s : State) : Host.Outcome State Fault Refusal :=
  s.runInstr (fun c =>
    let on := c.on gd
    let ps := c.r.popped 2
    let d := match c.acts gd with | some l => (argsOf ps l).getD 0 0 | none => 0
    let words := mkLanes (fun l => if laneOn on l then (argsOf ps l).getD 1 0 else 0)
    .ok s (c.r.pushPending 2 1 (.lsend on d words)) 1)

/-- R291. -/
def execMrecv (gd : Guard) (s : State) : Host.Outcome State Fault Refusal :=
  s.runInstr (fun c => .ok s (c.r.pushPending 0 2 (.mrecv (c.on gd))) 1)

/-- R292: the address checks of a system-scope `aadd.i32`. -/
def execRingput (gd : Guard) (s : State) : Host.Outcome State Fault Refusal :=
  s.runInstr (fun c =>
    let on := c.on gd
    let ps := c.r.popped 3
    let va (l : Nat) : Addr := item 64 (argsOf ps l) 0
    c.checkAddr s on 4 globalOnly true true va (fun _ =>
      c.checkSync s on .sys .exch va (fun s =>
        .ok s (c.r.pushPending 3 1 (.ringput (laneReqs on va (fun l => ((argsOf ps l).getD 2 0).setWidth 128)
          (fun _ => 0) (fun _ => 0)))) 1)))

/-! ## Page mapping (R284) -/

/-- Marks a page whose zeroing waits for room in the dirty log (R419); no status of R284. -/
def logFull : Nat := 5

/-- A page taken from the pool, zeroed and entered in its table: where its entry stands, its frame and the entry. `none` while
the dirty log is full (R284, R418). -/
def State.putPage (s : State) (guest : Nat) (x : Nat × Nat × Nat) : Option State :=
  ((s.modCtx guest (fun y => { y with poolnext := y.poolnext + 0x10000 })).logPage guest x.2.1).map
    (fun s => { s with mem := wrLE (zeroBytes s.mem x.2.1 0x10000) x.1 8 x.2.2 })

/-- MapPage of R284: the status, and the page where one is to be mapped. A per-thread address beyond PTMSIZE has status 4: the
model's choice (log 88). -/
def State.mapPage (s : State) (guest : Nat) (va : Addr) (fl : Word) : Nat × Option (Nat × Nat × Nat) :=
  if fl.toNat / 4 ≠ 0 then (4, none) else
  match s.globalVa guest va 1 with
  | none => (4, none)
  | some g =>
    match s.walk guest g with
    | .bad => (4, none)
    | .leaf _ _ => (2, none)
    | .hole level at_ =>
      if level ≠ 5 then (4, none) else
      let x := s.ctx guest
      let p := x.poolnext.toNat
      if p < x.poolbase.toNat ∨ x.poolend.toNat < p + 0x10000 then (3, none)
      else (1, some (at_, p, nbits p 50 16 * 2 ^ 16 + nbits fl.toNat 1 1 * 8 + nbits fl.toNat 0 0 * 4 + 3))

/-- The pages of the guarded-on lanes, each mapped once in the order of its lowest lane, in a copy of the state: that copy, the
status by page, and the pages mapped. -/
def State.mapPages (s : State) (guest : Nat) (ls : List Nat) (va : Nat → Addr) (fl : Nat → Word) :
    State × AMap Nat × List (Nat × Nat × Nat) :=
  ls.foldl (fun acc l =>
    let page := (va l).toNat / 65536
    match mfind acc.2.1 page with
    | some _ => acc
    | none =>
      let r := acc.1.mapPage guest (va l) (fl l)
      match r.2 with
      | none => (acc.1, mset acc.2.1 page r.1, acc.2.2)
      | some x => match acc.1.putPage guest x with
        | some s => (s, mset acc.2.1 page r.1, acc.2.2 ++ [x])
        | none => (acc.1, mset acc.2.1 page logFull, acc.2.2)) (s, [], [])

/-- Another run of the context has left something of a kind to its trailer. -/
def State.stagedElsewhere (s : State) (c : Cur) (p : Staged → Bool) : Bool :=
  s.groups.any (fun x => x.1 != gkey c.core c.slot && x.2.guest == c.g.guest
    && (match x.2.run with | some r => r.staged.any p | none => false))

def isPgmap : Staged → Bool | .pgmap _ => true | _ => false

/-- The state as the run's own earlier `pgmap`s will leave it; `none` while the dirty log has no room for them. -/
def State.withMapped (s : State) (c : Cur) : Option State := c.r.mapped.foldlM (fun s x => s.putPage c.g.guest x) s

/-- R284: privileged; holds 8 cc and 520 more for each page mapped. The pages are mapped at the trailer, before which no other
agent sees them (R77; log 30); against other `pgmap`s of the context the run is indivisible. -/
def execPgmap (gd : Guard) (s : State) : Host.Outcome State Fault Refusal :=
  s.runInstr (fun c =>
    if !c.g.sup then .fault s cPriv c.r.mask [] else
    match (if s.stagedElsewhere c isPgmap then none else s.withMapped c) with
    | none => .hold s
    | some s1 =>
      let on := c.on gd
      let ps := c.r.popped 3
      let va (l : Nat) : Addr := item 64 (argsOf ps l) 0
      let r := s1.mapPages c.g.guest (lanesOf on) va (fun l => (argsOf ps l).getD 2 0)
      let st (l : Nat) : Word := if laneOn on l then BitVec.ofNat 32 (mget r.2.1 ((va l).toNat / 65536) 4) else 0
      if r.2.1.any (fun x => x.2 == logFull) then .hold s else
      .ok s ((c.r.replace 3 [⟨mkLanes st, none⟩]).stage (.pgmap r.2.2)) (9 + 520 * r.2.2.length))

/-! ## Instruction caches (R293) -/

/-- A store that the group released is not yet applied at its home (R293). -/
def State.storesOut (s : State) (core slot : Nat) : Bool :=
  (match s.group core slot with | some g => !g.sq.isEmpty | none => false) ||
    s.aq.any (fun e => e.core == core && e.slot == slot && (match e.act with | .fill _ => false | _ => true))

/-- A core runs the context. -/
def State.runsOn (s : State) (guest core : Nat) : Bool := s.groups.any (fun x => x.1 / 64 == core && x.2.guest == guest)

/-- R293: the lines of the context go wherever they stand, so that its every later fetch fills at the home, and so do those of a
fetch on its way (log 77). -/
def execCflush (gd : Guard) (s : State) : Host.Outcome State Fault Refusal :=
  s.runInstr (fun c =>
    if (c.acts gd).isNone then .ok s c.r 1
    else if s.storesOut c.core c.slot then .hold s
    else .ok { s with icache := s.icache.filter (fun x => !(x.guest == c.g.guest || s.runsOn c.g.guest x.core))
                      far := s.far.filter (fun f => !(f.guest == c.g.guest && f.isCode)) } { c.r with start := max c.r.start s.cc } 1)

end Sys2Proof.Machine
end

