-- ==== Sys2Proof/Machine/Copy.lean ====
section
/-! DEFINITION. The transfer unit's instructions inside a run and binding a mould (R301, R310 to R318). -/

namespace Sys2Proof.Machine

/-- Chains that hold a scoreboard entry of a core (R306). -/
def State.scoreHeld (s : State) (core : Nat) : Nat := (s.chains.filter (fun x => x.core == core)).length

/-- R314. -/
def execCpy (gd : Guard) (s : State) : Host.Outcome State Fault Refusal :=
  s.runInstr (fun c =>
    let prod := match s.wgroup c.core c.g.wslot with | some w => w.prod | none => 0
    let ps := c.r.popped 2
    let r := { c.r.replace 2 [] with nofb := true }
    let mine := (c.r.staged.filter (fun x => match x with | .cpy true _ _ => true | _ => false)).length
    if s.w1Of c.g ≠ prod then .fault s cStreamRights c.r.mask []
    else match c.acts gd with
      | none => .ok s (r.stage (.cpy false 0 0)) 1
      | some l =>
        if 8 ≤ s.scoreHeld c.core + mine then .wait s .score
        else .ok s (r.stage (.cpy true (item 64 (argsOf ps l) 0) l)) 1)

/-- Chains of a workgroup that have not retired (R315). -/
def State.inflight (s : State) (core wslot : Nat) : Nat :=
  (s.chains.filter (fun x => x.core == core && x.wslot == wslot)).length

/-- The workgroup's copy status (R315). -/
def State.copyStatus (s : State) (core wslot : Nat) : Nat :=
  match s.wgroup core wslot with
  | none => 0
  | some w => min w.felem.toNat 65535 * 2 ^ 16 + w.fcause.toNat * 2 ^ 10 + (if w.fail then 2 ^ 9 else 0)
      + (if w.detach then 2 ^ 8 else 0) + s.inflight core wslot

/-- R315. -/
def execCpystat (gd : Guard) (s : State) : Host.Outcome State Fault Refusal :=
  s.runInstr (fun c =>
    let v := s.copyStatus c.core c.g.wslot
    let r := c.r.lanewise (c.on gd) 0 1 (fun _ _ => ([BitVec.ofNat 32 v], 0))
    .ok s (if (c.acts gd).isSome ∧ nbits v 9 9 = 1 then r.stage .cpystat else r) 2)

/-! ## Moulds (R310, R311, R316) -/

/-- The frames of the buffer's pages, where every page is mapped with KIND 00 and W = 1 (R316). -/
def State.mouldFrames (s : State) (guest base len : Nat) : Option (List Nat) :=
  ((List.range ((base + len - 1) / 65536 - base / 65536 + 1)).mapM (fun k =>
    match s.translate guest ((base / 65536 + k) * 65536) .write with
    | .ok (pa, leaf) => if nbits leaf 5 4 = 0 then some pa else none
    | .error _ => none))

/-- The physical address of a byte of a mould's buffer, through the frames kept at the bind (R311). -/
def mouldAddr (base : Nat) (frames : List Nat) (off : Nat) : Nat :=
  frames.getD ((base + off) / 65536 - base / 65536) 0 + (base + off) % 65536

/-- The visible contents of the buffer at its homes, by offset (R311). -/
def mouldImage (m : Memory) (base len : Nat) (frames : List Nat) : Memory :=
  (List.range frames.length).flatMap (fun k =>
    m.filterMap (fun c =>
      let f := frames.getD k 0
      let va := (base / 65536 + k) * 65536 + (c.1 - f)
      if f ≤ c.1 ∧ c.1 < f + 65536 ∧ base ≤ va ∧ va < base + len then some (va - base, c.2) else none))

/-- A mould bound to a buffer: its shadow is a copy of the buffer as it stands (R311). -/
def Mould.bind (m : Mould) (mem : Memory) (base : Addr) (len : Word) (frames : List Nat) : Mould :=
  { m with bound := true, base := base, len := len.setWidth 64, frames := frames
           shadow := mouldImage mem base.toNat len.toNat frames }

/-- The state with a free mould bound. -/
def State.putMould (s : State) (guest h : Nat) (base : Addr) (len : Word) (frames : List Nat) : State :=
  s.modCtx guest (fun x => { x with moulds := x.moulds.modify h (fun m => m.bind s.mem base len frames) })

/-- The status of `mould`, and the handle and frames to be bound where it is 0x10 or more and new (R316). -/
def State.bindMould (s : State) (guest : Nat) (base : Addr) (len : Word) : Word × Option (Nat × List Nat) :=
  let b := base.toNat
  let n := len.toNat
  let x := s.ctx guest
  if b / 2 ^ 57 ≠ 0 ∨ b % 128 ≠ 0 ∨ n % 128 ≠ 0 ∨ n = 0 ∨ 2 ^ 28 < n ∨ 2 ^ 57 < b + n then (3, none) else
  match s.mouldFrames guest b n with
  | none => (3, none)
  | some fr =>
    match x.moulds.findIdx? (fun m => m.bound && m.base == base && m.len.toNat == n) with
    | some h => (BitVec.ofNat 32 (0x10 + h), none)
    | none =>
      if x.moulds.any (fun m => m.bound && decide (b < m.base.toNat + m.len.toNat) && decide (m.base.toNat < b + n)) then (2, none)
      else match x.moulds.findIdx? (fun m => !m.bound) with
        | none => (1, none)
        | some h => (BitVec.ofNat 32 (0x10 + h), some (h, fr))

def isMould : Staged → Bool | .mould _ _ _ _ => true | _ => false

/-- The state as the run's own earlier `mould`s will leave it. -/
def State.withMoulds (s : State) (c : Cur) : State :=
  c.r.staged.foldl (fun s x => match x with | .mould h b n fr => s.putMould c.g.guest h b n fr | _ => s) s

/-- R316: holds 8 cc and 2 more for each 64 KiB of the buffer. The buffer is bound at the trailer, before which no other agent
sees it (R77; log 30); meanwhile no other run of the context binds one. -/
def execMould (gd : Guard) (s : State) : Host.Outcome State Fault Refusal :=
  s.runInstr (fun c =>
    let ps := c.r.popped 3
    match c.acts gd with
    | none => .ok s (c.r.replace 3 [⟨[], none⟩]) 1
    | some l =>
      let len := (argsOf ps l).getD 2 0
      let base : Addr := item 64 (argsOf ps l) 0
      if s.stagedElsewhere c isMould then .hold s else
      let b := (s.withMoulds c).bindMould c.g.guest base len
      let r := c.r.replace 3 [⟨mkLanes (fun l' => if laneOn (c.on gd) l' then b.1 else 0), none⟩]
      .ok s (match b.2 with | some x => r.stage (.mould x.1 base len x.2) | none => r)
        (9 + 2 * ((len.toNat + 65535) / 65536)))

/-- R317: the witness is pending. -/
def execUnveil (gd : Guard) (s : State) : Host.Outcome State Fault Refusal :=
  s.runInstr (fun c =>
    let ps := c.r.popped 1
    let h := match c.acts gd with | some l => (argsOf ps l).getD 0 0 | none => 0
    .ok s (c.r.pushPending 1 2 (.unveil (c.on gd) h)) 1)

/-- R318. -/
def execCpyscout (gd : Guard) (n : BitVec 7) (s : State) : Host.Outcome State Fault Refusal :=
  s.runInstr (fun c => .ok s (if (c.acts gd).isSome then c.r.stage (.cpyscout n.toNat) else c.r) 1)

end Sys2Proof.Machine
end

