-- ==== Sys2Proof/WellFormed.lean ====
section
/-! DEFINITION. Which terms of Instr are instructions: the checks of R119, R121, R122, R125, R138 and R324 that the
types of the fields leave open. -/

namespace Sys2Proof

/-- A guard with E = 0 has S = 0 and G = 0 (R119). -/
def Guard.wf (g : Guard) : Bool := g.e || (!g.s && g.p == 0)

/-- The numbers of the system registers (R267). -/
def isSysReg (r : BitVec 12) : Bool :=
  let n := r.toNat
  n ≤ 0x009 || (0x010 ≤ n && n ≤ 0x014) || (0x020 ≤ n && n ≤ 0x02A) || (0x030 ≤ n && n ≤ 0x037) ||
    (0x040 ≤ n && n ≤ 0x043)

/-- A frame or uniform pair names an even register (R121). -/
def evenReg {n : Nat} (r : BitVec n) : Bool := r.toNat % 2 == 0

/-- A logic operation of `red` and `scan` has an integer type (R121 kind RS). -/
def redWf (op : RedOp) (t : RedTy) : Bool :=
  match op with
  | .and | .or | .xor => t != .f32
  | _ => true

/-- N + n - 1 ≤ 255 for the literal LC (R122); `nm` holds n - 1. -/
def lcWf (f : BitVec 8) (nm : BitVec 4) : Bool := f.toNat + nm.toNat ≤ 255

/-- The guard of an instruction of runs; the trailer, the sequencer words and the events have none. -/
def Instr.guard : Instr → Option Guard
  | .nop gd => some gd
  | .dup gd => some gd
  | .drop gd => some gd
  | .swap gd => some gd
  | .over gd => some gd
  | .rot gd => some gd
  | .nip gd => some gd
  | .tuck gd => some gd
  | .dup2 gd => some gd
  | .drop2 gd => some gd
  | .swap2 gd => some gd
  | .depth gd => some gd
  | .pick gd _ => some gd
  | .roll gd _ => some gd
  | .ldi gd _ => some gd
  | .ldiLit gd _ => some gd
  | .ldk gd _ => some gd
  | .ldk2 gd _ => some gd
  | .ldu gd => some gd
  | .ldf gd _ => some gd
  | .stf gd _ => some gd
  | .ldf2 gd _ => some gd
  | .stf2 gd _ => some gd
  | .teef gd _ => some gd
  | .stu gd _ => some gd
  | .ldx gd _ => some gd
  | .stx gd _ => some gd
  | .ldp gd _ => some gd
  | .stp gd _ => some gd
  | .wid gd => some gd
  | .lane gd => some gd
  | .segi gd => some gd
  | .lea gd _ => some gd
  | .add gd _ => some gd
  | .sub gd _ => some gd
  | .mul gd _ => some gd
  | .mulh gd _ => some gd
  | .mad gd _ => some gd
  | .div gd _ => some gd
  | .rem gd _ => some gd
  | .neg gd _ => some gd
  | .abs gd _ => some gd
  | .min gd _ => some gd
  | .max gd _ => some gd
  | .and gd _ => some gd
  | .or gd _ => some gd
  | .xor gd _ => some gd
  | .not gd _ => some gd
  | .shl gd _ => some gd
  | .shr gd _ => some gd
  | .sar gd _ => some gd
  | .rotl gd _ => some gd
  | .clz gd _ => some gd
  | .popc gd _ => some gd
  | .brev gd _ => some gd
  | .addc gd _ => some gd
  | .subb gd _ => some gd
  | .bfe gd _ => some gd
  | .bfi gd _ => some gd
  | .sext gd _ => some gd
  | .setp gd _ _ _ => some gd
  | .sel gd _ => some gd
  | .br gd _ => some gd
  | .bz gd _ => some gd
  | .bnz gd _ => some gd
  | .bpAny gd _ _ => some gd
  | .bpAll gd _ _ => some gd
  | .jmp gd _ => some gd
  | .call gd _ => some gd
  | .ret gd => some gd
  | .bx gd => some gd
  | .exit gd => some gd
  | .yield gd => some gd
  | .wait gd _ => some gd
  | .arrive gd _ => some gd
  | .bwait gd _ => some gd
  | .bsync gd _ => some gd
  | .fadd gd _ => some gd
  | .fsub gd _ => some gd
  | .fmul gd _ => some gd
  | .ffma gd _ => some gd
  | .fdiv gd _ => some gd
  | .fsqrt gd _ => some gd
  | .frnd gd _ => some gd
  | .fmin gd => some gd
  | .fmax gd => some gd
  | .fabs gd => some gd
  | .fneg gd => some gd
  | .fsgn gd => some gd
  | .fcls gd => some gd
  | .frcp gd => some gd
  | .frsq gd => some gd
  | .fsetp gd _ _ => some gd
  | .cvt gd _ => some gd
  | .hadd2 gd _ => some gd
  | .hmul2 gd _ => some gd
  | .hfma2 gd _ => some gd
  | .hmax2 gd _ => some gd
  | .dot4 gd _ => some gd
  | .exp2 gd _ => some gd
  | .log2 gd _ => some gd
  | .sin gd _ => some gd
  | .cos gd _ => some gd
  | .tanh gd _ => some gd
  | .sigm gd _ => some gd
  | .erf gd _ => some gd
  | .gelu gd _ => some gd
  | .lse2 gd _ => some gd
  | .tab gd _ => some gd
  | .tload gd => some gd
  | .tbind gd => some gd
  | .qblk gd _ => some gd
  | .dqblk gd _ => some gd
  | .pk4 gd => some gd
  | .upk4 gd => some gd
  | .segw gd _ => some gd
  | .shfl gd _ => some gd
  | .vote gd _ => some gd
  | .red gd _ _ => some gd
  | .scan gd _ _ => some gd
  | .argmax gd _ => some gd
  | .argmin gd _ => some gd
  | .draw gd _ _ => some gd
  | .drawm gd => some gd
  | .coin gd => some gd
  | .dkey gd => some gd
  | .ld gd _ => some gd
  | .ldq gd => some gd
  | .ldw gd _ => some gd
  | .ldF gd _ _ => some gd
  | .ldqF gd _ => some gd
  | .ldwF gd _ _ => some gd
  | .lds gd _ => some gd
  | .sts gd _ => some gd
  | .st gd _ => some gd
  | .stq gd => some gd
  | .stwWg gd _ => some gd
  | .stwDev gd _ => some gd
  | .stwSys gd _ => some gd
  | .prf gd => some gd
  | .sdrain gd => some gd
  | .aadd gd _ _ => some gd
  | .amin32 gd _ _ => some gd
  | .amin64 gd _ _ => some gd
  | .amax32 gd _ _ => some gd
  | .amax64 gd _ _ => some gd
  | .aand gd _ _ => some gd
  | .aor gd _ _ => some gd
  | .axor gd _ _ => some gd
  | .axch gd _ _ => some gd
  | .acas gd _ _ => some gd
  | .afadd gd _ => some gd
  | .wwait gd => some gd
  | .wmax gd => some gd
  | .wnull gd => some gd
  | .wexp gd => some gd
  | .wscp gd => some gd
  | .grow gd _ => some gd
  | .shrink gd _ => some gd
  | .mfs gd _ => some gd
  | .mts gd _ => some gd
  | .trap gd _ => some gd
  | .watch gd _ => some gd
  | .unwatch gd _ => some gd
  | .trcm gd _ => some gd
  | .pmark gd _ => some gd
  | .sleep gd _ => some gd
  | .tret gd => some gd
  | .replay gd => some gd
  | .kill gd => some gd
  | .enq gd => some gd
  | .enqw gd => some gd
  | .lsend gd => some gd
  | .mrecv gd => some gd
  | .ringput gd => some gd
  | .pgmap gd => some gd
  | .cflush gd => some gd
  | .cpy gd => some gd
  | .cpystat gd => some gd
  | .mould gd => some gd
  | .unveil gd => some gd
  | .cpyscout gd _ => some gd
  | .mcatch gd _ _ => some gd
  | .accld gd _ _ => some gd
  | .accst gd _ _ => some gd
  | .accpatch gd => some gd
  | .endrun _ _ _ => none
  | .mWload _ _ _ _ _ _ _ => none
  | .mPass _ _ _ _ _ _ _ _ _ _ => none
  | .mDrain _ _ _ _ => none
  | .mZero _ _ _ => none
  | .mSave _ _ _ _ _ => none
  | .mRestore _ _ _ _ _ => none
  | .mBarArrive _ => none
  | .mBarWait _ => none
  | .mBarSync _ => none
  | .mLoop _ _ _ _ _ => none
  | .mJmp _ => none
  | .mStop => none
  | .mFmt _ _ => none
  | .mSlice _ _ => none
  | .issueSelect _ _ => none
  | .splitPassedOverExpiry _ _ _ => none
  | .starvationPromotion _ _ => none
  | .runDecode _ _ _ => none
  | .spillStart _ _ => none
  | .spillComplete _ _ => none
  | .fillStart _ _ => none
  | .fillComplete _ _ => none
  | .joinReleaseTimeout _ _ _ => none
  | .pendingEntryTimeout _ _ _ => none
  | .operationComplete _ => none
  | .yieldExpiry _ _ => none
  | .sleepExpiry _ _ => none
  | .spanPlacement _ _ _ _ => none
  | .preemptRequest _ => none
  | .groupSave _ _ => none
  | .saveComplete _ => none
  | .resume _ _ _ => none
  | .tableLoadComplete _ _ => none
  | .storeAccept _ _ _ => none
  | .homeApply _ => none
  | .heldLineTake _ _ => none
  | .heldLineLeaseRelease _ _ => none
  | .fillServe _ => none
  | .loadPerform _ _ _ => none
  | .recordRetranslate _ _ => none
  | .l1Evict _ _ => none
  | .kernelBoundary _ => none
  | .enqHeaderRead _ => none
  | .childLaunchEnd _ => none
  | .messageDelivery _ => none
  | .watchArmed _ => none
  | .chainStart _ => none
  | .elementFetch _ => none
  | .skipWordRead _ => none
  | .scoutTranslate _ => none
  | .elementComplete _ => none
  | .unveilReplace _ => none
  | .seqBlockFetch _ _ => none
  | .seqResume _ _ => none
  | .arbiterGrant _ => none
  | .arbiterAgePromotion _ _ => none
  | .engineOpRetire _ _ => none
  | .gatherComplete _ _ => none
  | .drainWrite _ _ _ => none
  | .runBoundaryDelivery _ _ => none
  | .fwResume _ => none
  | .fwEnd _ => none
  | .fwRefer _ => none
  | .poolRefill _ _ _ _ => none
  | .atomicEmulation _ => none
  | .mcheck _ => none
  | .correctedError _ => none
  | .savedRecordReply _ _ _ => none
  | .submitLaunch _ _ _ => none
  | .submitPipeline _ _ _ => none
  | .submitResume _ _ _ => none
  | .submitEnd _ _ _ => none
  | .submitAbort _ _ => none
  | .stageGather _ _ _ => none
  | .stageGatherTimeout _ _ _ => none
  | .stageBalance _ _ _ => none
  | .gangStopTimeout _ => none
  | .sampleTick _ => none
  | .traceSyncTick _ => none
  | .dbgcmdStop _ => none
  | .dbgcmdResume _ => none
  | .dbgcmdStepOn _ => none
  | .dbgcmdStepOff _ => none
  | .dbgcmdStopAll _ => none
  | .dbgcmdResumeAll _ => none
  | .debugWindowWrite _ _ _ => none
  | .trctlWrite _ _ => none
  | .errclrWrite _ _ => none
  | .registerWrite _ _ => none
  | .semaAcquire _ _ _ _ => none
  | .semaRelease _ _ => none
  | .setPartition _ => none
  | .assignTenant _ => none
  | .setQuota _ => none
  | .fenceCluster _ => none
  | .restoreCluster _ => none
  | .firmwareUpdate _ => none
  | .attest _ => none
  | .deviceReset _ => none
  | .guestReset _ => none
  | .readHealthLog _ => none
  | .writeRouteTable _ => none
  | .linkEnable _ => none
  | .dirtyLogThrottleLift _ => none
  | .flitReceive _ _ => none
  | .portDown _ => none
  | .portTrained _ => none
  | .timeExchange _ _ _ _ _ _ => none
  | .powerOnReset => none
  | .laneTestFail _ _ _ => none
  | .dramSpare _ _ => none
  | .patinaCheck _ _ => none
  | .notify _ => none
  | .cqheadAdvance _ _ => none
  | .issueSlotWithholding _ _ _ => none
  | .uciePortTrained _ => none
  | .uciePortDown _ => none

/-- The operand checks of an instruction, guards apart. -/
def Instr.operandsOk : Instr → Bool
  | .pick _ n => n.toNat ≤ 6
  | .ldk2 _ k => evenReg k
  | .ldf2 _ f | .stf2 _ f => evenReg f
  | .red _ op t | .scan _ op t => redWf op t
  | .ldF _ f w | .ldwF _ f w => w != .i64 || evenReg f
  | .ldqF _ f => f.toNat % 4 == 0
  | .grow _ n | .shrink _ n => n.toNat ≤ 32
  | .mfs _ r | .mts _ r => isSysReg r
  | .cpyscout _ n => n.toNat ≤ 64
  | .mcatch _ f nm | .accld _ f nm | .accst _ f nm => lcWf f nm
  | .endrun safe idx _ => safe || idx == 0
  | .mWload fmt _ _ _ _ _ scale => fmt == .b4 || scale == 0
  | _ => true

/-- The term is an instruction (or an event): its guard and its operands pass the checks of R119 to R125 and R324. -/
def Instr.wf (i : Instr) : Bool :=
  (match i.guard with | some g => g.wf | none => true) && i.operandsOk

end Sys2Proof
end

