-- ==== Sys2Proof/Decode.lean ====
section
/-! DEFINITION. Decoding and encoding of runs and of the sequencer stream (R119 to R137, R324). -/

namespace Sys2Proof

/-- Why a halfword sequence is not an instruction; the device's cause for each is given by R126. -/
inductive DecErr
  /-- OP is reserved or in 0x3C2 to 0x3FF: ILLEGAL. -/
  | reservedOp
  /-- E = 0 with S or G nonzero, or a guarded trailer: ILLEGAL. -/
  | badGuard
  /-- The operand halfword or literal breaks R121, R122 or R125: ILLEGAL. -/
  | badOperand
  /-- A RUN header where an instruction is expected: RUN_FORM. -/
  | runControl
  /-- The halfwords end inside the instruction. -/
  | truncated
  deriving DecidableEq, Repr

/-- The OP field (R119). -/
def opOf (h : Half) : Nat := (h.setWidth 10).toNat
/-- The guard fields (R119). -/
def guardOf (h : Half) : Guard := ⟨h.getLsbD 15, h.getLsbD 14, (h >>> 10).setWidth 4⟩

/-- The format of a 4-bit code of R98 that a conversion may name. -/
def Fmt.ofCode (c : Nat) : Option Fmt :=
  match c with
  | 0 => some .f32 | 1 => some .f16 | 2 => some .bf16 | 3 => some .e4m3 | 4 => some .e5m2 | 5 => some .i8
  | 6 => some .z8 | 7 => some .i16 | 8 => some .z16 | 9 => some .i32 | 10 => some .z32 | 11 => some .i64
  | 12 => some .z64 | _ => none

/-- The code of R98. -/
def Fmt.code : Fmt → Nat
  | .f32 => 0 | .f16 => 1 | .bf16 => 2 | .e4m3 => 3 | .e5m2 => 4 | .i8 => 5 | .z8 => 6 | .i16 => 7 | .z16 => 8
  | .i32 => 9 | .z32 => 10 | .i64 => 11 | .z64 => 12

/-- The rounding mode of a 2-bit code (R99). -/
def RMode.ofCode (c : Nat) : RMode := match c with | 0 => .rn | 1 => .rz | 2 => .ru | _ => .rd
/-- The 2-bit code of a rounding mode (R99). -/
def RMode.code : RMode → Nat | .rn => 0 | .rz => 1 | .ru => 2 | .rd => 3

/-- Operand halfword of kind CV (R121). -/
def decCv (h : Half) : Option CvtSpec :=
  let n := h.toNat
  if n / 1024 ≠ 0 then none else
  match Fmt.ofCode (n % 16), Fmt.ofCode (n / 16 % 16) with
  | some d, some s => some ⟨d, s, RMode.ofCode (n / 256 % 4)⟩
  | _, _ => none

/-- Operand halfword of kind RS (R121), the logic operations of type f32 apart. -/
def decRs (h : Half) : Option (RedOp × RedTy) :=
  let n := h.toNat
  if n / 64 ≠ 0 then none else
  let op : Option RedOp := match n / 8 with
    | 0 => some .add | 1 => some .min | 2 => some .max | 3 => some .and | 4 => some .or | 5 => some .xor | _ => none
  let ty : Option RedTy := match n % 8 with
    | 0 => some .f32 | 1 => some .i32 | 2 => some .z32 | 3 => some .i64 | 4 => some .z64 | _ => none
  match op, ty with
  | some o, some t => some (o, t)
  | _, _ => none

/-- Operand halfword of kind AT (R121). -/
def decAt (h : Half) : Option AtOp :=
  let n := h.toNat
  if n / 8 ≠ 0 then none else
  match n % 4 with
  | 1 => some ⟨.wg, n / 4 == 1⟩ | 2 => some ⟨.dev, n / 4 == 1⟩ | 3 => some ⟨.sys, n / 4 == 1⟩ | _ => none

/-- Operations 0x000 to 0x00F (R131 to R134). -/
def dec16Row00 (gd : Guard) (k : Nat) : Option Instr :=
  match k with
  | 0 => some (.nop gd)
  | 1 => some (.dup gd)
  | 2 => some (.drop gd)
  | 3 => some (.swap gd)
  | 4 => some (.over gd)
  | 5 => some (.rot gd)
  | 6 => some (.nip gd)
  | 7 => some (.tuck gd)
  | 8 => some (.dup2 gd)
  | 9 => some (.drop2 gd)
  | 10 => some (.swap2 gd)
  | 11 => some (.depth gd)
  | _ => none

/-- Operations 0x010 to 0x01F (R131 to R134). -/
def dec16Row01 (gd : Guard) (k : Nat) : Option Instr :=
  match k with
  | 0 => some (.ldu gd)
  | 1 => some (.wid gd)
  | 2 => some (.lane gd)
  | 3 => some (.segi gd)
  | 4 => some (.lea gd .b8)
  | 5 => some (.lea gd .b16)
  | 6 => some (.lea gd .b32)
  | 7 => some (.lea gd .b64)
  | 8 => some (.bx gd)
  | 9 => some (.ret gd)
  | 10 => some (.exit gd)
  | 11 => some (.yield gd)
  | _ => none

/-- Operations 0x020 to 0x02F (R131 to R134). -/
def dec16Row02 (gd : Guard) (k : Nat) : Option Instr :=
  match k with
  | 0 => some (.bfe gd .i32)
  | 1 => some (.bfe gd .z32)
  | 2 => some (.bfe gd .i64)
  | 3 => some (.bfe gd .z64)
  | 4 => some (.bfi gd .i32)
  | 5 => some (.bfi gd .z32)
  | 6 => some (.bfi gd .i64)
  | 7 => some (.bfi gd .z64)
  | 8 => some (.sext gd .i8)
  | 9 => some (.sext gd .i16)
  | 10 => some (.sext gd .i32)
  | 12 => some (.sel gd .w32)
  | 13 => some (.sel gd .w64)
  | _ => none

/-- Operations 0x040 to 0x04F (R131 to R134). -/
def dec16Row04 (gd : Guard) (k : Nat) : Option Instr :=
  match k with
  | 0 => some (.add gd .i32)
  | 1 => some (.add gd .z32)
  | 2 => some (.add gd .i64)
  | 3 => some (.add gd .z64)
  | 4 => some (.sub gd .i32)
  | 5 => some (.sub gd .z32)
  | 6 => some (.sub gd .i64)
  | 7 => some (.sub gd .z64)
  | 8 => some (.mul gd .i32)
  | 9 => some (.mul gd .z32)
  | 10 => some (.mul gd .i64)
  | 11 => some (.mul gd .z64)
  | 12 => some (.mulh gd .i32)
  | 13 => some (.mulh gd .z32)
  | 14 => some (.mulh gd .i64)
  | 15 => some (.mulh gd .z64)
  | _ => none

/-- Operations 0x050 to 0x05F (R131 to R134). -/
def dec16Row05 (gd : Guard) (k : Nat) : Option Instr :=
  match k with
  | 0 => some (.mad gd .i32)
  | 1 => some (.mad gd .z32)
  | 2 => some (.mad gd .i64)
  | 3 => some (.mad gd .z64)
  | 4 => some (.div gd .i32)
  | 5 => some (.div gd .z32)
  | 6 => some (.div gd .i64)
  | 7 => some (.div gd .z64)
  | 8 => some (.rem gd .i32)
  | 9 => some (.rem gd .z32)
  | 10 => some (.rem gd .i64)
  | 11 => some (.rem gd .z64)
  | 12 => some (.neg gd .i32)
  | 13 => some (.neg gd .z32)
  | 14 => some (.neg gd .i64)
  | 15 => some (.neg gd .z64)
  | _ => none

/-- Operations 0x060 to 0x06F (R131 to R134). -/
def dec16Row06 (gd : Guard) (k : Nat) : Option Instr :=
  match k with
  | 0 => some (.abs gd .w32)
  | 2 => some (.abs gd .w64)
  | 4 => some (.min gd .i32)
  | 5 => some (.min gd .z32)
  | 6 => some (.min gd .i64)
  | 7 => some (.min gd .z64)
  | 8 => some (.max gd .i32)
  | 9 => some (.max gd .z32)
  | 10 => some (.max gd .i64)
  | 11 => some (.max gd .z64)
  | 12 => some (.and gd .i32)
  | 13 => some (.and gd .z32)
  | 14 => some (.and gd .i64)
  | 15 => some (.and gd .z64)
  | _ => none

/-- Operations 0x070 to 0x07F (R131 to R134). -/
def dec16Row07 (gd : Guard) (k : Nat) : Option Instr :=
  match k with
  | 0 => some (.or gd .i32)
  | 1 => some (.or gd .z32)
  | 2 => some (.or gd .i64)
  | 3 => some (.or gd .z64)
  | 4 => some (.xor gd .i32)
  | 5 => some (.xor gd .z32)
  | 6 => some (.xor gd .i64)
  | 7 => some (.xor gd .z64)
  | 8 => some (.not gd .i32)
  | 9 => some (.not gd .z32)
  | 10 => some (.not gd .i64)
  | 11 => some (.not gd .z64)
  | 12 => some (.shl gd .i32)
  | 13 => some (.shl gd .z32)
  | 14 => some (.shl gd .i64)
  | 15 => some (.shl gd .z64)
  | _ => none

/-- Operations 0x080 to 0x08F (R131 to R134). -/
def dec16Row08 (gd : Guard) (k : Nat) : Option Instr :=
  match k with
  | 0 => some (.shr gd .i32)
  | 1 => some (.shr gd .z32)
  | 2 => some (.shr gd .i64)
  | 3 => some (.shr gd .z64)
  | 4 => some (.sar gd .i32)
  | 5 => some (.sar gd .z32)
  | 6 => some (.sar gd .i64)
  | 7 => some (.sar gd .z64)
  | 8 => some (.rotl gd .i32)
  | 9 => some (.rotl gd .z32)
  | 10 => some (.rotl gd .i64)
  | 11 => some (.rotl gd .z64)
  | 12 => some (.clz gd .i32)
  | 13 => some (.clz gd .z32)
  | 14 => some (.clz gd .i64)
  | 15 => some (.clz gd .z64)
  | _ => none

/-- Operations 0x090 to 0x09F (R131 to R134). -/
def dec16Row09 (gd : Guard) (k : Nat) : Option Instr :=
  match k with
  | 0 => some (.popc gd .i32)
  | 1 => some (.popc gd .z32)
  | 2 => some (.popc gd .i64)
  | 3 => some (.popc gd .z64)
  | 4 => some (.brev gd .i32)
  | 5 => some (.brev gd .z32)
  | 6 => some (.brev gd .i64)
  | 7 => some (.brev gd .z64)
  | 8 => some (.addc gd .i32)
  | 9 => some (.addc gd .z32)
  | 10 => some (.addc gd .i64)
  | 11 => some (.addc gd .z64)
  | 12 => some (.subb gd .i32)
  | 13 => some (.subb gd .z32)
  | 14 => some (.subb gd .i64)
  | 15 => some (.subb gd .z64)
  | _ => none

/-- Operations 0x0A0 to 0x0AF (R131 to R134). -/
def dec16Row0A (gd : Guard) (k : Nat) : Option Instr :=
  match k with
  | 0 => some (.fadd gd .rn)
  | 1 => some (.fadd gd .rz)
  | 2 => some (.fadd gd .ru)
  | 3 => some (.fadd gd .rd)
  | 4 => some (.fsub gd .rn)
  | 5 => some (.fsub gd .rz)
  | 6 => some (.fsub gd .ru)
  | 7 => some (.fsub gd .rd)
  | 8 => some (.fmul gd .rn)
  | 9 => some (.fmul gd .rz)
  | 10 => some (.fmul gd .ru)
  | 11 => some (.fmul gd .rd)
  | 12 => some (.ffma gd .rn)
  | 13 => some (.ffma gd .rz)
  | 14 => some (.ffma gd .ru)
  | 15 => some (.ffma gd .rd)
  | _ => none

/-- Operations 0x0B0 to 0x0BF (R131 to R134). -/
def dec16Row0B (gd : Guard) (k : Nat) : Option Instr :=
  match k with
  | 0 => some (.fdiv gd .rn)
  | 1 => some (.fdiv gd .rz)
  | 2 => some (.fdiv gd .ru)
  | 3 => some (.fdiv gd .rd)
  | 4 => some (.fsqrt gd .rn)
  | 5 => some (.fsqrt gd .rz)
  | 6 => some (.fsqrt gd .ru)
  | 7 => some (.fsqrt gd .rd)
  | 8 => some (.frnd gd .rn)
  | 9 => some (.frnd gd .rz)
  | 10 => some (.frnd gd .ru)
  | 11 => some (.frnd gd .rd)
  | 12 => some (.fmin gd)
  | 13 => some (.fmax gd)
  | 14 => some (.fabs gd)
  | 15 => some (.fneg gd)
  | _ => none

/-- Operations 0x0C0 to 0x0CF (R131 to R134). -/
def dec16Row0C (gd : Guard) (k : Nat) : Option Instr :=
  match k with
  | 0 => some (.fsgn gd)
  | 1 => some (.fcls gd)
  | 2 => some (.frcp gd)
  | 3 => some (.frsq gd)
  | 4 => some (.hadd2 gd .f16)
  | 5 => some (.hadd2 gd .bf16)
  | 6 => some (.hmul2 gd .f16)
  | 7 => some (.hmul2 gd .bf16)
  | 8 => some (.hfma2 gd .f16)
  | 9 => some (.hfma2 gd .bf16)
  | 10 => some (.hmax2 gd .f16)
  | 11 => some (.hmax2 gd .bf16)
  | 12 => some (.dot4 gd .i8)
  | 13 => some (.dot4 gd .z8)
  | 14 => some (.dot4 gd .e4m3)
  | 15 => some (.dot4 gd .e5m2)
  | _ => none

/-- Operations 0x0D0 to 0x0DF (R131 to R134). -/
def dec16Row0D (gd : Guard) (k : Nat) : Option Instr :=
  match k with
  | 0 => some (.exp2 gd .f32)
  | 1 => some (.exp2 gd .f16)
  | 2 => some (.exp2 gd .bf16)
  | 4 => some (.log2 gd .f32)
  | 5 => some (.log2 gd .f16)
  | 6 => some (.log2 gd .bf16)
  | 8 => some (.sin gd .f32)
  | 9 => some (.sin gd .f16)
  | 10 => some (.sin gd .bf16)
  | 12 => some (.cos gd .f32)
  | 13 => some (.cos gd .f16)
  | 14 => some (.cos gd .bf16)
  | _ => none

/-- Operations 0x0E0 to 0x0EF (R131 to R134). -/
def dec16Row0E (gd : Guard) (k : Nat) : Option Instr :=
  match k with
  | 0 => some (.tanh gd .f32)
  | 1 => some (.tanh gd .f16)
  | 2 => some (.tanh gd .bf16)
  | 4 => some (.sigm gd .f32)
  | 5 => some (.sigm gd .f16)
  | 6 => some (.sigm gd .bf16)
  | 8 => some (.erf gd .f32)
  | 9 => some (.erf gd .f16)
  | 10 => some (.erf gd .bf16)
  | 12 => some (.gelu gd .f32)
  | 13 => some (.gelu gd .f16)
  | 14 => some (.gelu gd .bf16)
  | _ => none

/-- Operations 0x0F0 to 0x0FF (R131 to R134). -/
def dec16Row0F (gd : Guard) (k : Nat) : Option Instr :=
  match k with
  | 0 => some (.lse2 gd .f32)
  | 1 => some (.lse2 gd .f16)
  | 2 => some (.lse2 gd .bf16)
  | 4 => some (.tab gd .f32)
  | 5 => some (.tab gd .f16)
  | 6 => some (.tab gd .bf16)
  | 8 => some (.tload gd)
  | 9 => some (.tbind gd)
  | _ => none

/-- Operations 0x100 to 0x10F (R131 to R134). -/
def dec16Row10 (gd : Guard) (k : Nat) : Option Instr :=
  match k with
  | 0 => some (.qblk gd .ui)
  | 1 => some (.qblk gd .e2m1)
  | 2 => some (.qblk gd .pow2)
  | 3 => some (.qblk gd .ilog)
  | 4 => some (.dqblk gd .f32)
  | 5 => some (.dqblk gd .f16)
  | 6 => some (.dqblk gd .bf16)
  | 8 => some (.pk4 gd)
  | 9 => some (.upk4 gd)
  | 10 => some (.drawm gd)
  | 11 => some (.coin gd)
  | 12 => some (.dkey gd)
  | _ => none

/-- Operations 0x110 to 0x11F (R131 to R134). -/
def dec16Row11 (gd : Guard) (k : Nat) : Option Instr :=
  match k with
  | 0 => some (.shfl gd .idx)
  | 1 => some (.shfl gd .up)
  | 2 => some (.shfl gd .down)
  | 3 => some (.shfl gd .xor)
  | 4 => some (.vote gd .any)
  | 5 => some (.vote gd .all)
  | 6 => some (.vote gd .ballot)
  | 8 => some (.argmax gd .f32)
  | 9 => some (.argmax gd .i32)
  | 10 => some (.argmax gd .z32)
  | 12 => some (.argmin gd .f32)
  | 13 => some (.argmin gd .i32)
  | 14 => some (.argmin gd .z32)
  | _ => none

/-- Operations 0x120 to 0x12F (R131 to R134). -/
def dec16Row12 (gd : Guard) (k : Nat) : Option Instr :=
  match k with
  | 0 => some (.ld gd .i8)
  | 1 => some (.ld gd .z8)
  | 2 => some (.ld gd .i16)
  | 3 => some (.ld gd .z16)
  | 4 => some (.ld gd .i32)
  | 5 => some (.ld gd .i64)
  | 6 => some (.ldq gd)
  | 8 => some (.ldw gd .i8)
  | 9 => some (.ldw gd .z8)
  | 10 => some (.ldw gd .i16)
  | 11 => some (.ldw gd .z16)
  | 12 => some (.ldw gd .i32)
  | 13 => some (.ldw gd .i64)
  | _ => none

/-- Operations 0x130 to 0x13F (R131 to R134). -/
def dec16Row13 (gd : Guard) (k : Nat) : Option Instr :=
  match k with
  | 0 => some (.lds gd .i8)
  | 1 => some (.lds gd .z8)
  | 2 => some (.lds gd .i16)
  | 3 => some (.lds gd .z16)
  | 4 => some (.lds gd .i32)
  | 5 => some (.lds gd .i64)
  | 8 => some (.st gd .i8)
  | 9 => some (.st gd .i16)
  | 10 => some (.st gd .i32)
  | 11 => some (.st gd .i64)
  | 12 => some (.stq gd)
  | 13 => some (.prf gd)
  | 14 => some (.sdrain gd)
  | _ => none

/-- Operations 0x140 to 0x14F (R131 to R134). -/
def dec16Row14 (gd : Guard) (k : Nat) : Option Instr :=
  match k with
  | 0 => some (.sts gd .i8)
  | 1 => some (.sts gd .i16)
  | 2 => some (.sts gd .i32)
  | 3 => some (.sts gd .i64)
  | 8 => some (.stwWg gd .i8)
  | 9 => some (.stwWg gd .i16)
  | 10 => some (.stwWg gd .i32)
  | 11 => some (.stwWg gd .i64)
  | 12 => some (.stwDev gd .i8)
  | 13 => some (.stwDev gd .i16)
  | 14 => some (.stwDev gd .i32)
  | 15 => some (.stwDev gd .i64)
  | _ => none

/-- Operations 0x150 to 0x15F (R131 to R134). -/
def dec16Row15 (gd : Guard) (k : Nat) : Option Instr :=
  match k with
  | 0 => some (.stwSys gd .i8)
  | 1 => some (.stwSys gd .i16)
  | 2 => some (.stwSys gd .i32)
  | 3 => some (.stwSys gd .i64)
  | 4 => some (.wwait gd)
  | 5 => some (.wmax gd)
  | 6 => some (.wnull gd)
  | 7 => some (.wexp gd)
  | 8 => some (.wscp gd)
  | _ => none

/-- Operations 0x160 to 0x16F (R131 to R134). -/
def dec16Row16 (gd : Guard) (k : Nat) : Option Instr :=
  match k with
  | 0 => some (.tret gd)
  | 1 => some (.replay gd)
  | 2 => some (.kill gd)
  | 3 => some (.enq gd)
  | 4 => some (.enqw gd)
  | 5 => some (.lsend gd)
  | 6 => some (.mrecv gd)
  | 7 => some (.ringput gd)
  | 8 => some (.pgmap gd)
  | 9 => some (.cflush gd)
  | _ => none

/-- Operations 0x170 to 0x17F (R131 to R134). -/
def dec16Row17 (gd : Guard) (k : Nat) : Option Instr :=
  match k with
  | 0 => some (.cpy gd)
  | 1 => some (.cpystat gd)
  | 2 => some (.mould gd)
  | 3 => some (.unveil gd)
  | 4 => some (.accpatch gd)
  | _ => none

/-- The 16-bit operations, OP 0x000 to 0x17F (R131, R132); `none` is a reserved OP. -/
def dec16 (gd : Guard) (op : Nat) : Option Instr :=
  match op / 16 with
  | 0 => dec16Row00 gd (op % 16)
  | 1 => dec16Row01 gd (op % 16)
  | 2 => dec16Row02 gd (op % 16)
  | 4 => dec16Row04 gd (op % 16)
  | 5 => dec16Row05 gd (op % 16)
  | 6 => dec16Row06 gd (op % 16)
  | 7 => dec16Row07 gd (op % 16)
  | 8 => dec16Row08 gd (op % 16)
  | 9 => dec16Row09 gd (op % 16)
  | 10 => dec16Row0A gd (op % 16)
  | 11 => dec16Row0B gd (op % 16)
  | 12 => dec16Row0C gd (op % 16)
  | 13 => dec16Row0D gd (op % 16)
  | 14 => dec16Row0E gd (op % 16)
  | 15 => dec16Row0F gd (op % 16)
  | 16 => dec16Row10 gd (op % 16)
  | 17 => dec16Row11 gd (op % 16)
  | 18 => dec16Row12 gd (op % 16)
  | 19 => dec16Row13 gd (op % 16)
  | 20 => dec16Row14 gd (op % 16)
  | 21 => dec16Row15 gd (op % 16)
  | 22 => dec16Row16 gd (op % 16)
  | 23 => dec16Row17 gd (op % 16)
  | _ => none

/-- Operations 0x180 to 0x18F (R131 to R134). -/
def dec32Row18 (gd : Guard) (h : Half) (k : Nat) : Option Instr :=
  match k with
  | 0 => some (.ldi gd h)
  | 1 => if h.toNat < 64 then some (.ldk gd (h.setWidth 6)) else none
  | 2 => if h.toNat < 64 then some (.ldk2 gd (h.setWidth 6)) else none
  | 3 => if h.toNat < 256 then some (.ldf gd (h.setWidth 8)) else none
  | 4 => if h.toNat < 256 then some (.stf gd (h.setWidth 8)) else none
  | 5 => if h.toNat < 256 then some (.ldf2 gd (h.setWidth 8)) else none
  | 6 => if h.toNat < 256 then some (.stf2 gd (h.setWidth 8)) else none
  | 7 => if h.toNat < 256 then some (.teef gd (h.setWidth 8)) else none
  | 8 => if h.toNat < 64 then some (.stu gd (h.setWidth 6)) else none
  | 9 => if h.toNat < 4 then some (.ldx gd (h.setWidth 2)) else none
  | 10 => if h.toNat < 4 then some (.stx gd (h.setWidth 2)) else none
  | 11 => if h.toNat < 16 then some (.ldp gd (h.setWidth 4)) else none
  | 12 => if h.toNat < 16 then some (.stp gd (h.setWidth 4)) else none
  | 13 => if h.toNat < 8 then some (.pick gd (h.setWidth 3)) else none
  | 14 => if h.toNat < 8 then some (.roll gd (h.setWidth 3)) else none
  | 15 => if h.toNat < 8 then some (.segw gd (h.setWidth 3)) else none
  | _ => none

/-- Operations 0x190 to 0x19F (R131 to R134). -/
def dec32Row19 (gd : Guard) (h : Half) (k : Nat) : Option Instr :=
  match k with
  | 0 => some (.br gd h)
  | 1 => some (.bz gd h)
  | 2 => some (.bnz gd h)
  | 3 => if h.toNat % 4 = 0 then some (.wait gd ⟨(h >>> 12).setWidth 4, (h >>> 8).setWidth 4, (h >>> 5).setWidth 3, (h >>> 2).setWidth 3⟩) else none
  | 4 => if h.toNat < 16 then some (.arrive gd (h.setWidth 4)) else none
  | 5 => if h.toNat < 16 then some (.bwait gd (h.setWidth 4)) else none
  | 6 => if h.toNat < 16 then some (.bsync gd (h.setWidth 4)) else none
  | _ => none

/-- Operations 0x1A0 to 0x1AF (R131 to R134). -/
def dec32Row1A (gd : Guard) (h : Half) (k : Nat) : Option Instr :=
  match k with
  | 0 => some (.bpAny gd 0 h)
  | 1 => some (.bpAny gd 1 h)
  | 2 => some (.bpAny gd 2 h)
  | 3 => some (.bpAny gd 3 h)
  | 4 => some (.bpAny gd 4 h)
  | 5 => some (.bpAny gd 5 h)
  | 6 => some (.bpAny gd 6 h)
  | 7 => some (.bpAny gd 7 h)
  | 8 => some (.bpAny gd 8 h)
  | 9 => some (.bpAny gd 9 h)
  | 10 => some (.bpAny gd 10 h)
  | 11 => some (.bpAny gd 11 h)
  | 12 => some (.bpAny gd 12 h)
  | 13 => some (.bpAny gd 13 h)
  | 14 => some (.bpAny gd 14 h)
  | 15 => some (.bpAny gd 15 h)
  | _ => none

/-- Operations 0x1B0 to 0x1BF (R131 to R134). -/
def dec32Row1B (gd : Guard) (h : Half) (k : Nat) : Option Instr :=
  match k with
  | 0 => some (.bpAll gd 0 h)
  | 1 => some (.bpAll gd 1 h)
  | 2 => some (.bpAll gd 2 h)
  | 3 => some (.bpAll gd 3 h)
  | 4 => some (.bpAll gd 4 h)
  | 5 => some (.bpAll gd 5 h)
  | 6 => some (.bpAll gd 6 h)
  | 7 => some (.bpAll gd 7 h)
  | 8 => some (.bpAll gd 8 h)
  | 9 => some (.bpAll gd 9 h)
  | 10 => some (.bpAll gd 10 h)
  | 11 => some (.bpAll gd 11 h)
  | 12 => some (.bpAll gd 12 h)
  | 13 => some (.bpAll gd 13 h)
  | 14 => some (.bpAll gd 14 h)
  | 15 => some (.bpAll gd 15 h)
  | _ => none

/-- Operations 0x1C0 to 0x1CF (R131 to R134). -/
def dec32Row1C (gd : Guard) (h : Half) (k : Nat) : Option Instr :=
  match k with
  | 0 => if h.toNat < 16 then some (.setp gd .eq .i32 (h.setWidth 4)) else none
  | 1 => if h.toNat < 16 then some (.setp gd .eq .z32 (h.setWidth 4)) else none
  | 2 => if h.toNat < 16 then some (.setp gd .eq .i64 (h.setWidth 4)) else none
  | 3 => if h.toNat < 16 then some (.setp gd .eq .z64 (h.setWidth 4)) else none
  | 4 => if h.toNat < 16 then some (.setp gd .ne .i32 (h.setWidth 4)) else none
  | 5 => if h.toNat < 16 then some (.setp gd .ne .z32 (h.setWidth 4)) else none
  | 6 => if h.toNat < 16 then some (.setp gd .ne .i64 (h.setWidth 4)) else none
  | 7 => if h.toNat < 16 then some (.setp gd .ne .z64 (h.setWidth 4)) else none
  | 8 => if h.toNat < 16 then some (.setp gd .lt .i32 (h.setWidth 4)) else none
  | 9 => if h.toNat < 16 then some (.setp gd .lt .z32 (h.setWidth 4)) else none
  | 10 => if h.toNat < 16 then some (.setp gd .lt .i64 (h.setWidth 4)) else none
  | 11 => if h.toNat < 16 then some (.setp gd .lt .z64 (h.setWidth 4)) else none
  | 12 => if h.toNat < 16 then some (.setp gd .le .i32 (h.setWidth 4)) else none
  | 13 => if h.toNat < 16 then some (.setp gd .le .z32 (h.setWidth 4)) else none
  | 14 => if h.toNat < 16 then some (.setp gd .le .i64 (h.setWidth 4)) else none
  | 15 => if h.toNat < 16 then some (.setp gd .le .z64 (h.setWidth 4)) else none
  | _ => none

/-- Operations 0x1D0 to 0x1DF (R131 to R134). -/
def dec32Row1D (gd : Guard) (h : Half) (k : Nat) : Option Instr :=
  match k with
  | 0 => if h.toNat < 16 then some (.setp gd .gt .i32 (h.setWidth 4)) else none
  | 1 => if h.toNat < 16 then some (.setp gd .gt .z32 (h.setWidth 4)) else none
  | 2 => if h.toNat < 16 then some (.setp gd .gt .i64 (h.setWidth 4)) else none
  | 3 => if h.toNat < 16 then some (.setp gd .gt .z64 (h.setWidth 4)) else none
  | 4 => if h.toNat < 16 then some (.setp gd .ge .i32 (h.setWidth 4)) else none
  | 5 => if h.toNat < 16 then some (.setp gd .ge .z32 (h.setWidth 4)) else none
  | 6 => if h.toNat < 16 then some (.setp gd .ge .i64 (h.setWidth 4)) else none
  | 7 => if h.toNat < 16 then some (.setp gd .ge .z64 (h.setWidth 4)) else none
  | _ => none

/-- Operations 0x1E0 to 0x1EF (R131 to R134). -/
def dec32Row1E (gd : Guard) (h : Half) (k : Nat) : Option Instr :=
  match k with
  | 0 => if h.toNat < 16 then some (.fsetp gd .eq (h.setWidth 4)) else none
  | 1 => if h.toNat < 16 then some (.fsetp gd .ne (h.setWidth 4)) else none
  | 2 => if h.toNat < 16 then some (.fsetp gd .lt (h.setWidth 4)) else none
  | 3 => if h.toNat < 16 then some (.fsetp gd .le (h.setWidth 4)) else none
  | 4 => if h.toNat < 16 then some (.fsetp gd .gt (h.setWidth 4)) else none
  | 5 => if h.toNat < 16 then some (.fsetp gd .ge (h.setWidth 4)) else none
  | 6 => if h.toNat < 16 then some (.fsetp gd .un (h.setWidth 4)) else none
  | 7 => if h.toNat < 16 then some (.fsetp gd .ord (h.setWidth 4)) else none
  | _ => none

/-- Operations 0x1F0 to 0x1FF (R131 to R134). -/
def dec32Row1F (gd : Guard) (h : Half) (k : Nat) : Option Instr :=
  match k with
  | 0 => (decCv h).map (.cvt gd)
  | 1 => (decRs h).map fun x => .red gd x.1 x.2
  | 2 => (decRs h).map fun x => .scan gd x.1 x.2
  | _ => none

/-- Operations 0x200 to 0x20F (R131 to R134). -/
def dec32Row20 (gd : Guard) (h : Half) (k : Nat) : Option Instr :=
  match k with
  | 0 => if h.toNat < 256 then some (.ldF gd (h.setWidth 8) .i8) else none
  | 1 => if h.toNat < 256 then some (.ldF gd (h.setWidth 8) .z8) else none
  | 2 => if h.toNat < 256 then some (.ldF gd (h.setWidth 8) .i16) else none
  | 3 => if h.toNat < 256 then some (.ldF gd (h.setWidth 8) .z16) else none
  | 4 => if h.toNat < 256 then some (.ldF gd (h.setWidth 8) .i32) else none
  | 5 => if h.toNat < 256 then some (.ldF gd (h.setWidth 8) .i64) else none
  | 6 => if h.toNat < 256 then some (.ldqF gd (h.setWidth 8)) else none
  | 8 => if h.toNat < 256 then some (.ldwF gd (h.setWidth 8) .i8) else none
  | 9 => if h.toNat < 256 then some (.ldwF gd (h.setWidth 8) .z8) else none
  | 10 => if h.toNat < 256 then some (.ldwF gd (h.setWidth 8) .i16) else none
  | 11 => if h.toNat < 256 then some (.ldwF gd (h.setWidth 8) .z16) else none
  | 12 => if h.toNat < 256 then some (.ldwF gd (h.setWidth 8) .i32) else none
  | 13 => if h.toNat < 256 then some (.ldwF gd (h.setWidth 8) .i64) else none
  | _ => none

/-- Operations 0x210 to 0x21F (R131 to R134). -/
def dec32Row21 (gd : Guard) (h : Half) (k : Nat) : Option Instr :=
  match k with
  | 0 => (decAt h).map (.aadd gd .w32)
  | 1 => (decAt h).map (.aadd gd .w64)
  | 2 => (decAt h).map (.amin32 gd false)
  | 3 => (decAt h).map (.amin32 gd true)
  | 4 => (decAt h).map (.amin64 gd false)
  | 5 => (decAt h).map (.amin64 gd true)
  | 6 => (decAt h).map (.amax32 gd false)
  | 7 => (decAt h).map (.amax32 gd true)
  | 8 => (decAt h).map (.amax64 gd false)
  | 9 => (decAt h).map (.amax64 gd true)
  | 10 => (decAt h).map (.aand gd .w32)
  | 11 => (decAt h).map (.aand gd .w64)
  | 12 => (decAt h).map (.aor gd .w32)
  | 13 => (decAt h).map (.aor gd .w64)
  | 14 => (decAt h).map (.axor gd .w32)
  | 15 => (decAt h).map (.axor gd .w64)
  | _ => none

/-- Operations 0x220 to 0x22F (R131 to R134). -/
def dec32Row22 (gd : Guard) (h : Half) (k : Nat) : Option Instr :=
  match k with
  | 0 => (decAt h).map (.axch gd .w32)
  | 1 => (decAt h).map (.axch gd .w64)
  | 2 => (decAt h).map (.acas gd .w32)
  | 3 => (decAt h).map (.acas gd .w64)
  | 4 => (decAt h).map (.afadd gd)
  | _ => none

/-- Operations 0x230 to 0x23F (R131 to R134). -/
def dec32Row23 (gd : Guard) (h : Half) (k : Nat) : Option Instr :=
  match k with
  | 0 => if h.toNat < 64 then some (.grow gd (h.setWidth 6)) else none
  | 1 => if h.toNat < 64 then some (.shrink gd (h.setWidth 6)) else none
  | 2 => if h.toNat < 4096 then some (.mfs gd (h.setWidth 12)) else none
  | 3 => if h.toNat < 4096 then some (.mts gd (h.setWidth 12)) else none
  | 4 => if h.toNat < 256 then some (.trap gd (h.setWidth 8)) else none
  | 5 => if h.toNat < 4 then some (.watch gd (h.setWidth 2)) else none
  | 6 => if h.toNat < 4 then some (.unwatch gd (h.setWidth 2)) else none
  | 7 => some (.trcm gd h)
  | 8 => some (.pmark gd h)
  | 9 => some (.sleep gd h)
  | 10 => if h.toNat < 128 then some (.cpyscout gd (h.setWidth 7)) else none
  | _ => none

/-- The 32-bit operations, OP 0x180 to 0x2FF (R133, R134), with their operand halfword. -/
def dec32 (gd : Guard) (h : Half) (op : Nat) : Option Instr :=
  match op / 16 with
  | 24 => dec32Row18 gd h (op % 16)
  | 25 => dec32Row19 gd h (op % 16)
  | 26 => dec32Row1A gd h (op % 16)
  | 27 => dec32Row1B gd h (op % 16)
  | 28 => dec32Row1C gd h (op % 16)
  | 29 => dec32Row1D gd h (op % 16)
  | 30 => dec32Row1E gd h (op % 16)
  | 31 => dec32Row1F gd h (op % 16)
  | 32 => dec32Row20 gd h (op % 16)
  | 33 => dec32Row21 gd h (op % 16)
  | 34 => dec32Row22 gd h (op % 16)
  | 35 => dec32Row23 gd h (op % 16)
  | _ => none

/-- Literal of kind LD (R122): uniform register and predicate of `draw`. -/
def decLd (l : BitVec 32) : Option (BitVec 6 × BitVec 4) :=
  if l.toNat / 4096 ≠ 0 || l.toNat / 64 % 4 ≠ 0 then none else some (l.setWidth 6, (l >>> 8).setWidth 4)

/-- Literal of kind LC (R122), the range check apart. -/
def decLc (l : BitVec 32) : Option (BitVec 8 × BitVec 4) :=
  if l.toNat / 4096 ≠ 0 then none else some (l.setWidth 8, (l >>> 8).setWidth 4)

/-- The 48-bit operations, OP 0x300 to 0x3BF (R135), with their literal. -/
def dec48 (gd : Guard) (l : BitVec 32) (op : Nat) : Option Instr :=
  match op with
  | 0x300 => some (.ldiLit gd l)
  | 0x301 => some (.jmp gd l)
  | 0x302 => some (.call gd l)
  | 0x303 => (decLd l).map fun x => .draw gd x.1 x.2
  | 0x304 => (decLc l).map fun x => .mcatch gd x.1 x.2
  | 0x305 => (decLc l).map fun x => .accld gd x.1 x.2
  | 0x306 => (decLc l).map fun x => .accst gd x.1 x.2
  | _ => none

/-- The payload of an ENDRUN trailer (R125); nonzero reserved bits make it no trailer. -/
def decTrailer (t : BitVec 32) : Option Instr :=
  if t.toNat % 4096 ≠ 0 then none else some (.endrun (t.getLsbD 31) ((t >>> 20).setWidth 11) ((t >>> 12).setWidth 8))

/-- A term is kept when it passes the checks of R121 and R122. -/
def checked (o : Option Instr) (rest : List Half) : Except DecErr (Instr × List Half) :=
  match o with
  | some i => if i.operandsOk then .ok (i, rest) else .error .badOperand
  | none => .error .badOperand

/-- The operations assigned in R131 to R135 (R130). -/
def opAssigned (op : Nat) : Bool :=
  if op < 0x180 then (dec16 .none op).isSome
  else if op < 0x300 then
    (0x180 ≤ op && op ≤ 0x196) || (0x1A0 ≤ op && op ≤ 0x1D7) || (0x1E0 ≤ op && op ≤ 0x1E7) || (0x1F0 ≤ op && op ≤ 0x1F2) || (0x200 ≤ op && op ≤ 0x206) || (0x208 ≤ op && op ≤ 0x20D) || (0x210 ≤ op && op ≤ 0x224) || (0x230 ≤ op && op ≤ 0x23A)
  else 0x300 ≤ op && op ≤ 0x306

/-- Decode the instruction or trailer at the head of a sequence of halfwords, in the order of the checks of R126. -/
def decode : List Half → Except DecErr (Instr × List Half)
  | [] => .error .truncated
  | w :: rest =>
    let op := opOf w
    let gd := guardOf w
    if op = 0x3C0 then .error .runControl
    else if op = 0x3C1 then
      if gd ≠ .none then .error .badGuard else
      match rest with
      | l :: h :: rest' => checked (decTrailer (h ++ l)) rest'
      | _ => .error .truncated
    else if !opAssigned op then .error .reservedOp
    else if !gd.wf then .error .badGuard
    else if op < 0x180 then checked (dec16 gd op) rest
    else if op < 0x300 then
      match rest with
      | h :: rest' => checked (dec32 gd h op) rest'
      | [] => .error .truncated
    else
      match rest with
      | l :: h :: rest' => checked (dec48 gd (h ++ l) op) rest'
      | _ => .error .truncated

/-- The number of halfwords that OP fixes (R120); 0 for the values that are no instruction. -/
def opLength (op : Nat) : Nat :=
  if op < 0x180 then 1 else if op < 0x300 then 2 else if op ≤ 0x3C1 then 3 else 0

/-- Suffix code in opcode order (R131 to R135). -/
def IntTy.code : IntTy → Nat
  | .i32 => 0 | .z32 => 1 | .i64 => 2 | .z64 => 3

/-- Suffix code in opcode order (R131 to R135). -/
def OpW.code : OpW → Nat
  | .w32 => 0 | .w64 => 1

/-- Suffix code in opcode order (R131 to R135). -/
def ESize.code : ESize → Nat
  | .b8 => 0 | .b16 => 1 | .b32 => 2 | .b64 => 3

/-- Suffix code in opcode order (R131 to R135). -/
def SextW.code : SextW → Nat
  | .i8 => 0 | .i16 => 1 | .i32 => 2

/-- Suffix code in opcode order (R131 to R135). -/
def Cond.code : Cond → Nat
  | .eq => 0 | .ne => 1 | .lt => 2 | .le => 3 | .gt => 4 | .ge => 5

/-- Suffix code in opcode order (R131 to R135). -/
def FCond.code : FCond → Nat
  | .eq => 0 | .ne => 1 | .lt => 2 | .le => 3 | .gt => 4 | .ge => 5 | .un => 6 | .ord => 7

/-- Suffix code in opcode order (R131 to R135). -/
def SFmt.code : SFmt → Nat
  | .f32 => 0 | .f16 => 1 | .bf16 => 2

/-- Suffix code in opcode order (R131 to R135). -/
def HFmt.code : HFmt → Nat
  | .f16 => 0 | .bf16 => 1

/-- Suffix code in opcode order (R131 to R135). -/
def DotFmt.code : DotFmt → Nat
  | .i8 => 0 | .z8 => 1 | .e4m3 => 2 | .e5m2 => 3

/-- Suffix code in opcode order (R131 to R135). -/
def BlkTy.code : BlkTy → Nat
  | .ui => 0 | .e2m1 => 1 | .pow2 => 2 | .ilog => 3

/-- Suffix code in opcode order (R131 to R135). -/
def ShflMode.code : ShflMode → Nat
  | .idx => 0 | .up => 1 | .down => 2 | .xor => 3

/-- Suffix code in opcode order (R131 to R135). -/
def VoteMode.code : VoteMode → Nat
  | .any => 0 | .all => 1 | .ballot => 2

/-- Suffix code in opcode order (R131 to R135). -/
def ArgTy.code : ArgTy → Nat
  | .f32 => 0 | .i32 => 1 | .z32 => 2

/-- Suffix code in opcode order (R131 to R135). -/
def LdW.code : LdW → Nat
  | .i8 => 0 | .z8 => 1 | .i16 => 2 | .z16 => 3 | .i32 => 4 | .i64 => 5

/-- Suffix code in opcode order (R131 to R135). -/
def StW.code : StW → Nat
  | .i8 => 0 | .i16 => 1 | .i32 => 2 | .i64 => 3

/-- Suffix code in opcode order (R131 to R135). -/
def RedOp.code : RedOp → Nat
  | .add => 0 | .min => 1 | .max => 2 | .and => 3 | .or => 4 | .xor => 5

/-- Suffix code in opcode order (R131 to R135). -/
def RedTy.code : RedTy → Nat
  | .f32 => 0 | .i32 => 1 | .z32 => 2 | .i64 => 3 | .z64 => 4

/-- The first halfword of an instruction (R119). -/
def encHalf (gd : Guard) (op : Nat) : Half :=
  BitVec.ofBool gd.e ++ BitVec.ofBool gd.s ++ gd.p ++ BitVec.ofNat 10 op

/-- Operand halfword of kind CV (R121). -/
def encCv (c : CvtSpec) : Half := BitVec.ofNat 16 (256 * c.mode.code + 16 * c.src.code + c.dst.code)

/-- Operand halfword of kind AT (R121). -/
def encAt (a : AtOp) : Half :=
  BitVec.ofNat 16 ((match a.scope with | .wg => 1 | .dev => 2 | .sys => 3) + 4 * a.w.toNat)

/-- The halfwords of an instruction of runs or of a trailer (R119 to R135); sequencer words and events have none. -/
def encode : Instr → List Half
  | .nop gd => [encHalf gd (0x000)]
  | .dup gd => [encHalf gd (0x001)]
  | .drop gd => [encHalf gd (0x002)]
  | .swap gd => [encHalf gd (0x003)]
  | .over gd => [encHalf gd (0x004)]
  | .rot gd => [encHalf gd (0x005)]
  | .nip gd => [encHalf gd (0x006)]
  | .tuck gd => [encHalf gd (0x007)]
  | .dup2 gd => [encHalf gd (0x008)]
  | .drop2 gd => [encHalf gd (0x009)]
  | .swap2 gd => [encHalf gd (0x00A)]
  | .depth gd => [encHalf gd (0x00B)]
  | .pick gd n => [encHalf gd (0x18D), n.setWidth 16]
  | .roll gd n => [encHalf gd (0x18E), n.setWidth 16]
  | .ldi gd imm => [encHalf gd (0x180), imm]
  | .ldiLit gd lit => [encHalf gd 0x300, lit.setWidth 16, (lit >>> 16).setWidth 16]
  | .ldk gd k => [encHalf gd (0x181), k.setWidth 16]
  | .ldk2 gd k => [encHalf gd (0x182), k.setWidth 16]
  | .ldu gd => [encHalf gd (0x010)]
  | .ldf gd f => [encHalf gd (0x183), f.setWidth 16]
  | .stf gd f => [encHalf gd (0x184), f.setWidth 16]
  | .ldf2 gd f => [encHalf gd (0x185), f.setWidth 16]
  | .stf2 gd f => [encHalf gd (0x186), f.setWidth 16]
  | .teef gd f => [encHalf gd (0x187), f.setWidth 16]
  | .stu gd k => [encHalf gd (0x188), k.setWidth 16]
  | .ldx gd x => [encHalf gd (0x189), x.setWidth 16]
  | .stx gd x => [encHalf gd (0x18A), x.setWidth 16]
  | .ldp gd p => [encHalf gd (0x18B), p.setWidth 16]
  | .stp gd p => [encHalf gd (0x18C), p.setWidth 16]
  | .wid gd => [encHalf gd (0x011)]
  | .lane gd => [encHalf gd (0x012)]
  | .segi gd => [encHalf gd (0x013)]
  | .lea gd sz => [encHalf gd (0x014 + sz.code)]
  | .add gd t => [encHalf gd (0x040 + t.code)]
  | .sub gd t => [encHalf gd (0x044 + t.code)]
  | .mul gd t => [encHalf gd (0x048 + t.code)]
  | .mulh gd t => [encHalf gd (0x04C + t.code)]
  | .mad gd t => [encHalf gd (0x050 + t.code)]
  | .div gd t => [encHalf gd (0x054 + t.code)]
  | .rem gd t => [encHalf gd (0x058 + t.code)]
  | .neg gd t => [encHalf gd (0x05C + t.code)]
  | .abs gd w => [encHalf gd (0x060 + 2 * w.code)]
  | .min gd t => [encHalf gd (0x064 + t.code)]
  | .max gd t => [encHalf gd (0x068 + t.code)]
  | .and gd t => [encHalf gd (0x06C + t.code)]
  | .or gd t => [encHalf gd (0x070 + t.code)]
  | .xor gd t => [encHalf gd (0x074 + t.code)]
  | .not gd t => [encHalf gd (0x078 + t.code)]
  | .shl gd t => [encHalf gd (0x07C + t.code)]
  | .shr gd t => [encHalf gd (0x080 + t.code)]
  | .sar gd t => [encHalf gd (0x084 + t.code)]
  | .rotl gd t => [encHalf gd (0x088 + t.code)]
  | .clz gd t => [encHalf gd (0x08C + t.code)]
  | .popc gd t => [encHalf gd (0x090 + t.code)]
  | .brev gd t => [encHalf gd (0x094 + t.code)]
  | .addc gd t => [encHalf gd (0x098 + t.code)]
  | .subb gd t => [encHalf gd (0x09C + t.code)]
  | .bfe gd t => [encHalf gd (0x020 + t.code)]
  | .bfi gd t => [encHalf gd (0x024 + t.code)]
  | .sext gd w => [encHalf gd (0x028 + w.code)]
  | .setp gd c t p => [encHalf gd (0x1C0 + 4 * c.code + t.code), p.setWidth 16]
  | .sel gd w => [encHalf gd (0x02C + w.code)]
  | .br gd off => [encHalf gd (0x190), off]
  | .bz gd off => [encHalf gd (0x191), off]
  | .bnz gd off => [encHalf gd (0x192), off]
  | .bpAny gd p off => [encHalf gd (0x1A0 + p.toNat), off]
  | .bpAll gd p off => [encHalf gd (0x1B0 + p.toNat), off]
  | .jmp gd off => [encHalf gd 0x301, off.setWidth 16, (off >>> 16).setWidth 16]
  | .call gd off => [encHalf gd 0x302, off.setWidth 16, (off >>> 16).setWidth 16]
  | .ret gd => [encHalf gd (0x019)]
  | .bx gd => [encHalf gd (0x018)]
  | .exit gd => [encHalf gd (0x01A)]
  | .yield gd => [encHalf gd (0x01B)]
  | .wait gd lim => [encHalf gd (0x193), lim.ld ++ lim.st ++ lim.cp ++ lim.tl ++ (0 : BitVec 2)]
  | .arrive gd b => [encHalf gd (0x194), b.setWidth 16]
  | .bwait gd b => [encHalf gd (0x195), b.setWidth 16]
  | .bsync gd b => [encHalf gd (0x196), b.setWidth 16]
  | .fadd gd m => [encHalf gd (0x0A0 + m.code)]
  | .fsub gd m => [encHalf gd (0x0A4 + m.code)]
  | .fmul gd m => [encHalf gd (0x0A8 + m.code)]
  | .ffma gd m => [encHalf gd (0x0AC + m.code)]
  | .fdiv gd m => [encHalf gd (0x0B0 + m.code)]
  | .fsqrt gd m => [encHalf gd (0x0B4 + m.code)]
  | .frnd gd m => [encHalf gd (0x0B8 + m.code)]
  | .fmin gd => [encHalf gd (0x0BC)]
  | .fmax gd => [encHalf gd (0x0BD)]
  | .fabs gd => [encHalf gd (0x0BE)]
  | .fneg gd => [encHalf gd (0x0BF)]
  | .fsgn gd => [encHalf gd (0x0C0)]
  | .fcls gd => [encHalf gd (0x0C1)]
  | .frcp gd => [encHalf gd (0x0C2)]
  | .frsq gd => [encHalf gd (0x0C3)]
  | .fsetp gd c p => [encHalf gd (0x1E0 + c.code), p.setWidth 16]
  | .cvt gd cv => [encHalf gd (0x1F0), encCv cv]
  | .hadd2 gd f => [encHalf gd (0x0C4 + f.code)]
  | .hmul2 gd f => [encHalf gd (0x0C6 + f.code)]
  | .hfma2 gd f => [encHalf gd (0x0C8 + f.code)]
  | .hmax2 gd f => [encHalf gd (0x0CA + f.code)]
  | .dot4 gd f => [encHalf gd (0x0CC + f.code)]
  | .exp2 gd f => [encHalf gd (0x0D0 + f.code)]
  | .log2 gd f => [encHalf gd (0x0D4 + f.code)]
  | .sin gd f => [encHalf gd (0x0D8 + f.code)]
  | .cos gd f => [encHalf gd (0x0DC + f.code)]
  | .tanh gd f => [encHalf gd (0x0E0 + f.code)]
  | .sigm gd f => [encHalf gd (0x0E4 + f.code)]
  | .erf gd f => [encHalf gd (0x0E8 + f.code)]
  | .gelu gd f => [encHalf gd (0x0EC + f.code)]
  | .lse2 gd f => [encHalf gd (0x0F0 + f.code)]
  | .tab gd f => [encHalf gd (0x0F4 + f.code)]
  | .tload gd => [encHalf gd (0x0F8)]
  | .tbind gd => [encHalf gd (0x0F9)]
  | .qblk gd ty => [encHalf gd (0x100 + ty.code)]
  | .dqblk gd f => [encHalf gd (0x104 + f.code)]
  | .pk4 gd => [encHalf gd (0x108)]
  | .upk4 gd => [encHalf gd (0x109)]
  | .segw gd n => [encHalf gd (0x18F), n.setWidth 16]
  | .shfl gd m => [encHalf gd (0x110 + m.code)]
  | .vote gd m => [encHalf gd (0x114 + m.code)]
  | .red gd op t => [encHalf gd (0x1F1), BitVec.ofNat 16 (8 * op.code + t.code)]
  | .scan gd op t => [encHalf gd (0x1F2), BitVec.ofNat 16 (8 * op.code + t.code)]
  | .argmax gd t => [encHalf gd (0x118 + t.code)]
  | .argmin gd t => [encHalf gd (0x11C + t.code)]
  | .draw gd k p => [encHalf gd 0x303, (0 : BitVec 4) ++ p ++ (0 : BitVec 2) ++ k, 0]
  | .drawm gd => [encHalf gd (0x10A)]
  | .coin gd => [encHalf gd (0x10B)]
  | .dkey gd => [encHalf gd (0x10C)]
  | .ld gd w => [encHalf gd (0x120 + w.code)]
  | .ldq gd => [encHalf gd (0x126)]
  | .ldw gd w => [encHalf gd (0x128 + w.code)]
  | .ldF gd f w => [encHalf gd (0x200 + w.code), f.setWidth 16]
  | .ldqF gd f => [encHalf gd (0x206), f.setWidth 16]
  | .ldwF gd f w => [encHalf gd (0x208 + w.code), f.setWidth 16]
  | .lds gd w => [encHalf gd (0x130 + w.code)]
  | .sts gd w => [encHalf gd (0x140 + w.code)]
  | .st gd w => [encHalf gd (0x138 + w.code)]
  | .stq gd => [encHalf gd (0x13C)]
  | .stwWg gd w => [encHalf gd (0x148 + w.code)]
  | .stwDev gd w => [encHalf gd (0x14C + w.code)]
  | .stwSys gd w => [encHalf gd (0x150 + w.code)]
  | .prf gd => [encHalf gd (0x13D)]
  | .sdrain gd => [encHalf gd (0x13E)]
  | .aadd gd w at_ => [encHalf gd (0x210 + w.code), encAt at_]
  | .amin32 gd u at_ => [encHalf gd (0x212 + u.toNat), encAt at_]
  | .amin64 gd u at_ => [encHalf gd (0x214 + u.toNat), encAt at_]
  | .amax32 gd u at_ => [encHalf gd (0x216 + u.toNat), encAt at_]
  | .amax64 gd u at_ => [encHalf gd (0x218 + u.toNat), encAt at_]
  | .aand gd w at_ => [encHalf gd (0x21A + w.code), encAt at_]
  | .aor gd w at_ => [encHalf gd (0x21C + w.code), encAt at_]
  | .axor gd w at_ => [encHalf gd (0x21E + w.code), encAt at_]
  | .axch gd w at_ => [encHalf gd (0x220 + w.code), encAt at_]
  | .acas gd w at_ => [encHalf gd (0x222 + w.code), encAt at_]
  | .afadd gd at_ => [encHalf gd (0x224), encAt at_]
  | .wwait gd => [encHalf gd (0x154)]
  | .wmax gd => [encHalf gd (0x155)]
  | .wnull gd => [encHalf gd (0x156)]
  | .wexp gd => [encHalf gd (0x157)]
  | .wscp gd => [encHalf gd (0x158)]
  | .grow gd n => [encHalf gd (0x230), n.setWidth 16]
  | .shrink gd n => [encHalf gd (0x231), n.setWidth 16]
  | .mfs gd r => [encHalf gd (0x232), r.setWidth 16]
  | .mts gd r => [encHalf gd (0x233), r.setWidth 16]
  | .trap gd n => [encHalf gd (0x234), n.setWidth 16]
  | .watch gd n => [encHalf gd (0x235), n.setWidth 16]
  | .unwatch gd n => [encHalf gd (0x236), n.setWidth 16]
  | .trcm gd n => [encHalf gd (0x237), n]
  | .pmark gd n => [encHalf gd (0x238), n]
  | .sleep gd n => [encHalf gd (0x239), n]
  | .tret gd => [encHalf gd (0x160)]
  | .replay gd => [encHalf gd (0x161)]
  | .kill gd => [encHalf gd (0x162)]
  | .enq gd => [encHalf gd (0x163)]
  | .enqw gd => [encHalf gd (0x164)]
  | .lsend gd => [encHalf gd (0x165)]
  | .mrecv gd => [encHalf gd (0x166)]
  | .ringput gd => [encHalf gd (0x167)]
  | .pgmap gd => [encHalf gd (0x168)]
  | .cflush gd => [encHalf gd (0x169)]
  | .cpy gd => [encHalf gd (0x170)]
  | .cpystat gd => [encHalf gd (0x171)]
  | .mould gd => [encHalf gd (0x172)]
  | .unveil gd => [encHalf gd (0x173)]
  | .cpyscout gd n => [encHalf gd (0x23A), n.setWidth 16]
  | .mcatch gd f nm => [encHalf gd 0x304, (0 : BitVec 4) ++ nm ++ f, 0]
  | .accld gd f nm => [encHalf gd 0x305, (0 : BitVec 4) ++ nm ++ f, 0]
  | .accst gd f nm => [encHalf gd 0x306, (0 : BitVec 4) ++ nm ++ f, 0]
  | .accpatch gd => [encHalf gd (0x174)]
  | .endrun safe idx pm =>
    [0x03C1, pm.setWidth 4 ++ (0 : BitVec 12), BitVec.ofBool safe ++ idx ++ (pm >>> 4).setWidth 4]
  | _ => []

/-- The format code of a matrix operand (R98, R325). -/
def MFmt.code : MFmt → Nat
  | .f32 => 0 | .bf16 => 2 | .e4m3 => 3 | .e5m2 => 4 | .i8 => 5 | .z8 => 6 | .b4 => 13
/-- The matrix operand format of a code (R98, R325); the other codes are accepted by no word. -/
def MFmt.ofCode (c : Nat) : Option MFmt :=
  match c with
  | 0 => some .f32 | 2 => some .bf16 | 3 => some .e4m3 | 4 => some .e5m2 | 5 => some .i8 | 6 => some .z8
  | 13 => some .b4 | _ => none
/-- The region code of R321. -/
def Region.code : Region → Nat
  | .all => 0 | .top => 1 | .bot => 2 | .q0 => 3 | .q1 => 4 | .q2 => 5 | .q3 => 6 | .left => 7 | .right => 8
/-- The region of a code; codes 9 to 15 are reserved (R321). -/
def Region.ofCode (c : Nat) : Option Region :=
  match c with
  | 0 => some .all | 1 => some .top | 2 => some .bot | 3 => some .q0 | 4 => some .q1 | 5 => some .q2 | 6 => some .q3
  | 7 => some .left | 8 => some .right | _ => none
/-- The slice selection code of R323. -/
def Slice.code : Slice → Nat | .none => 0 | .h => 1 | .m => 2 | .l => 3
/-- The slice selection of a code (R323). -/
def Slice.ofCode (c : Nat) : Slice := match c with | 0 => .none | 1 => .h | 2 => .m | _ => .l

/-- A 64-bit sequencer word from its sop and its 58 bits of fields (R136). -/
def seqWord (sop : Nat) (f : BitVec 58) : BitVec 64 := BitVec.ofNat 6 sop ++ f

/-- A field of a sequencer word moved to its place (R324). -/
def seqField {n : Nat} (x : BitVec n) (lo : Nat) : BitVec 58 := x.setWidth 58 <<< lo

/-- The sequencer word of an instruction (R137, R324). -/
def encodeSeq : Instr → Option (BitVec 64)
  | .mWload fmt reg t ax o code scale =>
    some (seqWord 0x01 (seqField (BitVec.ofNat 4 fmt.code) 54 ||| seqField (BitVec.ofNat 4 reg.code) 50 |||
      seqField (BitVec.ofBool t) 49 ||| seqField (BitVec.ofBool ax) 48 ||| seqField o 46 ||| seqField code 26 |||
      seqField scale 7))
  | .mPass fmt reg t ax o g code e0 nm z =>
    some (seqWord 0x02 (seqField (BitVec.ofNat 4 fmt.code) 54 ||| seqField (BitVec.ofNat 4 reg.code) 50 |||
      seqField (BitVec.ofBool t) 49 ||| seqField (BitVec.ofBool ax) 48 ||| seqField o 46 |||
      seqField (BitVec.ofBool g) 45 ||| seqField code 26 ||| seqField e0 17 ||| seqField nm 8 |||
      seqField (BitVec.ofBool z) 7))
  | .mDrain reg e0 nm z =>
    some (seqWord 0x03 (seqField (BitVec.ofNat 4 reg.code) 50 ||| seqField e0 17 ||| seqField nm 8 |||
      seqField (BitVec.ofBool z) 7))
  | .mZero reg e0 nm =>
    some (seqWord 0x04 (seqField (BitVec.ofNat 4 reg.code) 50 ||| seqField e0 17 ||| seqField nm 8))
  | .mSave reg o code e0 nm =>
    some (seqWord 0x0B (seqField (BitVec.ofNat 4 reg.code) 50 ||| seqField o 46 ||| seqField code 26 |||
      seqField e0 17 ||| seqField nm 8))
  | .mRestore reg o code e0 nm =>
    some (seqWord 0x0C (seqField (BitVec.ofNat 4 reg.code) 50 ||| seqField o 46 ||| seqField code 26 |||
      seqField e0 17 ||| seqField nm 8))
  | .mBarArrive b => some (seqWord 0x05 (seqField b 0))
  | .mBarWait b => some (seqWord 0x05 (seqField (1 : BitVec 2) 56 ||| seqField b 0))
  | .mBarSync b => some (seqWord 0x05 (seqField (2 : BitVec 2) 56 ||| seqField b 0))
  | .mLoop c cm r stride off =>
    some (seqWord 0x06 (seqField c 56 ||| seqField cm 40 ||| seqField r 38 ||| seqField stride 22 ||| seqField off 0))
  | .mJmp off => some (seqWord 0x07 (seqField off 0))
  | .mStop => some (seqWord 0x08 0)
  | .mFmt sel v => some (seqWord 0x09 (seqField sel 55 ||| seqField v 0))
  | .mSlice w a => some (seqWord 0x0A (seqField (BitVec.ofNat 2 w.code) 2 ||| seqField (BitVec.ofNat 2 a.code) 0))
  | _ => none

/-- The fields of a sequencer word read in their places (R324), reserved bits apart. -/
def seqFields (w : BitVec 64) : Option Instr :=
  let n (lo len : Nat) : Nat := (w.extractLsb' lo len).toNat
  let code := w.extractLsb' 26 19
  let e0 := w.extractLsb' 17 9
  let nm := w.extractLsb' 8 9
  let o := w.extractLsb' 46 2
  match n 58 6 with
  | 0x01 =>
    match MFmt.ofCode (n 54 4), Region.ofCode (n 50 4) with
    | some f, some r => some (.mWload f r (w.getLsbD 49) (w.getLsbD 48) o code (w.extractLsb' 7 19))
    | _, _ => none
  | 0x02 =>
    match MFmt.ofCode (n 54 4), Region.ofCode (n 50 4) with
    | some f, some r =>
      some (.mPass f r (w.getLsbD 49) (w.getLsbD 48) o (w.getLsbD 45) code e0 nm (w.getLsbD 7))
    | _, _ => none
  | 0x03 => (Region.ofCode (n 50 4)).map fun r => .mDrain r e0 (w.extractLsb' 8 4) (w.getLsbD 7)
  | 0x04 => (Region.ofCode (n 50 4)).map fun r => .mZero r e0 nm
  | 0x05 =>
    match n 56 2 with
    | 0 => some (.mBarArrive (w.extractLsb' 0 4))
    | 1 => some (.mBarWait (w.extractLsb' 0 4))
    | 2 => some (.mBarSync (w.extractLsb' 0 4))
    | _ => none
  | 0x06 => some (.mLoop (w.extractLsb' 56 2) (w.extractLsb' 40 16) (w.extractLsb' 38 2) (w.extractLsb' 22 16)
      (w.extractLsb' 0 16))
  | 0x07 => some (.mJmp (w.extractLsb' 0 16))
  | 0x08 => some .mStop
  | 0x09 => some (.mFmt (w.extractLsb' 55 3) (w.extractLsb' 0 19))
  | 0x0A => some (.mSlice (Slice.ofCode (n 2 2)) (Slice.ofCode (n 0 2)))
  | 0x0B => (Region.ofCode (n 50 4)).map fun r => .mSave r o code e0 nm
  | 0x0C => (Region.ofCode (n 50 4)).map fun r => .mRestore r o code e0 nm
  | _ => none

/-- Decode a sequencer word; `none` is SEQ_ILLEGAL (R138). Every bit that no field names must be 0 (R324). -/
def decodeSeq (w : BitVec 64) : Option Instr :=
  match seqFields w with
  | some i => if i.operandsOk && encodeSeq i == some w then some i else none
  | none => none

/-- The instruction the decoder reads from an instruction whose bits are `w`, bit 0 the least significant bit of the
first halfword; bits above `nbits` are 0. Sequencer words are the rows of 64 bits. -/
def decodeTableWord (nbits w : Nat) : Option Instr :=
  if nbits = 64 then decodeSeq (BitVec.ofNat 64 w) else
  match decode [BitVec.ofNat 16 w, BitVec.ofNat 16 (w / 65536), BitVec.ofNat 16 (w / 4294967296)] with
  | .ok (i, _) => some i
  | .error _ => none

end Sys2Proof
end

