-- ==== Sys2Proof/Machine/Soft.lean ====
section
/-! DEFINITION. Exact floating-point arithmetic rounded once, in every format of R93 (R93 to R104). -/

namespace Sys2Proof.Machine

/-! ## Flag events (R102) -/

def fInv : BitVec 6 := 1
def fDz : BitVec 6 := 2
def fOvf : BitVec 6 := 4
def fUnf : BitVec 6 := 8
def fSat : BitVec 6 := 16
def fQuf : BitVec 6 := 32

/-- A floating-point format (R93): exponent and mantissa bits; `fin8` marks E4M3, which has no infinity. -/
structure Fl where
  eb : Nat
  mb : Nat
  fin8 : Bool
  deriving DecidableEq, Repr

def Fl.f32 : Fl := ⟨8, 23, false⟩
def Fl.f16 : Fl := ⟨5, 10, false⟩
def Fl.bf16 : Fl := ⟨8, 7, false⟩
def Fl.e4m3 : Fl := ⟨4, 3, true⟩
def Fl.e5m2 : Fl := ⟨5, 2, false⟩

/-- The exponent bias (R93). -/
def Fl.bias (f : Fl) : Nat := 2 ^ (f.eb - 1) - 1
/-- Exponent of the unit of the subnormal grid. -/
def Fl.emin (f : Fl) : Int := 1 - (f.bias : Int) - (f.mb : Int)
/-- The sign bit's place. -/
def Fl.sbit (f : Fl) : Nat := 2 ^ (f.eb + f.mb)
/-- Magnitude code of infinity. -/
def Fl.infCode (f : Fl) : Nat := (2 ^ f.eb - 1) * 2 ^ f.mb
/-- Magnitude code of the largest finite value (R93, R94). -/
def Fl.maxCode (f : Fl) : Nat := if f.fin8 then 2 ^ (f.eb + f.mb) - 2 else f.infCode - 1
/-- The canonical NaN (R93). -/
def Fl.nan (f : Fl) : Nat :=
  if f.fin8 then 2 ^ (f.eb + f.mb) - 1 else f.infCode + 2 ^ (f.mb - 1)
/-- The 8-bit formats saturate and have only quiet NaNs (R94, R104). -/
def Fl.small (f : Fl) : Bool := f.eb + f.mb == 7

/-- A decoded operand: a NaN (signalling or not), an infinity, or sign, magnitude and exponent. -/
inductive Num
  | nan (sig : Bool)
  | inf (neg : Bool)
  | fin (neg : Bool) (m : Nat) (e : Int)
  deriving DecidableEq, Repr

/-- Decoding (R93, R94). -/
def Fl.decode (f : Fl) (bits : Nat) : Num :=
  let neg := bits / f.sbit % 2 == 1
  let mag := bits % f.sbit
  let ex := mag / 2 ^ f.mb
  let man := mag % 2 ^ f.mb
  if f.fin8 ∧ mag = f.nan then .nan false
  else if ¬ f.fin8 ∧ ex = 2 ^ f.eb - 1 then
    (if man = 0 then .inf neg else .nan (!f.small && man < 2 ^ (f.mb - 1)))
  else if ex = 0 then .fin neg man f.emin
  else .fin neg (man + 2 ^ f.mb) (f.emin + ex - 1)

/-- The integer nearest in a mode to a magnitude `m * 2^e` (plus less than one unit when `sticky`) over 2^q, and
whether it is inexact (R99). -/
def roundAt (mode : RMode) (neg : Bool) (m : Nat) (e : Int) (sticky : Bool) (q : Int) : Nat × Bool :=
  if q ≤ e then
    let n := m * 2 ^ (e - q).toNat
    let up := match mode with | .ru => !neg | .rd => neg | _ => false
    (if sticky && up then n + 1 else n, sticky)
  else
    let d := (q - e).toNat
    let n := m / 2 ^ d
    let rem := m % 2 ^ d
    let half := 2 ^ (d - 1)
    let inexact := rem != 0 || sticky
    let up := match mode with
      | .rn => decide (half < rem) || (rem == half && (sticky || n % 2 == 1))
      | .rz => false
      | .ru => inexact && !neg
      | .rd => inexact && neg
    (if up then n + 1 else n, inexact)

/-- A magnitude and sign as a code. -/
def Fl.sign (f : Fl) (neg : Bool) (mag : Nat) : Nat := if neg then f.sbit + mag else mag

/-- What an overflow delivers (R100, R104). -/
def Fl.overflow (f : Fl) (mode : RMode) (neg : Bool) : Nat :=
  let toInf := match mode with | .rn => true | .rz => false | .ru => !neg | .rd => neg
  f.sign neg (if !f.small && toInf then f.infCode else f.maxCode)

/-- The exact value (sign, m * 2^e, sticky) rounded once into the format, with its flags (R99, R100, R104). -/
def Fl.round (f : Fl) (mode : RMode) (neg : Bool) (m : Nat) (e : Int) (sticky : Bool) : Nat × BitVec 6 :=
  if m = 0 ∧ sticky = false then (f.sign neg 0, 0) else
  let ex : Int := (if m = 0 then e - 1 else Nat.log2 m + e)
  let qu := ex - f.mb
  let q := max qu f.emin
  let (n, inexact) := roundAt mode neg m e sticky q
  let mag := ((q - f.emin).toNat) * 2 ^ f.mb + n
  if mag > f.maxCode then (f.overflow mode neg, fOvf)
  else
    let minExp : Int := 1 - f.bias
    let tiny := decide (ex < minExp) && !(decide (ex + 1 = minExp) && (roundAt mode neg m e sticky qu).1 == 2 ^ (f.mb + 1))
    (f.sign neg mag, if tiny && inexact then fUnf else 0)

/-- A signed exact dyadic rounded; an exact zero takes the sign given. -/
def Fl.roundInt (f : Fl) (mode : RMode) (v : Int) (e : Int) (zneg : Bool) : Nat × BitVec 6 :=
  if v = 0 then (f.sign zneg 0, 0) else f.round mode (decide (v < 0)) v.natAbs e false

/-- Signed mantissa. -/
def sgn (neg : Bool) (m : Nat) : Int := if neg then -(m : Int) else m

/-- The signalling-NaN event. -/
def Num.sig : Num → BitVec 6
  | .nan true => fInv
  | _ => 0

/-- Is it a NaN. -/
def Num.isNan : Num → Bool
  | .nan _ => true
  | _ => false

/-- Negation of a decoded value. -/
def Num.neg : Num → Num
  | .nan s => .nan s
  | .inf n => .inf (!n)
  | .fin n m e => .fin (!n) m e

/-- Sum (R100). -/
def Fl.add (f : Fl) (mode : RMode) (a b : Num) : Nat × BitVec 6 :=
  match a, b with
  | .nan _, _ | _, .nan _ => (f.nan, a.sig ||| b.sig)
  | .inf x, .inf y => if x = y then (f.sign x f.infCode, 0) else (f.nan, fInv)
  | .inf x, _ => (f.sign x f.infCode, 0)
  | _, .inf y => (f.sign y f.infCode, 0)
  | .fin x m e, .fin y n d =>
    let lo := min e d
    let v := sgn x m * 2 ^ (e - lo).toNat + sgn y n * 2 ^ (d - lo).toNat
    let zneg := if m = 0 ∧ n = 0 ∧ x = y then x else mode == .rd
    f.roundInt mode v lo zneg

/-- Product (R100). -/
def Fl.mul (f : Fl) (mode : RMode) (a b : Num) : Nat × BitVec 6 :=
  match a, b with
  | .nan _, _ | _, .nan _ => (f.nan, a.sig ||| b.sig)
  | .inf x, .inf y => (f.sign (x != y) f.infCode, 0)
  | .inf x, .fin y n _ => if n = 0 then (f.nan, fInv) else (f.sign (x != y) f.infCode, 0)
  | .fin x m _, .inf y => if m = 0 then (f.nan, fInv) else (f.sign (x != y) f.infCode, 0)
  | .fin x m e, .fin y n d => f.round mode (x != y) (m * n) (e + d) false

/-- Fused product and sum, rounded once (R100). -/
def Fl.fma (f : Fl) (mode : RMode) (a b c : Num) : Nat × BitVec 6 :=
  let sigs := a.sig ||| b.sig ||| c.sig
  match a, b with
  | .nan _, _ | _, .nan _ => (f.nan, sigs)
  | .inf x, .inf y => if c.isNan then (f.nan, sigs) else f.add mode (.inf (x != y)) c
  | .inf x, .fin y n _ =>
    if n = 0 then (f.nan, fInv) else if c.isNan then (f.nan, sigs) else f.add mode (.inf (x != y)) c
  | .fin x m _, .inf y =>
    if m = 0 then (f.nan, fInv) else if c.isNan then (f.nan, sigs) else f.add mode (.inf (x != y)) c
  | .fin x m e, .fin y n d => if c.isNan then (f.nan, sigs) else f.add mode (.fin (x != y) (m * n) (e + d)) c

/-- Quotient (R100). -/
def Fl.div (f : Fl) (mode : RMode) (a b : Num) : Nat × BitVec 6 :=
  match a, b with
  | .nan _, _ | _, .nan _ => (f.nan, a.sig ||| b.sig)
  | .inf _, .inf _ => (f.nan, fInv)
  | .inf x, .fin y _ _ => (f.sign (x != y) f.infCode, 0)
  | .fin x _ _, .inf y => (f.sign (x != y) 0, 0)
  | .fin x m e, .fin y n d =>
    if n = 0 then (if m = 0 then (f.nan, fInv) else (f.sign (x != y) f.infCode, fDz))
    else f.round mode (x != y) (m * 2 ^ 60 / n) (e - d - 60) (m * 2 ^ 60 % n != 0)

/-- The integer square root, bit by bit from bit `k - 1` down. -/
def isqrt (n : Nat) : Nat → Nat → Nat
  | 0, r => r
  | k + 1, r => if (r + 2 ^ k) * (r + 2 ^ k) ≤ n then isqrt n k (r + 2 ^ k) else isqrt n k r

/-- Square root (R100). -/
def Fl.sqrt (f : Fl) (mode : RMode) (a : Num) : Nat × BitVec 6 :=
  match a with
  | .nan _ => (f.nan, a.sig)
  | .inf neg => if neg then (f.nan, fInv) else (f.infCode, 0)
  | .fin neg m e =>
    if m = 0 then (f.sign neg 0, 0)
    else if neg then (f.nan, fInv)
    else
      let k : Nat := if e % 2 = 0 then 60 else 61
      let n := m * 2 ^ k
      let r := isqrt n 64 0
      f.round mode false r ((e - k) / 2) (r * r != n)

/-- An exact integer in a mode (R104 ToInt, R176): the rounded value of a finite operand. -/
def roundInteger (mode : RMode) (neg : Bool) (m : Nat) (e : Int) : Int :=
  sgn neg (roundAt mode neg m e false 0).1

/-- ToInt of R104 for a destination range. -/
def toIntSat (x : Num) (mode : RMode) (lo hi : Int) : Int × BitVec 6 :=
  match x with
  | .nan _ => (0, fInv)
  | .inf neg => (if neg then lo else hi, fInv)
  | .fin neg m e =>
    let v := roundInteger mode neg m e
    if v > hi then (hi, fInv) else if v < lo then (lo, fInv) else (v, 0)

/-- A decoded value taken into another format (R104): NaN canonical, infinities kept or saturated, else rounded. -/
def Fl.ofNum (f : Fl) (mode : RMode) (x : Num) : Nat × BitVec 6 :=
  match x with
  | .nan _ => (f.nan, x.sig)
  | .inf neg => if f.fin8 then (f.sign neg f.maxCode, fOvf) else (f.sign neg f.infCode, 0)
  | .fin neg m e => f.round mode neg m e false

/-- Order of two finite or infinite values: the difference's sign, with -0 = +0. -/
def numCmp (a b : Num) : Ordering :=
  match a, b with
  | .inf x, .inf y => if x = y then .eq else if x then .lt else .gt
  | .inf x, _ => if x then .lt else .gt
  | _, .inf y => if y then .gt else .lt
  | .fin x m e, .fin y n d =>
    let lo := min e d
    compare (sgn x m * 2 ^ (e - lo).toNat) (sgn y n * 2 ^ (d - lo).toNat)
  | _, _ => .eq

/-- A decoded value is negative, -0 included. -/
def Num.isNeg : Num → Bool
  | .nan _ => false
  | .inf n => n
  | .fin n _ _ => n

/-- minimumNumber and maximumNumber on codes (R101): -0 orders below +0. -/
def Fl.minMax (f : Fl) (isMax : Bool) (a b : Nat) : Nat × BitVec 6 :=
  let x := f.decode a
  let y := f.decode b
  let fl := x.sig ||| y.sig
  match x.isNan, y.isNan with
  | true, true => (f.nan, fl)
  | true, false => (b, fl)
  | false, true => (a, fl)
  | false, false =>
    let aLess := match numCmp x y with | .lt => true | .gt => false | .eq => x.isNeg && !y.isNeg
    (if aLess == isMax then b else a, fl)

end Sys2Proof.Machine
end

