-- ==== Sys2Proof/Machine/Float.lean ====
section
/-! DEFINITION. Floating-point, conversion, packed and dot-product instructions (R104, R173 to R183). -/

namespace Sys2Proof.Machine

/-- A 32-bit code as an entry, with flags. -/
def w32 (x : Nat × BitVec 6) : List Word × BitVec 6 := ([BitVec.ofNat 32 x.1], x.2)

/-- An f32 operand. -/
def num32 (w : Word) : Num := Fl.f32.decode w.toNat

/-- A rounded two-operand f32 instruction (R175). -/
def State.flBin (s : State) (gd : Guard) (lat : Nat) (f : Num → Num → Nat × BitVec 6) : Host.Outcome State Fault Refusal :=
  s.laneInstr gd 2 1 lat (fun _ ws => w32 (f (num32 (ws.getD 0 0)) (num32 (ws.getD 1 0))))

/-- R175. -/
def execFadd (gd : Guard) (m : RMode) (s : State) : Host.Outcome State Fault Refusal := s.flBin gd 4 (Fl.f32.add m)
/-- R175. -/
def execFsub (gd : Guard) (m : RMode) (s : State) : Host.Outcome State Fault Refusal :=
  s.flBin gd 4 (fun x y => Fl.f32.add m x y.neg)
/-- R175. -/
def execFmul (gd : Guard) (m : RMode) (s : State) : Host.Outcome State Fault Refusal := s.flBin gd 4 (Fl.f32.mul m)
/-- R175. -/
def execFfma (gd : Guard) (m : RMode) (s : State) : Host.Outcome State Fault Refusal :=
  s.laneInstr gd 3 1 4 (fun _ ws =>
    w32 (Fl.f32.fma m (num32 (ws.getD 0 0)) (num32 (ws.getD 1 0)) (num32 (ws.getD 2 0))))
/-- R175. -/
def execFdiv (gd : Guard) (m : RMode) (s : State) : Host.Outcome State Fault Refusal := s.flBin gd 16 (Fl.f32.div m)
/-- R175. -/
def execFsqrt (gd : Guard) (m : RMode) (s : State) : Host.Outcome State Fault Refusal :=
  s.laneInstr gd 1 1 16 (fun _ ws => w32 (Fl.f32.sqrt m (num32 (ws.getD 0 0))))

/-- Rounding to an integral f32 value (R176). -/
def frndOf (m : RMode) (w : Word) : Nat × BitVec 6 :=
  match num32 w with
  | .nan sig => (Fl.f32.nan, (Num.nan sig).sig)
  | .inf _ => (w.toNat, 0)
  | .fin neg k e => ((Fl.f32.round .rn neg (roundAt m neg k e false 0).1 0 false).1, 0)

/-- R176. -/
def execFrnd (gd : Guard) (m : RMode) (s : State) : Host.Outcome State Fault Refusal :=
  s.laneInstr gd 1 1 4 (fun _ ws => w32 (frndOf m (ws.getD 0 0)))
/-- R177. -/
def execFmin (gd : Guard) (s : State) : Host.Outcome State Fault Refusal :=
  s.laneInstr gd 2 1 2 (fun _ ws => w32 (Fl.f32.minMax false (ws.getD 0 0).toNat (ws.getD 1 0).toNat))
/-- R177. -/
def execFmax (gd : Guard) (s : State) : Host.Outcome State Fault Refusal :=
  s.laneInstr gd 2 1 2 (fun _ ws => w32 (Fl.f32.minMax true (ws.getD 0 0).toNat (ws.getD 1 0).toNat))
/-- R177. -/
def execFabs (gd : Guard) (s : State) : Host.Outcome State Fault Refusal :=
  s.laneInstr gd 1 1 2 (fun _ ws => ([ws.getD 0 0 &&& 0x7FFFFFFF], 0))
/-- R177. -/
def execFneg (gd : Guard) (s : State) : Host.Outcome State Fault Refusal :=
  s.laneInstr gd 1 1 2 (fun _ ws => ([ws.getD 0 0 ^^^ 0x80000000], 0))
/-- R177. -/
def execFsgn (gd : Guard) (s : State) : Host.Outcome State Fault Refusal :=
  s.laneInstr gd 2 1 2 (fun _ ws => ([(ws.getD 0 0 &&& 0x7FFFFFFF) ||| (ws.getD 1 0 &&& 0x80000000)], 0))

/-- The class bit of R179. -/
def fclsOf (w : Word) : Word :=
  match num32 w with
  | .nan true => 1
  | .nan false => 2
  | .inf true => 4
  | .inf false => 0x200
  | .fin neg m _ =>
    if m = 0 then (if neg then 0x20 else 0x40)
    else if m < 2 ^ 23 then (if neg then 0x10 else 0x80)
    else (if neg then 8 else 0x100)

/-- R179. -/
def execFcls (gd : Guard) (s : State) : Host.Outcome State Fault Refusal :=
  s.laneInstr gd 1 1 2 (fun _ ws => ([fclsOf (ws.getD 0 0)], 0))
/-- R178. -/
def execFrcp (gd : Guard) (s : State) : Host.Outcome State Fault Refusal :=
  s.laneInstr gd 1 1 16 (fun _ ws => w32 (Fl.f32.div .rn (.fin false 1 0) (num32 (ws.getD 0 0))))

/-- One of the two neighbours of an inexact magnitude, or the value itself (R185). -/
def Fl.faithful (f : Fl) (upper : Bool) (neg : Bool) (m : Nat) (e : Int) (sticky : Bool) : Nat :=
  (f.round (if upper then (if neg then .rd else .ru) else .rz) neg m e sticky).1

/-- 1/√x, faithfully rounded (R178, R185). -/
def frsqOf (w : Word) : Nat × BitVec 6 :=
  match num32 w with
  | .nan sig => (Fl.f32.nan, (Num.nan sig).sig)
  | .inf neg => if neg then (Fl.f32.nan, fInv) else (0, 0)
  | .fin neg m e =>
    if m = 0 then (Fl.f32.sign neg Fl.f32.infCode, fDz)
    else if neg then (Fl.f32.nan, fInv)
    else
      let m := if e % 2 = 0 then m else 2 * m
      let e := if e % 2 = 0 then e else e - 1
      let r := isqrt (2 ^ 128 / m) 65 0
      (Fl.f32.faithful (Config.sfuUpper 0 w) false r (-64 - e / 2) (r * r * m != 2 ^ 128), 0)

/-- R178. -/
def execFrsq (gd : Guard) (s : State) : Host.Outcome State Fault Refusal :=
  s.laneInstr gd 1 1 16 (fun _ ws => w32 (frsqOf (ws.getD 0 0)))

/-- A floating-point condition (R180). -/
def fcondHolds (c : FCond) (x y : Num) : Bool :=
  if x.isNan || y.isNan then (match c with | .un | .ne => true | _ => false)
  else
    let o := numCmp x y
    match c with
    | .eq => o == .eq
    | .ne => o != .eq
    | .lt => o == .lt
    | .le => o != .gt
    | .gt => o == .gt
    | .ge => o != .lt
    | .un => false
    | .ord => true

/-- R180. -/
def execFsetp (gd : Guard) (c : FCond) (p : BitVec 4) (s : State) : Host.Outcome State Fault Refusal :=
  s.runInstr (fun k =>
    let r1 := k.r.lanewise (k.on gd) 2 0 (fun _ ws => ([], (num32 (ws.getD 0 0)).sig ||| (num32 (ws.getD 1 0)).sig))
    .ok s (r1.writePred p.toNat (k.on gd) (k.r.lanesWhere (k.on gd) 2
      (fun _ ws => fcondHolds c (num32 (ws.getD 0 0)) (num32 (ws.getD 1 0))))) 2)

/-! ## Conversions (R104, R181) -/

/-- The floating-point format of a code, if it is one (R98). -/
def fmtFloat : Fmt → Option Fl
  | .f32 => some .f32
  | .f16 => some .f16
  | .bf16 => some .bf16
  | .e4m3 => some .e4m3
  | .e5m2 => some .e5m2
  | _ => none

/-- Width of an integer format, and whether it is signed (R97). -/
def fmtInt : Fmt → Nat × Bool
  | .i8 => (8, true)
  | .z8 => (8, false)
  | .i16 => (16, true)
  | .z16 => (16, false)
  | .i32 => (32, true)
  | .z32 => (32, false)
  | .i64 => (64, true)
  | .z64 => (64, false)
  | _ => (32, false)

/-- Entries of a value of a format. -/
def fmtWords : Fmt → Nat
  | .i64 | .z64 => 2
  | _ => 1

/-- The exact integer held in a format's low bits. -/
def fmtIntVal (f : Fmt) (x : DWord) : Int :=
  let (n, sg) := fmtInt f
  if sg then (x.setWidth n).toInt else (x.setWidth n).toNat

/-- Range of an integer format. -/
def fmtRange (f : Fmt) : Int × Int :=
  let (n, sg) := fmtInt f
  if sg then (-(2 ^ (n - 1)), 2 ^ (n - 1) - 1) else (0, 2 ^ n - 1)

/-- An integer as entries of a format (R97). -/
def fmtPut (f : Fmt) (v : Int) : List Word :=
  if fmtWords f = 2 then push (BitVec.ofInt 64 v) else [BitVec.ofInt 32 v]

/-- Bits of a floating-point format. -/
def Fl.bits (f : Fl) : Nat := 1 + f.eb + f.mb

/-- Convert of R104 and R181. -/
def convert (cv : CvtSpec) (x : DWord) : List Word × BitVec 6 :=
  match fmtFloat cv.src, fmtFloat cv.dst with
  | some a, some b => w32 (b.ofNum cv.mode (a.decode (x.toNat % 2 ^ a.bits)))
  | some a, none =>
    let r := toIntSat (a.decode (x.toNat % 2 ^ a.bits)) cv.mode (fmtRange cv.dst).1 (fmtRange cv.dst).2
    (fmtPut cv.dst r.1, r.2)
  | none, some b =>
    let v := fmtIntVal cv.src x
    w32 (b.roundInt cv.mode v 0 false)
  | none, none =>
    let v := fmtIntVal cv.src x
    let (lo, hi) := fmtRange cv.dst
    if v < lo then (fmtPut cv.dst lo, fSat) else if v > hi then (fmtPut cv.dst hi, fSat) else (fmtPut cv.dst v, 0)

/-- R181. -/
def execCvt (gd : Guard) (cv : CvtSpec) (s : State) : Host.Outcome State Fault Refusal :=
  s.laneInstr gd (fmtWords cv.src) (fmtWords cv.dst) 4 (fun _ ws =>
    convert cv (if fmtWords cv.src = 2 then item 64 ws 0 else (ws.getD 0 0).setWidth 64))

/-! ## Packed and 8-bit arithmetic (R182, R183) -/

/-- The format of a packed operation. -/
def hfmt : HFmt → Fl
  | .f16 => .f16
  | .bf16 => .bf16

/-- Element `e` of a packed pair. -/
def half (w : Word) (e : Nat) : Nat := (w.toNat / 65536 ^ e) % 65536

/-- Two element results as an entry. -/
def packPair (a b : Nat × BitVec 6) : List Word × BitVec 6 := ([BitVec.ofNat 32 (a.1 + 65536 * b.1)], a.2 ||| b.2)

/-- R182. -/
def execHadd2 (gd : Guard) (f : HFmt) (s : State) : Host.Outcome State Fault Refusal :=
  s.laneInstr gd 2 1 4 (fun _ ws =>
    let el (e : Nat) := (hfmt f).add .rn ((hfmt f).decode (half (ws.getD 0 0) e)) ((hfmt f).decode (half (ws.getD 1 0) e))
    packPair (el 0) (el 1))
/-- R182. -/
def execHmul2 (gd : Guard) (f : HFmt) (s : State) : Host.Outcome State Fault Refusal :=
  s.laneInstr gd 2 1 4 (fun _ ws =>
    let el (e : Nat) := (hfmt f).mul .rn ((hfmt f).decode (half (ws.getD 0 0) e)) ((hfmt f).decode (half (ws.getD 1 0) e))
    packPair (el 0) (el 1))
/-- R182. -/
def execHfma2 (gd : Guard) (f : HFmt) (s : State) : Host.Outcome State Fault Refusal :=
  s.laneInstr gd 3 1 4 (fun _ ws =>
    let el (e : Nat) := (hfmt f).fma .rn ((hfmt f).decode (half (ws.getD 0 0) e))
      ((hfmt f).decode (half (ws.getD 1 0) e)) ((hfmt f).decode (half (ws.getD 2 0) e))
    packPair (el 0) (el 1))
/-- R182. -/
def execHmax2 (gd : Guard) (f : HFmt) (s : State) : Host.Outcome State Fault Refusal :=
  s.laneInstr gd 2 1 4 (fun _ ws =>
    let el (e : Nat) := (hfmt f).minMax true (half (ws.getD 0 0) e) (half (ws.getD 1 0) e)
    packPair (el 0) (el 1))

/-- Element `e` of a packed four. -/
def byteOf (w : Word) (e : Nat) : Nat := (w.toNat / 256 ^ e) % 256

/-- The integer forms of R183. -/
def dotInt (sg : Bool) (x y c : Word) : Word :=
  let v (w : Word) (e : Nat) : Int := if sg then (BitVec.ofNat 8 (byteOf w e)).toInt else byteOf w e
  c + BitVec.ofInt 32 ((List.range 4).foldl (fun acc e => acc + v x e * v y e) 0)

/-- The product of two decoded values: an exact one, an infinity or a NaN; 0 × ∞ raises INV. -/
def numMul (a b : Num) : Num × BitVec 6 :=
  match a, b with
  | .nan _, _ | _, .nan _ => (.nan false, 0)
  | .inf x, .inf y => (.inf (x != y), 0)
  | .inf x, .fin y n _ => if n = 0 then (.nan false, fInv) else (.inf (x != y), 0)
  | .fin x m _, .inf y => if m = 0 then (.nan false, fInv) else (.inf (x != y), 0)
  | .fin x m e, .fin y n d => (.fin (x != y) (m * n) (e + d), 0)

/-- The exact sum of finite values over the least exponent. -/
def exactSum (xs : List Num) : Int × Int :=
  let lo := xs.foldl (fun k x => match x with | .fin _ _ e => min k e | _ => k) 0
  (xs.foldl (fun acc x => match x with | .fin n m e => acc + sgn n m * 2 ^ (e - lo).toNat | _ => acc) 0, lo)

/-- An exact sum of terms rounded once to nearest-even, with R183's rules for NaN, infinities and zero. -/
def sumRound (terms : List (Num × BitVec 6)) (sig : BitVec 6) : Nat × BitVec 6 :=
  let fl := terms.foldl (fun f t => f ||| t.2) sig
  let ns := terms.map (·.1)
  let pos := ns.contains (.inf false)
  let neg := ns.contains (.inf true)
  let fl := if pos && neg then fl ||| fInv else fl
  if ns.any Num.isNan || (pos && neg) then (Fl.f32.nan, fl)
  else
    if pos then (Fl.f32.infCode, fl)
    else if neg then (Fl.f32.sign true Fl.f32.infCode, fl)
    else
      let (v, lo) := exactSum ns
      let zneg := ns.all (fun x => match x with | .fin n m _ => n && m == 0 | _ => false)
      let r := Fl.f32.roundInt .rn v lo zneg
      (r.1, fl ||| r.2)

/-- The float forms of R183. -/
def dotFloat (f : Fl) (x y c : Word) : Nat × BitVec 6 :=
  let prods := (List.range 4).map (fun e => numMul (f.decode (byteOf x e)) (f.decode (byteOf y e)))
  sumRound (prods ++ [(num32 c, 0)]) (num32 c).sig

/-- R183. -/
def execDot4 (gd : Guard) (f : DotFmt) (s : State) : Host.Outcome State Fault Refusal :=
  s.laneInstr gd 3 1 4 (fun _ ws =>
    let x := ws.getD 0 0
    let y := ws.getD 1 0
    let c := ws.getD 2 0
    match f with
    | .i8 => ([dotInt true x y c], 0)
    | .z8 => ([dotInt false x y c], 0)
    | .e4m3 => w32 (dotFloat .e4m3 x y c)
    | .e5m2 => w32 (dotFloat .e5m2 x y c))

end Sys2Proof.Machine
end

