-- ==== Sys2Proof/Machine/Integer.lean ====
section
/-! DEFINITION. The integer instructions (R150 to R159). -/

namespace Sys2Proof.Machine

/-- Width n of a type (R150). -/
def tyBits : IntTy → Nat
  | .i32 | .z32 => 32
  | .i64 | .z64 => 64
/-- W: entries of a value (R139). -/
def tyWords (t : IntTy) : Nat := tyBits t / 32
/-- An i type. -/
def tySigned : IntTy → Bool
  | .i32 | .i64 => true
  | .z32 | .z64 => false
/-- Width of a type that only has a width. -/
def opwBits : OpW → Nat
  | .w32 => 32
  | .w64 => 64

/-- A two-operand operation: x y -- r (R150). -/
def State.intBin (s : State) (gd : Guard) (t : IntTy) (lat : Nat)
    (f : BitVec (tyBits t) → BitVec (tyBits t) → BitVec (tyBits t)) : Host.Outcome State Fault Refusal :=
  s.laneInstr gd (2 * tyWords t) (tyWords t) lat
    (fun _ ws => (push (f (item (tyBits t) ws 0) (item (tyBits t) ws (tyWords t))), 0))

/-- A one-operand operation: x -- r. -/
def State.intUn (s : State) (gd : Guard) (n : Nat) (lat : Nat) (f : BitVec n → BitVec n) :
    Host.Outcome State Fault Refusal :=
  s.laneInstr gd (n / 32) (n / 32) lat (fun _ ws => (push (f (item n ws 0)), 0))

/-- A shift: x s -- r with s a z32 entry (R153). -/
def State.intShift (s : State) (gd : Guard) (t : IntTy) (f : BitVec (tyBits t) → Nat → BitVec (tyBits t)) :
    Host.Outcome State Fault Refusal :=
  s.laneInstr gd (tyWords t + 1) (tyWords t) 2
    (fun _ ws => (push (f (item (tyBits t) ws 0) (ws.getD (tyWords t) 0).toNat), 0))

/-- Latency of class M and of class D (R140). -/
def latMul (t : IntTy) : Nat := 4 * tyWords t
def latDiv (t : IntTy) : Nat := 20 * tyWords t

/-- The order of a type (R151). -/
def tyLt (t : IntTy) (x y : BitVec (tyBits t)) : Bool := if tySigned t then x.slt y else x.ult y

/-- The high half of the exact product (R151). -/
def mulHigh (t : IntTy) (x y : BitVec (tyBits t)) : BitVec (tyBits t) :=
  if tySigned t then BitVec.ofInt (tyBits t) (x.toInt * y.toInt / 2 ^ tyBits t)
  else BitVec.ofNat (tyBits t) (x.toNat * y.toNat / 2 ^ tyBits t)

/-- Quotient and remainder truncating towards zero; by zero 0 and x (R152). -/
def divTrunc (t : IntTy) (x y : BitVec (tyBits t)) : BitVec (tyBits t) :=
  if y = 0 then 0 else if tySigned t then BitVec.ofInt (tyBits t) (Int.tdiv x.toInt y.toInt) else x / y
def remTrunc (t : IntTy) (x y : BitVec (tyBits t)) : BitVec (tyBits t) :=
  if y = 0 then x else if tySigned t then BitVec.ofInt (tyBits t) (Int.tmod x.toInt y.toInt) else x % y

/-- R151. -/
def execAdd (gd : Guard) (t : IntTy) (s : State) : Host.Outcome State Fault Refusal := s.intBin gd t 2 (fun x y => x + y)
/-- R151. -/
def execSub (gd : Guard) (t : IntTy) (s : State) : Host.Outcome State Fault Refusal := s.intBin gd t 2 (fun x y => x - y)
/-- R151. -/
def execMul (gd : Guard) (t : IntTy) (s : State) : Host.Outcome State Fault Refusal :=
  s.intBin gd t (latMul t) (fun x y => x * y)
/-- R151. -/
def execMulh (gd : Guard) (t : IntTy) (s : State) : Host.Outcome State Fault Refusal :=
  s.intBin gd t (latMul t) (mulHigh t)
/-- R151. -/
def execMad (gd : Guard) (t : IntTy) (s : State) : Host.Outcome State Fault Refusal :=
  s.laneInstr gd (3 * tyWords t) (tyWords t) (latMul t) (fun _ ws =>
    (push (item (tyBits t) ws 0 * item (tyBits t) ws (tyWords t) + item (tyBits t) ws (2 * tyWords t)), 0))
/-- R152. -/
def execDiv (gd : Guard) (t : IntTy) (s : State) : Host.Outcome State Fault Refusal :=
  s.laneInstr gd (2 * tyWords t) (tyWords t) (latDiv t) (fun _ ws =>
    (push (divTrunc t (item (tyBits t) ws 0) (item (tyBits t) ws (tyWords t))),
      divFlag (item (tyBits t) ws (tyWords t))))
/-- R152. -/
def execRem (gd : Guard) (t : IntTy) (s : State) : Host.Outcome State Fault Refusal :=
  s.laneInstr gd (2 * tyWords t) (tyWords t) (latDiv t) (fun _ ws =>
    (push (remTrunc t (item (tyBits t) ws 0) (item (tyBits t) ws (tyWords t))),
      divFlag (item (tyBits t) ws (tyWords t))))
/-- R151. -/
def execNeg (gd : Guard) (t : IntTy) (s : State) : Host.Outcome State Fault Refusal :=
  s.intUn gd (tyBits t) 2 (fun x => -x)
/-- R151. -/
def execAbs (gd : Guard) (w : OpW) (s : State) : Host.Outcome State Fault Refusal :=
  s.intUn gd (opwBits w) 2 (fun x => if x.msb then -x else x)
/-- R151. -/
def execMin (gd : Guard) (t : IntTy) (s : State) : Host.Outcome State Fault Refusal :=
  s.intBin gd t 2 (fun x y => if tyLt t y x then y else x)
/-- R151. -/
def execMax (gd : Guard) (t : IntTy) (s : State) : Host.Outcome State Fault Refusal :=
  s.intBin gd t 2 (fun x y => if tyLt t x y then y else x)
/-- R151. -/
def execAnd (gd : Guard) (t : IntTy) (s : State) : Host.Outcome State Fault Refusal :=
  s.intBin gd t 2 (fun x y => x &&& y)
/-- R151. -/
def execOr (gd : Guard) (t : IntTy) (s : State) : Host.Outcome State Fault Refusal :=
  s.intBin gd t 2 (fun x y => x ||| y)
/-- R151. -/
def execXor (gd : Guard) (t : IntTy) (s : State) : Host.Outcome State Fault Refusal :=
  s.intBin gd t 2 (fun x y => x ^^^ y)
/-- R151. -/
def execNot (gd : Guard) (t : IntTy) (s : State) : Host.Outcome State Fault Refusal :=
  s.intUn gd (tyBits t) 2 (fun x => ~~~x)
/-- R153. -/
def execShl (gd : Guard) (t : IntTy) (s : State) : Host.Outcome State Fault Refusal :=
  s.intShift gd t (fun x n => if n < tyBits t then x <<< n else 0)
/-- R153. -/
def execShr (gd : Guard) (t : IntTy) (s : State) : Host.Outcome State Fault Refusal :=
  s.intShift gd t (fun x n => if n < tyBits t then x >>> n else 0)
/-- R153. -/
def execSar (gd : Guard) (t : IntTy) (s : State) : Host.Outcome State Fault Refusal :=
  s.intShift gd t (fun x n => x.sshiftRight (Nat.min n (tyBits t - 1)))
/-- R153. -/
def execRotl (gd : Guard) (t : IntTy) (s : State) : Host.Outcome State Fault Refusal :=
  s.intShift gd t (fun x n => x.rotateLeft (n % tyBits t))

/-- Leading zero bits (R154). -/
def clzOf {n : Nat} (x : BitVec n) : Nat := if x.toNat = 0 then n else n - 1 - Nat.log2 x.toNat
/-- Set bits (R154). -/
def popcOf {n : Nat} (x : BitVec n) : Nat := ((List.range n).filter (fun i => x.getLsbD i)).length
/-- Bits in reverse order (R154). -/
def brevOf {n : Nat} (x : BitVec n) : BitVec n :=
  BitVec.ofNat n ((List.range n).foldl (fun acc i => 2 * acc + (x.getLsbD i).toNat) 0)

/-- R154. -/
def execClz (gd : Guard) (t : IntTy) (s : State) : Host.Outcome State Fault Refusal :=
  s.laneInstr gd (tyWords t) 1 2 (fun _ ws => ([BitVec.ofNat 32 (clzOf (item (tyBits t) ws 0))], 0))
/-- R154. -/
def execPopc (gd : Guard) (t : IntTy) (s : State) : Host.Outcome State Fault Refusal :=
  s.laneInstr gd (tyWords t) 1 2 (fun _ ws => ([BitVec.ofNat 32 (popcOf (item (tyBits t) ws 0))], 0))
/-- R154. -/
def execBrev (gd : Guard) (t : IntTy) (s : State) : Host.Outcome State Fault Refusal :=
  s.intUn gd (tyBits t) 2 brevOf

/-- A Bool as a z32 entry. -/
def bit32 (b : Bool) : Word := if b then 1 else 0

/-- R155. -/
def execAddc (gd : Guard) (t : IntTy) (s : State) : Host.Outcome State Fault Refusal :=
  s.laneInstr gd (2 * tyWords t + 1) (tyWords t + 1) 2 (fun _ ws =>
    let x := item (tyBits t) ws 0
    let y := item (tyBits t) ws (tyWords t)
    let c := (ws.getD (2 * tyWords t) 0).getLsbD 0
    (push (x + y + BitVec.ofNat _ c.toNat) ++ [bit32 (carryOut x y c)], 0))
/-- R155. -/
def execSubb (gd : Guard) (t : IntTy) (s : State) : Host.Outcome State Fault Refusal :=
  s.laneInstr gd (2 * tyWords t + 1) (tyWords t + 1) 2 (fun _ ws =>
    let x := item (tyBits t) ws 0
    let y := item (tyBits t) ws (tyWords t)
    let c := (ws.getD (2 * tyWords t) 0).getLsbD 0
    (push (x - y - BitVec.ofNat _ c.toNat) ++ [bit32 (borrowOut x y c)], 0))

/-- bfe of R156: `pos` at or past n reads extension bits. -/
def bfeOf (t : IntTy) (x : BitVec (tyBits t)) (pos len : Nat) : BitVec (tyBits t) :=
  let n := tyBits t
  let len := Nat.min len n
  if len = 0 then 0
  else
    let sh := if tySigned t then x.sshiftRight (Nat.min pos n) else if pos < n then x >>> pos else 0
    let f := sh.toNat % 2 ^ len
    if tySigned t && f / 2 ^ (len - 1) == 1 then BitVec.ofInt n ((f : Int) - 2 ^ len) else BitVec.ofNat n f

/-- bfi of R156. -/
def bfiOf {n : Nat} (x y : BitVec n) (pos len : Nat) : BitVec n :=
  let len := Nat.min len n
  let mask := if pos < n then BitVec.ofNat n ((2 ^ len - 1) * 2 ^ pos) else 0
  let ys := if pos < n then y <<< pos else 0
  (x &&& ~~~mask) ||| (ys &&& mask)

/-- R156. -/
def execBfe (gd : Guard) (t : IntTy) (s : State) : Host.Outcome State Fault Refusal :=
  s.laneInstr gd (tyWords t + 2) (tyWords t) 2 (fun _ ws =>
    (push (bfeOf t (item (tyBits t) ws 0) (ws.getD (tyWords t) 0).toNat (ws.getD (tyWords t + 1) 0).toNat), 0))
/-- R156. -/
def execBfi (gd : Guard) (t : IntTy) (s : State) : Host.Outcome State Fault Refusal :=
  s.laneInstr gd (2 * tyWords t + 2) (tyWords t) 2 (fun _ ws =>
    (push (bfiOf (item (tyBits t) ws 0) (item (tyBits t) ws (tyWords t)) (ws.getD (2 * tyWords t) 0).toNat
      (ws.getD (2 * tyWords t + 1) 0).toNat), 0))

/-- sext of R157. -/
def sextOf (w : SextW) (x : Word) : List Word :=
  match w with
  | .i8 => [(x.setWidth 8).signExtend 32]
  | .i16 => [(x.setWidth 16).signExtend 32]
  | .i32 => push (x.signExtend 64)

/-- R157. -/
def execSext (gd : Guard) (w : SextW) (s : State) : Host.Outcome State Fault Refusal :=
  s.laneInstr gd 1 (match w with | .i32 => 2 | _ => 1) 1 (fun _ ws => (sextOf w (ws.getD 0 0), 0))

/-- A condition of R158. -/
def condHolds (c : Cond) (t : IntTy) (x y : BitVec (tyBits t)) : Bool :=
  match c with
  | .eq => x == y
  | .ne => x != y
  | .lt => tyLt t x y
  | .le => !tyLt t y x
  | .gt => tyLt t y x
  | .ge => !tyLt t x y

/-- R158. -/
def execSetp (gd : Guard) (c : Cond) (t : IntTy) (p : BitVec 4) (s : State) : Host.Outcome State Fault Refusal :=
  s.runInstr (fun k => .ok s ((k.r.replace (2 * tyWords t) []).writePred p.toNat (k.on gd)
    (k.r.lanesWhere (k.on gd) (2 * tyWords t)
      (fun _ ws => condHolds c t (item (tyBits t) ws 0) (item (tyBits t) ws (tyWords t))))) 2)

/-- R159. -/
def execSel (gd : Guard) (w : OpW) (s : State) : Host.Outcome State Fault Refusal :=
  s.laneInstr gd (2 * (opwBits w / 32) + 1) (opwBits w / 32) 2 (fun _ ws =>
    (push (if ws.getD (2 * (opwBits w / 32)) 0 != 0 then item (opwBits w) ws 0
      else item (opwBits w) ws (opwBits w / 32)), 0))

end Sys2Proof.Machine
end

