-- ==== Sys2Proof/Machine/Stack.lean ====
section
/-! DEFINITION. `nop`, the stack instructions, the locals, and the identity and address instructions (R142 to R149). -/

namespace Sys2Proof.Machine

/-- Words by position, deepest first. -/
def permute (js : List Nat) (ws : List Word) : List Word := js.map (fun j => ws.getD j 0)

/-- A stack instruction that leaves the popped entries in the order `js` (R143). -/
def State.stackInstr (s : State) (gd : Guard) (a : Nat) (js : List Nat) : Host.Outcome State Fault Refusal :=
  s.laneInstr gd a js.length 1 (fun _ ws => (permute js ws, 0))

/-- R142. -/
def execNop (gd : Guard) (s : State) : Host.Outcome State Fault Refusal := s.stackInstr gd 0 []
/-- R143. -/
def execDup (gd : Guard) (s : State) : Host.Outcome State Fault Refusal := s.stackInstr gd 1 [0, 0]
/-- R143. -/
def execDrop (gd : Guard) (s : State) : Host.Outcome State Fault Refusal := s.stackInstr gd 1 []
/-- R143. -/
def execSwap (gd : Guard) (s : State) : Host.Outcome State Fault Refusal := s.stackInstr gd 2 [1, 0]
/-- R143. -/
def execOver (gd : Guard) (s : State) : Host.Outcome State Fault Refusal := s.stackInstr gd 2 [0, 1, 0]
/-- R143. -/
def execRot (gd : Guard) (s : State) : Host.Outcome State Fault Refusal := s.stackInstr gd 3 [1, 2, 0]
/-- R143. -/
def execNip (gd : Guard) (s : State) : Host.Outcome State Fault Refusal := s.stackInstr gd 2 [1]
/-- R143. -/
def execTuck (gd : Guard) (s : State) : Host.Outcome State Fault Refusal := s.stackInstr gd 2 [1, 0, 1]
/-- R143. -/
def execDup2 (gd : Guard) (s : State) : Host.Outcome State Fault Refusal := s.stackInstr gd 2 [0, 1, 0, 1]
/-- R143. -/
def execDrop2 (gd : Guard) (s : State) : Host.Outcome State Fault Refusal := s.stackInstr gd 2 []
/-- R143. -/
def execSwap2 (gd : Guard) (s : State) : Host.Outcome State Fault Refusal := s.stackInstr gd 4 [2, 3, 0, 1]

/-- Depth of the split at this point of the run, or the handler depth in the handler split (R144). The entries reached
at the header are the top dmin, so the depth is that of the header less dmin plus the working stack. -/
def Cur.depthNow (c : Cur) : Nat :=
  c.r.depth0 - nbits c.r.image.hdr.toNat 26 23 + c.r.stk.length
    - (match c.g.parked with | some k => k.base | none => 0)

/-- R144. -/
def execDepth (gd : Guard) (s : State) : Host.Outcome State Fault Refusal :=
  s.runInstr (fun c => .ok s (c.r.lanewise (c.on gd) 0 1 (fun _ _ => ([BitVec.ofNat 32 c.depthNow], 0))) 1)
/-- R143, R144. -/
def execPick (gd : Guard) (n : BitVec 3) (s : State) : Host.Outcome State Fault Refusal :=
  s.stackInstr gd (n.toNat + 1) (List.range (n.toNat + 1) ++ [0])
/-- R143, R144. -/
def execRoll (gd : Guard) (n : BitVec 3) (s : State) : Host.Outcome State Fault Refusal :=
  s.stackInstr gd (n.toNat + 1) ((List.range n.toNat).map (· + 1) ++ [0])

/-! ## Locals (R145 to R147) -/

/-- R145. -/
def execLdi (gd : Guard) (imm : BitVec 16) (s : State) : Host.Outcome State Fault Refusal :=
  s.laneInstr gd 0 1 1 (fun _ _ => ([imm.signExtend 32], 0))
/-- R145. -/
def execLdiLit (gd : Guard) (lit : BitVec 32) (s : State) : Host.Outcome State Fault Refusal :=
  s.laneInstr gd 0 1 1 (fun _ _ => ([lit], 0))
/-- R145, R146. -/
def execLdk (gd : Guard) (k : BitVec 6) (s : State) : Host.Outcome State Fault Refusal :=
  s.runInstr (fun c => .ok s (c.r.lanewise (c.on gd) 0 1 (fun _ _ => ([c.uniform k.toNat], 0))) 1)
/-- R145, R146. -/
def execLdk2 (gd : Guard) (k : BitVec 6) (s : State) : Host.Outcome State Fault Refusal :=
  s.runInstr (fun c => .ok s (c.r.lanewise (c.on gd) 0 2
    (fun _ _ => ([c.uniform k.toNat, c.uniform (k.toNat + 1)], 0))) 1)
/-- R147. -/
def execLdu (gd : Guard) (s : State) : Host.Outcome State Fault Refusal :=
  s.runInstr (fun c => .ok s (c.r.lanewise (c.on gd) 1 1
    (fun _ ws => let i := ws.getD 0 0; ([if i.toNat < 64 then c.uniform i.toNat else 0], lduFlag i))) 1)
/-- R145, R146. -/
def execLdf (gd : Guard) (f : BitVec 8) (s : State) : Host.Outcome State Fault Refusal :=
  s.runInstr (fun c => c.frameCheck s f.toNat 1 (fun _ =>
    .ok s (c.r.lanewise (c.on gd) 0 1 (fun l _ => ([laneAt (c.frame f.toNat) l], 0))) 1))
/-- R145, R146. -/
def execStf (gd : Guard) (f : BitVec 8) (s : State) : Host.Outcome State Fault Refusal :=
  s.runInstr (fun c => c.frameCheck s f.toNat 1 (fun _ =>
    .ok s ((c.r.replace 1 []).writeFrame f.toNat (c.on gd) ((c.r.popped 1).getD 0 [])) 1))
/-- R145, R146. -/
def execLdf2 (gd : Guard) (f : BitVec 8) (s : State) : Host.Outcome State Fault Refusal :=
  s.runInstr (fun c => c.frameCheck s f.toNat 2 (fun _ =>
    .ok s (c.r.lanewise (c.on gd) 0 2
      (fun l _ => ([laneAt (c.frame f.toNat) l, laneAt (c.frame (f.toNat + 1)) l], 0))) 1))
/-- R145, R146. -/
def execStf2 (gd : Guard) (f : BitVec 8) (s : State) : Host.Outcome State Fault Refusal :=
  s.runInstr (fun c => c.frameCheck s f.toNat 2 (fun _ =>
    .ok s (((c.r.replace 2 []).writeFrame f.toNat (c.on gd) ((c.r.popped 2).getD 0 [])).writeFrame
      (f.toNat + 1) (c.on gd) ((c.r.popped 2).getD 1 [])) 1))
/-- R145, R146. -/
def execTeef (gd : Guard) (f : BitVec 8) (s : State) : Host.Outcome State Fault Refusal :=
  s.runInstr (fun c => c.frameCheck s f.toNat 1 (fun _ =>
    .ok s (c.r.writeFrame f.toNat (c.on gd) ((c.r.popped 1).getD 0 [])) 1))
/-- R145, R146. -/
def execStu (gd : Guard) (k : BitVec 6) (s : State) : Host.Outcome State Fault Refusal :=
  s.runInstr (fun c => .ok s ((c.r.replace 1 []).writeUniform k.toNat (c.on gd) ((c.r.popped 1).getD 0 [])) 1)
/-- R145, R146. -/
def execLdx (gd : Guard) (x : BitVec 2) (s : State) : Host.Outcome State Fault Refusal :=
  s.runInstr (fun c => .ok s (c.r.lanewise (c.on gd) 0 1 (fun l _ => ([laneAt (mget c.r.tmp x.toNat []) l], 0))) 1)
/-- R145, R146. -/
def execStx (gd : Guard) (x : BitVec 2) (s : State) : Host.Outcome State Fault Refusal :=
  s.runInstr (fun c => .ok s { c.r.replace 1 [] with
    tmp := mset c.r.tmp x.toNat (mergeLanes (c.on gd) ((c.r.popped 1).getD 0 []) (mget c.r.tmp x.toNat [])) } 1)
/-- R145, R146. -/
def execLdp (gd : Guard) (p : BitVec 4) (s : State) : Host.Outcome State Fault Refusal :=
  s.runInstr (fun c => .ok s (c.r.lanewise (c.on gd) 0 1
    (fun l _ => ([if laneOn (c.pred p.toNat) l then 1 else 0], 0))) 1)
/-- R145, R146. -/
def execStp (gd : Guard) (p : BitVec 4) (s : State) : Host.Outcome State Fault Refusal :=
  s.runInstr (fun c => .ok s ((c.r.replace 1 []).writePred p.toNat (c.on gd)
    (c.r.lanesWhere (c.on gd) 1 (fun _ ws => ws.getD 0 0 != 0))) 1)

/-! ## Identity and address (R148, R149) -/

/-- The lane's WID: the group's fields with W0 the lane (R53, R148). -/
def Group.widOf (g : Group) (l : Nat) : DWord := g.wid + BitVec.ofNat 64 l

/-- Segment width of a SEGW code (R65). -/
def segWidth (code : BitVec 3) : Nat := 32 / 2 ^ code.toNat

/-- R148. -/
def execWid (gd : Guard) (s : State) : Host.Outcome State Fault Refusal :=
  s.runInstr (fun c => .ok s (c.r.lanewise (c.on gd) 0 2 (fun l _ => (push (c.g.widOf l), 0))) 1)
/-- R148. -/
def execLane (gd : Guard) (s : State) : Host.Outcome State Fault Refusal :=
  s.laneInstr gd 0 1 1 (fun l _ => ([BitVec.ofNat 32 l], 0))
/-- R148. -/
def execSegi (gd : Guard) (s : State) : Host.Outcome State Fault Refusal :=
  s.runInstr (fun c => .ok s (c.r.lanewise (c.on gd) 0 1
    (fun l _ => ([BitVec.ofNat 32 (l % segWidth c.r.segw)], 0))) 1)

/-- Bytes of an element (R149). -/
def esizeBytes : ESize → Nat
  | .b8 => 1
  | .b16 => 2
  | .b32 => 4
  | .b64 => 8

/-- R149. -/
def execLea (gd : Guard) (sz : ESize) (s : State) : Host.Outcome State Fault Refusal :=
  s.laneInstr gd 3 2 2 (fun _ ws =>
    (push (item 64 ws 0 + (ws.getD 2 0).signExtend 64 * BitVec.ofNat 64 (esizeBytes sz)), 0))

end Sys2Proof.Machine
end

