-- ==== Sys2Proof/Machine/Segment.lean ====
section
/-! DEFINITION. Block quantisation and the segment instructions (R105 to R110, R116, R117, R192 to R201). -/

namespace Sys2Proof.Machine

/-- An instruction whose results depend on several lanes: `outs` gives the entries of each guarded-on lane (R196). -/
def Run.crosswise (r : Run) (on : Mask) (a b : Nat) (outs : Nat → List Word) (fl : BitVec 6) : Run :=
  (r.lanewise on a b (fun l _ => (outs l, 0))).raise fl

/-- Word `k` (deepest first) of the popped entries in lane `l`. -/
def popWord (ps : List Lanes) (k l : Nat) : Word := laneAt (ps.getD k []) l

/-! ## Block-scaled values (R105 to R110) -/

/-- The code of a block type. -/
def blkCode : BlkTy → Nat
  | .ui => 0 | .e2m1 => 1 | .pow2 => 2 | .ilog => 3

/-- Qmax of a type (R110). -/
def qmax (ty : Nat) : Nat := match ty with | 0 => 7 | 1 => 6 | 2 => 1 | _ => 32

/-- 64 times a magnitude code's value (R106). -/
def codeMag (ty k : Nat) : Nat :=
  match ty with
  | 0 => 64 * k
  | 1 => ([0, 32, 64, 96, 128, 192, 256, 384] : List Nat).getD k 0
  | 2 => if k = 0 then 0 else 2 ^ (k - 1)
  | _ => ([0, 64, 128, 192, 256, 512, 1024, 2048] : List Nat).getD k 0

/-- Sign and 64 times the magnitude of a code (R106). -/
def codeVal (ty c : Nat) : Bool × Nat :=
  if ty = 0 then (if c < 8 then (false, 64 * c) else (true, 64 * (16 - c)))
  else (decide (8 ≤ c), codeMag ty (c % 8))

/-- The exact value of an element (R105, R107). -/
def blockElem (scale code : Nat) : Num :=
  let ty := scale / 64 % 4
  let c := scale % 64
  if c = 0 then .fin false 0 0
  else .fin (codeVal ty (code % 16)).1 (codeVal ty (code % 16)).2 ((c : Int) - 32 - 6)

/-- The distance of q = ±m * 2^e from a code's value, over a common unit. -/
def codeDist (ty c : Nat) (neg : Bool) (m : Nat) (e : Int) : Nat :=
  let lo := min (e + 6) 0
  let v := codeVal ty c
  (sgn neg m * 2 ^ (e + 6 - lo).toNat - sgn v.1 v.2 * 2 ^ (-lo).toNat).natAbs

/-- NearestCode of R110. Code 0x8 is never produced: it is -8 or -0. -/
def nearestCode (ty : Nat) (neg : Bool) (m : Nat) (e : Int) : Nat :=
  ([0, 1, 2, 3, 4, 5, 6, 7, 9, 10, 11, 12, 13, 14, 15] : List Nat).foldl (fun best c =>
    let d := codeDist ty c neg m e
    let b := codeDist ty best neg m e
    if d < b ∨ (d = b ∧ best % 2 = 1 ∧ c % 2 = 0) then c else best) 0

/-- a * 2^e ≤ q * 2^k. -/
def leScaled (a : Nat) (e : Int) (q : Nat) (k : Int) : Bool :=
  let lo := min e k
  decide (a * 2 ^ (e - lo).toNat ≤ q * 2 ^ (k - lo).toNat)

/-- QuantBlock of R110: scale byte, codes, flags. -/
def quantBlock (vs : List Num) (ty : Nat) : Nat × List Nat × BitVec 6 :=
  let bad := vs.any (fun v => match v with | .fin _ _ _ => false | _ => true)
  let inv := if bad then fInv else 0
  let anyInf := vs.any (fun v => match v with | .inf _ => true | _ => false)
  let mags := vs.filterMap (fun v => match v with | .fin _ m e => some (m, e) | _ => none)
  let amax := mags.foldl (fun (a : Nat × Int) x => if leScaled x.1 x.2 a.1 a.2 then a else x) (0, 0)
  if !anyInf && amax.1 == 0 then (ty * 64, vs.map (fun _ => 0), inv)
  else
    let top := topE amax
    let e0 : Int := if anyInf then 31 else
      top - 6 + ((List.range 12).find? (fun k => leScaled amax.1 amax.2 (qmax ty) (top - 6 + k))).getD 0
    let quf := if e0 < -31 then fQuf else 0
    let e := min (max e0 (-31)) 31
    let one (v : Num) : Nat × BitVec 6 :=
      match v with
      | .nan _ => (0, 0)
      | .inf neg => (nearestCode ty neg (2 * qmax ty) 0, fSat)
      | .fin neg m x => (nearestCode ty neg m (x - e), if leScaled m (x - e) (qmax ty) 0 then 0 else fSat)
    let rs := vs.map one
    (ty * 64 + (e + 32).toNat, rs.map (·.1), rs.foldl (fun f r => f ||| r.2) (inv ||| quf))
where
  topE (a : Nat × Int) : Int := Nat.log2 a.1 + a.2

/-- R192. -/
def execQblk (gd : Guard) (ty : BlkTy) (s : State) : Host.Outcome State Fault Refusal :=
  s.runInstr (fun c =>
    let on := c.on gd
    let ps := c.r.popped 1
    let vs := (List.range 32).map (fun l => if laneOn on l then num32 (popWord ps 0 l) else .fin false 0 0)
    let q := quantBlock vs (blkCode ty)
    .ok s (c.r.crosswise on 1 2 (fun l => [BitVec.ofNat 32 q.1, BitVec.ofNat 32 (q.2.1.getD l 0)])
      (if on = 0 then 0 else q.2.2)) 14)

/-- R193. -/
def execDqblk (gd : Guard) (f : SFmt) (s : State) : Host.Outcome State Fault Refusal :=
  s.laneInstr gd 2 1 4 (fun _ ws =>
    let fl := match f with | .f32 => Fl.f32 | .f16 => Fl.f16 | .bf16 => Fl.bf16
    w32 (fl.ofNum .rn (blockElem ((ws.getD 0 0).toNat % 256) ((ws.getD 1 0).toNat % 16))))

/-- R194. -/
def execPk4 (gd : Guard) (s : State) : Host.Outcome State Fault Refusal :=
  s.runInstr (fun c =>
    let on := c.on gd
    let ps := c.r.popped 1
    let nib (l : Nat) : Nat := if laneOn on l then (popWord ps 0 l).toNat % 16 else 0
    .ok s (c.r.crosswise on 1 1
      (fun l => [BitVec.ofNat 32 ((List.range 8).foldl (fun acc i => acc + nib (8 * (l % 4) + i) * 16 ^ i) 0)]) 0) 4)

/-- R194. -/
def execUpk4 (gd : Guard) (s : State) : Host.Outcome State Fault Refusal :=
  s.runInstr (fun c =>
    let on := c.on gd
    let ps := c.r.popped 1
    .ok s (c.r.crosswise on 1 1
      (fun l => [BitVec.ofNat 32 (if laneOn on (l / 8) then (popWord ps 0 (l / 8)).toNat / 16 ^ (l % 8) % 16 else 0)]) 0) 4)

/-! ## Segments (R195 to R201) -/

/-- R195: the codes 5 to 7 fault whatever the guard. -/
def execSegw (gd : Guard) (n : BitVec 3) (s : State) : Host.Outcome State Fault Refusal :=
  s.runInstr (fun c =>
    if 5 ≤ n.toNat then .fault s cSegForm c.r.mask []
    else .ok s (if (c.acts gd).isSome then { c.r with segw := n } else c.r) 1)

/-- The lanes of the segment of lane `l` of width `w`, in order. -/
def segLanes (w l : Nat) : List Nat := (List.range w).map (fun o => l / w * w + o)

/-- The contributing lanes of the segment of lane `l` (R196). -/
def segOn (on : Mask) (w l : Nat) : List Nat := (segLanes w l).filter (laneOn on)

/-- log2 of the segment width (R174). -/
def segK (code : BitVec 3) : Nat := 5 - code.toNat

/-- The source lane of a shuffle, if it lies in the segment and contributes (R197). -/
def shflSource (m : ShflMode) (on : Mask) (w l : Nat) (b : Word) : Option Nat :=
  let o := l % w
  let src : Int := match m with
    | .idx => b.toNat
    | .up => (o : Int) - b.toNat
    | .down => o + b.toNat
    | .xor => (BitVec.ofNat 32 o ^^^ b).toNat
  if 0 ≤ src ∧ src < w ∧ laneOn on (l / w * w + src.toNat) then some (l / w * w + src.toNat) else none

/-- R197. -/
def execShfl (gd : Guard) (m : ShflMode) (s : State) : Host.Outcome State Fault Refusal :=
  s.runInstr (fun c =>
    let on := c.on gd
    let ps := c.r.popped 2
    .ok s (c.r.crosswise on 2 1
      (fun l => [popWord ps 0 ((shflSource m on (segWidth c.r.segw) l (popWord ps 1 l)).getD l)]) 0) 4)

/-- The result of a vote in one lane (R198). -/
def voteOf (m : VoteMode) (on : Mask) (w l : Nat) (v : Nat → Word) : Word :=
  let ls := segOn on w l
  match m with
  | .any => bit32 (ls.any (fun i => v i != 0))
  | .all => bit32 (ls.all (fun i => v i != 0))
  | .ballot => BitVec.ofNat 32 (ls.foldl (fun acc i => if v i != 0 then acc + 2 ^ (i % w) else acc) 0)

/-- R198. -/
def execVote (gd : Guard) (m : VoteMode) (s : State) : Host.Outcome State Fault Refusal :=
  s.runInstr (fun c =>
    let ps := c.r.popped 1
    .ok s (c.r.crosswise (c.on gd) 1 1
      (fun l => [voteOf m (c.on gd) (segWidth c.r.segw) l (fun i => popWord ps 0 i)]) 0) 4)

/-! ### Reductions and scans -/

/-- The type of a reduction as an integer type. -/
def redInt : RedTy → IntTy
  | .i64 => .i64
  | .z64 => .z64
  | .z32 => .z32
  | _ => .i32

/-- Entries of a value of a reduction type. -/
def redWords (t : RedTy) : Nat := tyWords (redInt t)

/-- One integer combination (R199). -/
def redIntOp (op : RedOp) (t : IntTy) (x y : BitVec (tyBits t)) : BitVec (tyBits t) :=
  match op with
  | .add => x + y
  | .min => if tyLt t y x then y else x
  | .max => if tyLt t x y then y else x
  | .and => x &&& y
  | .or => x ||| y
  | .xor => x ^^^ y

/-- One f32 combination, with its flags (R101, R116). -/
def redFlOp (op : RedOp) (x y : Nat) : Nat × BitVec 6 :=
  match op with
  | .min => Fl.f32.minMax false x y
  | .max => Fl.f32.minMax true x y
  | _ => Fl.f32.add .rn (Fl.f32.decode x) (Fl.f32.decode y)

/-- One level of the tree of R116: neighbours combined, lone values passed on. -/
def treeLevel (f : Nat → Nat → Nat × BitVec 6) : List (Option Nat) → List (Option Nat) × BitVec 6
  | a :: b :: rest =>
    let (xs, fl) := treeLevel f rest
    match a, b with
    | some x, some y => (some (f x y).1 :: xs, (f x y).2 ||| fl)
    | some x, none => (some x :: xs, fl)
    | none, y => (y :: xs, fl)
  | xs => (xs, 0)

/-- `k` levels of the tree. -/
def treeReduce (f : Nat → Nat → Nat × BitVec 6) : Nat → List (Option Nat) → Option Nat × BitVec 6
  | 0, xs => (xs.getD 0 none, 0)
  | k + 1, xs =>
    let (ys, fl) := treeLevel f xs
    let (r, fl') := treeReduce f k ys
    (r, fl ||| fl')

/-- A NaN code made canonical (R95). -/
def canon32 (x : Nat) : Nat := if (Fl.f32.decode x).isNan then Fl.f32.nan else x

/-- The signalling-NaN event of a list of f32 codes. -/
def sigFlags (xs : List Nat) : BitVec 6 := xs.foldl (fun f x => f ||| (Fl.f32.decode x).sig) 0

/-- The f32 reduction of a segment's lanes, with flags (R116, R199). -/
def redFloat (op : RedOp) (k : Nat) (xs : List (Option Nat)) : Nat × BitVec 6 :=
  let r := treeReduce (redFlOp op) k xs
  (canon32 (r.1.getD 0), r.2 ||| sigFlags (xs.filterMap id))

/-- The f32 inclusive scan: values in order, with flags (R117). -/
def scanFloat (op : RedOp) : Option Nat → List Nat → List Nat × BitVec 6
  | _, [] => ([], 0)
  | none, x :: xs => let r := scanFloat op (some x) xs; (canon32 x :: r.1, r.2)
  | some p, x :: xs =>
    let y := redFlOp op p x
    let r := scanFloat op (some y.1) xs
    (canon32 y.1 :: r.1, y.2 ||| r.2)

/-- The integer reduction of a nonempty list. -/
def redInts (op : RedOp) (t : IntTy) : List (BitVec (tyBits t)) → BitVec (tyBits t)
  | [] => 0
  | x :: xs => xs.foldl (redIntOp op t) x

/-- The first lane of every segment of width `w`. -/
def segBases (w : Nat) : List Nat := (List.range (32 / w)).map (· * w)

/-- R199. -/
def execRed (gd : Guard) (op : RedOp) (t : RedTy) (s : State) : Host.Outcome State Fault Refusal :=
  s.runInstr (fun c =>
    let on := c.on gd
    let w := segWidth c.r.segw
    let k := segK c.r.segw
    let n := redWords t
    let ps := c.r.popped n
    let lat := 4 + 2 * k
    if t = .f32 then
      let one (b : Nat) := redFloat op k ((segLanes w b).map (fun i => if laneOn on i then some (popWord ps 0 i).toNat else none))
      let rs := (segBases w).map one
      let fl := rs.foldl (fun f r => f ||| r.2) 0
      .ok s (c.r.crosswise on 1 1 (fun l => [BitVec.ofNat 32 (rs.getD (l / w) (0, 0)).1]) fl) lat
    else
      let it := redInt t
      let one (b : Nat) := push (redInts op it ((segOn on w b).map (fun i => item (tyBits it) (argsOf ps i) 0)))
      let rs := (segBases w).map one
      .ok s (c.r.crosswise on n n (fun l => rs.getD (l / w) []) 0) lat)

/-- R200. -/
def execScan (gd : Guard) (op : RedOp) (t : RedTy) (s : State) : Host.Outcome State Fault Refusal :=
  s.runInstr (fun c =>
    let on := c.on gd
    let w := segWidth c.r.segw
    let n := redWords t
    let ps := c.r.popped n
    let lat := 4 + 2 * segK c.r.segw
    if t = .f32 then
      let one (b : Nat) : List (Nat × Nat) × BitVec 6 :=
        let ls := segOn on w b
        let xs := ls.map (fun i => (popWord ps 0 i).toNat)
        let r := scanFloat op none xs
        (ls.zip r.1, r.2 ||| sigFlags xs)
      let rs := (segBases w).map one
      let all : AMap Nat := rs.flatMap (·.1)
      .ok s (c.r.crosswise on 1 1 (fun l => [BitVec.ofNat 32 (mget all l 0)]) (rs.foldl (fun f r => f ||| r.2) 0)) lat
    else
      let it := redInt t
      .ok s (c.r.crosswise on n n (fun l => push (redInts op it
        (((segOn on w l).filter (fun i => decide (i ≤ l))).map (fun i => item (tyBits it) (argsOf ps i) 0)))) 0) lat)

/-! ### Arg-reductions (R201) -/

/-- Value order of an arg-reduction's type; -0 below +0. -/
def argLess (t : ArgTy) (x y : Word) : Bool :=
  match t with
  | .i32 => x.slt y
  | .z32 => x.ult y
  | .f32 => match numCmp (num32 x) (num32 y) with
    | .lt => true
    | .gt => false
    | .eq => (num32 x).isNeg && !(num32 y).isNeg

/-- A NaN operand of type f32. -/
def argNan (t : ArgTy) (x : Word) : Bool := t == .f32 && (num32 x).isNan

/-- Better of R201 on (value, index, lane). -/
def better (isMax : Bool) (t : ArgTy) (a b : Word × Word × Nat) : Bool :=
  if argNan t a.1 && argNan t b.1 then decide (a.2.2 < b.2.2)
  else if argNan t a.1 then false
  else if argNan t b.1 then true
  else if (if isMax then argLess t b.1 a.1 else argLess t a.1 b.1) then true
  else if (if isMax then argLess t a.1 b.1 else argLess t b.1 a.1) then false
  else a.2.1.ult b.2.1 || (a.2.1 == b.2.1 && decide (a.2.2 < b.2.2))

/-- The winner of a list. -/
def winner (isMax : Bool) (t : ArgTy) : List (Word × Word × Nat) → List Word
  | [] => []
  | x :: xs =>
    let v := xs.foldl (fun b a => if better isMax t a b then a else b) x
    [if argNan t v.1 then BitVec.ofNat 32 Fl.f32.nan else v.1, v.2.1]

/-- An arg-reduction (R201). -/
def State.argInstr (s : State) (gd : Guard) (isMax : Bool) (t : ArgTy) : Host.Outcome State Fault Refusal :=
  s.runInstr (fun c =>
    let on := c.on gd
    let w := segWidth c.r.segw
    let ps := c.r.popped 2
    let fl := if t = .f32 then sigFlags ((lanesOf on).map (fun l => (popWord ps 0 l).toNat)) else 0
    let rs := (segBases w).map (fun b => winner isMax t ((segOn on w b).map (fun i => (popWord ps 0 i, popWord ps 1 i, i))))
    .ok s (c.r.crosswise on 2 2 (fun l => rs.getD (l / w) []) fl) (4 + 2 * segK c.r.segw))

/-- R201. -/
def execArgmax (gd : Guard) (t : ArgTy) (s : State) : Host.Outcome State Fault Refusal := s.argInstr gd true t
/-- R201. -/
def execArgmin (gd : Guard) (t : ArgTy) (s : State) : Host.Outcome State Fault Refusal := s.argInstr gd false t

end Sys2Proof.Machine
end

