-- ==== Sys2Proof/Machine/Counts.lean ====
section
/-! DEFINITION. Pop and push counts of the run instructions, and the decoder's checks of a whole run (R34, R37, R123 to
R126, R139). -/

namespace Sys2Proof.Machine

/-- Entries an instruction pops or reaches, entries that stand in their place afterwards, and whether those are pushed
pending (R34, R75, R139). -/
structure StackUse where
  pops : Nat
  pushes : Nat
  pend : Bool
  deriving DecidableEq, Repr

/-- Counts of an ordinary instruction, and of one whose results are pending. -/
def use (a b : Nat) : StackUse := ⟨a, b, false⟩
def usePending (a b : Nat) : StackUse := ⟨a, b, true⟩

/-- An atomic's counts (R227). -/
def useAtomic (n : Nat) (cas : Bool) (x : AtOp) : StackUse :=
  usePending (2 + n + (if cas then n else 0)) (if x.w then n + 2 else n)

/-- The counts of every run instruction (R139 and each instruction's description); the other constructors have none. -/
def stackUse : Instr → StackUse
  | .dup _ => use 1 2
  | .drop _ => use 1 0
  | .swap _ => use 2 2
  | .over _ => use 2 3
  | .rot _ => use 3 3
  | .nip _ => use 2 1
  | .tuck _ => use 2 3
  | .dup2 _ => use 2 4
  | .drop2 _ => use 2 0
  | .swap2 _ => use 4 4
  | .depth _ => use 0 1
  | .pick _ n => use (n.toNat + 1) (n.toNat + 2)
  | .roll _ n => use (n.toNat + 1) (n.toNat + 1)
  | .ldi _ _ | .ldiLit _ _ | .ldk _ _ | .ldf _ _ | .ldx _ _ | .ldp _ _ | .lane _ | .segi _ => use 0 1
  | .ldk2 _ _ | .ldf2 _ _ | .wid _ | .wnull _ => use 0 2
  | .ldu _ | .teef _ _ => use 1 1
  | .stf _ _ | .stu _ _ | .stx _ _ | .stp _ _ => use 1 0
  | .stf2 _ _ => use 2 0
  | .lea _ _ => use 3 2
  | .add _ t | .sub _ t | .mul _ t | .mulh _ t | .div _ t | .rem _ t | .min _ t | .max _ t | .and _ t | .or _ t | .xor _ t =>
    use (2 * tyWords t) (tyWords t)
  | .mad _ t => use (3 * tyWords t) (tyWords t)
  | .neg _ t | .not _ t | .brev _ t => use (tyWords t) (tyWords t)
  | .abs _ w => use (opWords w) (opWords w)
  | .shl _ t | .shr _ t | .sar _ t | .rotl _ t => use (tyWords t + 1) (tyWords t)
  | .clz _ t | .popc _ t => use (tyWords t) 1
  | .addc _ t | .subb _ t => use (2 * tyWords t + 1) (tyWords t + 1)
  | .bfe _ t => use (tyWords t + 2) (tyWords t)
  | .bfi _ t => use (2 * tyWords t + 2) (tyWords t)
  | .sext _ w => use 1 (match w with | .i32 => 2 | _ => 1)
  | .setp _ _ t _ => use (2 * tyWords t) 0
  | .sel _ w => use (2 * opWords w + 1) (opWords w)
  | .bz _ _ | .bnz _ _ => use 1 0
  | .bx _ => use 2 0
  | .fadd _ _ | .fsub _ _ | .fmul _ _ | .fdiv _ _ | .fmin _ | .fmax _ | .fsgn _ => use 2 1
  | .ffma _ _ => use 3 1
  | .fsqrt _ _ | .frnd _ _ | .fabs _ | .fneg _ | .fcls _ | .frcp _ | .frsq _ => use 1 1
  | .fsetp _ _ _ => use 2 0
  | .cvt _ v => use (fmtWords v.src) (fmtWords v.dst)
  | .hadd2 _ _ | .hmul2 _ _ | .hmax2 _ _ => use 2 1
  | .hfma2 _ _ | .dot4 _ _ => use 3 1
  | .exp2 _ _ | .log2 _ _ | .sin _ _ | .cos _ _ | .tanh _ _ | .sigm _ _ | .erf _ _ | .gelu _ _ | .tab _ _ => use 1 1
  | .lse2 _ _ => use 2 1
  | .tload _ => use 2 0
  | .qblk _ _ => use 1 2
  | .dqblk _ _ => use 2 1
  | .pk4 _ | .upk4 _ | .vote _ _ => use 1 1
  | .shfl _ _ => use 2 1
  | .red _ _ t | .scan _ _ t => use (redWords t) (redWords t)
  | .argmax _ _ | .argmin _ _ | .draw _ _ _ => use 2 2
  | .drawm _ => use 4 2
  | .coin _ => use 0 1
  | .dkey _ => use 4 0
  | .ld _ w => usePending 2 (sizeWords (ldSize w))
  | .ldq _ => usePending 2 4
  | .ldw _ w => usePending 4 (sizeWords (ldSize w))
  | .ldF _ _ _ | .ldqF _ _ => use 2 0
  | .ldwF _ _ _ => use 4 0
  | .lds _ w => use 1 (sizeWords (ldSize w))
  | .sts _ w => use (1 + sizeWords (stSize w)) 0
  | .st _ w => use (2 + sizeWords (stSize w)) 0
  | .stq _ => use 6 0
  | .stwWg _ w | .stwDev _ w | .stwSys _ w => usePending (2 + sizeWords (stSize w)) 2
  | .prf _ => use 2 0
  | .aadd _ w x | .aand _ w x | .aor _ w x | .axor _ w x | .axch _ w x => useAtomic (opWords w) false x
  | .acas _ w x => useAtomic (opWords w) true x
  | .amin32 _ _ x | .amax32 _ _ x | .afadd _ x => useAtomic 1 false x
  | .amin64 _ _ x | .amax64 _ _ x => useAtomic 2 false x
  | .wwait _ => use 2 0
  | .wmax _ => use 4 2
  | .wexp _ | .wscp _ => use 2 1
  | .mfs _ r => use 0 (sysWords r.toNat)
  | .mts _ r => use (sysWords r.toNat) 0
  | .watch _ _ => use 2 0
  | .enq _ | .enqw _ | .lsend _ => usePending 2 1
  | .mrecv _ => usePending 0 2
  | .ringput _ => usePending 3 1
  | .pgmap _ => use 3 1
  | .cpy _ => use 2 0
  | .cpystat _ => use 0 1
  | .mould _ => use 3 1
  | .unveil _ => usePending 1 2
  | .accld _ _ _ | .accst _ _ _ => use 1 0
  | .accpatch _ => use 2 0
  | _ => use 0 0

/-- IsTransfer of R126. -/
def isTransfer : Instr → Bool
  | .br _ _ | .bpAny _ _ _ | .bpAll _ _ _ | .bz _ _ | .bnz _ _ | .bx _ | .jmp _ _ | .call _ _ | .ret _ | .exit _ => true
  | _ => false

/-- One instruction on the model of the stack: `true` marks an entry this run pushed pending (R126). -/
def depthStep (top : Nat) (st : List Bool) (u : StackUse) : Except Cause (List Bool) :=
  if (st.take u.pops).any id then .error cRunHazard
  else if st.length < u.pops then .error cRunForm
  else
    let st := List.replicate u.pushes u.pend ++ st.drop u.pops
    if top < st.length then .error cRunForm else .ok st

/-- The pending mask that a stack model gives (R125). -/
def maskOfModel (st : List Bool) : Nat :=
  (List.range 8).foldl (fun m k => if st.getD k false then m + 2 ^ k else m) 0

/-- CheckDepths of R126. -/
def checkDepths (dmin dmax pmask : Nat) (is : List Instr) : Option Cause :=
  match is.foldlM (fun st i => depthStep (dmin + dmax) st (stackUse i)) (List.replicate dmin false) with
  | .error c => some c
  | .ok st =>
    if maskOfModel st ≠ pmask then some cRunForm
    else if 4 < (is.filter (fun i => match i with | .mcatch _ _ _ => true | _ => false)).length then some cRunForm
    else none

/-- IsHeaderAddress of R123, without the opcode. -/
def headerAddress (a : Addr) : Bool := decide (a.toNat % 4 = 0) && decide (a.toNat / 2 ^ 57 = 0)

/-! ## Fetch (R128) -/

/-- What a fetch gives in place of a cause where the line lies on another package and has not come (R420). -/
def cFarCode : Cause := 0x3F

/-- A halfword through the core's instruction cache; one beyond the global addresses is absent (log 71). -/
def State.fetchHalf (s : State) (core guest a : Nat) : Except Cause Half :=
  let line := a / 128 * 128
  match s.icache.find? (fun x => x.core == core && x.guest == guest && x.va == BitVec.ofNat 64 line) with
  | some x => .ok (BitVec.ofNat 16 (leNat ((x.data.drop (a % 128)).take 2)))
  | none =>
    if 2 ^ 57 ≤ a then .error cPageAbsent
    else (s.translate guest a .exec).bind (fun r =>
      if isRemote r.1 then .error cFarCode else .ok (BitVec.ofNat 16 (rdLE s.mem r.1 2)))

/-- The lines of `n` bytes from `a` on are in the instruction cache. -/
def State.cacheCode (s : State) (core guest a n : Nat) : State :=
  (List.range ((a + n - 1) / 128 - a / 128 + 1)).foldl (fun s k =>
    let line := (a / 128 + k) * 128
    if s.icache.any (fun x => x.core == core && x.guest == guest && x.va == BitVec.ofNat 64 line) then s
    else match s.translate guest line .exec with
      | .ok r =>
        s.putCode core guest (BitVec.ofNat 64 line) (rdBytes s.mem r.1 128)
      | .error _ => s) s

/-- The first line from `a` on that the instruction cache does not hold is asked for at its home on another package. -/
def State.askCode (s : State) (core guest a : Nat) : Nat → State
  | 0 => s
  | fuel + 1 =>
    let line := a / 128 * 128
    if s.icache.any (fun x => x.core == core && x.guest == guest && x.va == BitVec.ofNat 64 line) then s.askCode core guest (a + 128) fuel
    else match s.translate guest line .exec with
      | .ok r => if isRemote r.1 then s.farAsk (.code core) guest (BitVec.ofNat 64 line) (r.1 / 128) else s.askCode core guest (a + 128) fuel
      | .error _ => s

/-- A 32-bit payload. -/
def State.fetchLit (s : State) (core guest a : Nat) : Except Cause Word :=
  match s.fetchHalf core guest a, s.fetchHalf core guest (a + 2) with
  | .ok lo, .ok hi => .ok (BitVec.ofNat 32 (lo.toNat + hi.toNat * 65536))
  | .error c, _ => .error c
  | _, .error c => .error c

/-- Halfwords from `a` on, all fetched or the first fault. -/
def State.fetchMany (s : State) (core guest a n : Nat) : Except Cause (List Half) :=
  (List.range n).mapM (fun k => s.fetchHalf core guest (a + 2 * k))

/-- The instructions of a run from `a` on, `n` of them: the address after them and the instructions (R126). -/
def State.decodeItems (s : State) (core guest : Nat) : Nat → Nat → Except Cause (Nat × List Instr)
  | 0, a => .ok (a, [])
  | n + 1, a => do
    let w ← s.fetchHalf core guest a
    let op := opOf w
    if op = 0x3C0 ∨ op = 0x3C1 then throw cRunForm
    if 0x3C2 ≤ op ∨ opAssigned op = false then throw cIllegal
    if w.getLsbD 15 = false ∧ nbits w.toNat 14 10 ≠ 0 then throw cIllegal
    let hs ← s.fetchMany core guest a (opLength op)
    match decode hs with
    | .error _ => throw cIllegal
    | .ok (i, _) =>
      if isTransfer i && n != 0 then throw cRunForm
      let r ← s.decodeItems core guest n (a + 2 * opLength op)
      return (r.1, i :: r.2)

/-- DecodeRun of R126: the run, or its cause. -/
def State.decodeRun (s : State) (core guest nsafe : Nat) (pc : Addr) : Except Cause RunImage := do
  let h := pc.toNat
  if headerAddress pc = false then throw cRunForm
  let w ← s.fetchHalf core guest h
  if opOf w ≠ 0x3C0 then throw cRunForm
  if nbits w.toNat 15 10 ≠ 0 then throw cIllegal
  let p ← s.fetchLit core guest (h + 2)
  let v := p.toNat
  if nbits v 2 0 ≠ 0 then throw cIllegal
  if 23 < nbits v 31 27 then throw cRunForm
  if 8 < nbits v 26 23 + nbits v 22 19 then throw cRunForm
  let r ← s.decodeItems core guest (nbits v 31 27 + 1) (h + 6)
  let w ← s.fetchHalf core guest r.1
  if opOf w ≠ 0x3C1 then throw cRunForm
  if nbits w.toNat 15 10 ≠ 0 then throw cIllegal
  let t ← s.fetchLit core guest (r.1 + 2)
  let t := t.toNat
  if nbits t 11 0 ≠ 0 then throw cIllegal
  if nbits t 31 31 = 0 ∧ nbits t 30 20 ≠ 0 then throw cIllegal
  if nbits t 31 31 = 1 ∧ nsafe ≤ nbits t 30 20 then throw cRunForm
  if nbits t 31 31 = 1 ∧ r.2.getLast?.any isTransfer then throw cRunForm
  match checkDepths (nbits v 26 23) (nbits v 22 19) (nbits t 19 12) r.2 with
  | some c => throw c
  | none => do
    let code ← s.fetchMany core guest (h + 6) ((r.1 - h - 6) / 2 + 3)
    return ⟨p, code⟩

end Sys2Proof.Machine
end

