-- ==== Sys2Proof/Machine/Parts.lean ====
section
/-! DEFINITION. Parts of a group at a trailer: divergence, the pending list, JOIN, lanes that exit (R57 to R64, R165,
R281, R368). -/

namespace Sys2Proof.Machine

/-! ## Placing parts (R58 to R60) -/

/-- A part that has just come to a PC. -/
def Part.arriving (pc : Addr) (m : Mask) (depth res now : Nat) : Part :=
  ⟨pc, m, depth, res, none, now, 0, none, false, .nothing, 0, none, none, [], false, false⟩

/-- An entry joins the tail of the pending list (R58, R59). -/
def Group.enqueue (g : Group) (p : Part) (now : Nat) : Group :=
  let p := { p with queued := now, readyAt := none, passed := 0, due := false, held := none, image := none, wait := .nothing
                    fault := none, clear := false }
  if g.pend.length < 8 ∧ g.ovf.isEmpty then { g with pend := g.pend ++ [p] } else { g with ovf := g.ovf ++ [p] }

/-- A part placed in the lowest free slot, or at the tail of the pending list. -/
def Group.place (g : Group) (now : Nat) (p : Part) : Group :=
  match g.freeSlot with
  | some n => { g with splits := lset g.splits n (some p) }
  | none => g.enqueue p now

/-- The parts of a run's lanes, in ascending PC order, placed as R58 lays down. -/
def Group.placeParts (g : Group) (slot now : Nat) (ps : List Part) : Group :=
  match ps with
  | [] => { g with splits := lset g.splits slot none }
  | p :: rest => rest.foldl (fun g p => g.place now p) { g with splits := lset g.splits slot (some p) }

/-- The split at the highest PC among the occupied slots, the highest slot of equals (R64). -/
def Group.highest (g : Group) : Option Nat :=
  ((List.range 4).foldl (fun (best : Option (Nat × Nat)) n =>
    match g.splits.getD n none with
    | none => best
    | some p => match best with
      | some (k, _) => if k ≤ p.pc.toNat then some (p.pc.toNat, n) else best
      | none => some (p.pc.toNat, n)) none).map (·.2)

/-- The first due hardware entry takes the slot of the split at the highest PC, which goes to the tail: one split at a
trailer (R64); that of several due entries the oldest does is a choice (log 76). -/
def Group.promote (now : Nat) (g : Group) : Group × List Nat :=
  match g.pend.findIdx? (fun p => p.due), g.highest with
  | some i, some n =>
    match g.pend[i]?, g.splits.getD n none with
    | some p, some q =>
      let g1 := { g with pend := g.pend.eraseIdx i, splits := lset g.splits n (some { p with queued := now, due := false }) }
      ((g1.refill now).enqueue q now, [n])
    | _, _ => (g, [])
  | _, _ => (g, [])

/-! ## JOIN (R62, R63) -/

/-- The release of a JOIN header: the parts there merge, or the group is due STACK_SKEW (R62, R63). A split whose run has
begun stands at H no more. The merged split has been released: it is decoded where one of them was, and no JOIN holds it. -/
def Group.release (g : Group) (pc : Addr) : Group :=
  let ps := g.partsAt pc
  let here (k : Nat) : Bool := match g.idleSplit k with | some p => p.pc == pc | none => false
  match (List.range 4).find? here, ps with
  | some n, p0 :: _ =>
    let m := ps.foldl (fun m p => m ||| p.mask) 0
    if ps.all (fun p => p.depth == p0.depth) then
      let res := ps.foldl (fun r p => min r p.res) p0.res
      let ex := ps.flatMap (fun p => p.excess ++ (if res < p.res then [⟨p.mask, p.depth - p.res, p.res - res⟩] else []))
      let splits := (List.range 4).map (fun k => if here k then none else g.splits.getD k none)
      { g with splits := lset splits n (some { p0 with
                 mask := m, res := res, held := none, readyAt := none, passed := 0, excess := ex
                 image := ps.findSome? (·.image), clear := true, maq := ps.all (·.maq) }),
               pend := g.pend.filter (fun p => p.pc != pc), ovf := g.ovf.filter (fun p => p.pc != pc) }
    else
      { g with skew := if g.skew.contains pc then g.skew else g.skew ++ [pc], splits := (List.range 4).map (fun k =>
          if here k then (g.splits.getD k none).map (fun p => { p with held := none }) else g.splits.getD k none) }
  | _, _ => g

/-- A release as a step, with its MERGE packet (R394). -/
def State.releaseJoin (s : State) (core slot : Nat) (pc : Addr) : State :=
  match s.group core slot with
  | none => s
  | some g =>
    let g' := g.release pc
    let s' := s.setGroup core slot g'
    let n := (g.partsAt pc).length
    if 2 ≤ n ∧ (g'.partsAt pc).length = 1 then
      match (List.range 4).find? (fun k => match g'.idleSplit k with | some p => p.pc == pc | none => false) with
      | some k => match g'.splits.getD k none with
        | some p => s'.trace g.guest core slot k 5 (leBytes 4 p.mask.toNat)
        | none => s'
      | none => s'
    else s'

/-- Every held split that no part stands below is released (R62). -/
def State.releaseJoins (core slot : Nat) : Nat → State → State
  | 0, s => s
  | fuel + 1, s =>
    match s.group core slot with
    | none => s
    | some g =>
      match (g.splits.filterMap id).find? (fun p => p.held.isSome && g.lowestAt p.pc) with
      | some p => State.releaseJoins core slot fuel (s.releaseJoin core slot p.pc)
      | none => s

/-! ## Lanes that exit (R165, R281, R368, R370) -/

/-- Lanes leave a part; an emptied part is gone. -/
def Part.without (p : Part) (m : Mask) : Part := { p with mask := p.mask &&& ~~~m }

/-- Lanes leave the live lanes, the parked parts and XMASK (R165, R281). -/
def Group.exitLanes (g : Group) (m : Mask) : Group :=
  { g with live := g.live &&& ~~~m, xmask := g.xmask &&& ~~~m,
           parked := g.parked.map (fun k => { k with
             splits := k.splits.map (Option.map (·.without m)), pend := k.pend.map (·.without m), ovf := k.ovf.map (·.without m) }) }

/-- A record of which no lane is left completes its operation and is discarded; a store record not delivered leaves an
error entry (R368, R370). -/
def State.emptyRec (s : State) (r : Rec) : State :=
  let s := if r.store && !r.delivered then (s.errorEntry r.guest r.pc r.owner r.cause 0 r.core).groupErr r.core r.slot else s
  if r.store then s else s.settleOp r.op

/-- Faulting lanes of a load-class operation that exit owe nothing (R368). -/
def Op.exitLanes (o : Op) (m : Mask) : Op :=
  if o.kind = .store then o else
  { o with lanes := o.lanes.map (fun x => match x.st with
      | .faulted _ => if laneOn m x.req.lane then { x with st := .done } else x
      | _ => x) }

/-- Exiting lanes leave UNF of every record of the group, and owe no result that a fault held up (R368). -/
def State.exitRecs (s : State) (core slot : Nat) (m : Mask) : State :=
  let mine (r : Rec) : Bool := r.core == core && r.slot == slot && r.kind != 3 && r.kind != 4
  let recs := s.recs.map (fun r => if mine r then { r with unf := r.unf &&& ~~~m, rslv := r.rslv &&& ~~~m } else r)
  let gone (r : Rec) : Bool := mine r && r.unf == 0 && !r.pinned
  let ops := s.ops.map (fun (x : Nat × Op) => (x.1, if x.2.core = core ∧ x.2.slot = slot then x.2.exitLanes m else x.2))
  let s := ({ s with recs := recs, ops := ops }).dropRecs gone
  let s := (List.range s.recs.length).foldl (fun (s : State) i => if s.recs[i]?.any mine then s.rewriteRec i else s) s
  (recs.filter (fun r => mine r && r.unf == 0)).foldl State.emptyRec s

end Sys2Proof.Machine
end

