-- ==== Sys2Proof/Machine/Timing.lean ====
section
/-! DEFINITION. Timing of a run (R140, R82) and placing an instruction where the next step fetches it. -/

namespace Sys2Proof.Machine

/-- Names of registers for co-issue: fN is N, kN is 1000 + N, pN is 2000 + N, xN is 3000 + N, SEGW is 4000. -/
def guardReads (gd : Guard) : List Nat := if gd.e then [2000 + gd.p.toNat] else []

/-- What an instruction reads, for an instruction that may co-issue: a = 0 and L = 1, also where L = 1 counts from the end
of a hold (log 31); `none` for every other one (R140 item 4). -/
def coReads : Instr → Option (List Nat)
  | .nop gd => some (guardReads gd)
  | .depth gd => some (guardReads gd)
  | .ldi gd _ => some (guardReads gd)
  | .ldiLit gd _ => some (guardReads gd)
  | .ldk gd k => some ((1000 + k.toNat) :: guardReads gd)
  | .ldk2 gd k => some ((1000 + k.toNat) :: (1001 + k.toNat) :: guardReads gd)
  | .ldf gd f => some (f.toNat :: guardReads gd)
  | .ldf2 gd f => some (f.toNat :: (f.toNat + 1) :: guardReads gd)
  | .ldx gd x => some ((3000 + x.toNat) :: guardReads gd)
  | .ldp gd p => some ((2000 + p.toNat) :: guardReads gd)
  | .wid gd => some (guardReads gd)
  | .lane gd => some (guardReads gd)
  | .segi gd => some (4000 :: guardReads gd)
  | .br gd _ => some (guardReads gd)
  | .bpAny gd p _ => some ((2000 + p.toNat) :: guardReads gd)
  | .bpAll gd p _ => some ((2000 + p.toNat) :: guardReads gd)
  | .jmp gd _ => some (guardReads gd)
  | .call gd _ => some (guardReads gd)
  | .ret gd => some (0 :: 1 :: guardReads gd)
  | .exit gd => some (guardReads gd)
  | .yield gd => some (guardReads gd)
  | .arrive gd _ => some (guardReads gd)
  | .bwait gd _ => some (guardReads gd)
  | .bsync gd _ => some (guardReads gd)
  | .wnull gd => some (guardReads gd)
  | .segw gd _ => some (guardReads gd)
  | .grow gd _ => some (guardReads gd)
  | .shrink gd _ => some (guardReads gd)
  | .trap gd _ => some (guardReads gd)
  | .unwatch gd _ => some (guardReads gd)
  | .trcm gd _ => some (guardReads gd)
  | .pmark gd _ => some (guardReads gd)
  | .sleep gd _ => some (guardReads gd)
  | .tret gd => some (guardReads gd)
  | .replay gd => some (guardReads gd)
  | .kill gd => some (guardReads gd)
  | .mrecv gd => some (guardReads gd)
  | .tbind gd => some (guardReads gd)
  | .cpyscout gd _ => some (guardReads gd)
  | .mcatch gd _ _ => some (guardReads gd)
  | .wait gd _ => some (guardReads gd)
  | .sdrain gd => some (guardReads gd)
  | .cflush gd => some (guardReads gd)
  | _ => none

/-- Registers, predicates and temporaries an instruction writes (R140 item 4). -/
def coWrites : Instr → List Nat
  | .stf _ f => [f.toNat]
  | .stf2 _ f => [f.toNat, f.toNat + 1]
  | .teef _ f => [f.toNat]
  | .stu _ k => [1000 + k.toNat]
  | .stp _ p => [2000 + p.toNat]
  | .call _ _ => [0, 1]
  | .stx _ x => [3000 + x.toNat]
  | .setp _ _ _ p => [2000 + p.toNat]
  | .fsetp _ _ p => [2000 + p.toNat]
  | .draw _ _ p => [2000 + p.toNat]
  | .segw _ _ => [4000]
  | .mts _ sr => if sr = 0x002 then [4000] else []
  | _ => []

/-- The run with its next instruction begun: halfwords, start time and co-issue (R140; SOLO or step mode: R82, R401). -/
def Run.begin_ (r : Run) (solo : Bool) (i : Instr) (ilen : Nat) : Run :=
  let co := !solo && !r.co && !r.first &&
    (match coReads i with | some rd => rd.all (fun x => !r.wrote.contains x) | none => false)
  { r with ilen := ilen, co := co, first := false, wrote := coWrites i, lastOp := r.code.getD 0 0, holding := false,
           start := if r.first then r.chosen + 1 else if co then r.start else max (r.start + 1) r.ready }

/-- The state with the next instruction of the run begun; the clock moves on to its start. -/
def State.latch (s : State) (c : Cur) (i : Instr) (ilen : Nat) : State :=
  let r := c.r.begin_ (c.r.image.solo || c.g.step) i ilen
  (s.putRun c r).passTo r.start

/-! ## Placing an instruction (log 8) -/

/-- A group at the start of everything (R57, R72): every field as at group start. -/
def Group.fresh (wid : DWord) (launch guest wslot : Nat) (live : Mask) (code pb : Addr) (plinth fgran : Nat) : Group where
  wid := wid
  launch := launch
  guest := guest
  wslot := wslot
  start := live
  live := live
  splits := [some ⟨code, live, 0, 0, none, 0, 0, none, false, .nothing, 0, none, none, [], false, false⟩, none, none, none]
  pend := []
  ovf := []
  win := []
  pendEnt := []
  pendFrm := []
  frame := []
  fgran := fgran
  grans := []
  uni := []
  prd := []
  segw := 0
  ld := 0
  st := 0
  cp := 0
  tl := 0
  aflags := 0
  dkey := 0
  drctr := 0
  dcoin := 0
  xcause := 0
  xpc := 0
  xmask := 0
  xaddr := []
  sup := false
  step := false
  stepAsk := none
  stopAsk := false
  nofb := false
  runs := 0
  parked := none
  safe := ⟨none, [], 0, 0, 0, 0⟩
  maq := none
  pb := pb
  plinth := plinth
  tab := none
  tabAddr := none
  pmark := 0
  yieldAt := none
  sleepAt := none
  inE := none
  starved := false
  credit := false
  sq := []
  wgSeen := false
  bwait := []
  bwaitAt := 0
  dbg := .running
  sync := false
  skew := []
  preempt := false
  saved := none
  esc := none
  gangStop := none
  ended := false
  port := none
  run := none

/-- A run of a group at its first instruction (R77, R140). -/
def Run.fresh (g : Group) (split : Nat) (p : Part) (image : RunImage) (chosen : Nat) : Run where
  split := split
  image := image
  hpc := p.pc
  pc := p.pc + 6
  code := image.code
  ilen := 0
  mask := p.mask
  depth0 := p.depth
  stk := (List.range (nbits image.hdr.toNat 26 23)).map (fun k => ⟨mget g.win ((p.depth - 1 - k) % 8) [], none⟩)
  frm := []
  uni := []
  prd := []
  tmp := []
  segw := g.segw
  dkey := g.dkey
  drctr := g.drctr
  dcoin := g.dcoin
  aflags := g.aflags
  xpc := g.xpc
  tab := g.tab
  staged := []
  succ := []
  xfer := none
  link := 0
  nofb := false
  chosen := chosen
  start := chosen
  ready := chosen + 1
  co := false
  first := true
  lastOp := 0
  holding := false
  wrote := []
  wpoke := []

/-- The halfwords of a trailer that is not SAFE and has no pending entries (R125). -/
def plainTrailer : List Half := [0x03C1, 0, 0]

/-- The header payload of a run that reaches eight entries down and waits for nothing (R124). -/
def placedHeader : Word := 0x0407FFE0

/-- The group that runs a placed instruction: 32 live lanes, 32 granules, depth 8 with everything resident. -/
def placedGroup (code : List Half) (now : Nat) : Group :=
  let p : Part := ⟨0, 0xFFFFFFFF, 8, 8, none, 0, 0, none, false, .nothing, 0, none, none, [], false, false⟩
  let g := { Group.fresh 0 0 0 0 0xFFFFFFFF 0 0 64 32 with splits := [some p, none, none, none], grans := List.range 32 }
  { g with run := some (Run.fresh g 0 p ⟨placedHeader, code⟩ now) }

/-- A run instruction placed as the next the machine executes, followed by a trailer. -/
def State.placeRun (s : State) (hs : List Half) : State :=
  { s with agenda := [], focus := some (0, 0),
           groups := mset s.groups (gkey 0 0) (placedGroup (hs.take (opLength (opOf (hs.getD 0 0))) ++ plainTrailer) s.cc) }

end Sys2Proof.Machine
end

