-- ==== Sys2Proof/Machine/Issue.lean ====
section
/-! DEFINITION. Preparation, choice and issue of runs, deliveries at a run boundary, and the time limits of parts
(R60 to R71, R126, R166, R288, R360, R361, R364 to R366, R434). -/

namespace Sys2Proof.Machine

/-! ## Ranking (R61) -/

/-- The ready split that the group would choose (R61). -/
def Group.nextSplit (g : Group) : Option (Nat × Part) := pickBy splitBefore (g.slots.filter (fun x => x.2.readyAt.isSome))

/-! ## RUN_DECODE (R62, R126) -/

/-- Safe points of the group's kernel. -/
def State.nsafeOf (s : State) (g : Group) : Nat := match mfind s.launches g.launch with | some l => l.hdr.nsafe | none => 0

/-- A release between two runs, or while another split's run is in progress; at a run boundary the slots it frees are filled
(R60). -/
def State.releaseAt (s : State) (core slot : Nat) (pc : Addr) : State :=
  let s := s.releaseJoin core slot pc
  match s.group core slot with
  | some g => if g.run.isSome then s else s.fillAt core slot
  | none => s

/-- A decoded split: ready to be prepared, or held or released at a JOIN header (R62). -/
def State.decoded (s : State) (core slot split : Nat) (g : Group) (p : Part) (m : RunImage) : State :=
  let put (s : State) (h : Option Nat) : State :=
    s.modGroup core slot (fun g => g.modSplit split (fun p => { p with image := some m, held := h }))
  if !m.join then put s none
  else if g.lowestAt p.pc || p.clear || decide (p.queued + 1024 ≤ s.cc) then (put s none).releaseAt core slot p.pc
  else put s (some p.queued)

/-- A `tload` of a resumed group that holds no bank takes one again (R189, R382; log 78). -/
def State.retable (s : State) (core slot : Nat) : State :=
  match s.ops.find? (fun x => x.2.core == core && x.2.slot == slot && x.2.kind == .tload noBank && !x.2.saved), s.bankFree core slot with
  | some (id, o), some b =>
    let va := (o.lanes.map (fun x => x.req.va)).headD 0
    { s with banks := mset s.banks (core * 2 + b) ⟨.loading, va, o.guest, [], 0, id⟩ }.modOp id (fun o => { o with kind := .tload b })
  | _, _ => s

/-- The load of a table on a group's behalf (R190): it moves no counter, and stands for the group's lowest live lane (log 78). -/
def Group.behalfOp (g : Group) (core slot id bank : Nat) (a : Addr) (gen : BitVec 12) (now : Nat) : Op where
  id := id
  kind := .tload bank
  core := core
  slot := slot
  guest := g.guest
  pc := match g.parts with | p :: _ => p.pc | [] => g.xpc
  mask := 0
  lanes := [⟨⟨(lowLane g.live).getD 0, a, 0, 0, 0⟩, .todo⟩]
  dest := .none
  ctr := none
  size := 3088
  ext := .zero
  atom := .add
  sgn := false
  scope := .dev
  wit := false
  gen := gen
  at_ := now
  status := none
  dropped := false
  saved := false

/-- A resumed group is bound to its table again (R190): to the current bank where that holds the image, else to a bank
that the core loads on its behalf once one may be taken. -/
def State.rebind (s : State) (core slot : Nat) : State :=
  match s.group core slot with
  | none => s
  | some g => match g.tabAddr with
    | none => s
    | some a =>
      let holds (b : Nat) : Bool := mfind s.curBank core == some b && (match mfind s.banks (core * 2 + b) with
        | some k => k.addr == a && k.guest == g.guest && k.st == .ready
        | none => false)
      if s.ops.any (fun x => x.2.behalf core slot) then s else
      match (List.range 2).find? holds with
      | some b => { s.modGroup core slot (fun g => { g with tab := some b, tabAddr := none }) with
          banks := mmod s.banks (core * 2 + b) (fun k => { k with binds := k.binds + 1 }) }
      | none => match s.bankFree core slot with
        | none => s
        | some b =>
          let r := s.newId
          { r.1 with ops := mset r.1.ops r.2 (g.behalfOp core slot r.2 b a (s.ctx g.guest).asgen s.cc)
                     banks := mset r.1.banks (core * 2 + b) ⟨.loading, a, g.guest, [], 0, r.2⟩ }

/-- R126; a resumed group's table is bound first (R190). Code on another package is asked for, line by line (R420). -/
def execRunDecode (core slot split : Nat) (s : State) : Host.Outcome State Fault Refusal :=
  s.event (fun s =>
    let s := (s.rebind core slot).retable core slot
    match s.group core slot with
    | none => s
    | some g => match g.idleSplit split with
      | none => s
      | some p =>
        if p.image.isSome || p.fault.isSome then s else
        match s.decodeRun core g.guest (s.nsafeOf g) p.pc with
        | .error k => if k = cFarCode then s.askCode core g.guest p.pc.toNat 64 else s.modGroup core slot (fun g => g.modSplit split (fun p => { p with fault := some (k, p.mask, []) }))
        | .ok m => (s.cacheCode core g.guest p.pc.toNat (6 + 2 * m.code.length)).decoded core slot split g p m)

/-! ## Preparation (R68 to R71, R434) -/

/-- An entry in a range of depth indices of a part is pending (R70). -/
def Group.pendingIn (g : Group) (p : Part) (lo n : Nat) : Bool :=
  g.pendEnt.any (fun e => decide (lo ≤ e.idx) && decide (e.idx < lo + n) && e.mask &&& p.mask != 0)

/-- The next transfer of a split: fill or spill, entries and lowest depth index; none where it needs none or must wait.
The excess entries of a merged split are spilled first, one part's at a time (R62). -/
def Group.transferOf (g : Group) (p : Part) : Option (Bool × Nat × Nat) :=
  match p.image with
  | none => none
  | some m =>
    if p.held.isSome || p.fault.isSome || (g.prepFault p).isSome then none else
    let t := prepTarget p m
    match p.excess with
    | e :: _ =>
      let n := min 4 e.n
      if g.pendingIn { p with mask := e.mask &&& p.mask } e.lo n then none else some (false, n, e.lo)
    | [] =>
    let x : Option (Bool × Nat × Nat) :=
      if t < p.res then some (false, min 4 (p.res - t), p.depth - p.res)
      else if p.res < t then some (true, min 4 (t - p.res), p.depth - p.res - min 4 (t - p.res)) else none
    match x with
    | some (f, n, lo) => if g.pendingIn p lo n then none else some (f, n, lo)
    | none => none

/-- The split that preparation serves next (R434). -/
def Group.served (g : Group) : Option (Nat × Part) :=
  pickBy splitBefore (g.slots.filter (fun x => (g.idleSplit x.1).isSome && (g.transferOf x.2).isSome))

/-- Every line of a fill is in the core's L1 (R69). -/
def State.fillHits (s : State) (core : Nat) (g : Group) (lo n : Nat) : Bool :=
  (List.range n).all (fun k => s.privHere core g.guest (plinthLine g.pb (lo + k)))

/-- A transfer of the wanted direction begins. -/
def State.beginTransfer (s : State) (core slot : Nat) (fill : Bool) : State :=
  match s.group core slot with
  | none => s
  | some g =>
    if g.port.isSome || g.ended || g.saved.isSome || g.esc.isSome then s else
    match g.served with
    | none => s
    | some (n, p) => match g.transferOf p with
      | some (f, k, lo) =>
        let hit := !f || s.fillHits core g lo k
        if f = fill then s.modGroup core slot (fun g => { g with port := some ⟨f, n, k, s.cc, p.pc, p.mask, hit⟩ }) else s
      | none => s

/-- R68: a spill uses the port, so no run of the group may be in progress (R69). -/
def execSpillStart (core slot : Nat) (s : State) : Host.Outcome State Fault Refusal :=
  s.event (fun s => match s.group core slot with
    | some g => if g.run.isSome then s else s.beginTransfer core slot false
    | none => s)

/-- R68. -/
def execFillStart (core slot : Nat) (s : State) : Host.Outcome State Fault Refusal :=
  s.event (fun s => s.beginTransfer core slot true)

/-- The port is free again. -/
def Group.portFree (g : Group) : Group := { g with port := none }

/-- A fill's words read from the plinth into the window, the `n` entries just below it (R68). -/
def State.fillWords (s : State) (core slot : Nat) (g : Group) (p : Part) (n : Nat) : Except Cause State :=
  (List.range n).foldlM (fun (s : State) k => let idx := p.depth - p.res - n + k
    (s.plinthRead core g.guest g.pb idx).map (fun r => r.1.modGroup core slot (fun g =>
      { g with win := mset g.win (idx % 8) (mergeLanes p.mask r.2 (mget g.win (idx % 8) [])) }))) s

/-- The lines of a fill have all come, where some lie on another package (R420). -/
def State.fillHere (s : State) (core : Nat) (g : Group) (p : Part) (n : Nat) : Bool :=
  (List.range n).all (fun k => s.privHere core g.guest (plinthLine g.pb (p.depth - p.res - n + k)))

/-- The transfer in progress ends: its words have moved, or its fault stands at the header (R71); one whose part has
left the slot moves nothing, and one whose lines are on their way goes on. -/
def State.endTransfer (s : State) (core slot : Nat) (g : Group) (x : PortXfer) : State :=
  let free (s : State) : State := s.modGroup core slot Group.portFree
  match g.splits.getD x.split none with
  | none => free s
  | some p =>
    if p.pc ≠ x.pc ∨ p.mask ≠ x.mask then free s else
    match (if x.fill then s.fillWords core slot g p x.n else s.spillWords core g p x.n) with
    | .error k => (free s).modGroup core slot (fun g => g.modSplit x.split (fun p => { p with fault := some (k, p.mask, []) }))
    | .ok s' =>
      if x.fill && !s'.fillHere core g p x.n then { s' with groups := s.groups }
      else (free s').modGroup core slot (fun g => g.modSplit x.split (fun p => p.moved x.fill x.n))

/-- R69: 4 cc. -/
def execSpillComplete (core slot : Nat) (s : State) : Host.Outcome State Fault Refusal :=
  s.event (fun s => match s.group core slot with
    | some g => match g.port with
      | some x => if x.fill || decide (s.cc < x.at_ + 4) then s else s.endTransfer core slot g x
      | none => s
    | none => s)

/-- The last 4 cc of a fill may have passed: 28 cc after it started at the earliest, and with no run of the group in progress.
On a hit they begin 24 cc after the start, or after the trailer of a run then in progress; on a miss the time is open (R69). -/
def PortXfer.fillOver (x : PortXfer) (now trail : Nat) : Bool :=
  decide (x.at_ + 28 ≤ now) && (decide (trail + 5 ≤ now) || (x.hit && decide (trail < x.at_ + 24)))

/-- R69: 28 cc on an L1 hit; the last 4 while no run of the group is in progress. -/
def execFillComplete (core slot : Nat) (s : State) : Host.Outcome State Fault Refusal :=
  s.event (fun s => match s.group core slot with
    | some g => match g.port with
      | some x =>
        if x.fill && g.run.isNone && x.fillOver s.cc (mget s.trailAt (gkey core slot) 0) then s.endTransfer core slot g x else s
      | none => s
    | none => s)

/-- The port is in use, so that no run of the group may begin: by a spill, or by a fill in its last 4 cc, which on a miss
are not known before they have passed (R69). -/
def Group.portBusy (g : Group) (now : Nat) : Bool :=
  match g.port with
  | some x => !x.fill || (x.hit && decide (x.at_ + 24 ≤ now))
  | none => false

/-! ## Deliveries at a run boundary (R364 to R366, R369, R370) -/

/-- The record stands in a hardware entry: where it lay, or by swapping with the youngest unpinned one of its queue;
`none` when every entry is pinned (R366). -/
def State.toHardware (s : State) (i : Nat) (r : Rec) : Option (State × Nat) :=
  match r.hw with
  | some k => some (s, k)
  | none =>
    let other (x : Rec) : Bool := x.core == r.core && x.guest == r.guest && x.store == r.store && x.hw.isSome && !x.pinned
    match (List.range s.recs.length).filter (fun j => match s.recs[j]? with | some x => other x | none => false) with
    | [] => none
    | js => match js.getLast? with
      | none => none
      | some j => match s.recs[j]? with
        | none => none
        | some x => match x.hw with
          | none => none
          | some k => some ({ s with recs := s.recs.modify i (fun r => { r with hw := some k, area := none }) }.spillRec j noHw, k)

/-- The lanes and addresses of a record's delivery (R365). -/
def Rec.lanes (r : Rec) (p : Part) : Mask × AMap DWord :=
  if r.kind = 4 then (p.mask, match lowLane p.mask with | some l => [(l, mget r.addr 0 0)] | none => [])
  else (r.unf, r.addr)

/-- A record is delivered at the header of a part. In supervisor mode, or in a context without a handler, its cause escalates and
the record stays as it is (R282, R372). -/
def State.deliverRec (s : State) (core slot n : Nat) (p : Part) (i : Nat) : Option State :=
  match s.recs[i]? with
  | none => none
  | some r =>
    if (match s.group core slot with | some g => g.sup || (s.ctx g.guest).xvec == 0 | none => true) then
      some (s.escalate core slot r.cause 0 none) else
    match s.toHardware i r with
    | none => none
    | some (s, k) =>
      let s := { s with recs := s.recs.modify i (fun r => { r with pinned := true, delivered := true }) }
      let x := r.lanes p
      some (s.deliver core slot (.slot n) ⟨if r.store then 2 else 1, k, 0, r.cause, p.pc, x.1, x.2⟩)

/-- A precise fault at a part's header is delivered. -/
def State.deliverHeader (s : State) (core slot n : Nat) (p : Part) (f : Cause × Mask × AMap DWord) : State :=
  (s.modGroup core slot (fun g => g.modSplit n (fun p => { p with fault := none }))).deliver core slot (.slot n)
    ⟨0, 0, 0, f.1, p.pc, f.2.1, f.2.2⟩

/-- Item 6 of R364 for the next part. -/
def State.deliverAt (s : State) (core slot : Nat) (g : Group) (n : Nat) (p : Part) : Option State :=
  match p.fault with
  | some f => some (s.deliverHeader core slot n p f)
  | none =>
    if p.held.isSome then none else
    match g.prepFault p with
    | some k => some (s.deliverHeader core slot n p (k, p.mask, []))
    | none => match s.oldestRec core slot (fun r => isFrq r && s.awaits core slot g p r) with
      | some i => s.deliverRec core slot n p i
      | none => none

/-- STACK_SKEW at a header (R63): of the parts that stand there the one in the lowest split slot delivers, else the oldest
pending entry; each of them meets the header afresh. Where their depths have become equal they merge (log 76). -/
def State.deliverSkew (s : State) (core slot : Nat) (g : Group) (pc : Addr) : State :=
  let ps := g.partsAt pc
  let m := ps.foldl (fun m p => m ||| p.mask) 0
  let d : PartRef := match (List.range 4).find? (fun n => match g.splits.getD n none with | some p => p.pc == pc | none => false) with
    | some n => .slot n
    | none => .pend (((g.pend ++ g.ovf).findIdx? (fun p => p.pc == pc)).getD 0)
  let again (p : Part) : Part := if p.pc = pc then { p with image := none, held := none } else p
  let s := s.modGroup core slot (fun g => { g with skew := g.skew.filter (· != pc) })
  if ps.all (fun p => ps.all (fun q => p.depth == q.depth)) then s.releaseAt core slot pc
  else (s.modGroup core slot (fun g => { g with splits := g.splits.map (Option.map again), pend := g.pend.map again
                                                ovf := g.ovf.map again })).deliver core slot d ⟨0, 0, 0, cStackSkew, pc, m, []⟩

/-- What R364 delivers at the group's run boundary, if anything. STACK_SKEW, to which R364 gives no place, comes after the
records of items 4 and 5 and before item 6, whichever part would run next (log 76). -/
def State.boundary (s : State) (core slot : Nat) : Option State :=
  match s.group core slot with
  | none => none
  | some g =>
    if g.ended || g.run.isSome || g.saved.isSome || g.esc.isSome then none
    else if g.dbg = .requested then some (s.modGroup core slot (fun g => { g with dbg := .stopped cDebugStop }))
    else if g.dbg != .running || g.preempt then none else
    match s.nextPart core slot g with
    | none => none
    | some (n, p) =>
      if g.sup then s.deliverAt core slot g n p
      else match s.oldestRec core slot (fun r => r.store) with
        | some i => s.deliverRec core slot n p i
        | none => match s.oldestRec core slot (fun r => r.kind == 3 || r.kind == 4) with
          | some i => s.deliverRec core slot n p i
          | none => match g.skew with
            | pc :: _ => some (s.deliverSkew core slot g pc)
            | [] => s.deliverAt core slot g n p

/-- R364; with nothing to deliver, pending entries take free slots (R60). -/
def execRunBoundaryDelivery (core slot : Nat) (s : State) : Host.Outcome State Fault Refusal :=
  s.event (fun s => (s.boundary core slot).getD (match s.group core slot with
    | some g => if g.run.isSome || g.ended then s else s.fillAt core slot
    | none => s))

/-! ## ISSUE_SELECT (R61, R360) -/

/-- Priority of a group: that of its launch. -/
def State.prioOf (s : State) (g : Group) : Nat := match mfind s.launches g.launch with | some l => l.prio | none => 0

/-- A group in E: its slot, promotion, priority and waiting time (R360). -/
structure Cand where
  slot : Nat
  starved : Bool
  prio : Nat
  waited : Nat
  deriving DecidableEq, Repr

/-- The groups of a scheduler that stand in E. -/
def State.candidates (s : State) (core sched : Nat) : List Cand :=
  (List.range 12).filterMap (fun k =>
    let slot := 12 * sched + k
    match s.group core slot with
    | none => none
    | some g => match g.inE with
      | none => none
      | some t =>
        if g.run.isSome || g.portBusy s.cc || (match g.dbg with | .stopped _ => true | _ => false) then none
        else some ⟨slot, g.starved || decide (256 ≤ s.cc - t), s.prioOf g, s.cc - t⟩)

/-- The order of ChooseGroup (R360). -/
def candBefore (x y : Cand) : Bool :=
  if x.starved && y.starved then decide (y.waited < x.waited) || (x.waited == y.waited && decide (x.slot < y.slot))
  else if x.starved != y.starved then x.starved
  else decide (y.prio < x.prio) || (x.prio == y.prio &&
    (decide (y.waited < x.waited) || (x.waited == y.waited && decide (x.slot < y.slot))))

/-- No run of the scheduler is in progress, none ended in this cc, and no issue slot is withheld (R20, R360). -/
def State.schedIdle (s : State) (core sched : Nat) : Bool :=
  !(mget s.dev.withheld (core * 4 + sched) false) &&
    (List.range 12).all (fun k =>
      let slot := 12 * sched + k
      decide (mget s.trailAt (gkey core slot) 0 < s.cc || s.cc = 0) &&
        (match s.group core slot with | some g => g.run.isNone | none => true))

/-- Another group of the scheduler has been chosen: `yield` no longer holds the others (R166). -/
def State.endYields (s : State) (core sched slot : Nat) : State :=
  { s with groups := s.groups.map (fun x =>
      if x.1 / 64 = core ∧ (x.1 % 64) / 12 = sched ∧ x.1 % 64 ≠ slot then (x.1, { x.2 with yieldAt := none }) else x) }

/-- A split's run begins (R61, R77). -/
def State.startRun (s : State) (core slot : Nat) (g : Group) (n : Nat) (p : Part) (m : RunImage) : State :=
  let run := Run.fresh g n p m s.cc
  let s := s.setGroup core slot { g.modSplit n (fun p => { p with readyAt := none, passed := 0, due := false, wait := .nothing })
                                  with run := some run, inE := none, starved := false }
  { s.endYields core (slot / 12) slot with focus := some (core, slot), seqFocus := none }

/-- The chosen group issues its split's run, unless R364 delivers something first. -/
def State.issue (s : State) (core slot : Nat) : State :=
  match s.boundary core slot with
  | some s => s
  | none =>
    match s.group core slot with
    | none => s
    | some g => match g.nextSplit with
      | none => s
      | some (n, p) => match p.image with
        | some m => s.startRun core slot g n p m
        | none => s

/-- R360. -/
def execIssueSelect (core sched : Nat) (s : State) : Host.Outcome State Fault Refusal :=
  s.event (fun s =>
    if !s.schedIdle core sched then s else
    match pickBy candBefore (s.candidates core sched) with
    | none => s
    | some c => s.issue core c.slot)

/-! ## Time limits -/

/-- R61: a ready split passed over for 1,024 cc. -/
def execSplitPassedOverExpiry (core slot split : Nat) (s : State) : Host.Outcome State Fault Refusal :=
  s.event (fun s => match s.group core slot with
    | some g => match g.idleSplit split, g.run with
      | some p, some r => match p.readyAt with
        | some t => if 1024 ≤ p.passed + (s.cc + 1 - max t r.chosen)
          then s.modGroup core slot (fun g => g.modSplit split (fun p => { p with due := true })) else s
        | none => s
      | _, _ => s
    | none => s)

/-- R360: 256 cc in E. -/
def execStarvationPromotion (core slot : Nat) (s : State) : Host.Outcome State Fault Refusal :=
  s.event (fun s => s.modGroup core slot (fun g => match g.inE with
    | some t => if 256 ≤ s.cc - t then { g with starved := true } else g
    | none => g))

/-- R62: 1,024 cc at a JOIN. -/
def execJoinReleaseTimeout (core slot split : Nat) (s : State) : Host.Outcome State Fault Refusal :=
  s.event (fun s => match s.group core slot with
    | some g => match g.idleSplit split with
      | some p => match p.held with
        | some t => if t + 1024 ≤ s.cc then s.releaseAt core slot p.pc else s
        | none => s
      | none => s
    | none => s)

/-- R64: 1,024 cc in the hardware list; the displacement comes at the next trailer. -/
def execPendingEntryTimeout (core slot idx : Nat) (s : State) : Host.Outcome State Fault Refusal :=
  s.event (fun s => s.modGroup core slot (fun g =>
    { g with pend := g.pend.modify idx (fun p => if p.queued + 1024 ≤ s.cc then { p with due := true } else p) }))

/-- R166: 16 cc. -/
def execYieldExpiry (core slot : Nat) (s : State) : Host.Outcome State Fault Refusal :=
  s.event (fun s => s.modGroup core slot (fun g => match g.yieldAt with
    | some t => if t ≤ s.cc then { g with yieldAt := none } else g
    | none => g))

/-- R288. -/
def execSleepExpiry (core slot : Nat) (s : State) : Host.Outcome State Fault Refusal :=
  s.event (fun s => s.modGroup core slot (fun g => match g.sleepAt with
    | some t => if t ≤ s.cc then { g with sleepAt := none } else g
    | none => g))

end Sys2Proof.Machine
end

