-- ==== Sys2Proof/Machine/Debug.lean ====
section
/-! DEFINITION. Samples, trace ticks, the debugger's commands and its window (R141, R386 to R403). -/

namespace Sys2Proof.Machine

/-! ## Samples (R388 to R391) -/

/-- An interval exponent that is in force (R386). -/
def activeExp (ctl : Word) : Option Nat :=
  let k := nbits ctl.toNat 4 0
  if ctl.getLsbD 31 && decide (6 ≤ k) && decide (k ≤ 20) then some k else none

/-- The interval 2^k cc ends in this cc. -/
def State.tick (s : State) (k : Nat) : Bool := decide (s.dtime.toNat % 2 ^ k = 0)

/-- The code of the instruction that a run holds at, by the opcode of its first halfword (R390): `wait`, `sdrain`, `wwait`, an
access that awaits its translation, and any other, among them a trailer that holds for `pgmap` or `mts ASGEN`. -/
def holdReason (op : Nat) : Nat :=
  if op = 0x193 then 1
  else if op = 0x13E then 2
  else if op = 0x154 then 3
  else if (decide (0x148 ≤ op) && decide (op < 0x154)) || (decide (0x210 ≤ op) && decide (op ≤ 0x224)) || op == 0x163 || op == 0x164
      || op == 0x167 then 4
  else 5

/-- An instruction that holds for the cc of its latency (R190, R236, R284, R316). -/
def holdsTimed (op : Nat) : Bool := op == 0x193 || op == 0x13E || op == 0x154 || op == 0x168 || op == 0x172

/-- The code of the instruction at which the run of a group is held, where it is (R390). -/
def State.heldAt (s : State) (g : Group) : Option Nat :=
  match g.run with
  | none => none
  | some r =>
    let op := opOf r.lastOp
    if r.holding || (holdsTimed op && decide (s.cc + 1 < r.ready)) then some (holdReason op) else none

/-- The group's own conditions, with their codes (R390); the part observed is eligible itself where its group is in E for it (R76). -/
def State.groupReasons (s : State) (core slot : Nat) (g : Group) (p : Part) : List (Nat × Bool) :=
  let held := s.heldAt g
  let sched := slot / 12
  let other := (List.range 12).any (fun k => 12 * sched + k != slot && (match s.group core (12 * sched + k) with
    | some x => x.run.isSome
    | none => false))
  [(0, g.run.isSome && held.isNone && (match g.dbg with | .stopped _ => false | _ => true)),
   (1, held == some 1), (2, held == some 2), (3, held == some 3), (4, held == some 4), (5, held == some 5),
   (6, (match g.dbg with | .stopped _ => true | _ => false)),
   (7, g.inE.isSome && p.readyAt.isSome && other),
   (8, g.inE.isSome && p.readyAt.isSome && mget s.dev.withheld (core * 4 + sched) false),
   (9, g.yieldAt.isSome), (10, g.sleepAt.isSome), (11, s.barHeld core g)]

/-- The conditions of the observed part, with their codes (R390). -/
def State.partReasons (s : State) (core slot : Nat) (g : Group) (n : Option Nat) (p : Part) : List (Nat × Bool) :=
  let lim (f : RunImage → Bool) : Bool := match p.image with | some m => !f m | none => false
  let mine : Bool := match g.port with | some x => some x.split == n | none => false
  let fill : Bool := match g.port with | some x => x.fill | none => false
  let waits (f : WaitOn → Bool) : Bool := f p.wait && !s.waitOver core slot g p
  let awaited (r : Rec) : Bool := r.store || r.kind == 3 || r.kind == 4
  [(12, p.held.isSome),
   (13, (match p.image with | some m => g.pendingTop p m.dmin | none => false)),
   (14, lim (fun m => limitOk g.ld m.limLd 15)), (15, lim (fun m => limitOk g.st m.limSt 15)),
   (16, lim (fun m => limitOk g.cp m.limCp 7)), (17, lim (fun m => limitOk g.tl m.limTl 7)),
   (18, decide (231 < g.ld.toNat) || decide (231 < g.st.toNat) || decide (231 < g.cp.toNat) || decide (231 < g.tl.toNat)),
   (19, p.image.isNone && p.fault.isNone), (20, mine && !fill), (21, mine && fill), (22, g.port.isSome && !mine),
   (23, waits (fun w => match w with | .frame _ _ => true | _ => false)),
   (24, waits (fun w => match w with | .copy _ _ => true | _ => false)),
   (25, waits (fun w => w == .grow)), (26, waits (fun w => w == .bank)), (27, waits (fun w => w == .score)),
   (28, waits (fun w => w == .port)),
   (29, s.headerDue core slot g p || (!g.sup && (s.oldestRec core slot awaited).isSome) || s.deliveryWaits core slot g), (30, g.frozen), (31, true)]

/-- REASON: the lowest code whose condition holds (R390). -/
def State.reason (s : State) (core slot : Nat) (g : Group) (n : Option Nat) (p : Part) : Nat :=
  match (s.groupReasons core slot g p ++ s.partReasons core slot g n p).find? (fun x => x.2) with
  | some x => x.1
  | none => 31

/-- The 16 bytes of a sample (R389). -/
def State.sampleBytes (s : State) (core slot : Nat) (g : Group) (n : Option Nat) (p : Part) : List Byte :=
  let crit : Bool := match s.wgroup core g.wslot with | some w => w.token == s.w1Of g | none => false
  leBytes 8 (p.pc.toNat % 2 ^ 57 + slot * 2 ^ 57 + (if g.run.isSome then 2 ^ 63 else 0))
    ++ leBytes 2 (core % 1024 + s.reason core slot g n p * 2 ^ 10 + (if crit then 2 ^ 15 else 0))
    ++ leBytes 2 g.pmark.toNat ++ leBytes 4 (s.dtime.toNat % 2 ^ 32)

/-- A sample is written to the core's sample ring, or dropped (R387). -/
def State.sampleOut (s : State) (guest core : Nat) (bs : List Byte) : State :=
  match s.ringAt guest ((s.ctx guest).dbgbase.toNat + 32 * core) with
  | none => s
  | some r => match (if 16 ≤ r.free then s.ringRoom guest r 16 else none) with
    | some as => (s.putAt guest as bs).ringField r 12 ((r.wr + 16) % 2 ^ 32)
    | none => s.ringField r 20 (r.lost + 1)

/-- Key of the slot that a scheduler sampled last for a context (R388). -/
def sampleKey (guest core sched : Nat) : Nat := (guest * 1024 + core) * 4 + sched

/-- The next occupied slot of a context on a scheduler, in the order of R388. -/
def State.nextSampled (s : State) (guest core sched : Nat) : Option Nat :=
  let first := match mfind s.lastSlot (sampleKey guest core sched) with | some n => n % 12 + 1 | none => 0
  ((List.range 12).map (fun k => 12 * sched + (first + k) % 12)).find? (fun n => match s.group core n with
    | some g => g.guest == guest && !g.ended && g.esc.isNone
    | none => false)

/-- A scheduler samples one group of a context (R388). -/
def State.sample (s : State) (guest core sched : Nat) : State :=
  match s.nextSampled guest core sched with
  | none => s
  | some slot =>
    let s := { s with lastSlot := mset s.lastSlot (sampleKey guest core sched) slot }
    match s.group core slot with
    | none => s
    | some g => match g.observed with
      | none => s
      | some (n, p) => s.sampleOut guest core (s.sampleBytes core slot g n p)

/-- R388: the schedulers of a core, for every context whose interval ends. -/
def execSampleTick (core : Nat) (s : State) : Host.Outcome State Fault Refusal :=
  s.event (fun s => s.ctxs.foldl (fun (s : State) x => match activeExp x.2.smpctl with
    | some k => if s.tick k then (List.range 4).foldl (fun (s : State) n => s.sample x.1 core n) s else s
    | none => s) s)

/-! ## Trace (R396) -/

/-- R396: the SYNC flag of every group of the context. -/
def execTraceSyncTick (guest : Nat) (s : State) : Host.Outcome State Fault Refusal :=
  s.event (fun s => match activeExp (s.ctx guest).trctl with
    | some k => if s.tick k then s.setSync guest (fun _ => true) else s
    | none => s)

/-- The bits of SMPCTL and TRCTL that hold a value (R386). -/
def ctlBits (v : Word) : Word := v &&& 0x8000001F

/-- R393, R396: enabling the trace sets the SYNC flags and leaves the rings without a previous packet. -/
def execTrctlWrite (guest : Nat) (v : Word) (s : State) : Host.Outcome State Fault Refusal :=
  s.event (fun s =>
    let on := !(s.ctx guest).trctl.getLsbD 31 && v.getLsbD 31
    let s := s.modCtx guest (fun x => { x with trctl := ctlBits v })
    if on then { s with lastTrace := s.lastTrace.filter (fun x => x.1 / 1024 != guest) }.setSync guest (fun _ => true) else s)

/-! ## Commands (R386, R401, R402) -/

/-- The group that DBGSEL names, where it is the context's: core and slot. -/
def State.selected (s : State) (guest : Nat) : Option (Nat × Nat × Group) :=
  let t := (s.ctx guest).dbgsel.toNat
  match s.group (nbits t 15 6) (nbits t 5 0) with
  | some g => if g.guest = guest ∧ g.ended = false then some (nbits t 15 6, nbits t 5 0, g) else none
  | none => none

/-- A change made to the selected group. -/
def State.onSelected (s : State) (guest : Nat) (f : Group → Group) : State :=
  match s.selected guest with
  | some (core, slot, _) => s.modGroup core slot f
  | none => s

/-- A group asked to stop: at once marked so, or, where it stands stopped inside a run, once it goes on (R402). -/
def Group.askStop (g : Group) : Group :=
  match g.dbg with
  | .running => { g with dbg := .requested }
  | .requested => g
  | .stopped _ => if g.run.isSome then { g with stopAsk := true } else g
/-- A group let go on. -/
def Group.letGo (g : Group) : Group := { g with dbg := if g.stopAsk then .requested else .running, stopAsk := false }

/-- Step mode from the next run boundary on (R401). -/
def Group.askStep (g : Group) (on : Bool) : Group :=
  if g.run.isNone then { g with step := on, stepAsk := none } else { g with stepAsk := some on }

/-- A change made to every group of a context, resident or saved. -/
def State.onAll (s : State) (guest : Nat) (f : Group → Group) : State :=
  let one (g : Group) : Group := if g.guest = guest then f g else g
  { s with groups := s.groups.map (fun (x : Nat × Group) => (x.1, one x.2))
           units := s.units.map (fun (u : Nat × Unit_) => (u.1, { u.2 with saved := u.2.saved.map (fun w =>
             { w with groups := w.groups.map (fun x => { x with g := one x.g }) }) })) }

/-- R402: command 1. -/
def execDbgcmdStop (guest : Nat) (s : State) : Host.Outcome State Fault Refusal := s.event (fun s => s.onSelected guest Group.askStop)
/-- R401: command 2. -/
def execDbgcmdResume (guest : Nat) (s : State) : Host.Outcome State Fault Refusal := s.event (fun s => s.onSelected guest Group.letGo)
/-- R401: command 3. -/
def execDbgcmdStepOn (guest : Nat) (s : State) : Host.Outcome State Fault Refusal :=
  s.event (fun s => s.onSelected guest (fun g => g.askStep true))
/-- R401: command 4. -/
def execDbgcmdStepOff (guest : Nat) (s : State) : Host.Outcome State Fault Refusal :=
  s.event (fun s => s.onSelected guest (fun g => g.askStep false))
/-- R402: command 5. -/
def execDbgcmdStopAll (guest : Nat) (s : State) : Host.Outcome State Fault Refusal := s.event (fun s => s.onAll guest Group.askStop)
/-- R402: command 6. -/
def execDbgcmdResumeAll (guest : Nat) (s : State) : Host.Outcome State Fault Refusal := s.event (fun s => s.onAll guest Group.letGo)

/-! ## The debug window (R141, R403) -/

/-- One lane of a value replaced. -/
def putLane (l : Nat) (v : Word) (old : Lanes) : Lanes := mergeLanes (BitVec.ofNat 32 (2 ^ l)) (mkLanes (fun _ => v)) old

/-- Depth of a run's working stack. -/
def Run.workDepth (r : Run) : Nat := r.depth0 - r.image.dmin + r.stk.length

/-- The place in a run's working stack, from the top, of the entry that window word `n` shows (R248). -/
def Run.winPlace (r : Run) (n : Nat) : Option Nat :=
  (List.range r.stk.length).find? (fun k => (r.workDepth - 1 - k) % 8 == n)

/-- A lane of a frame register as the run's own write (R77). -/
def Run.pokeFrame (r : Run) (g : Group) (n l : Nat) (v : Word) : Run :=
  let old := match mfind r.frm n with | some x => x | none => (0, mget g.frame n [])
  { r with frm := mset r.frm n (old.1 ||| BitVec.ofNat 32 (2 ^ l), putLane l v old.2) }

/-- A lane of a window word written beside the run's own stack. -/
def Run.pokeWin (r : Run) (n l : Nat) (v : Word) : AMap (Mask × Lanes) :=
  let old := (mfind r.wpoke n).getD (0, [])
  mset r.wpoke n (old.1 ||| BitVec.ofNat 32 (2 ^ l), putLane l v old.2)

/-- A debugger's write while the group stands inside a run: a working value changes (R403). -/
def Group.pokeRun (g : Group) (r : Run) (off : Nat) (v : Word) : Group :=
  let l := off % 128 / 4
  if 0x400 ≤ off ∧ off < 0x600 then
    let n := (off - 0x400) / 128
    { g with run := some { r with tmp := mset r.tmp n (putLane l v (mget r.tmp n [])) } }
  else if 0x800 ≤ off ∧ off < 0xC00 then
    let n := (off - 0x800) / 128
    match (if laneOn r.mask l then r.winPlace n else none) with
    | some k => { g with run := some { r with stk := r.stk.modify k (fun e => { e with v := putLane l v e.v }) } }
    | none => { g with run := some { r with wpoke := r.pokeWin n l v } }
  else if 0x1000 ≤ off ∧ off < 0x1100 then { g with run := some { r with uni := mset r.uni ((off - 0x1000) / 4) v } }
  else if 0x1100 ≤ off ∧ off < 0x1140 then { g with run := some { r with prd := mset r.prd ((off - 0x1100) / 4) (0xFFFFFFFF, v) } }
  else if 0x2000 ≤ off ∧ (off - 0x2000) / 128 < 8 * g.fgran then { g with run := some (r.pokeFrame g ((off - 0x2000) / 128) l v) }
  else g

/-- A debugger's write between two runs (R141). -/
def Group.poke (g : Group) (off : Nat) (v : Word) : Group :=
  let l := off % 128 / 4
  if 0x800 ≤ off ∧ off < 0xC00 then
    let n := (off - 0x800) / 128
    { g with win := mset g.win n (putLane l v (mget g.win n [])) }
  else if 0x1000 ≤ off ∧ off < 0x1100 then { g with uni := mset g.uni ((off - 0x1000) / 4) v }
  else if 0x1100 ≤ off ∧ off < 0x1140 then { g with prd := mset g.prd ((off - 0x1100) / 4) v }
  else if 0x2000 ≤ off ∧ (off - 0x2000) / 128 < 8 * g.fgran then
    let n := (off - 0x2000) / 128
    { g with frame := mset g.frame n (putLane l v (mget g.frame n [])) }
  else g

/-- Instructions of the run executed so far (R403). -/
def executed : Nat → Nat → List Half → Nat
  | 0, _, _ => 0
  | fuel + 1, left, hs => if hs.length ≤ left then 0 else 1 + executed fuel left (hs.drop (opLength (opOf (hs.getD 0 0))))

/-- A lane of a frame register, an entry of the window, a uniform register and a predicate, as the next instruction
would see them (R77, R403). -/
def Group.seeFrame (g : Group) (n l : Nat) : Word :=
  match g.run.bind (fun r => mfind r.frm n) with
  | some (m, v) => if laneOn m l then laneAt v l else laneAt (mget g.frame n []) l
  | none => laneAt (mget g.frame n []) l
def Group.seeWin (g : Group) (n l : Nat) : Word :=
  let under : Word := match g.run.bind (fun r => mfind r.wpoke n) with
    | some (m, v) => if laneOn m l then laneAt v l else laneAt (mget g.win n []) l
    | none => laneAt (mget g.win n []) l
  match g.run.bind (fun r => if laneOn r.mask l then (r.winPlace n).bind (fun k => r.stk[k]?) else none) with
  | some e => laneAt e.v l
  | none => under
def Group.seeUni (g : Group) (n : Nat) : Word := ((g.run.bind (fun r => mfind r.uni n)).getD (mget g.uni n 0))
def Group.seePrd (g : Group) (n : Nat) : Mask :=
  match g.run.bind (fun r => mfind r.prd n) with
  | some (m, v) => (v &&& m) ||| (mget g.prd n 0 &&& ~~~m)
  | none => mget g.prd n 0

/-- The first words of the window (R403): state, header, depths, mask. -/
def Group.windowHead (g : Group) (cause : Cause) (off : Nat) : Word :=
  match g.observed with
  | none => 0
  | some (_, p) =>
    let mid := g.run.isSome
    let n := match g.run with | some r => executed 25 r.code.length r.image.code | none => 0
    let d := match g.run with | some r => r.workDepth | none => p.depth
    if off = 0 then BitVec.ofNat 32 (1 + (if mid then 2 else 0) + n * 4 + cause.toNat * 256)
    else if off = 8 then p.pc.setWidth 32
    else if off = 12 then (p.pc >>> 32).setWidth 32
    else if off = 16 then BitVec.ofNat 32 (d % 65536 + p.depth % 65536 * 65536)
    else if off = 24 then p.mask else 0

/-- A word of the debug window as the debugger reads it (R403). -/
def State.windowRead (s : State) (guest off : Nat) : Word :=
  match s.selected guest with
  | none => 0
  | some (_, _, g) => match g.dbg with
    | .stopped cause =>
      let l := off % 128 / 4
      if off < 0x400 then g.windowHead cause off
      else if off < 0x600 then (match g.run with | some r => laneAt (mget r.tmp ((off - 0x400) / 128) []) l | none => 0)
      else if 0x800 ≤ off ∧ off < 0xC00 then g.seeWin ((off - 0x800) / 128) l
      else if 0x1000 ≤ off ∧ off < 0x1100 then g.seeUni ((off - 0x1000) / 4)
      else if 0x1100 ≤ off ∧ off < 0x1140 then g.seePrd ((off - 0x1100) / 4)
      else if 0x2000 ≤ off ∧ (off - 0x2000) / 128 < 8 * g.fgran then g.seeFrame ((off - 0x2000) / 128) l else 0
    | _ => 0

/-- R403: a word at an offset of the window; while the selected group is not stopped it is ignored. -/
def execDebugWindowWrite (guest : Nat) (off : Nat) (v : Word) (s : State) : Host.Outcome State Fault Refusal :=
  s.event (fun s => if off % 4 ≠ 0 then s else s.onSelected guest (fun g => match g.dbg, g.run with
    | .stopped _, some r => g.pokeRun r off v
    | .stopped _, none => g.poke off v
    | _, _ => g))

end Sys2Proof.Machine
end

