-- ==== Sys2Proof/Machine/Sfu.lean ====
section
/-! DEFINITION. The special functions (R184 to R186): the exact value enclosed in ever narrower intervals, until both
ends round alike. 16-bit results are correctly rounded; a 32-bit result is one of the two neighbours (log 5). -/

namespace Sys2Proof.Machine

/-! ## Fixed-point series; a number at scale `w` is an integer over 2^w, off by less than 2^16 units -/

/-- atan(1/n) (alternating) or atanh(1/n), `k` terms. -/
def invSeries (alt : Bool) (n2 : Nat) : Nat → Nat → Int → Int → Int
  | 0, _, _, acc => acc
  | k + 1, j, pow, acc =>
    let t := pow / (2 * j + 1 : Nat)
    invSeries alt n2 k (j + 1) (pow / n2) (if alt && j % 2 == 1 then acc - t else acc + t)

/-- π at scale `w` (Machin's formula). -/
def piFix (w : Nat) : Int :=
  16 * invSeries true 25 (w / 4 + 4) 0 (2 ^ w / 5) 0 - 4 * invSeries true 57121 (w / 14 + 4) 0 (2 ^ w / 239) 0

/-- ln 2 at scale `w`, as 2 atanh(1/3). -/
def ln2Fix (w : Nat) : Int := 2 * invSeries false 9 (w / 3 + 4) 0 (2 ^ w / 3) 0

/-- The sum of x^k / k! from term `j` on. -/
def expSeries (w : Nat) (x : Int) : Nat → Nat → Int → Int → Int
  | 0, _, _, acc => acc
  | k + 1, j, t, acc => expSeries w x k (j + 1) (t * x / 2 ^ w / (j + 1 : Nat)) (acc + t)

/-- 2^f for f in [0, 1) at scale `w`. -/
def exp2Frac (w : Nat) (f : Int) : Int := expSeries w (f * ln2Fix w / 2 ^ w) (w / 4 + 24) 0 (2 ^ w) 0

/-- 2^u for u at scale `w`, as an integer at scale `w` (0 where it is below the scale). -/
def exp2Fix (w : Nat) (u : Int) : Int :=
  let n := u / 2 ^ w
  let y := exp2Frac w (u - n * 2 ^ w)
  if 0 ≤ n then y * 2 ^ n.toNat else y / 2 ^ (-n).toNat

/-- atanh z = z + z^3/3 + ... for z at scale `w`. -/
def atanhSeries (w : Nat) (z2 : Int) : Nat → Nat → Int → Int → Int
  | 0, _, _, acc => acc
  | k + 1, j, t, acc => atanhSeries w z2 k (j + 1) (t * z2 / 2 ^ w) (acc + t / (2 * j + 1 : Nat))

/-- log2 y for y in [1, 2] at scale `w`. -/
def log2Fix (w : Nat) (y : Int) : Int :=
  let z := (y - 2 ^ w) * 2 ^ w / (y + 2 ^ w)
  2 * atanhSeries w (z * z / 2 ^ w) (w / 3 + 4) 0 z 0 * 2 ^ w / ln2Fix w

/-- The alternating sine (first term x) or cosine (first term 1) series. -/
def trigSeries (w : Nat) (x2 : Int) : Nat → Nat → Int → Int → Int
  | 0, _, _, acc => acc
  | k + 1, j, t, acc => trigSeries w x2 k (j + 2) (-(t * x2 / 2 ^ w / (((j + 1) * (j + 2) : Nat) : Int))) (acc + t)

/-- The series of erf without its factor: x - x^3/3 + x^5/(2! 5) - ... -/
def erfSeries (w : Nat) (x2 : Int) : Nat → Nat → Int → Int → Int
  | 0, _, _, acc => acc
  | k + 1, j, t, acc => erfSeries w x2 k (j + 1) (-(t * x2 / 2 ^ w / ((j + 1 : Nat) : Int))) (acc + t / (2 * j + 1 : Nat))

/-- erf x for 0 ≤ x < 16 at scale `w`: 2/√π times the series, taken 400 bits finer. -/
def erfFix (w : Nat) (x : Int) : Int :=
  let v := w + 800
  let xv := x * 2 ^ 800
  let s := erfSeries v (xv * xv / 2 ^ v) (v / 2 + 800) 0 xv 0
  let rootPi : Int := isqrt ((piFix v).toNat * 2 ^ v) (v + 4) 0
  2 * s * 2 ^ v / rootPi / 2 ^ 800

/-! ## Enclosures -/

/-- A magnitude and sign, strictly between `lo` and `hi` over 2^scale; or the exact dyadic value. -/
inductive Encl
  | exact (v : Int) (e : Int)
  | between (neg : Bool) (lo hi : Nat) (e : Int)
  deriving DecidableEq, Repr

/-- A magnitude far below every format's grid. -/
def enclTiny (neg : Bool) : Encl := .between neg 1 2 (-100000)
/-- A magnitude far above every format's range. -/
def enclHuge : Encl := .between false 1 2 100000

/-- A signed value `y` at scale `w`, within 2^16 units. -/
def enclOf (y : Int) (w : Nat) : Encl :=
  .between (decide (y < 0)) (y.natAbs - 2 ^ 16) (y.natAbs + 2 ^ 16) (-(w : Int))

/-- A value known to lie below a magnitude `b` at scale `w`. -/
def Encl.below (x : Encl) (b : Nat) : Encl :=
  match x with
  | .between n lo hi e => .between n (min lo (b - 1)) (min hi b) e
  | y => y

/-- A dyadic magnitude at scale `w`, rounded down. -/
def fixOf (w : Nat) (m : Nat) (e : Int) : Nat :=
  if 0 ≤ e + w then m * 2 ^ (e + w).toNat else m / 2 ^ (-(e + w)).toNat

/-- The same, rounded up. -/
def fixUp (w : Nat) (m : Nat) (e : Int) : Nat :=
  if 0 ≤ e + w then m * 2 ^ (e + w).toNat else m / 2 ^ (-(e + w)).toNat + 1

/-- Exponent of the leading bit. -/
def topExp (m : Nat) (e : Int) : Int := Nat.log2 m + e

/-- The function codes of R184, in its order. -/
inductive Sf | exp2 | log2 | sin | cos | tanh | sigm | erf | gelu
  deriving DecidableEq, Repr

/-- e^-t for t ≥ 0 at scale `w`. -/
def expNeg (w : Nat) (t : Int) : Int := exp2Fix w (-(t * 2 ^ w / ln2Fix w))

/-- The exact value of a function at a finite nonzero operand, enclosed at scale `w` (R184). -/
def sfEnclose (f : Sf) (neg : Bool) (m : Nat) (e : Int) (w : Nat) : Encl :=
  let top := topExp m e
  let x := fixOf w m e
  match f with
  | .exp2 =>
    if 0 ≤ e ∨ m % 2 ^ (-e).toNat = 0 then
      (if 12 ≤ top then (if neg then enclTiny false else enclHuge)
       else .exact 1 (sgn neg (fixOf 0 m e)))
    else if 12 ≤ top then (if neg then enclTiny false else enclHuge)
    else
      let u : Int := if neg then -(x : Int) else x
      let n := u / 2 ^ w
      let y := (exp2Frac w (u - n * 2 ^ w)).toNat
      .between false (y - 2 ^ 16) (y + 2 ^ 16) (n - w)
  | .log2 =>
    let k := top
    if m = 2 ^ Nat.log2 m then .exact k 0
    else enclOf (k * 2 ^ w + log2Fix w ((m * 2 ^ w / 2 ^ Nat.log2 m : Nat) : Int)) w
  | .sin | .cos =>
    let v := w + 200
    let p := piFix v
    let xv : Int := fixOf v m e
    let q := xv * 2 / p
    let r := (xv - q * p / 2) / 2 ^ 200
    let odd := decide (f = .cos)
    let q := (q + if odd then 1 else 0) % 4
    let y := if q % 2 = 0 then trigSeries w (r * r / 2 ^ w) (w / 4 + 24) 1 r 0
      else trigSeries w (r * r / 2 ^ w) (w / 4 + 24) 0 (2 ^ w) 0
    let y := if 2 ≤ q then -y else y
    let z := enclOf (if neg && !odd then -y else y) w
    if odd then z.below (2 ^ w) else z.below (min (fixUp w m e) (2 ^ w))
  | .tanh =>
    if 8 ≤ top then (Encl.between neg (2 ^ w - 2) (2 ^ w) (-(w : Int)))
    else
      let t := expNeg w (2 * x)
      let y := (2 ^ w - t) * 2 ^ w / (2 ^ w + t)
      (enclOf (if neg then -y else y) w).below (min (fixUp w m e) (2 ^ w))
  | .sigm =>
    if 9 ≤ top then (if neg then enclTiny false else .between false (2 ^ w - 2) (2 ^ w) (-(w : Int)))
    else
      let t := expNeg w x
      let y := if neg then t * 2 ^ w / (2 ^ w + t) else 2 ^ w * 2 ^ w / (2 ^ w + t)
      (enclOf y w).below (2 ^ w)
  | .erf =>
    if 3 ≤ top then .between neg (2 ^ w - 2 ^ (w - 50)) (2 ^ w) (-(w : Int))
    else
      let y := erfFix w x
      (enclOf (if neg then -y else y) w).below (2 ^ w)
  | .gelu =>
    if 4 ≤ top then
      (if neg then enclTiny true else .between false (m * 2 ^ w - 2 ^ (w - 50)) (m * 2 ^ w) (e - w))
    else
      let rt : Int := isqrt (2 * 2 ^ (2 * w)) (w + 4) 0
      let er := erfFix w ((x : Int) * 2 ^ w / rt)
      let y := (x : Int) * (if neg then 2 ^ w - er else 2 ^ w + er) / 2 ^ (w + 1)
      let y := enclOf (if neg then -y else y) w
      if neg then y else y.below (fixUp w m e)

/-- An exact magnitude `m * 2^e` exceeds the largest finite value (R186). -/
def Fl.beyond (f : Fl) (m : Nat) (e : Int) : Bool :=
  let top : Int := f.emin + 2 ^ f.eb - 3
  if top ≤ e then decide (2 ^ (f.mb + 1) - 1 < m * 2 ^ (e - top).toNat)
  else decide ((2 ^ (f.mb + 1) - 1) * 2 ^ (top - e).toNat < m)

/-- An exact magnitude is a value of the format. -/
def Fl.holds (f : Fl) (m : Nat) (e : Int) : Bool := (f.round .rz false m e false).1 == (f.round .ru false m e false).1

/-- An exact value as the result: infinite beyond the largest finite value, itself where the format holds it, and else
rounded to nearest-even, or for f32 one of its two neighbours (R185, R186; log 5). -/
def Fl.exactResult (f : Fl) (v e : Int) (upper : Bool) : Nat × BitVec 6 :=
  let neg := decide (v < 0)
  let r := f.roundInt .rn v e false
  if f.beyond v.natAbs e then (f.sign neg f.infCode, fOvf)
  else if f.mb = 23 && !f.holds v.natAbs e then (f.faithful upper neg v.natAbs e false, r.2)
  else r

/-- An enclosure rounded, when both ends agree: to nearest-even, or for f32 one neighbour and the flags of the nearest;
infinite where the whole enclosure lies beyond the largest finite value (R185, R186; logs 5 and 27). -/
def Encl.result (f : Fl) (x : Encl) (upper : Bool) : Option (Nat × BitVec 6) :=
  match x with
  | .exact v e => some (f.exactResult v e upper)
  | .between neg lo hi e =>
    if lo = 0 ∨ hi ≤ lo then none else
    let z1 := (f.round .rz neg lo e true).1
    let z2 := (f.round .rz neg (hi - 1) e true).1
    let n1 := f.round .rn neg lo e true
    let n2 := f.round .rn neg (hi - 1) e true
    if z1 % f.sbit = f.maxCode then some (f.sign neg f.infCode, fOvf)
    else if z2 % f.sbit = f.maxCode then none
    else if f.mb = 23 then
      (if z1 = z2 ∧ n1.2 = n2.2 then some (f.faithful upper neg lo e true, n1.2) else none)
    else if n1 = n2 then some n1 else none

/-- The greatest code below an enclosure's upper end: where no scale settles, the code the enclosure straddles, which is a
neighbour of the exact value on whichever side that lies. -/
def Encl.straddled (f : Fl) : Encl → Nat × BitVec 6
  | .exact v e => f.roundInt .rn v e false
  | .between neg _ hi e => ((f.round .rz neg (hi - 1) e true).1, (f.round .rn neg (hi - 1) e true).2)

/-- The first scale of a list at which an enclosure settles the result; where none does, the straddled code of the last. -/
def settleAt (f : Fl) (upper : Bool) (g : Nat → Encl) : List Nat → Nat × BitVec 6
  | [] => (g 900).straddled f
  | w :: ws => match (g w).result f upper with
    | some r => r
    | none => settleAt f upper g ws

/-- The scales tried. -/
def sfScales : List Nat := [96, 192, 400, 900]

/-- The format of a special function (R184). -/
def sfmt : SFmt → Fl
  | .f32 => .f32
  | .f16 => .f16
  | .bf16 => .bf16

/-- Special operands of R184. -/
def sfSpecial (fn : Sf) (f : Fl) (x : Num) : Option (Nat × BitVec 6) :=
  let one : Nat := f.bias * 2 ^ f.mb
  match x with
  | .nan _ => some (f.nan, x.sig)
  | .inf neg =>
    match fn with
    | .exp2 => some (if neg then 0 else f.infCode, 0)
    | .log2 => some (if neg then (f.nan, fInv) else (f.infCode, 0))
    | .sin | .cos => some (f.nan, fInv)
    | .tanh | .erf => some (f.sign neg one, 0)
    | .sigm => some (if neg then 0 else one, 0)
    | .gelu => some (if neg then f.sbit else f.infCode, 0)
  | .fin neg m _ =>
    if m = 0 then
      match fn with
      | .exp2 | .cos => some (one, 0)
      | .log2 => some (f.sign true f.infCode, fDz)
      | .sin | .tanh | .erf | .gelu => some (f.sign neg 0, 0)
      | .sigm => some (one - 2 ^ f.mb, 0)
    else if neg && fn == .log2 then some (f.nan, fInv)
    else none

/-- The code of a function in the choice of log 5. -/
def Sf.code : Sf → Nat
  | .exp2 => 1 | .log2 => 2 | .sin => 3 | .cos => 4 | .tanh => 5 | .sigm => 6 | .erf => 7 | .gelu => 8

/-- A special function of one operand (R184 to R186). -/
def sfApply (fn : Sf) (f : Fl) (bits : Nat) : Nat × BitVec 6 :=
  let x := f.decode bits
  match sfSpecial fn f x with
  | some r => r
  | none => match x with
    | .fin neg m e => settleAt f (Config.sfuUpper fn.code (BitVec.ofNat 32 bits)) (sfEnclose fn neg m e) sfScales
    | _ => (f.nan, 0)

/-- What lies above a value `h` times 2^e: strictly above it, whatever an enclosure at scale `w` says. -/
def Encl.above (x : Encl) (h e : Int) (w : Nat) : Encl :=
  match x with
  | .between false lo hi s => .between false (if 0 < h then max lo (fixOf w h.natAbs e) else lo) hi s
  | .between true lo hi s => .between true lo (min hi (fixUp w h.natAbs e)) s
  | y => y

/-- log2(2^x + 2^y) of finite operands, enclosed at scale `w` (R184): the larger plus log2(1 + 2^-d), which lies above the
larger operand and, for d from 256 on, below every grid where that operand is 0. -/
def lseEnclose (a b : Int) (e : Int) (w : Nat) : Encl :=
  let hi := max a b
  let d := (max a b - min a b).toNat
  if d = 0 then
    (if 0 ≤ e then .exact (hi * 2 ^ e.toNat + 1) 0 else .exact (hi + 2 ^ (-e).toNat) e)
  else if hi = 0 ∧ 8 ≤ topExp d e then enclTiny false
  else if 10 ≤ topExp d e then
    -- less than 2^-1000 above the larger operand
    let v : Int := if 0 ≤ e then hi * 2 ^ (e.toNat + w) else hi * 2 ^ w
    let sc : Int := if 0 ≤ e then -(w : Int) else e - w
    if v < 0 then .between true (v.natAbs - 1) v.natAbs sc else .between false v.natAbs (v.natAbs + 1) sc
  else
    let t := exp2Fix w (-(fixOf w d e : Int))
    (enclOf ((if 0 ≤ e then hi * 2 ^ (e.toNat + w) else hi * 2 ^ w / 2 ^ (-e).toNat) + log2Fix w (2 ^ w + t)) w).above hi e w

/-- `lse2` (R184 to R186). -/
def lse2Apply (f : Fl) (bx by_ : Nat) : Nat × BitVec 6 :=
  let x := f.decode bx
  let y := f.decode by_
  match x, y with
  | .nan _, _ | _, .nan _ => (f.nan, x.sig ||| y.sig)
  | .inf false, _ | _, .inf false => (f.infCode, 0)
  | .inf true, _ => (by_, 0)
  | _, .inf true => (bx, 0)
  | .fin n m e, .fin n' m' e' =>
    let lo := min e e'
    settleAt f (Config.sfuUpper2 (BitVec.ofNat 32 bx).toNat (BitVec.ofNat 32 by_))
      (lseEnclose (sgn n m * 2 ^ (e - lo).toNat) (sgn n' m' * 2 ^ (e' - lo).toNat) lo) sfScales

/-- A one-operand special function as an instruction; an operand of a 16-bit format stands in the low half (R97). -/
def State.sfInstr (s : State) (gd : Guard) (fn : Sf) (f : SFmt) : Host.Outcome State Fault Refusal :=
  s.laneInstr gd 1 1 10 (fun _ ws => w32 (sfApply fn (sfmt f) ((ws.getD 0 0).toNat % 2 ^ (sfmt f).bits)))

/-- R184. -/
def execExp2 (gd : Guard) (f : SFmt) (s : State) : Host.Outcome State Fault Refusal := s.sfInstr gd .exp2 f
/-- R184. -/
def execLog2 (gd : Guard) (f : SFmt) (s : State) : Host.Outcome State Fault Refusal := s.sfInstr gd .log2 f
/-- R184. -/
def execSin (gd : Guard) (f : SFmt) (s : State) : Host.Outcome State Fault Refusal := s.sfInstr gd .sin f
/-- R184. -/
def execCos (gd : Guard) (f : SFmt) (s : State) : Host.Outcome State Fault Refusal := s.sfInstr gd .cos f
/-- R184. -/
def execTanh (gd : Guard) (f : SFmt) (s : State) : Host.Outcome State Fault Refusal := s.sfInstr gd .tanh f
/-- R184. -/
def execSigm (gd : Guard) (f : SFmt) (s : State) : Host.Outcome State Fault Refusal := s.sfInstr gd .sigm f
/-- R184. -/
def execErf (gd : Guard) (f : SFmt) (s : State) : Host.Outcome State Fault Refusal := s.sfInstr gd .erf f
/-- R184. -/
def execGelu (gd : Guard) (f : SFmt) (s : State) : Host.Outcome State Fault Refusal := s.sfInstr gd .gelu f
/-- R184. -/
def execLse2 (gd : Guard) (f : SFmt) (s : State) : Host.Outcome State Fault Refusal :=
  s.laneInstr gd 2 1 10 (fun _ ws => w32 (lse2Apply (sfmt f) ((ws.getD 0 0).toNat % 2 ^ (sfmt f).bits)
    ((ws.getD 1 0).toNat % 2 ^ (sfmt f).bits)))

end Sys2Proof.Machine
end

