-- ==== Sys2Proof/Machine/Draw.lean ====
section
/-! DEFINITION. The draw instructions (R202 to R210). -/

namespace Sys2Proof.Machine

/-! ## Constants of R204, computed from their definitions at scale 96 -/

/-- A number at scale 96, rounded to an integer. -/
def rne96 (y : Int) : Int := (y + 2 ^ 95) / 2 ^ 96

/-- T[j]. -/
def drawT (j : Nat) : Int := if j = 0 then 2 ^ 30 else rne96 (exp2Fix 96 (-((j : Int) * 2 ^ 96 / 64)) * 2 ^ 30)
/-- ln 2 at scale 96. -/
def ln2at96 : Int := ln2Fix 160 / 2 ^ 64
def drawC1 : Int := rne96 (ln2at96 * 2 ^ 30)
def drawC2 : Int := rne96 (ln2at96 * ln2at96 / 2 ^ 96 * 2 ^ 29)
def drawC3 : Int := rne96 (ln2at96 * ln2at96 / 2 ^ 96 * ln2at96 / 2 ^ 96 * 2 ^ 30 / 6)
/-- Rc[j]: the nearest integer of an exact quotient, ties to even. -/
def drawRc (j : Nat) : Int :=
  let q : Nat := 2 ^ 36 / (64 + j)
  let r : Nat := 2 ^ 36 % (64 + j)
  if 64 + j < 2 * r ∨ (64 + j = 2 * r ∧ q % 2 = 1) then q + 1 else q
/-- Lt[j]. -/
def drawLt (j : Nat) : Int := if j = 0 then 0 else rne96 (log2Fix 96 (2 ^ 126 / drawRc j) * 2 ^ 30)
def drawK1 : Int := rne96 (2 ^ 222 / ln2at96)
def drawK2 : Int := rne96 (2 ^ 221 / ln2at96)
def drawK3 : Int := rne96 (2 ^ 222 / (3 * ln2at96))
def drawK4 : Int := rne96 (2 ^ 220 / ln2at96)

/-- Exp2Fix of R204 on an f32 code that is ≤ 0 or -∞. -/
def exp2FixOf (d : Nat) : Nat :=
  match Fl.f32.decode d with
  | .fin neg m e =>
    if numCmp (.fin neg m e) (.fin true 1 6) == .lt then 0
    else
      let n : Nat := (roundAt .rn neg m (e + 24) false 0).1
      let q := n / 2 ^ 24
      let f := n % 2 ^ 24
      let j := f / 2 ^ 18
      let z : Int := (f % 2 ^ 18 : Nat)
      let p := 2 ^ 30 - drawC1 * z / 2 ^ 24 + drawC2 * z ^ 2 / 2 ^ 48 - drawC3 * z ^ 3 / 2 ^ 72
      (drawT j * p / 2 ^ 30 / 2 ^ q).toNat
  | _ => 0

/-- Lse2i of R204: an f32 code. -/
def lse2iOf (e : Nat) : Nat :=
  let m : Int := 2 ^ 30 + exp2FixOf e
  if 2 ^ 31 ≤ m then 0x3F800000
  else
    let j := ((m - 2 ^ 30) / 2 ^ 24).toNat
    let v := m * drawRc j / 2 ^ 30 - 2 ^ 30
    let q := drawK1 * v / 2 ^ 30 - drawK2 * v ^ 2 / 2 ^ 60 + drawK3 * v ^ 3 / 2 ^ 90 - drawK4 * v ^ 4 / 2 ^ 120
    (Fl.f32.roundInt .rn (drawLt j + q) (-30) false).1

/-- A carried pair: the f32 code of lw, and idx (R205). -/
abbrev Pair := Nat × Word

/-- Codes of -∞ and +∞. -/
def mInf : Nat := 0xFF800000
def pInf : Nat := 0x7F800000
/-- The pair of zero mass. -/
def noMass : Pair := (mInf, 0xFFFFFFFF)

/-- f32 difference and sum to nearest (R173). -/
def subNe (a b : Nat) : Nat := (Fl.f32.add .rn (Fl.f32.decode a) (Fl.f32.decode b).neg).1
def addNe (a b : Nat) : Nat := (Fl.f32.add .rn (Fl.f32.decode a) (Fl.f32.decode b)).1

/-- Merge of R205. -/
def mergePair (a b : Pair) (u : Nat) : Pair :=
  if a.1 = mInf ∧ b.1 = mInf then noMass
  else if b.1 = mInf then a
  else if a.1 = mInf then b
  else if a.1 = pInf ∧ b.1 = pInf then (if b.2.ult a.2 then b else a)
  else if a.1 = pInf then a
  else if b.1 = pInf then b
  else
    let aLess := numCmp (Fl.f32.decode a.1) (Fl.f32.decode b.1) == .lt
    let hi := if aLess then b.1 else a.1
    let lo := if aLess then a.1 else b.1
    let lw := addNe hi (lse2iOf (subNe lo hi))
    let t := min (2 ^ 24) (exp2FixOf (subNe b.1 lw) / 2 ^ 6)
    if u < t then (lw, b.2) else (lw, a.2)

/-- Mix64 of R203. -/
def mix64 (z : DWord) : DWord :=
  let z := (z ^^^ (z >>> 31)) * 0xD6E8FEB86659FD93
  let z := (z ^^^ (z >>> 29)) * 0xA2B3C4D5E6F71839
  z ^^^ (z >>> 32)

/-- NextCoin of R203: the coin, and DCOIN with POS moved on in supplied mode. -/
def nextCoin (c : Cur) (dcoin : Word) (id : Nat) : Nat × Word :=
  if dcoin.getLsbD 31 then
    let n := nbits dcoin.toNat 11 6 + 1
    let p := nbits dcoin.toNat 17 12 % n
    let u := (c.uniform ((nbits dcoin.toNat 5 0 + p) % 64)).toNat % 2 ^ 24
    (u, (dcoin &&& ~~~(0x3F000 : Word)) ||| BitVec.ofNat 32 ((p + 1) % n * 2 ^ 12))
  else
    let z := mix64 (BitVec.ofNat 64 (c.r.drctr.toNat * 256 + id)) ^^^ c.r.dkey
    ((mix64 z).toNat / 2 ^ 40, dcoin)

/-- DRCTR after a draw-family instruction (R202). -/
def Run.countDraw (r : Run) (dcoin : Word) : Run := { r with drctr := r.drctr + 1, dcoin := dcoin }

/-- Leaf of R206: the pair of a lane with scale `s`, the segment's largest number `m`, and flags. -/
def drawLeaf (s m : Nat) (x : Word) (i : Word) : Pair × BitVec 6 :=
  let nx := num32 x
  let ns := Fl.f32.decode s
  let sNeg := match ns with | .inf neg => neg | .fin neg k _ => neg && k != 0 | _ => false
  if nx.isNan then (noMass, fInv)
  else if ns.isNan || sNeg then (noMass, fInv)
  else if nx = .inf true then (noMass, 0)
  else if nx = .inf false then ((pInf, i), 0)
  else if ns = .inf false then
    (if numCmp nx (Fl.f32.decode m) == .eq then (pInf, i) else noMass, 0)
  else
    let y := Fl.f32.mul .rn nx ns
    (if y.1 = mInf then noMass else (y.1, i), y.2)

/-- maximumNumber over the numbers of a segment (R206). -/
def maxNumber (xs : List Word) : Nat :=
  (xs.filter (fun x => !(num32 x).isNan)).foldl (fun m x => (Fl.f32.minMax true m x.toNat).1) mInf

/-- One level of the draw tree: nodes in ascending order, each of two values taking its coin (R206). -/
def drawLevel (c : Cur) (j : Nat) (vals : List (Option Pair)) (dcoin : Word) : List (Option Pair) × Word :=
  (List.range (32 / 2 ^ j)).foldl (fun acc n =>
    let a := vals.getD (2 * n) none
    let b := vals.getD (2 * n + 1) none
    match a, b with
    | some x, some y =>
      let u := nextCoin c acc.2 (32 * j + 2 ^ j * n)
      (acc.1 ++ [some (mergePair x y u.1)], u.2)
    | some x, none => (acc.1 ++ [some x], acc.2)
    | none, y => (acc.1 ++ [y], acc.2)) ([], dcoin)

/-- Levels 1 to `k` of the tree; level j holds the nodes of every segment, 2^j lanes each. -/
def drawTree (c : Cur) : Nat → Nat → List (Option Pair) → Word → List (Option Pair) × Word
  | 0, _, vals, dcoin => (vals, dcoin)
  | k + 1, j, vals, dcoin =>
    let r := drawLevel c j vals dcoin
    drawTree c k (j + 1) r.1 r.2

/-- R206. -/
def execDraw (gd : Guard) (k : BitVec 6) (p : BitVec 4) (s : State) : Host.Outcome State Fault Refusal :=
  s.runInstr (fun c =>
    let on := c.on gd
    let w := segWidth c.r.segw
    let lv := segK c.r.segw
    let ps := c.r.popped 2
    let sc := (c.uniform k.toNat).toNat
    let maxes := (segBases w).map (fun b => maxNumber ((segOn on w b).map (fun i => popWord ps 0 i)))
    let leaves := (List.range 32).map (fun l =>
      if laneOn on l then some (drawLeaf sc (maxes.getD (l / w) mInf) (popWord ps 0 l) (popWord ps 1 l)) else none)
    let fl := leaves.foldl (fun f x => match x with | some y => f ||| y.2 | none => f) 0
    let t := drawTree c lv 1 (leaves.map (Option.map (·.1))) c.r.dcoin
    let root (l : Nat) : Pair := (t.1.getD (l / w) none).getD noMass
    let r := c.r.crosswise on 2 2 (fun l => [BitVec.ofNat 32 (root l).1, (root l).2]) fl
    let r := r.writePred p.toNat on (maskOf (fun l => (root l).1 != mInf))
    .ok s (r.countDraw t.2) (8 + 6 * lv))

/-- The lanes of a per-lane draw in ascending order, each with its coin (R207, R208). -/
def laneCoins (c : Cur) (on : Mask) (base : Nat) : AMap Nat × Word :=
  (lanesOf on).foldl (fun acc l =>
    let u := nextCoin c acc.2 (base + l)
    (acc.1 ++ [(l, u.1)], u.2)) ([], c.r.dcoin)

/-- A carried lw: NaN counts as -∞. -/
def lwOf (w : Word) : Nat := if (num32 w).isNan then mInf else w.toNat

/-- R207. -/
def execDrawm (gd : Guard) (s : State) : Host.Outcome State Fault Refusal :=
  s.runInstr (fun c =>
    let on := c.on gd
    let ps := c.r.popped 4
    let u := laneCoins c on 192
    let res (l : Nat) : Pair :=
      mergePair (lwOf (popWord ps 0 l), popWord ps 1 l) (lwOf (popWord ps 2 l), popWord ps 3 l) (mget u.1 l 0)
    let nan := (lanesOf on).any (fun l => (num32 (popWord ps 0 l)).isNan || (num32 (popWord ps 2 l)).isNan)
    let r := c.r.crosswise on 4 2 (fun l => [BitVec.ofNat 32 (res l).1, (res l).2]) (if nan then fInv else 0)
    .ok s (r.countDraw u.2) 12)

/-- R208. -/
def execCoin (gd : Guard) (s : State) : Host.Outcome State Fault Refusal :=
  s.runInstr (fun c =>
    let on := c.on gd
    let u := laneCoins c on 224
    let r := c.r.crosswise on 0 1 (fun l => [BitVec.ofNat 32 (mget u.1 l 0)]) 0
    .ok s (r.countDraw u.2) 6)

/-- R209. -/
def execDkey (gd : Guard) (s : State) : Host.Outcome State Fault Refusal :=
  s.runInstr (fun c =>
    let ps := c.r.popped 4
    let r := c.r.replace 4 []
    match c.acts gd with
    | none => .ok s r 1
    | some l => .ok s { r with dkey := item 64 (argsOf ps l) 0, drctr := (item 64 (argsOf ps l) 2).setWidth 56 } 1)

end Sys2Proof.Machine
end

