-- ==== Sys2Proof/Machine/Matrix.lean ====
section
/-! DEFINITION. The matrix engine's geometry, operand layouts and sums (R111 to R114, R320, R321, R326 to R332). -/

namespace Sys2Proof

/-! ## Regions (R320, R321) -/

/-- Quadrants of a region. -/
def Region.quads : Region → List Nat
  | .all => [0, 1, 2, 3]
  | .top => [0, 1]
  | .bot => [2, 3]
  | .q0 => [0]
  | .q1 => [1]
  | .q2 => [2]
  | .q3 => [3]
  | .left => [0, 2]
  | .right => [1, 3]

/-- Rows of a region: first and end. -/
def Region.rows : Region → Nat × Nat
  | .all | .left | .right => (0, 128)
  | .top | .q0 | .q1 => (0, 64)
  | .bot | .q2 | .q3 => (64, 128)

/-- The bank side that holds a region's results: 0 left, 1 right. -/
def Region.side : Region → Nat
  | .q0 | .q2 | .left => 0
  | _ => 1

/-- Result banks of a region, as quadrants. -/
def Region.banks (r : Region) : List Nat := r.quads.filter (fun q => q % 2 == r.side)

/-- First column and number of columns of a region. -/
def Region.cols : Region → Nat × Nat
  | .all | .top | .bot => (0, 128)
  | .q0 | .q2 | .left => (0, 64)
  | .q1 | .q3 | .right => (64, 64)

/-- Number of rows. -/
def Region.count (r : Region) : Nat := r.rows.2 - r.rows.1

/-! ## Formats (R320, R328, R329) -/

/-- Bits of an element in scratchpad. -/
def MFmt.bits : MFmt → Nat
  | .f32 => 32
  | .bf16 => 16
  | .e4m3 | .e5m2 | .i8 | .z8 => 8
  | .b4 => 4

/-- The format after slicing (R328, R329). -/
def MFmt.eff : MFmt → MFmt
  | .f32 => .bf16
  | f => f

/-- K positions in one PE (R320). -/
def MFmt.perPE (f : MFmt) : Nat := 16 / f.eff.bits

/-- Integer formats. -/
def MFmt.isInt (f : MFmt) : Bool := f == .i8 || f == .z8
/-- The 8-bit float formats. -/
def MFmt.isF8 (f : MFmt) : Bool := f == .e4m3 || f == .e5m2

end Sys2Proof

namespace Sys2Proof.Machine

/-- Kp of a region for a weight format. -/
def kpOf (r : Region) (w : MFmt) : Nat := r.cols.2 * w.perPE

/-- A permitted pair of weight and activation formats, after slicing (R329). -/
def pairOk (w a : MFmt) : Bool :=
  (w == .bf16 && a == .bf16) || (w.isF8 && a.isF8) || (w.isInt && a.isInt) || (w == .b4 && (a == .b4 || a.isF8))

/-- cc for each activation vector (R329). -/
def rateOf (w a : MFmt) : Nat := if w == .b4 && a.isF8 then 2 else 1

/-! ## Slices (R114) -/

/-- The bf16 code of a slice of an f32 value. -/
def sliceOf (sel : Slice) (x : Nat) : Nat :=
  let f := Fl.f32
  let d := f.decode x
  let special : Option Nat := match d with | .nan _ => some 0x7FC0 | .inf _ => some (x / 65536) | _ => none
  match special with
  | some h => if sel = .h then h else 0
  | none =>
    let h := x / 65536
    let x1 := (f.add .rn d (f.decode (h * 65536)).neg).1
    let m := x1 / 65536
    let x2 := (f.add .rn (f.decode x1) (f.decode (m * 65536)).neg).1
    match sel with
    | .m => m
    | .l => (Fl.bf16.ofNum .rn (f.decode x2)).1
    | _ => h

/-! ## Operands in scratchpad (R326) -/

/-- A stored operand: format, slice, base, pitch in bytes, scale base, elements in a stored row, T. -/
structure Operand where
  fmt : MFmt
  slice : Slice
  base : Nat
  pitch : Nat
  scale : Nat
  len : Nat
  tr : Bool
  deriving DecidableEq, Repr

/-- Bytes of a stored row. -/
def Operand.rowBytes (o : Operand) : Nat := (o.len * o.fmt.bits + 7) / 8

/-- Distance between stored rows; a pitch of 0 is dense. -/
def Operand.step (o : Operand) : Nat := if o.pitch = 0 then (o.rowBytes + 15) / 16 * 16 else o.pitch

/-- The code of element `j` of stored row `r`, after slicing. -/
def Operand.code (o : Operand) (m : Memory) (alloc r j : Nat) : Nat :=
  let at_ := alloc + o.base + r * o.step
  match o.fmt with
  | .f32 => sliceOf o.slice (rdLE m (at_ + 4 * j) 4)
  | .bf16 => rdLE m (at_ + 2 * j) 2
  | .b4 => (rdByte m (at_ + j / 2)).toNat / 16 ^ (j % 2) % 16
  | _ => (rdByte m (at_ + j)).toNat

/-- The scale byte of element `j` of stored row `r` (R326); blocks run along K. -/
def Operand.scaleByte (o : Operand) (m : Memory) (alloc r j : Nat) : Nat :=
  let b := if o.tr then r / 32 * o.len + j else r * (o.len / 32) + j / 32
  (rdByte m (alloc + o.scale + b)).toNat

/-- Byte ranges of an operand of `n` stored rows: codes row by row, then scales (R342 check 4). -/
def Operand.spans (o : Operand) (n : Nat) : List (Nat × Nat) :=
  (List.range n).map (fun r => (o.base + r * o.step, o.rowBytes))
    ++ (if o.fmt = .b4 then [(o.scale, if o.tr then n / 32 * o.len else n * (o.len / 32))] else [])

/-- The exact value of a code of a float format, with its block scale (R106, R107). -/
def codeNum (f : MFmt) (scale code : Nat) : Num :=
  match f with
  | .bf16 | .f32 => Fl.bf16.decode code
  | .e4m3 => Fl.e4m3.decode code
  | .e5m2 => Fl.e5m2.decode code
  | .b4 => blockElem scale code
  | _ => .fin false 0 0

/-- The value of a code of an integer format. -/
def codeInt (f : MFmt) (code : Nat) : Int := if f = .i8 then (BitVec.ofNat 8 code).toInt else (code : Int)

/-! ## Weights in the array (R320) -/

/-- Weight code and scale byte of row `i` and K position `p` of a region. -/
def Cluster.weight (k : Cluster) (r : Region) (f : MFmt) (i p : Nat) : Nat × Nat :=
  let col := r.cols.1 + p / f.perPE
  let pe := (mget k.weights (i * 128 + col) 0).toNat
  (pe / 2 ^ (f.eff.bits * (p % f.perPE)) % 2 ^ f.eff.bits, (mget k.wscales (i * 16 + col / 8) 0).toNat)

/-- The weights of a region loaded from an operand (R326, R328). -/
def Cluster.load (k : Cluster) (r : Region) (o : Operand) (m : Memory) (alloc : Nat) : Cluster :=
  let n := o.fmt.perPE
  let at_ (i p : Nat) : Nat × Nat := if o.tr then (p, i) else (i, p)
  let pe (i c : Nat) : Nat := (List.range n).foldl (fun acc q =>
    let x := at_ i (c * n + q)
    acc + o.code m alloc x.1 x.2 * 2 ^ (o.fmt.eff.bits * q)) 0
  let weights := (List.range r.count).foldl (fun w i => (List.range r.cols.2).foldl (fun w c =>
    mset w ((r.rows.1 + i) * 128 + r.cols.1 + c) (BitVec.ofNat 32 (pe i c))) w) k.weights
  let wscales := if o.fmt ≠ .b4 then k.wscales else
    (List.range r.count).foldl (fun w i => (List.range (r.cols.2 / 8)).foldl (fun w b =>
      let x := at_ i (32 * b)
      mset w ((r.rows.1 + i) * 16 + (r.cols.1 / 8) + b) (BitVec.ofNat 8 (o.scaleByte m alloc x.1 x.2))) w) k.wscales
  { k with weights := weights, wscales := wscales }

/-! ## Sums (R111 to R113, R332) -/

/-- Flag events as MXFLAGS bits (R332). -/
def mxOf (f : BitVec 6) : BitVec 3 :=
  (if f &&& fInv != 0 then 1 else 0) ||| (if f &&& fOvf != 0 then 2 else 0) ||| (if f &&& fUnf != 0 then 4 else 0)

/-- One group sum (R111, R112): an exact zero gives +0; a NaN operand raises nothing. -/
def groupSum (ps : List (Num × Num)) : Nat × BitVec 3 :=
  if ps.any (fun p => p.1.isNan || p.2.isNan) then (Fl.f32.nan, 0) else
  let ts := ps.map (fun p => numMul p.1 p.2)
  let ns := ts.map (·.1)
  let pos := ns.contains (.inf false)
  let neg := ns.contains (.inf true)
  if ns.any Num.isNan || (pos && neg) then (Fl.f32.nan, 1)
  else if pos then (Fl.f32.infCode, 0)
  else if neg then (Fl.f32.sign true Fl.f32.infCode, 0)
  else
    let x := exactSum ns
    let r := Fl.f32.roundInt .rn x.1 x.2 false
    (r.1, mxOf r.2)

/-- An f32 addition of R111; a NaN operand raises nothing. -/
def mxAdd (a b : Nat) : Nat × BitVec 3 :=
  let x := Fl.f32.decode a
  let y := Fl.f32.decode b
  let r := Fl.f32.add .rn x y
  (r.1, if x.isNan || y.isNan then 0 else mxOf r.2)

/-- The sum P of a row and a vector: group sums of 16 K positions, added left to right (R111). -/
def floatSum (kp : Nat) (w a : Nat → Num) : Nat × BitVec 3 :=
  let g (k : Nat) : Nat × BitVec 3 := groupSum ((List.range 16).map (fun j => (w (16 * k + j), a (16 * k + j))))
  (List.range (kp / 16 - 1)).foldl (fun acc k =>
    let x := g (k + 1)
    let y := mxAdd acc.1 x.1
    (y.1, acc.2 ||| x.2 ||| y.2)) (g 0)

/-- The same in integer modes, modulo 2^32 (R113). -/
def intSum (kp : Nat) (w a : Nat → Int) : Nat :=
  (BitVec.ofInt 32 ((List.range kp).foldl (fun acc p => acc + w p * a p) 0)).toNat

/-- The vectors of a gathered pass as they are collected: scale and code of each K position, 0 for padding (R331). -/
def Operand.collect (o : Operand) (m : Memory) (alloc kp : Nat) (rows : List (Option Nat)) : List (List (Nat × Nat)) :=
  rows.map (fun r => (List.range kp).map (fun p => match r with
    | some x => (if o.fmt = .b4 then o.scaleByte m alloc x p else 0, o.code m alloc x p)
    | none => (0, 0)))

/-- What a pass adds to each entry: by accumulator key, with the flags met; of a gathered pass, from the vectors collected. -/
def Cluster.passSums (k : Cluster) (r : Region) (wf : MFmt) (o : Operand) (m : Memory) (alloc e0 n : Nat)
    (vecs : Option (List (List (Nat × Nat)))) : List (Nat × Word) × BitVec 3 :=
  let kp := kpOf r wf
  let act (v p : Nat) : Nat × Nat := match vecs with
    | some vs => (vs.getD v []).getD p (0, 0)
    | none =>
      let x := if o.tr then (p, v) else (v, p)
      (if o.fmt = .b4 then o.scaleByte m alloc x.1 x.2 else 0, o.code m alloc x.1 x.2)
  (List.range r.count).foldl (fun acc i => (List.range n).foldl (fun (acc : List (Nat × Word) × BitVec 3) v =>
    let row := r.rows.1 + i
    let key := accKey row r.side (e0 + v)
    if wf.isInt then
      let s := intSum kp (fun p => codeInt wf (k.weight r wf row p).1) (fun p => codeInt o.fmt (act v p).2)
      (acc.1 ++ [(key, BitVec.ofNat 32 s)], acc.2)
    else
      let s := floatSum kp (fun p => let x := k.weight r wf row p; codeNum wf x.2 x.1)
        (fun p => let x := act v p; codeNum o.fmt.eff x.1 x.2)
      (acc.1 ++ [(key, BitVec.ofNat 32 s.1)], acc.2 ||| s.2)) acc) ([], 0)

/-- A pass's updates of the entries at retirement (R111, R113, R330); with Z the entry counts as +0. -/
def addSums (acc : AMap Word) (isInt z : Bool) (sums : List (Nat × Word)) : AMap Word × BitVec 3 :=
  sums.foldl (fun (x : AMap Word × BitVec 3) s =>
    let old := if z then 0 else mget x.1 s.1 0
    if isInt then (mset x.1 s.1 (old + s.2), x.2)
    else
      let r := mxAdd old.toNat s.2.toNat
      (mset x.1 s.1 (BitVec.ofNat 32 r.1), x.2 ||| r.2)) (acc, 0)

/-- Accumulator keys of entries `e0` up to `e0 + n - 1` of a region's rows, row by row. -/
def regionKeys (r : Region) (e0 n : Nat) : List Nat :=
  (List.range r.count).flatMap (fun i => (List.range n).map (fun e => accKey (r.rows.1 + i) r.side (e0 + e)))

end Sys2Proof.Machine
end

