-- ==== Sys2Proof/Machine/Sequencer.lean ====
section
/-! DEFINITION. The sequencer: its words, the checks before posting, barriers, stops and records (R138, R302, R323 to
R328, R340, R342 to R345, R399). -/

namespace Sys2Proof.Machine

/-! ## The sequencer in focus -/

/-- A sequencer with its workgroup. -/
structure SeqCur where
  core : Nat
  wslot : Nat
  w : WGroup
  q : Seq
  deriving DecidableEq, Repr

/-- The sequencer of a workgroup slot. -/
def State.seqOf (s : State) (core wslot : Nat) : Option SeqCur :=
  match s.wgroup core wslot with
  | none => none
  | some w => w.seq.map (fun q => ⟨core, wslot, w, q⟩)

/-- The state with a sequencer changed. -/
def State.modSeq (s : State) (core wslot : Nat) (f : Seq → Seq) : State :=
  s.modWG core wslot (fun w => { w with seq := w.seq.map f })

/-- The sequencer may not move: it has stopped, holds at a record, gathers, or has an operation posted (R323, R333). -/
def Seq.busy (q : Seq) : Bool := q.stopped || q.heldRec || q.gathering.isSome || q.posted.isSome

/-- The sequencer past its word: the eighth word of a block ends the block (R323). -/
def Seq.next (q : Seq) : Seq :=
  { q with pc := q.pc + 8, waived := 0, bwait := none, mark := none, arrived := false
           block := if q.pc.toNat % 64 = 56 then none else q.block }

/-- The sequencer at a jump's target: a block is requested afresh (R323). -/
def Seq.jump (q : Seq) (off : BitVec 16) : Seq :=
  { q with pc := q.pc + off.signExtend 64 * 8, waived := 0, block := none }

/-- A group of the workgroup is saved, or every group has ended: its sequencer posts nothing more (R346). -/
def State.seqHalted (s : State) (core wslot : Nat) : Bool :=
  match s.wgroup core wslot with
  | some w => w.freed || w.groups.any (fun x => match s.group core x.2 with | some g => g.saved.isSome | none => false)
  | none => false

/-- A sequencer word as a step of the machine; one that may not move yet lets a cc pass. -/
def State.seqInstr (s : State) (f : SeqCur → State) : Host.Outcome State Fault Refusal :=
  match s.seqFocus with
  | none => .fault .noSequencer
  | some (core, wslot) => match s.seqOf core wslot with
    | none => .fault .noSequencer
    | some c => .next (if c.q.busy || s.seqHalted core wslot then s.pass 1 else f c).refresh

/-- The word is done: 1 cc, and the next word (R344). -/
def State.seqNext (s : State) (c : SeqCur) : State := (s.modSeq c.core c.wslot Seq.next).pass 1

/-! ## Held barrier arrivals (R340, R343) -/

/-- Arrivals held no longer take effect in order: one waits while a granted operation of the sequencer with a smaller
number stands in the table, that is until it has retired and its drains have completed their armings. -/
def State.seqFlush (s : State) (core wslot : Nat) : State :=
  match s.seqOf core wslot with
  | none => s
  | some c =>
    let waits (x : Nat × Nat) : Bool :=
      s.eops.any (fun e => e.core == core && e.wslot == wslot && e.granted.isSome && decide (e.id < x.2))
    let due := c.q.held.takeWhile (fun x => !waits x)
    (s.modSeq core wslot (fun q => { q with held := q.held.drop due.length })).modWG core wslot
      (fun w => due.foldl (fun w x => if x.1 = 16 then w.leave memSeq else w.arrive x.1 memSeq) w)

/-- An arrival of the sequencer, or with 16 its leave: it takes effect once the operations granted so far have retired. -/
def State.seqArrive (s : State) (core wslot n : Nat) : State :=
  (s.modSeq core wslot (fun q => { q with held := q.held ++ [(n, s.nextId)] })).seqFlush core wslot

/-! ## Stops and records (R343) -/

/-- Cause and word address of a sequencer's stop stand in the tenant's fault domain (R322, R343). -/
def State.domainFault (s : State) (core : Nat) (k : Cause) (pc : Addr) : State :=
  s.modCluster (clusterOf core) (fun c => { c with
    faults := mset c.faults (s.tenantOf core) ((k, pc) :: mget c.faults (s.tenantOf core) []) })

/-- The sequencer ends: its granted operations complete and it leaves its barriers; with a cause CTXERR is set and the
cause is recorded (R343). -/
def State.stopSeq (s : State) (core wslot : Nat) (cause : Option Cause) : State :=
  match s.seqOf core wslot with
  | none => s
  | some c =>
    if c.q.stopped then s else
    let s := s.perfWait (clusterOf core) (s.tenantOf core)
    let s := s.modSeq core wslot (fun q => { q with stopped := true, posted := none, gathering := none, heldRec := false, bwait := none })
    let s := { s with eops := s.eops.filter (fun e => !(e.core == core && e.wslot == wslot && e.granted.isNone)),
                      launches := mmod s.launches c.w.launch (fun l => { l with seqs := l.seqs - 1 }) }
    let s := s.seqArrive core wslot 16
    match cause with
    | none => s
    | some k => ((s.errorEntry c.w.guest c.q.pc c.w.wid k 2 core).domainFault core k c.q.pc).perfAdd (clusterOf core) (s.tenantOf core) 5 1

/-- The slot of the producer group, where it has a live lane. -/
def State.producerOf (s : State) (core : Nat) (w : WGroup) : Option Nat :=
  match mfind w.groups w.prod with
  | none => none
  | some slot => match s.group core slot with
    | some g => if g.ended || g.live == 0 then none else some slot
    | none => none

/-- A sequencer record: the sequencer holds at its word; it stops where the producer group has ended, a watch unit having raised
its cause all the same (R400); with no room nothing happens yet (R343, R367). -/
def State.seqRecord (s : State) (c : SeqCur) (k : Cause) (va : Nat) (waive : BitVec 4) : State :=
  match s.producerOf c.core c.w with
  | none => (s.setHits c.w.guest waive).stopSeq c.core c.wslot (some k)
  | some slot =>
    let owner := match s.group c.core slot with | some g => g.wid | none => 0
    let r : Rec := {
      core := c.core, guest := c.w.guest, slot := slot, pc := c.q.pc, unf := 1, rslv := 0, cause := k, kind := 4, size := 0
      dest := 0, owner := owner, gen := (s.ctx c.w.guest).asgen, seqno := 0, hw := none, pinned := false, delivered := false
      store := false, addr := [((0 : Nat), BitVec.ofNat 64 va)], data := [], op := wkey c.core c.wslot }
    match s.placeRec r with
    | none => s
    | some s => (s.setHits c.w.guest waive).modSeq c.core c.wslot (fun q =>
        { q with heldRec := true, heldCause := k, resolved := none, waived := q.waived ||| waive })

/-! ## Checks before posting (R342) -/

/-- What the checks of a word come to. -/
inductive SeqCheck
  | ok
  | stop (c : Cause)
  | watch (units : BitVec 4) (va : Nat)
  deriving DecidableEq, Repr

/-- A scratchpad offset with the word's offset register added (R326). -/
def Seq.off (q : Seq) (o : BitVec 2) (v : BitVec 19) : Nat := (v + q.o.getD o.toNat 0).toNat

/-- Bytes of the workgroup's allocation, and its first physical byte. -/
def SeqCur.alloc (c : SeqCur) : Nat := 1024 * c.w.sgran
def SeqCur.base (c : SeqCur) : Nat := 1024 * c.w.sbase

/-- Every row of a region belongs to the workgroup's tenant (R322). -/
def State.regionOk (s : State) (c : SeqCur) (r : Region) : Bool :=
  let t := s.tenantRows c.core
  decide (t.1 ≤ r.rows.1) && decide (r.rows.2 ≤ t.2)

/-- Every quadrant of a region holds a valid latch with the region's code: the latched format (R328). -/
def State.latchOf (s : State) (cluster guest : Nat) (r : Region) : Option MFmt :=
  let k := s.cluster cluster
  let one (q : Nat) : Option Latch := match k.user.getD (q / 2) none with
    | some g => if g = guest then mfind k.latches q else none
    | none => none
  match r.quads with
  | [] => none
  | q0 :: _ => match one q0 with
    | none => none
    | some l => if r.quads.all (fun q => match one q with | some x => x.region == r && x.fmt == l.fmt | none => false)
        then some l.fmt else none

/-- Watch units on operand bytes and on accumulator entries, with the first covered address (R399). -/
def State.seqWatch (s : State) (c : SeqCur) (spans : List (Nat × Nat)) (accs : List (Nat × Nat)) (rd wr : Bool) (memWr : Bool) :
    BitVec 4 × Nat :=
  let one (space : Nat) (r w : Bool) (acc : BitVec 4 × Nat) (a n : Nat) : BitVec 4 × Nat :=
    let m := s.watchHits c.w.guest c.q.waived space r w a n
    (acc.1 ||| m, if acc.1 != 0 || m == 0 then acc.2
      else s.firstHit c.w.guest c.q.waived space r w a n (if space = 1 then 4 else 1))
  let x := spans.foldl (fun acc p => one 0 (!memWr) memWr acc (0xFF00000000000000 + p.1) p.2) (0, 0)
  accs.foldl (fun acc p => one 1 rd wr acc p.1 p.2) x

/-- Window ranges of entries `e0` up to `e0 + n - 1` of a region's rows. -/
def accSpans (cluster : Nat) (r : Region) (e0 n : Nat) : List (Nat × Nat) :=
  (List.range r.count).map (fun i => (accWindow cluster (accKey (r.rows.1 + i) r.side e0), 4 * n))

/-- A span leaves the workgroup's allocation. -/
def SeqCur.outside (c : SeqCur) (spans : List (Nat × Nat)) : Bool := spans.any (fun p => decide (c.alloc < p.1 + p.2))

/-- Checks 4 and 5 on given spans. -/
def State.rangeWatch (s : State) (c : SeqCur) (spans accs : List (Nat × Nat)) (rd wr memWr : Bool) : SeqCheck :=
  if c.outside spans then .stop cScratchBounds
  else
    let w := s.seqWatch c spans accs rd wr memWr
    if w.1 ≠ 0 then .watch w.1 w.2 else .ok

/-- The weight operand of an `m.wload` (R326). -/
def Seq.weightOp (q : Seq) (f : MFmt) (r : Region) (t : Bool) (o : BitVec 2) (code scale : BitVec 19) : Operand :=
  { fmt := f, slice := q.wsl, base := q.off o code, pitch := q.wpitch.toNat, scale := q.off o scale
    len := if t then r.count else kpOf r f, tr := t }

/-- Stored rows of the weight operand. -/
def weightRows (f : MFmt) (r : Region) (t : Bool) : Nat := if t then kpOf r f else r.count

/-- The activation operand of an `m.pass` of `n` vectors under latched weights `wf`. -/
def Seq.actOp (q : Seq) (f wf : MFmt) (r : Region) (t : Bool) (o : BitVec 2) (code : BitVec 19) (n : Nat) : Operand :=
  { fmt := f, slice := q.asl, base := q.off o code, pitch := q.apitch.toNat, scale := q.off o q.ascale
    len := if t then n else kpOf r wf, tr := t }

/-- R342 for `m.wload`. -/
def State.checkWload (s : State) (c : SeqCur) (f : MFmt) (r : Region) (t ax : Bool) (o : BitVec 2) (code scale : BitVec 19) : SeqCheck :=
  let op := c.q.weightOp f r t o code scale
  if !s.regionOk c r || (f == .f32 && c.q.wsl == .none) || op.base % 16 != 0 || op.pitch % 16 != 0
      || (f == .b4 && op.scale % 16 != 0) then .stop cSeqIllegal
  else if f == .b4 && ax != t then .stop cBlockAxis
  else s.rangeWatch c (op.spans (weightRows f r t)) [] false false false

/-- The index vector of a gathered pass (R331). -/
def Seq.indexSpan (q : Seq) (o : BitVec 2) (n : Nat) : Nat × Nat := (q.off o q.gindex, 4 * n)

/-- R342 for `m.pass`. The rows of a gathered one, and with them the rest of checks 4 and 5, are known only once its indices are
read (R331). -/
def State.checkPass (s : State) (c : SeqCur) (f : MFmt) (r : Region) (t ax : Bool) (o : BitVec 2) (g : Bool) (code : BitVec 19)
    (e0 n : Nat) (z : Bool) : SeqCheck :=
  match s.latchOf (clusterOf c.core) c.w.guest r with
  | none => .stop cSeqIllegal
  | some wf =>
    let op := c.q.actOp f wf r t o code n
    if !s.regionOk c r || !pairOk wf f.eff || (f == .f32 && c.q.asl == .none) || decide (511 < e0 + n - 1) || (g && t)
        || op.base % 16 != 0 || op.pitch % 16 != 0 || (f == .b4 && op.scale % 16 != 0) then .stop cSeqIllegal
    else if f == .b4 && ax != t then .stop cBlockAxis
    else if g then (if c.outside [c.q.indexSpan o n] then .stop cScratchBounds else .ok)
    else s.rangeWatch c (op.spans (if op.tr then kpOf r wf else n)) (accSpans (clusterOf c.core) r e0 n) (!z) true false

/-- R342 for `m.drain`, `m.zero`, `m.save` and `m.restore`: entries, and the scratchpad bytes of the last two. -/
def State.checkEntries (s : State) (c : SeqCur) (r : Region) (e0 n : Nat) (spans : List (Nat × Nat)) (rd wr memWr : Bool) : SeqCheck :=
  if !s.regionOk c r || decide (511 < e0 + n - 1) then .stop cSeqIllegal
  else s.rangeWatch c spans (accSpans (clusterOf c.core) r e0 n) rd wr memWr

/-! ## Posting (R333) -/

/-- Operations that stand in a tenant's reservation queue of 16 entries (R322, R333; log 73). -/
def State.tableUsed (s : State) (cluster tenant : Nat) : Nat :=
  (s.eops.filter (fun e => e.cluster == cluster && e.granted.isNone && s.tenantOf e.core == tenant)).length

/-- A word posted to the reservation table; a full table, or a throttle, holds the sequencer (R333, R419). -/
def State.postOp (s : State) (c : SeqCur) (i : Instr) (vecs : Option (List (List (Nat × Nat)))) : State :=
  let k := clusterOf c.core
  if 16 ≤ s.tableUsed k (s.tenantOf c.core) || (s.ctx c.w.guest).throttled then s.pass 1 else
  let s := s.perfWait k (s.tenantOf c.core)
  let id := s.nextId
  let prio := match mfind s.launches c.w.launch with | some l => l.prio | none => 0
  let wf := match i with | .mPass _ r _ _ _ _ _ _ _ _ => (s.latchOf k c.w.guest r).getD .bf16 | _ => .bf16
  let e : EOp := ⟨id, k, c.core, c.wslot, c.w.guest, prio, i, c.q, vecs, wf, s.cc, none, false, [], 0, [], 0⟩
  ({ s with nextId := id + 1, eops := s.eops ++ [e] }).modSeq c.core c.wslot (fun q => { q with posted := some id, gathering := none })

/-- A checked word: posted, stopped, or held at a record. -/
def State.afterCheck (s : State) (c : SeqCur) (x : SeqCheck) (go : State) : State :=
  match x with
  | .ok => go
  | .stop k => s.stopSeq c.core c.wslot (some k)
  | .watch u va => s.seqRecord c cWatch va u

/-- R328. -/
def execMWload (fmt : MFmt) (reg : Region) (t ax : Bool) (o : BitVec 2) (code scale : BitVec 19) (s : State) :
    Host.Outcome State Fault Refusal :=
  s.seqInstr (fun c => s.afterCheck c (s.checkWload c fmt reg t ax o code scale) (s.postOp c (.mWload fmt reg t ax o code scale) none))

/-- R330, R331: a gathered pass is posted N + 8 cc after its gather starts. -/
def execMPass (fmt : MFmt) (reg : Region) (t ax : Bool) (o : BitVec 2) (gth : Bool) (code : BitVec 19) (e0 nm : BitVec 9) (z : Bool)
    (s : State) : Host.Outcome State Fault Refusal :=
  s.seqInstr (fun c =>
    s.afterCheck c (s.checkPass c fmt reg t ax o gth code e0.toNat (nm.toNat + 1) z)
      (if gth then s.modSeq c.core c.wslot (fun q => { q with gathering := some s.cc })
       else s.postOp c (.mPass fmt reg t ax o gth code e0 nm z) none))

/-- R336. -/
def execMDrain (reg : Region) (e0 : BitVec 9) (nm : BitVec 4) (z : Bool) (s : State) : Host.Outcome State Fault Refusal :=
  s.seqInstr (fun c => s.afterCheck c (s.checkEntries c reg e0.toNat (nm.toNat + 1) [] true z false) (s.postOp c (.mDrain reg e0 nm z) none))

/-- R333. -/
def execMZero (reg : Region) (e0 nm : BitVec 9) (s : State) : Host.Outcome State Fault Refusal :=
  s.seqInstr (fun c => s.afterCheck c (s.checkEntries c reg e0.toNat (nm.toNat + 1) [] false true false) (s.postOp c (.mZero reg e0 nm) none))

/-- R345. -/
def execMSave (reg : Region) (o : BitVec 2) (code : BitVec 19) (e0 nm : BitVec 9) (s : State) : Host.Outcome State Fault Refusal :=
  s.seqInstr (fun c =>
    let span := (c.q.off o code, 4 * (nm.toNat + 1) * reg.count)
    s.afterCheck c (s.checkEntries c reg e0.toNat (nm.toNat + 1) [span] true false true) (s.postOp c (.mSave reg o code e0 nm) none))

/-- R345. -/
def execMRestore (reg : Region) (o : BitVec 2) (code : BitVec 19) (e0 nm : BitVec 9) (s : State) : Host.Outcome State Fault Refusal :=
  s.seqInstr (fun c =>
    let span := (c.q.off o code, 4 * (nm.toNat + 1) * reg.count)
    s.afterCheck c (s.checkEntries c reg e0.toNat (nm.toNat + 1) [span] false true false) (s.postOp c (.mRestore reg o code e0 nm) none))

/-! ## Barriers (R302, R340) -/

/-- The sequencer waits at a barrier: it has arrived in the current phase (R169). -/
def SeqCur.waitsAt (c : SeqCur) (n : Nat) : Option Nat :=
  match mfind c.w.bars n with
  | some b => if c.w.member n memSeq && mfind b.arr memSeq == some b.pn && decide (0 < b.en) then some b.pn else none
  | none => none

/-- Accumulator writes of the workgroup's groups that were dispatched before operation `m` are still outstanding. -/
def State.accOut (s : State) (c : SeqCur) (m : Nat) : Bool :=
  s.ops.any (fun x => x.2.kind == .accWrite && x.2.core == c.core && decide (x.2.id < m)
    && (match s.group x.2.core x.2.slot with | some g => g.wslot == c.wslot | none => false))

/-- The wait is over for the barrier; it ends once the accumulator writes that precede it are applied. -/
def State.seqPhaseSeen (s : State) (c : SeqCur) (m : Nat) : State :=
  if s.accOut c m then (s.modSeq c.core c.wslot (fun q => { q with bwait := none, mark := some m })).pass 1 else s.seqNext c

/-- The wait of `m.bar`: begun, going on, or over (R169, R340). -/
def State.seqWait (s : State) (c : SeqCur) (n : Nat) : State :=
  match c.q.mark with
  | some m => s.seqPhaseSeen c m
  | none =>
    match c.q.bwait with
    | some (k, p) =>
      let still : Bool := match mfind c.w.bars k with | some b => b.pn == p && decide (0 < b.en) | none => false
      if still then s.pass 1 else s.seqPhaseSeen c s.nextId
    | none =>
      if !c.w.member n memSeq then s.seqNext c
      else match c.waitsAt n with
        | some p => (s.modSeq c.core c.wslot (fun q => { q with bwait := some (n, p) })).pass 1
        | none => s.seqPhaseSeen c s.nextId

/-- R340: the arrival is held until the granted operations have retired; the sequencer goes on. -/
def execMBarArrive (b : BitVec 4) (s : State) : Host.Outcome State Fault Refusal :=
  s.seqInstr (fun c =>
    if !c.w.member b.toNat memSeq then s.seqNext c
    else (s.seqArrive c.core c.wslot b.toNat).seqNext c)

/-- R340: the wait looks at the arrivals that have taken effect. -/
def execMBarWait (b : BitVec 4) (s : State) : Host.Outcome State Fault Refusal := s.seqInstr (fun c => s.seqWait c b.toNat)

/-- R340: the arrival, and once it has taken effect the wait. -/
def execMBarSync (b : BitVec 4) (s : State) : Host.Outcome State Fault Refusal :=
  s.seqInstr (fun c =>
    if !c.w.member b.toNat memSeq then s.seqWait c b.toNat
    else
      let s := if c.q.arrived then s
        else (s.modSeq c.core c.wslot (fun q => { q with arrived := true })).seqArrive c.core c.wslot b.toNat
      match s.seqOf c.core c.wslot with
      | some c => if c.q.held.isEmpty then s.seqWait c b.toNat else s.pass 1
      | none => s)

/-! ## Control words (R343, R344) -/

/-- R344. -/
def execMLoop (k : BitVec 2) (cm : BitVec 16) (r : BitVec 2) (stride off : BitVec 16) (s : State) : Host.Outcome State Fault Refusal :=
  s.seqInstr (fun c =>
    if off = 0 then s.stopSeq c.core c.wslot (some cSeqIllegal) else
    let count := cm.toNat + 1
    let lc := (c.q.lc.getD k.toNat 0).toNat
    let lc := (if lc = 0 then count else lc) - 1
    let o := c.q.o.getD r.toNat 0 + BitVec.ofInt 19 (16 * stride.toInt)
    let q := { c.q with lc := lset c.q.lc k.toNat (BitVec.ofNat 16 lc), o := lset c.q.o r.toNat o }
    (s.modSeq c.core c.wslot (fun _ => if lc = 0 then q.next else q.jump off)).pass 1)

/-- R344. -/
def execMJmp (off : BitVec 16) (s : State) : Host.Outcome State Fault Refusal :=
  s.seqInstr (fun c =>
    if off = 0 then s.stopSeq c.core c.wslot (some cSeqIllegal)
    else (s.modSeq c.core c.wslot (fun q => q.jump off)).pass 1)

/-- R343: granted operations complete; CTXERR is not set. -/
def execMStop (s : State) : Host.Outcome State Fault Refusal :=
  s.seqInstr (fun c => (s.stopSeq c.core c.wslot none).pass 1)

/-- R324, R344. -/
def execMFmt (sel : BitVec 3) (v : BitVec 19) (s : State) : Host.Outcome State Fault Refusal :=
  s.seqInstr (fun c => (s.modSeq c.core c.wslot (fun q =>
    match sel.toNat with
    | 0 => { q with wpitch := v }
    | 1 => { q with apitch := v }
    | 2 => { q with ascale := v }
    | 3 => { q with gindex := v }
    | n => { q with o := lset q.o (n - 4) v })).seqNext c)

/-- R324, R344. -/
def execMSlice (w a : Slice) (s : State) : Host.Outcome State Fault Refusal :=
  s.seqInstr (fun c => (s.modSeq c.core c.wslot (fun q => { q with wsl := w, asl := a })).seqNext c)

/-! ## The stream (R136, R138, R323) -/

/-- The word at the sequencer's PC, with the cc at which it is available, where its block is the one last requested. -/
def Seq.wordAt (q : Seq) : Option (DWord × Nat) :=
  match q.block with
  | none => none
  | some (a, ws, t) =>
    let k := q.pc.toNat % 64 / 8
    if q.pc - BitVec.ofNat 64 (q.pc.toNat % 64) = a then (ws[k]?).map (fun w => (w, t + 40 + k)) else none

/-- R323: the block of the word needed is requested, and its words are read at their home, on another package once they have come
(R420; log 77); one beyond the global
addresses is absent (log 71). -/
def execSeqBlockFetch (core wslot : Nat) (s : State) : Host.Outcome State Fault Refusal :=
  .next (match s.seqOf core wslot with
    | none => s
    | some c =>
      if c.q.busy || c.q.wordAt.isSome || s.seqHalted core wslot then s
      else if c.q.pc.toNat % 8 ≠ 0 then s.stopSeq core wslot (some cSeqIllegal)
      else
        let a := c.q.pc.toNat / 64 * 64
        if 2 ^ 57 ≤ a then s.seqRecord c cPageAbsent c.q.pc.toNat 0 else
        match s.translate c.w.guest a .load with
        | .error k => s.seqRecord c k c.q.pc.toNat 0
        | .ok (pa, _) => match s.farGet (.seq (wkey core wslot)) c.w.guest (BitVec.ofNat 64 a) pa 64 with
          | (s, none) => s
          | (s, some bs) => (s.farDone (.seq (wkey core wslot))).modSeq core wslot (fun q =>
            { q with block := some (BitVec.ofNat 64 a, (List.range 8).map (fun k => BitVec.ofNat 64 (fieldLE bs (8 * k) 8)), s.cc) })).refresh

/-- R343: a resolved record lets the sequencer go on once the producer's earlier accumulator writes are applied; a
record whose producer has ended stops it. -/
def execSeqResume (core wslot : Nat) (s : State) : Host.Outcome State Fault Refusal :=
  s.event (fun s =>
    match s.seqOf core wslot with
    | none => s
    | some c =>
      if !c.q.heldRec then s else
      let mine (r : Rec) : Bool := r.kind == 4 && r.op == wkey core wslot
      match c.q.resolved with
      | some m =>
        let out := s.ops.any (fun x => x.2.kind == .accWrite && x.2.core == core && decide (x.2.id < m)
          && (match mfind c.w.groups c.w.prod with | some slot => x.2.slot == slot | none => false))
        if out then s else s.modSeq core wslot (fun q => { q with heldRec := false, resolved := none })
      | none =>
        if (s.producerOf core c.w).isSome then s else
        (s.dropRecs mine).stopSeq core wslot (some c.q.heldCause))

end Sys2Proof.Machine
end

