-- ==== Sys2Proof/Machine/Engine.lean ====
section
/-! DEFINITION. The matrix engine's own steps: gather, arbitration, grants, drains and retirement (R331 to R336, R340,
R345). -/

namespace Sys2Proof.Machine

/-! ## The gather unit (R331) -/

/-- The stored rows that an index vector names. -/
def gatherRows (m : Memory) (at_ n : Nat) : List (Option Nat) :=
  (List.range n).map (fun k => let x := rdLE m (at_ + 4 * k) 4; if x = 0xFFFFFFFF then none else some x)

/-- Byte ranges of the gathered rows, with their scales. -/
def Operand.gatherSpans (o : Operand) (rows : List (Option Nat)) : List (Nat × Nat) :=
  (rows.filterMap id).flatMap (fun r => (o.base + r * o.step, o.rowBytes)
    :: (if o.fmt = .b4 then [(o.scale + r * (o.len / 32), o.len / 32)] else []))

/-- R331: the vectors have been collected and the pass is posted; its formats are those of the latches as they now stand (R328,
R329). A row outside the allocation is found before a watch on the index vector, the rows or the entries (R342). -/
def execGatherComplete (core wslot : Nat) (s : State) : Host.Outcome State Fault Refusal :=
  s.event (fun s =>
    match s.seqOf core wslot with
    | none => s
    | some c => match c.q.gathering, c.q.wordAt.bind (fun w => decodeSeq w.1) with
      | some t, some (.mPass f r tr ax o g code e0 nm z) =>
        let n := nm.toNat + 1
        if s.cc < t + n + 8 || s.seqHalted core wslot then s else
        let rows := gatherRows (s.scratchOf core) (c.base + (c.q.indexSpan o n).1) n
        match s.latchOf (clusterOf core) c.w.guest r with
        | none => s.stopSeq core wslot (some cSeqIllegal)
        | some wf =>
          if !pairOk wf f.eff then s.stopSeq core wslot (some cSeqIllegal) else
          let op := c.q.actOp f wf r tr o code n
          let c' := { c with q := { c.q with gathering := none } }
          let s := s.modSeq core wslot (fun q => { q with gathering := none })
          s.afterCheck c' (s.rangeWatch c' (c.q.indexSpan o n :: op.gatherSpans rows) (accSpans (clusterOf core) r e0.toNat n) (!z)
              true false)
            (if 16 ≤ s.tableUsed (clusterOf core) (s.tenantOf core) || (s.ctx c.w.guest).throttled then s.modSeq core wslot (fun q => { q with gathering := some t })
             else s.postOp c' (.mPass f r tr ax o g code e0 nm z) (some (op.collect (s.scratchOf core) c.base (kpOf r wf) rows)))
      | _, _ => s)

/-! ## Resources (R333) -/

/-- Resources: quadrants 0 to 3, banks 4 to 7, edge ports 8 to 11. -/
def bankRes (r : Region) : List Nat := r.banks.map (· + 4)
/-- Cores of the cluster that take a region's rows (R335). -/
def portCores (r : Region) : List Nat := (List.range 4).filter (fun k => decide (r.rows.1 ≤ 32 * k) && decide (32 * k < r.rows.2))

/-- What an operation holds and for how many cc from its grant. -/
def EOp.holds (e : EOp) : List (Nat × Nat) :=
  match e.word with
  | .mWload _ r _ _ _ _ _ => r.quads.map (fun q => (q, 72))
  | .mPass f r _ _ _ _ _ _ nm _ =>
    let n := rateOf e.wf f.eff * (nm.toNat + 1)
    r.quads.map (fun q => (q, n)) ++ (bankRes r).map (fun b => (b, n + 136))
  | .mDrain r _ nm _ => (bankRes r ++ (portCores r).map (· + 8)).map (fun x => (x, nm.toNat + 1 + 16))
  | .mZero r _ nm => (bankRes r).map (fun x => (x, nm.toNat + 1 + 8))
  | .mSave r _ _ _ nm => (bankRes r).map (fun x => (x, nm.toNat + 1 + 8))
  | .mRestore r _ _ _ nm => (bankRes r).map (fun x => (x, nm.toNat + 1 + 8))
  | _ => []

/-- cc from grant to retirement. -/
def EOp.hold (e : EOp) : Nat := e.holds.foldl (fun m x => max m x.2) 0

/-- Region of an operation. -/
def EOp.region (e : EOp) : Region :=
  match e.word with
  | .mWload _ r _ _ _ _ _ => r
  | .mPass _ r _ _ _ _ _ _ _ _ => r
  | .mDrain r _ _ _ => r
  | .mZero r _ _ => r
  | .mSave r _ _ _ _ => r
  | .mRestore r _ _ _ _ => r
  | _ => .all

/-- A pass. -/
def EOp.isPass (e : EOp) : Bool := match e.word with | .mPass _ _ _ _ _ _ _ _ _ _ => true | _ => false

/-- A granted operation `x` still holds a resource against `e` at cc `now`: until it retires, but a pass's quadrants only
while it streams, and its banks not against a later pass of the same sequencer and region. -/
def EOp.blocks (x e : EOp) (now : Nat) : Bool :=
  match x.granted with
  | none => false
  | some g => x.holds.any (fun h => e.holds.any (fun k => k.1 == h.1)
      && !(decide (h.2 < x.hold) && decide (g + h.2 ≤ now))
      && !(decide (4 ≤ h.1) && x.isPass && e.isPass && x.core == e.core && x.wslot == e.wslot && x.region == e.region))

/-- Rank of posted operations (R334): aged ones first, then priority, then age. -/
def EOp.before (x y : EOp) : Bool :=
  if x.aged != y.aged then x.aged
  else decide (y.prio < x.prio) || (x.prio == y.prio && (decide (x.posted < y.posted) || (x.posted == y.posted && decide (x.id < y.id))))

/-- Posted operations of a cluster in rank order. -/
def State.ranked (s : State) (cluster : Nat) : List EOp :=
  (s.eops.filter (fun e => e.cluster == cluster && e.granted.isNone)).mergeSort (fun x y => !y.before x)

/-- The head arming of a core's edge port (R335). -/
def State.headArming (s : State) (core : Nat) : Option Arming := s.armings.find? (fun a => a.core == core)

/-- A drain's own condition: every core that takes its rows has a head arming of the drain's context (R335). -/
def State.armed (s : State) (e : EOp) : Bool :=
  match e.word with
  | .mDrain r _ _ _ => (portCores r).all (fun k => match s.headArming (4 * e.cluster + k) with
      | some a => a.guest == e.guest
      | none => false)
  | _ => true

/-! ## Grants (R334) -/

/-- The state with an operation changed. -/
def State.modEOp (s : State) (id : Nat) (f : EOp → EOp) : State :=
  { s with eops := s.eops.map (fun e => if e.id = id then f e else e) }

/-- A fresh start of the row halves of a region where another context used them (R322). -/
def State.useRegion (s : State) (e : EOp) : State :=
  (halvesOf e.region.rows.1 e.region.rows.2).foldl (fun s h => s.useHalf e.cluster h e.guest) s

/-- First scratchpad byte of the operation's workgroup. -/
def State.eopBase (s : State) (e : EOp) : Nat := match s.wgroup e.core e.wslot with | some w => 1024 * w.sbase | none => 0

/-- What a grant does at once: weights and latches, a pass's sums, a drain's armings. -/
def State.grantEffect (s : State) (e : EOp) : State :=
  let s := s.useRegion e
  let t := s.tenantOf e.core
  match e.word with
  | .mWload f r tr _ o code scale =>
    let op := e.seq.weightOp f r tr o code scale
    let base := s.eopBase e
    let m := s.scratchOf e.core
    (s.modCluster e.cluster (fun k => { k.load r op m base with
      latches := r.quads.foldl (fun l q => mset l q ⟨f.eff, r, e.seq.wsl, e.guest⟩) k.latches })).perfBusy e.cluster t 72
  | .mPass f r tr _ o _ code e0 nm _ =>
    let n := nm.toNat + 1
    let op := e.seq.actOp f e.wf r tr o code n
    let x := (s.cluster e.cluster).passSums r e.wf op (s.scratchOf e.core) (s.eopBase e) e0.toNat n e.vecs
    let s := s.modEOp e.id (fun e => { e with sums := x.1, flags := x.2 })
    ((s.perfAdd e.cluster t 0 1).perfAdd e.cluster t 1 n).perfBusy e.cluster t (rateOf e.wf f.eff * n)
  | .mDrain r _ _ _ =>
    let arms := (portCores r).filterMap (fun k => s.headArming (4 * e.cluster + k))
    let s := { s with armings := s.armings.filter (fun a => !arms.any (fun b => b.id == a.id)) }
    (s.modEOp e.id (fun e => { e with taken := arms })).perfAdd e.cluster t 4 1
  | _ => s

/-- A grant: the sequencer goes on in the next cc. -/
def State.grant (s : State) (e : EOp) : State :=
  let s := s.perfWait e.cluster (s.tenantOf e.core)
  let s := s.grantEffect e
  (s.modEOp e.id (fun e => { e with granted := some s.cc })).modSeq e.core e.wslot (fun q => { q.next with posted := none })

/-- A pass's latches no longer match (R328). -/
def State.mismatch (s : State) (e : EOp) : Bool := e.isPass && s.latchOf e.cluster e.guest e.region != some e.wf

/-- The key under which a cluster's matrix array has its issue slots withheld (R20). -/
def arrayKey (cluster : Nat) : Nat := 4096 + cluster

/-- One posted operation considered, with the resources that higher-ranked ones reserve; one of a throttled guest does not start
(R419). -/
def State.consider (acc : State × List Nat) (e : EOp) : State × List Nat :=
  let s := acc.1
  let need := e.holds.map (·.1)
  let free := !s.eops.any (fun x => x.cluster == e.cluster && x.blocks e s.cc) && !need.any (fun r => acc.2.contains r)
  if free && s.armed e && !(s.ctx e.guest).throttled && !(e.isPass && mget s.dev.withheld (arrayKey e.cluster) false) then
    (if s.mismatch e then (s.stopSeq e.core e.wslot (some cSeqIllegal), acc.2) else (s.grant e, acc.2))
  else (s, acc.2 ++ need)

/-- R334. -/
def execArbiterGrant (cluster : Nat) (s : State) : Host.Outcome State Fault Refusal :=
  s.event (fun s => ((s.ranked cluster).foldl State.consider (s, [])).1)

/-- R334: 4,096 cc. -/
def execArbiterAgePromotion (cluster eop : Nat) (s : State) : Host.Outcome State Fault Refusal :=
  s.event (fun s => s.modEOp eop (fun e => if e.cluster = cluster ∧ e.granted.isNone ∧ e.posted + 4096 ≤ s.cc then { e with aged := true } else e))

/-! ## Drains (R336) -/

/-- One entry of a row written into a lane's register, where the lane was guarded on and still lives. -/
def State.drainLane (s : State) (a : Arming) (k l : Nat) (v : Word) : State :=
  match s.group a.core a.slot with
  | none => s
  | some g =>
    let wanted : Bool := match mfind s.ops a.op with | some o => !o.dropped | none => false
    if wanted && k < a.n && laneOn a.m l && laneOn g.live l && !g.ended then s.putFrame a.core a.slot l (a.reg + k) v else s

/-- The armings that entry `k` was the last of complete (R336). -/
def State.drainEnd (s : State) (e : EOp) (n k : Nat) : State :=
  e.taken.foldl (fun s a => if k + 1 = min n a.n then s.completeOp a.op else s) s

/-- From G + 12 on, the armings that receive nothing are complete (R336). -/
def State.drainNone (s : State) (e : EOp) (g : Nat) : State :=
  if s.cc < g + 12 then s else e.taken.foldl (fun s a => if a.m = 0 then s.completeOp a.op else s) s

/-- R336: entry `k` of each row, at G + 12 + k over bus 0 or G + 14 + k over bus 1. -/
def execDrainWrite (cluster eop k : Nat) (s : State) : Host.Outcome State Fault Refusal :=
  s.event (fun s =>
    match s.eops.find? (fun e => e.id == eop && e.cluster == cluster) with
    | none => s
    | some e => match e.word, e.granted with
      | .mDrain r e0 nm z, some g =>
        let n := nm.toNat + 1
        let s := s.drainNone e g
        if k ≠ e.done ∨ n ≤ k ∨ s.cc < g + (if r.side = 1 then 12 else 14) + k then s else
        let acc := (s.cluster cluster).acc
        let key (row : Nat) : Nat := accKey row r.side (e0.toNat + k)
        let s := e.taken.foldl (fun s a => (List.range 32).foldl (fun s l =>
          s.drainLane a k l (mget acc (key (32 * (a.core % 4) + l)) 0)) s) s
        let cleared (m : AMap Word) : AMap Word := (List.range r.count).foldl (fun m i => mdel m (key (r.rows.1 + i))) m
        let s := if z then s.modCluster cluster (fun c => { c with acc := cleared c.acc }) else s
        (s.drainEnd e n k).modEOp eop (fun e => { e with done := k + 1 })
      | _, _ => s)

/-! ## Retirement (R333, R340, R345) -/

/-- Entries of a region written to scratchpad, row by row (R345). -/
def saveRows (m : Memory) (acc : AMap Word) (keys : List Nat) (at_ : Nat) : Memory :=
  (List.range keys.length).foldl (fun m i => wrLE m (at_ + 4 * i) 4 (mget acc (keys.getD i 0) 0).toNat) m

/-- Entries of a region read back (R345). -/
def restoreRows (m : Memory) (acc : AMap Word) (keys : List Nat) (at_ : Nat) : AMap Word :=
  (List.range keys.length).foldl (fun a i => mset a (keys.getD i 0) (BitVec.ofNat 32 (rdLE m (at_ + 4 * i) 4))) acc

/-- A pass raises its flags (R332); those of one cc stand over a write that clears in that cc (R274). -/
def Seq.raiseFlags (q : Seq) (now : Nat) (f : BitVec 3) : Seq :=
  { q with mxflags := q.mxflags ||| f, mxNew := (if q.mxAt = now then q.mxNew else 0) ||| f, mxAt := now }

/-- The updates of an operation that retires. -/
def State.retireEffect (s : State) (e : EOp) : State :=
  let acc := (s.cluster e.cluster).acc
  match e.word with
  | .mPass _ _ _ _ _ _ _ _ _ z =>
    let r := addSums acc e.wf.isInt z e.sums
    (s.modCluster e.cluster (fun k => { k with acc := r.1 })).modSeq e.core e.wslot (fun q =>
      q.raiseFlags s.cc (e.flags ||| r.2))
  | .mZero r e0 nm => s.modCluster e.cluster (fun k => { k with acc := (regionKeys r e0.toNat (nm.toNat + 1)).foldl mdel k.acc })
  | .mSave r o code e0 nm => s.setScratch e.core (saveRows (s.scratchOf e.core) acc (regionKeys r e0.toNat (nm.toNat + 1))
      (s.eopBase e + e.seq.off o code))
  | .mRestore r o code e0 nm =>
    let new := restoreRows (s.scratchOf e.core) acc (regionKeys r e0.toNat (nm.toNat + 1)) (s.eopBase e + e.seq.off o code)
    s.modCluster e.cluster (fun k => { k with acc := new })
  | _ => s

/-- The operation may retire at cc `now`: its hold is over, a drain has delivered, and no earlier operation on its banks
is left. -/
def State.mayRetire (s : State) (e : EOp) : Bool :=
  match e.granted with
  | none => false
  | some g =>
    decide (g + e.hold ≤ s.cc)
      && (match e.word with | .mDrain _ _ nm _ => e.done == nm.toNat + 1 | _ => true)
      && !s.eops.any (fun x => x.cluster == e.cluster && decide (x.id ≠ e.id) && (match x.granted with
          | some h => decide (h < g) && x.holds.any (fun a => decide (4 ≤ a.1) && e.holds.any (fun b => a.1 == b.1))
          | none => false))

/-- R333. -/
def execEngineOpRetire (cluster eop : Nat) (s : State) : Host.Outcome State Fault Refusal :=
  s.event (fun s =>
    match s.eops.find? (fun e => e.id == eop && e.cluster == cluster) with
    | none => s
    | some e =>
      if !s.mayRetire e then s else
      let s := s.retireEffect e
      (({ s with eops := s.eops.filter (fun x => x.id != eop) }).seqFlush e.core e.wslot).wgroupGone e.core e.wslot)

end Sys2Proof.Machine
end

