-- ==== Sys2Proof/Machine/Stage.lean ====
section
/-! DEFINITION. Stage pipelines: their descriptors, input rings and gathering timers (R292, R352 to R356). -/

namespace Sys2Proof.Machine

/-! ## Delivery rings (R292) -/

/-- A valid ring descriptor: its physical address, base, capacity, P and C. -/
structure InRing where
  pa : Nat
  base : Nat
  cap : Nat
  prod : Nat
  cons : Nat
  guest : Nat
  deriving DecidableEq, Repr

/-- The ring whose descriptor lies at a virtual address. -/
def State.inRing (s : State) (guest va : Nat) : Option InRing :=
  match s.translate guest va .write with
  | .error _ => none
  | .ok (pa, _) =>
    let f (o n : Nat) := rdLE s.mem (pa + o) n
    if powerIn (f 8 4) 1 (2 ^ 24) && f 20 12 == 0 then some ⟨pa, f 0 8, f 8 4, f 12 4, f 16 4, guest⟩ else none

/-- Records a ring holds, P − C, and its free entries. -/
def InRing.used (r : InRing) : Nat := (r.prod + 2 ^ 32 - r.cons) % 2 ^ 32
def InRing.free (r : InRing) : Nat := r.cap - r.used

/-- Physical address of the entry of index `i`. -/
def State.ringPlace (s : State) (guest : Nat) (r : InRing) (i : Nat) : Option Nat :=
  match s.translate guest (r.base + 4 * (i % r.cap)) .write with
  | .error _ => none
  | .ok (pa, _) => some pa

/-- The oldest `n` records, from C upwards. -/
def State.ringOldest (s : State) (guest : Nat) (r : InRing) (n : Nat) : Option (List Word) :=
  (List.range n).mapM (fun k => (s.ringPlace guest r (r.cons + k)).map (fun a => BitVec.ofNat 32 (rdLE s.mem a 4)))

/-- `n` records taken: C advances at the descriptor's home (R354). -/
def State.ringTake (s : State) (r : InRing) (n : Nat) : State :=
  s.putHome r.guest (r.pa + 16) (leBytes 4 ((r.cons + n) % 2 ^ 32))

/-- Records appended at the tail. -/
def State.ringAdd (s : State) (guest : Nat) (r : InRing) (ws : List Word) : Option State :=
  match (List.range ws.length).mapM (fun k => s.ringPlace guest r (r.prod + k)) with
  | none => none
  | some as =>
    let s := (as.zip ws).foldl (fun (s : State) x => s.putHome guest x.1 (leBytes 4 x.2.toNat)) s
    some (s.putHome guest (r.pa + 12) (leBytes 4 ((r.prod + ws.length) % 2 ^ 32)))

/-! ## Pipeline descriptors (R352) -/

/-- A field of a pipeline descriptor, and one of a stage's 32 bytes. -/
def Pipe.field (p : Pipe) (o n : Nat) : Nat := leNat ((p.desc.drop o).take n)
def Pipe.stage (p : Pipe) (k o n : Nat) : Nat := p.field (64 + 32 * k + o) n
def Pipe.nst (p : Pipe) : Nat := p.field 0 1 + 1
def Pipe.thresh (p : Pipe) : Nat := p.field 4 2

/-- Key of a stage on a cluster. -/
def stageKey (stage cluster : Nat) : Nat := stage * 256 + cluster

/-- The input ring of a stage on a cluster. -/
def State.stageRing (s : State) (p : Pipe) (stage cluster : Nat) : Option InRing :=
  s.inRing p.guest (p.stage stage 8 8 + 32 * cluster)

/-- Records in the input ring of a stage on a cluster. -/
def State.stageDepth (s : State) (p : Pipe) (stage cluster : Nat) : Nat :=
  match s.stageRing p stage cluster with
  | some r => r.used
  | none => 0

/-- Gathered groups of a stage that wait on a cluster. -/
def Pipe.gathered (p : Pipe) (stage cluster : Nat) : List (List Word) := mget p.waiting (stageKey stage cluster) []

/-- The stages of a pipeline on every cluster, but for stage 0. -/
def Pipe.places (p : Pipe) : List (Nat × Nat) :=
  (List.range (p.nst - 1)).flatMap (fun k => (List.range 144).map (fun n => (k + 1, n)))

/-- The gathering timers of a pipeline (R354): one runs while the ring holds a record and no gathered group waits. -/
def State.touchPipe (s : State) (p : Pipe) : Pipe :=
  if !p.live then p else
  { p with timer := p.places.foldl (fun t x =>
      let k := stageKey x.1 x.2
      if decide (0 < s.stageDepth p x.1 x.2) && (p.gathered x.1 x.2).isEmpty then mset t k (mget t k s.cc) else mdel t k) p.timer }

/-- The gathering timers are brought up to date. -/
def State.stageTouch (s : State) : State := { s with pipes := s.pipes.map (fun x => (x.1, s.touchPipe x.2)) }

/-- The state with a pipeline changed. -/
def State.modPipe (s : State) (n : Nat) (f : Pipe → Pipe) : State := { s with pipes := mmod s.pipes n f }

/-- Every input ring of a pipeline is empty and no gathered group waits (R355). -/
def State.pipeDrained (s : State) (p : Pipe) : Bool :=
  p.places.all (fun x => s.stageDepth p x.1 x.2 == 0 && (p.gathered x.1 x.2).isEmpty)

end Sys2Proof.Machine
end

