-- ==== Sys2Proof/Machine/Trailer.lean ====
section
/-! DEFINITION. The trailer of a run: `ENDRUN` (R78, R79, R83 to R85, R279 to R283, R285, R371, R394). -/

namespace Sys2Proof.Machine

/-! ## What the trailer needs before it commits -/

/-- Depth after the run (R68). -/
def Cur.exitDepth (c : Cur) : Nat := c.r.depth0 - c.r.image.dmin + c.r.stk.length

/-- The pending mask of the run (R79, R125). -/
def Run.pendMask (r : Run) : BitVec 8 :=
  (List.range 8).foldl (fun (m : BitVec 8) k => match r.stk[k]? with
    | some e => if e.pend.isSome then m ||| BitVec.ofNat 8 (2 ^ k) else m
    | none => m) 0

/-- The fall-through successor: the first 4-byte-aligned address at or after the end of the trailer (R78). -/
def Run.fall (r : Run) : Addr := (r.pc + 6 + 3) &&& ~~~(3 : Addr)

/-- Items of one kind that the run has staged. -/
def Run.count (r : Run) (p : Staged → Bool) : Nat := (r.staged.filter p).length

def isCpy : Staged → Bool | .cpy true _ _ => true | _ => false
def isTload : Staged → Bool | .tload true _ _ => true | _ => false
def isTret : Staged → Bool | .tret acts => acts | _ => false
/-- A `tret`, or a `trap`, whatever its guard (R91). -/
def formTret : Staged → Bool | .tret _ => true | _ => false
def formTrap : Staged → Bool | .trap _ _ => true | _ => false
def isReplay : Staged → Bool | .replay => true | _ => false
def isKill : Staged → Bool | .kill => true | _ => false
def isMcatch : Staged → Bool | .mcatch _ _ _ => true | _ => false

/-- The `trap` of the run, if one acted (R279); of several that act in one run, the first (log 68). -/
def Run.trapOf (r : Run) : Option (BitVec 8 × Mask) :=
  r.staged.findSome? (fun x => match x with | .trap n m => if m = 0 then none else some (n, m) | _ => none)

/-- The launch of a group. -/
def State.launchOf (s : State) (g : Group) : Option Launch := mfind s.launches g.launch

/-- What a trailer meets before it commits (R78, R79, R84, R189, R279, R280, R286, R306, R335). -/
inductive Before
  | ok (entry : List Byte)
  | fault (c : Cause) (m : Mask) (xa : AMap DWord)
  /-- WATCH_TENSOR, and the units covered (R400). -/
  | watch (u : BitVec 4) (m : Mask) (xa : AMap DWord)
  | wait (w : WaitOn)
  /-- The table entry stands at an address on another package (R420). -/
  | ask (va : Addr) (pa : Nat)
  | hold
  deriving DecidableEq, Repr

/-- A lane's access that a run has left to its trailer, as the watch units see it (R399). -/
structure Seen where
  lane : Nat
  space : Nat
  rd : Bool
  wr : Bool
  addr : DWord
  n : Nat

/-- The accesses of a staged item that R399 has checked. -/
def Cur.seenOf (c : Cur) (x : Staged) : List Seen :=
  let gen (rd wr : Bool) (n : Nat) (ls : List LaneReq) : List Seen := ls.map (fun q => ⟨q.lane, 0, rd, wr, q.va, n⟩)
  let acc (rd wr : Bool) (ls : List LaneReq) : List Seen := ls.map (fun q =>
    ⟨q.lane, 1, rd, wr, BitVec.ofNat 64 (accWindow (clusterOf c.core) q.va.toNat), 4⟩)
  match x with
  | .load n _ _ _ ls => gen true false n ls
  | .store n ls | .stw _ n ls => gen false true n ls
  | .atomic _ n _ _ _ ls => gen true true n ls
  | .ringput ls => gen true true 4 ls
  | .tload true va l => [⟨l, 0, true, false, va, 3088⟩]
  | .watch _ va l => [⟨l, 0, true, false, va, 128⟩]
  | .accld _ _ ls => acc true false ls
  | .accWrite ls => acc false true ls
  | _ => []

/-- The run's first instruction with an access that a unit covers by the trailer, where one has been armed since it was
executed (R286, R400): the units, the lanes and their addresses. -/
def State.watchLate (s : State) (c : Cur) : Option (BitVec 4 × Mask × AMap DWord) :=
  c.r.staged.findSome? (fun x =>
    let hits (q : Seen) : BitVec 4 := s.watchHits c.g.guest c.watchOff q.space q.rd q.wr q.addr.toNat q.n
    let ls := c.seenOf x
    let m := maskOf (fun l => ls.any (fun q => q.lane == l && hits q != 0))
    if m = 0 then none else
      some (ls.foldl (fun u q => u ||| hits q) 0, m,
        xaddrOf m (fun l => match ls.find? (fun q => q.lane == l) with | some q => q.addr | none => 0)))

/-- The checks of a SAFE trailer, and its table entry (R84). A table that is not 64-byte aligned, which R349 does not refuse, is
read from its address as it stands, by the translation of the entry's first byte (R40; log 80). -/
def State.safeEntry (s : State) (c : Cur) (idx : Nat) : Before :=
  match s.launchOf c.g with
  | none => .fault cRunForm c.r.mask []
  | some l =>
    let va := l.hdr.safetab + BitVec.ofNat 64 (64 * idx)
    if c.exitDepth ≠ c.g.floor ∨ l.hdr.nsafe ≤ idx then .fault cRunForm c.r.mask []
    else match s.translate c.g.guest va.toNat .load with
      | .error k => .fault k c.r.mask (xaddrOf c.r.mask (fun _ => va))
      | .ok (pa, _) => match s.farBytes (.group (gkey c.core c.slot)) pa 64 with
        | some bs => .ok bs
        | none => .ask va pa

/-- `n` loads of tables find a bank each, in order (R189). -/
def State.banksFor (s : State) (core slot : Nat) : Nat → List Nat → Bool
  | 0, _ => true
  | n + 1, busy => match s.bankFor core slot busy with
    | some b => s.banksFor core slot n (b :: busy)
    | none => false

/-- The bytes of an `sts` that a copy in flight covers by the trailer (R306). -/
def State.stsMeets (s : State) (c : Cur) : Option WaitOn :=
  let base := (s.allocOf c).2
  c.r.staged.findSome? (fun x => match x with
    | .sts n ls => (ls.find? (fun q => s.scoreHit c.core (base + q.va.toNat) n)).map (fun q =>
        WaitOn.copy (base + q.va.toNat) (base + q.va.toNat + n))
    | _ => none)

/-- The lanes of the run's synchronising accesses that no longer translate: the cause of the first, and the lanes of its
instruction that meet it (R229). -/
def State.syncLost (s : State) (c : Cur) : Option (Cause × Mask × AMap DWord) :=
  let lost (ls : List LaneReq) : List (LaneReq × Cause) := ls.filterMap (fun q =>
    match s.translate c.g.guest q.va.toNat .write with | .error k => some (q, k) | .ok _ => none)
  c.r.staged.findSome? (fun x =>
    let ls := match x with | .stw _ _ ls => ls | .atomic _ _ _ _ _ ls => ls | .ringput ls => ls | _ => []
    match lost ls with
    | [] => none
    | (q, k) :: rest =>
      let here := ((q, k) :: rest).filter (fun y => y.2 == k)
      some (k, maskOf (fun l => here.any (fun y => y.1.lane == l)), here.map (fun y => (y.1.lane, y.1.va))))

/-- Everything checked at the trailer, in order. -/
def State.beforeCommit (s : State) (c : Cur) (safe : Bool) (idx : Nat) (pmask : BitVec 8) : Before :=
  if c.r.pendMask ≠ pmask then .fault cRunForm c.r.mask []
  else if c.r.count formTrap ≠ 0 ∧ c.r.xfer.isSome then .fault cRunForm c.r.mask []
  else if c.r.count formTret ≠ 0 ∧ c.exitDepth ≠ c.g.floor then .fault cRunForm c.r.mask []
  else if c.r.advances ≠ 0 ∧ s.asgenWaits c.g.guest c.r.advances then .hold
  else if (s.withMapped c).isNone then .hold
  else if let some f := s.watchLate c then .watch f.1 f.2.1 f.2.2
  else if let some f := s.syncLost c then .fault f.1 f.2.1 f.2.2
  else if !s.banksFor c.core c.slot (c.r.count isTload) [] then .wait .bank
  else if (s.stsMeets c).isSome then .wait ((s.stsMeets c).getD .nothing)
  else if c.r.count isCpy ≠ 0 ∧ 8 < s.scoreHeld c.core + c.r.count isCpy then .wait .score
  else if c.r.count isMcatch ≠ 0 ∧ 4 < s.portHeld c.core + c.r.count isMcatch then .wait .port
  else if safe then s.safeEntry c idx
  else .ok []

/-! ## Register and stack writes -/

/-- Frame registers with the run's writes and, for `call`, the link (R77, R78, R163). -/
def Group.commitFrame (g : Group) (r : Run) : AMap Lanes :=
  let f := r.frm.foldl (fun f x => mset f x.1 (mergeLanes x.2.1 x.2.2 (mget f x.1 []))) g.frame
  if r.link = 0 then f else
  let one (f : AMap Lanes) (n : Nat) (v : Word) : AMap Lanes := mset f n (mergeLanes r.link (mkLanes (fun _ => v)) (mget f n []))
  one (one f 0 (loWord r.fall)) 1 (hiWord r.fall)

/-- Predicates with the run's writes. -/
def Group.commitPred (g : Group) (r : Run) : AMap Mask :=
  r.prd.foldl (fun f x => mset f x.1 ((x.2.2 &&& x.2.1) ||| (mget f x.1 0 &&& ~~~x.2.1))) g.prd

/-- Window words with the run's stack, by depth index modulo 8, and beneath it what the debugger wrote inside the run (R68, R248,
R403). -/
def Group.commitWin (g : Group) (r : Run) (depth : Nat) : AMap Lanes :=
  (List.range r.stk.length).foldl (fun w k => match r.stk[k]? with
    | some e => mset w ((depth - 1 - k) % 8) (mergeLanes r.mask e.v (mget w ((depth - 1 - k) % 8) []))
    | none => w) (r.wpoke.foldl (fun w x => mset w x.1 (mergeLanes x.2.1 x.2.2 (mget w x.1 []))) g.win)

/-- The register and stack writes of a run become the group's state (R78). -/
def Group.commit (g : Group) (c : Cur) : Group :=
  { g with frame := g.commitFrame c.r, prd := g.commitPred c.r, win := g.commitWin c.r c.exitDepth,
           uni := c.r.uni.foldl (fun u x => mset u x.1 x.2) g.uni,
           segw := c.r.segw, dkey := c.r.dkey, drctr := c.r.drctr, dcoin := c.r.dcoin, aflags := c.r.aflags, xpc := c.r.xpc,
           run := none }

/-! ## Dispatch of operations (R75, R76, R78) -/

/-- An operation of the run, without lanes, result or counter. -/
def Cur.newOp (c : Cur) (kind : OpKind) (gen : BitVec 12) (now : Nat) : Op :=
  { id := 0, kind := kind, core := c.core, slot := c.slot, guest := c.g.guest, pc := c.r.hpc, mask := c.r.mask, lanes := []
    dest := .none, ctr := none, size := 0, ext := .zero, atom := .add, sgn := false, scope := .dev, wit := false
    gen := gen, at_ := now, status := none, dropped := false, saved := false }

/-- Lanes waiting to be performed. -/
def todoLanes (ls : List LaneReq) : List OpLane := ls.map (fun q => ⟨q, .todo⟩)
/-- Lanes whose data is at hand. -/
def doneLanes (ls : List LaneReq) : List OpLane := ls.map (fun q => ⟨q, .done⟩)
/-- The lanes of requests, as a mask. -/
def reqMask (ls : List LaneReq) : Mask := maskOf (fun l => ls.any (fun q => q.lane == l))

/-- The stack destination of staged item `k`: its pending entries on the exit stack (R75, R79). -/
def Cur.destOf (c : Cur) (k : Nat) : Dest :=
  let ps := (List.range c.r.stk.length).filter (fun i => match c.r.stk[i]? with | some e => e.pend == some k | none => false)
  match ps.getLast? with
  | some i => .stack (c.exitDepth - 1 - i) ps.length
  | none => .none

/-- Pending entries and pending frame bits of a destination. -/
def Group.setPending (g : Group) (m : Mask) (id : Nat) : Dest → Group
  | .none => g
  | .stack i n => { g with pendEnt := g.pendEnt ++ (List.range n).map (fun k => ⟨i + k, m, id⟩) }
  | .frame i n => { g with pendFrm := g.pendFrm ++ (List.range n).map (fun k => ⟨i + k, id⟩) }

/-- An operation dispatched: its number, its counter and its pending state (R75, R76). -/
def State.dispatch (s : State) (c : Cur) (o : Op) : State × Nat :=
  let id := s.nextId
  let s := { s with nextId := id + 1, ops := mset s.ops id { o with id := id } }
  (s.modGroup c.core c.slot (fun g => (g.raise o.ctr).setPending c.r.mask id o.dest), id)

/-- The translation that a synchronising access has found (R229). -/
def State.placed (s : State) (guest : Nat) (va : Addr) : Option Nat :=
  match s.translate guest va.toNat .write with
  | .ok (pa, _) => some pa
  | .error _ => none

/-- Lanes released to the group's store queue (R222, R253); those of a synchronising access with their translation. -/
def State.releaseSQ (s : State) (c : Cur) (id size : Nat) (pc : Addr) (sync : Bool) (ls : List LaneReq) : State :=
  let new : List SQEntry := ls.map (fun q => ⟨id, q.lane, q.va, size, q.val, (s.ctx c.g.guest).asgen, pc,
    if sync then s.placed c.g.guest q.va else none⟩)
  s.modGroup c.core c.slot (fun g => { g with sq := g.sq ++ new })

/-- An operation whose lanes are stores: dispatched and released. -/
def State.dispatchStore (s : State) (c : Cur) (o : Op) (ls : List LaneReq) : State :=
  let r := s.dispatch c { o with lanes := todoLanes ls, mask := reqMask ls }
  r.1.releaseSQ c r.2 o.size o.pc (o.kind != .store) ls

/-- `sts` bytes written into the scratchpad (R220). -/
def State.stsWrite (s : State) (c : Cur) (size : Nat) (ls : List LaneReq) : State :=
  let base := (s.allocOf c).2
  s.setScratch c.core (ls.foldl (fun m q => wrLE m (base + q.va.toNat) size q.val.toNat) (s.scratchOf c.core))

/-- Die of a core (R9, R11). -/
def dieOf (core : Nat) : Nat := core / 144

/-- The group holds its workgroup's critical token (R391). -/
def State.holdsToken (s : State) (core : Nat) (g : Group) : Bool :=
  match s.wgroup core g.wslot with
  | some w => w.token == s.w1Of g
  | none => false

/-- The oldest message of the mailbox of a context on a core's die taken: words and status (R291). -/
def State.takeMsg (s : State) (c : Cur) : State × List Word × Word :=
  let x := s.ctx c.g.guest
  match mget x.mail (dieOf c.core) [] with
  | [] => (s, [], 2)
  | m :: rest =>
    let s := s.setCtx c.g.guest { x with mail := mset x.mail (dieOf c.core) rest }
    let s := if m.tok then s.modWG c.core c.g.wslot (fun w => { w with token := s.w1Of c.g }) else s
    (s, m.words, BitVec.ofNat 32 (1 + m.pkg.toNat * 8 + m.die.toNat * 65536))

/-- Barrier wait of a group (R169, R170). -/
def State.bwaitNow (s : State) (c : Cur) (n : Nat) : State :=
  let j := s.w1Of c.g
  match s.wgroup c.core c.g.wslot with
  | none => s
  | some w => match mfind w.bars n with
    | none => s
    | some b =>
      if w.member n j ∧ mfind b.arr j = some b.pn ∧ 0 < b.en then
        s.modGroup c.core c.slot (fun g => { g with
          bwait := g.bwait.filter (fun x => decide ((mfind w.bars x.1).map (·.pn) = some x.2)) ++ [(n, b.pn)], bwaitAt := s.cc })
      else s

/-- Loads observe the held lines of their workgroup from the trailer of a `wwait` on a witness of workgroup scope on: the run of
that trailer too, wherever they stand in it (R236). -/
def State.loadScope (s : State) (c : Cur) : Scope :=
  if (s.group c.core c.slot).any (·.wgSeen) || c.r.staged.any (fun x => match x with | .dropL1 _ wg => wg | _ => false)
  then .wg else .dev

/-- One staged item performed at the trailer, in program order (R78). -/
def State.perform (s : State) (c : Cur) (k : Nat) (x : Staged) : State :=
  let gen := (s.ctx c.g.guest).asgen
  let op (kind : OpKind) (ctr : Ctr) : Op := { c.newOp kind gen s.cc with ctr := some ctr }
  let arr (s : State) (n : Nat) : State := s.modWG c.core c.g.wslot (fun w => w.arrive n (s.w1Of c.g))
  match x with
  | .sts size ls => s.stsWrite c size ls
  | .store size ls => s.dispatchStore c { op .store .st with size := size } ls
  | .stw sc size ls => s.dispatchStore c { op .stw .st with size := size, scope := sc, wit := true, dest := c.destOf k } ls
  | .load size ext wit f ls =>
    (s.dispatch c { op .load .ld with
      size := size, ext := ext, wit := wit, lanes := todoLanes ls, mask := reqMask ls,
      scope := s.loadScope c,
      dest := match f with | some n => .frame n (sizeWords size) | none => c.destOf k }).1
  | .prf ls => (s.dispatch c { c.newOp .prf gen s.cc with lanes := todoLanes ls, mask := reqMask ls, size := 1 }).1
  | .atomic a size sgn sc wit ls =>
    s.dispatchStore c { op .atomic .ld with size := size, atom := a, sgn := sgn, scope := sc, wit := wit, dest := c.destOf k } ls
  | .arrive n => arr s n
  | .bwait n => s.bwaitNow c n
  | .bsync n => (arr s n).bwaitNow c n
  | .yield => s.modGroup c.core c.slot (fun g => { g with yieldAt := some (s.cc + 16), inE := none })
  | .sleep n => if n = 0 then s else s.modGroup c.core c.slot (fun g => { g with
      sleepAt := some (max (g.sleepAt.getD 0) (s.cc + n)), inE := none })
  | .grow n =>
    let s := match s.growFor c 0 n with
      | some q => { s with growq := s.growq.erase q }
      | none => s
    let new := s.pickGranules c.core n
    s.modGroup c.core c.slot (fun g => { g with
      fgran := g.fgran + n, grans := g.grans ++ new, frame := g.frame.filter (fun x => decide (x.1 < 8 * g.fgran)) })
  | .shrink n =>
    let s := match s.group c.core c.slot with
      | some g => s.parkGrans c.core g (g.fgran - n)
      | none => s
    (s.modGroup c.core c.slot (fun g => { g with
      fgran := g.fgran - n, grans := g.grans.take (g.fgran - n), frame := g.frame.filter (fun x => decide (x.1 < 8 * (g.fgran - n))) })).granulesBack c.core
  | .trap _ _ | .tret _ | .replay | .kill => s
  | .idle k => (s.dispatch c (op .timer k)).1
  | .pgmap ps => (ps.foldlM (fun (s : State) x => s.putPage c.g.guest x) s).getD s
  | .mould h base len fr => s.putMould c.g.guest h base len fr
  | .watch n va l => (s.dispatch c { op (.watch n) .ld with lanes := todoLanes [⟨l, va, 0, 0, 0⟩], size := 128, scope := s.loadScope c }).1
  | .unwatch n => s.modCtx c.g.guest (fun y => { y with watch := y.watch.modify n (fun w => { w with armed := false }) })
  | .trcm n => s.trace c.g.guest c.core c.slot c.r.split 0xB (leBytes 4 n.toNat)
  | .pmark n => s.modGroup c.core c.slot (fun g => { g with pmark := n })
  | .enq w m va =>
    (s.dispatch c { op (if w then .enqw else .enq) .ld with
      mask := m, dest := c.destOf k, lanes := doneLanes [⟨0, va, 0, 0, 0⟩], status := if m = 0 then some 0 else none }).1
  | .lsend m d words =>
    (s.dispatch c { op .lsend .ld with
      mask := m, dest := c.destOf k, wit := s.holdsToken c.core c.g, size := dieOf c.core, status := if m = 0 then some 0 else none,
      lanes := doneLanes ((List.range 32).map (fun l => ⟨l, d.setWidth 64, (laneAt words l).setWidth 128, 0, 0⟩)) }).1
  | .mrecv m =>
    if m = 0 then (s.dispatch c { op .mrecv .ld with mask := 0, dest := c.destOf k, status := some 0 }).1 else
    let t := s.takeMsg c
    (t.1.dispatch c { op .mrecv .ld with
      mask := m, dest := c.destOf k, status := some t.2.2,
      lanes := doneLanes ((List.range 32).map (fun l => ⟨l, 0, (laneAt t.2.1 l).setWidth 128, 0, 0⟩)) }).1
  | .ringput ls => s.dispatchStore c { op .ringput .ld with size := 4, scope := .sys, dest := c.destOf k } ls
  | .asgen => s.advanceAsgen c.g.guest
  | .wstat n v => s.modCtx c.g.guest (fun y => { y with watch := y.watch.modify n (fun w =>
      { w with hit := w.hit && !v.getLsbD 2 }) })
  | .mxflags v => s.modWG c.core c.g.wslot (fun w => { w with seq := w.seq.map (fun q =>
      { q with mxflags := q.mxflags &&& ~~~(v.setWidth 3) ||| (if q.mxAt = s.cc then q.mxNew else 0) }) })
  | .tload acts va l =>
    if acts = false then (s.dispatch c (op .timer .ld)).1 else
    match s.bankFree c.core c.slot with
    | none => s
    | some b =>
      let r := s.dispatch c { op (.tload b) .ld with lanes := todoLanes [⟨l, va, 0, 0, 0⟩], size := 3088, scope := s.loadScope c }
      let s := r.1.modGroup c.core c.slot (fun g => if g.tab = some b then { g with tab := none } else g)
      { s with banks := mset s.banks (c.core * 2 + b) ⟨.loading, va, c.g.guest, [], 0, r.2⟩ }
  | .tbind =>
    let cur := mfind s.curBank c.core
    let s := match s.group c.core c.slot with | some g => s.unbind c.core g.tab | none => s
    let s := s.modGroup c.core c.slot (fun g => { g with tab := cur })
    match cur with
    | some b => { s with banks := mmod s.banks (c.core * 2 + b) (fun k => { k with binds := k.binds + 1 }) }
    | none => s
  | .cpy acts va l =>
    if acts then
      let r := s.dispatch c (op (.chain s.nextId) .cp)
      { r.1 with chains := r.1.chains ++ [
        { id := r.2, op := r.2, core := c.core, wslot := c.g.wslot, slot := c.slot, cluster := clusterOf c.core
          guest := c.g.guest, sup := c.g.sup, lane := l, elem := va, index := 0, phase := .waiting, bytes := [], moved := 0, cause := 0
          scoutAt := 0, scoutOff := false, scout := 0, after := .waiting, watchOff := 0, range := [], at_ := s.cc }] }
    else (s.dispatch c (op .timer .cp)).1
  | .cpyscout n => s.modWG c.core c.g.wslot (fun w => { w with scout := n })
  | .cpystat => s.modWG c.core c.g.wslot (fun w => { w with felem := 0, fcause := 0, fail := false })
  | .unveil m h =>
    (s.dispatch c { op (.unveil h.toNat) .cp with mask := m, dest := c.destOf k, status := if m = 0 then some 0 else none }).1
  | .mcatch f n m =>
    let r := s.dispatch c { op .arming .tl with dest := .frame f n, mask := m }
    { r.1 with armings := r.1.armings ++ [⟨r.2, r.2, c.core, c.slot, c.g.guest, f, n, m⟩] }
  | .accld f n cells =>
    (s.dispatch c { op .accld .tl with dest := .frame f n, lanes := todoLanes cells, mask := reqMask cells }).1
  | .accWrite cells => (s.dispatch c { op .accWrite .tl with lanes := todoLanes cells, mask := reqMask cells }).1
  | .dropL1 bounds wg =>
    let old (l : L1Line) : Bool := match l.kind with
      | .clean t _ _ => l.core == c.core && bounds.any (fun b => dtLater b t)
      | _ => false
    let s := { s with l1 := s.l1.filter (fun l => !old l) }
    if wg then s.modGroup c.core c.slot (fun g => { g with wgSeen := true }) else s

/-- Every staged item in program order. -/
def State.performAll (s : State) (c : Cur) : State :=
  (List.range c.r.staged.length).foldl (fun s k => match c.r.staged[k]? with
    | some x => s.perform c k x
    | none => s) s

/-! ## The safe record (R83 to R85) -/

/-- A staged item sets the no-flashback flag, or names frame registers it will write (R85). -/
def SafeRec.hitBy (r : SafeRec) : Staged → Bool
  | .enq _ m _ => m != 0
  | .lsend m _ _ => m != 0
  | .mrecv m => m != 0
  | .ringput ls => !ls.isEmpty
  | .load size _ _ (some f) ls => !ls.isEmpty && (List.range (sizeWords size)).any (fun k => r.frameLive (f + k))
  | .mcatch f n m => m != 0 && (List.range n).any (fun k => r.frameLive (f + k))
  | .accld f n ls => !ls.isEmpty && (List.range n).any (fun k => r.frameLive (f + k))
  | _ => false

/-- The run sets the no-flashback flag (R85); what no lane wrote is no write (R90). -/
def Cur.setsNofb (c : Cur) : Bool :=
  c.r.nofb || c.r.frm.any (fun x => x.2.1 != 0 && c.g.safe.frameLive x.1) || c.r.uni.any (fun x => c.g.safe.uniLive x.1)
    || c.r.prd.any (fun x => x.2.1 != 0 && c.g.safe.prdLive x.1) || (c.r.link != 0 && (c.g.safe.frameLive 0 || c.g.safe.frameLive 1))
    || c.r.staged.any c.g.safe.hitBy

/-- The parked parts. -/
def Group.parkedParts (g : Group) : List Part :=
  match g.parked with | some k => k.splits.filterMap id ++ k.pend ++ k.ovf | none => []

/-- The parts of the group, the parked ones among them. -/
def Group.allParts (g : Group) : Nat := g.parts.length + g.parkedParts.length

/-- The run is one of a maquette (R87). -/
def Cur.inMaq (c : Cur) : Bool :=
  c.g.maq.isSome && (match c.g.splits.getD c.r.split none with | some p => p.maq | none => false)

/-- The count, the flag and, at a SAFE trailer, the record (R83 to R85). A maquette's runs leave them, and the last part that
comes to the resume PC ends the maquette (R87). -/
def Group.commitSafe (g : Group) (c : Cur) (safe : Bool) (idx : Nat) (entry : List Byte) : Group :=
  let g := { g with maq := if (g.parts ++ g.parkedParts).any (·.maq) then g.maq else none }
  if c.inMaq then g
  else if safe then
    { g with safe := ⟨some idx, entry, g.segw, g.dkey, g.drctr, g.dcoin⟩, runs := 0, nofb := decide (g.allParts ≠ 1),
             preempt := g.preempt || g.gangStop.isSome }
  else { g with runs := g.runs + 1, nofb := g.nofb || c.setsNofb }

/-! ## Successors (R58, R78, R92, R160, R165) -/

/-- Lanes of the run that exit. -/
def Cur.exiting (c : Cur) : Mask := maskOf (fun l => laneOn c.r.mask l && mfind c.r.succ l == some none)

/-- Successor of a lane that goes on. -/
def Cur.succOf (c : Cur) (l : Nat) : Addr := match mfind c.r.succ l with | some (some a) => a | _ => c.r.fall

/-- Distinct successors in ascending PC order. -/
def Cur.succs (c : Cur) : List Addr :=
  (((lanesOf (c.r.mask &&& ~~~c.exiting)).map c.succOf).dedup).mergeSort (fun a b => decide (a.toNat ≤ b.toNat))

/-- Lanes that go to a successor. -/
def Cur.lanesTo (c : Cur) (a : Addr) : Mask :=
  maskOf (fun l => laneOn (c.r.mask &&& ~~~c.exiting) l && c.succOf l == a)

/-- The parts of the run's lanes (R58); those of a maquette's run go on with it until they come to the resume PC (R87). -/
def Cur.newParts (c : Cur) (now : Nat) : List Part :=
  let res := match c.g.splits.getD c.r.split none with
    | some p => p.res - c.r.image.dmin + c.r.stk.length
    | none => c.r.stk.length
  c.succs.map (fun a => { Part.arriving a (c.lanesTo a) c.exitDepth res now with maq := c.inMaq && c.g.maq != some a })

/-- The path packet or packets of the run (R394). -/
def State.tracePath (s : State) (c : Cur) : State :=
  let put (t : Nat) (bs : List Byte) (s : State) : State := s.trace c.g.guest c.core c.slot c.r.split t bs
  let gone := maskOf (fun l => laneOn c.r.mask l && (mfind c.r.succ l).isSome)
  match c.r.xfer with
  | none => s
  | some k =>
    if gone = 0 then put 1 [] s else
    match k with
    | .direct =>
      if gone = c.r.mask then put 2 [] s
      else if c.succs.length ≤ 1 then put 1 [] s
      else put 3 (leBytes 4 gone.toNat) s
    | .indirect => c.succs.foldl (fun s a => put 4 (leBytes 8 a.toNat ++ leBytes 4 (c.lanesTo a).toNat) s) s
    | .exit => put 7 (leBytes 4 c.exiting.toNat) s

/-- A promotion at a trailer (R64). -/
def State.promoteAt (s : State) (core slot : Nat) : State :=
  match s.group core slot with
  | none => s
  | some g =>
    if g.sup || !g.pend.any (fun p => p.due) then s else
    let p := Group.promote s.cc g
    ((s.setGroup core slot p.1.markClear).traceSlots core slot p.2).keepOvf core slot

/-- Pending entries into free slots, promotions, and overflow entries into the hardware list (R59, R60, R64). -/
def State.boundaryMoves (s : State) (core slot : Nat) : State := (s.fillAt core slot).promoteAt core slot

/-- Requests for granules that the part of the run that commits has made and does not commit leave the queue (R276; log 69). -/
def State.growDone (s : State) (c : Cur) : State :=
  if s.growq.any (fun q => q.isOf c.core c.slot c.r.hpc c.r.mask) then
    { s with growq := s.growq.filter (fun q => !q.isOf c.core c.slot c.r.hpc c.r.mask) }.granulesBack c.core
  else s

/-! ## replay and tret (R280, R283, R371) -/

/-- The record that XCAUSE names, by its position (R283). -/
def State.namedRec (s : State) (core slot : Nat) (g : Group) : Option Nat :=
  let cls := nbits g.xcause.toNat 7 6
  if cls = 1 ∨ cls = 2 then
    s.recs.findIdx? (fun r => r.core == core && r.guest == g.guest && r.slot == slot && r.pinned
      && r.store == decide (cls = 2) && r.hw == some (nbits g.xcause.toNat 20 16))
  else none

/-- RSLV lanes deliver their data; the others go out again (R283, R371). -/
def State.replayLoad (s : State) (r : Rec) : State :=
  match mfind s.ops r.op with
  | none => s
  | some o =>
    let s := (lanesOf r.rslv).foldl (fun s l =>
      let d := mget r.data l 0
      (s.deliverLane o l ((List.range (sizeWords o.size)).map (fun k => (d >>> (32 * k)).setWidth 32))).modOp r.op
        (fun o => o.setLane l .done)) s
    let again := r.unf &&& ~~~r.rslv
    let gen := (s.ctx r.guest).asgen
    (s.modOp r.op (fun o => { o with gen := gen, lanes := o.lanes.map (fun x =>
      if laneOn again x.req.lane && x.st != .done then { x with st := .todo } else x) })).settleOp r.op

/-- The lanes of a store record are released again, in ascending lane order (R371); no counter rises (R283). -/
def State.replayStore (s : State) (core slot : Nat) (r : Rec) : State :=
  let ls : List LaneReq := (lanesOf r.unf).map (fun l => ⟨l, mget r.addr l 0, mget r.data l 0, 0, 0⟩)
  let id := s.nextId
  let size := 2 ^ (r.size.toNat % 8)
  let gen := (s.ctx r.guest).asgen
  let o : Op := { id := id, kind := .store, core := core, slot := slot, guest := r.guest, pc := r.pc, mask := r.unf
                  lanes := todoLanes ls, dest := .none, ctr := none, size := size, ext := .zero, atom := .add, sgn := false
                  scope := .dev, wit := false, gen := gen, at_ := s.cc, status := none, dropped := false, saved := false }
  let new : List SQEntry := ls.map (fun q => ⟨id, q.lane, q.va, size, q.val, gen, r.pc, none⟩)
  ({ s with nextId := id + 1, ops := mset s.ops id o }).modGroup core slot (fun g => { g with sq := g.sq ++ new })

/-- The record of a chain is resolved: the scout and the data engine go on from the stopped page (R308). -/
def Chain.resumed (x : Chain) : Chain :=
  { x with scoutOff := false, phase := if x.phase = .stopped then x.after else x.phase }

/-- A record is reissued (R283, R308, R343, R371); it stands empty afterwards. -/
def State.replayRec (s : State) (core slot i : Nat) : State :=
  match s.recs[i]? with
  | none => s
  | some r =>
    let s := { s with recs := s.recs.modify i (fun r => { r with unf := 0, rslv := 0 }) }
    if r.unf = 0 then s
    else if r.store then s.replayStore core slot r
    else if r.kind = 3 then { s with chains := s.chains.map (fun x => if x.id = r.op then x.resumed else x) }
    else if r.kind = 4 then
      { s with wgroups := mmod s.wgroups r.op (fun w => { w with seq := w.seq.map (fun q => { q with resolved := some s.nextId }) }) }
    else s.replayLoad r

/-- The record named by XCAUSE.IDX is reissued (R283). -/
def State.replayNow (s : State) (core slot : Nat) : State :=
  match s.group core slot with
  | none => s
  | some g => match s.namedRec core slot g with
    | none => s
    | some i => s.replayRec core slot i

/-- The records a group's handler had pinned (R366, R370): a replayed one and a store's go, the others stand again. -/
def State.unpin (s : State) (core slot : Nat) : State :=
  let mine (r : Rec) : Bool := r.core == core && r.slot == slot && r.pinned
  let s := s.dropRecs (fun r => mine r && (r.unf == 0 || r.store))
  { s with recs := s.recs.map (fun r => if mine r then { r with pinned := false, delivered := false } else r) }

/-- The handler ends (R280, R281). -/
def State.leaveHandler (s : State) (core slot : Nat) : State :=
  match s.group core slot with
  | none => s
  | some g =>
    let s := s.trace g.guest core slot 0 9 (leBytes 8 g.xpc.toNat)
    (s.setGroup core slot (g.leaveHandler s.cc)).unpin core slot

/-! ## The commit -/

/-- What follows the commit: trap, `kill`, the end of the handler, the end of the group, or the next boundary (R78). Of a trap
and a `tret` that both act in a run the trap does, and escalates (log 68). -/
def State.afterCommit (s : State) (c : Cur) : State :=
  match s.group c.core c.slot with
  | none => s
  | some g =>
    if c.r.count isKill ≠ 0 then s.killGroup c.core c.slot c.r.hpc cKilled 0 (some c.r.split)
    else if g.live = 0 then s.endGroup c.core c.slot
    else match c.r.trapOf with
      | some (n, m) =>
        if g.sup then s.escalate c.core c.slot cTrap n none
        else s.deliver c.core c.slot (.slot c.r.split) ⟨3, 0, n, cTrap, c.r.fall, m, []⟩
      | none =>
        if g.sup ∧ (c.r.count isTret ≠ 0 ∨ g.parts.isEmpty) then s.leaveHandler c.core c.slot else s

/-- The trailer commits as one step (R78). -/
def State.commitRun (s : State) (c : Cur) (safe : Bool) (idx : Nat) (entry : List Byte) : State :=
  let s := (s.trailed c.core c.slot).modGroup c.core c.slot (fun g => (g.passOver s.cc).commit c)
  let s := (s.performAll c).growDone c
  let s := if c.r.count isReplay ≠ 0 then s.replayNow c.core c.slot else s
  let s := s.tracePath c
  let s := s.modGroup c.core c.slot (fun g =>
    ((g.exitLanes c.exiting).placeParts c.r.split s.cc (c.newParts s.cc)).commitSafe c safe idx entry)
  let s := if c.exiting = 0 then s else s.exitRecs c.core c.slot c.exiting
  let s := (s.afterCommit c).releaseJoins c.core c.slot 4
  let s := (s.boundaryMoves c.core c.slot).serveSync c.core c.slot
  (s.stepStop c).refresh

/-- R78: the trailer. -/
def execEndrun (safe : Bool) (idx : BitVec 11) (pmask : BitVec 8) (s : State) : Host.Outcome State Fault Refusal :=
  match s.cur with
  | none => .fault .noRun
  | some c => .next (match s.beforeCommit c safe idx.toNat pmask with
    | .ok entry => s.commitRun c safe idx.toNat entry
    | .fault k m xa => (s.preciseFault c k m xa).refresh
    | .watch u m xa => ((s.raiseWatch c u).preciseFault c cWatch m xa).refresh
    | .ask va pa => ((s.farWant (.group (gkey c.core c.slot)) c.g.guest va pa 64).putRun c { c.r with holding := true }).pass 1
    | .wait w => ((s.rollback c.core c.slot c.r.split w).copyEdge c w).refresh
    | .hold => (s.putRun c { c.r with holding := true }).pass 1)

end Sys2Proof.Machine
end

