-- ==== Sys2Proof/Machine/Home.lean ====
section
/-! DEFINITION. The steps of the memory system: loads, stores, homes, held lines, evictions, completions (R215, R216,
R222 to R229, R245, R251 to R261, R286, R292, R366, R370, R418). -/

namespace Sys2Proof.Machine

/-! ## Loads (R215 to R217, R256) -/

/-- The launch of the group in a slot. -/
def State.launchAt (s : State) (core slot : Nat) : Nat := match s.group core slot with | some g => g.launch | none => 0

/-- Bytes that an accepted access touches; a ring append those of the descriptor. -/
def State.entrySize (s : State) (e : AQEntry) : Nat :=
  match e.act with
  | .store bs => bs.length
  | .stw bs => bs.length
  | .ringput _ => 24
  | .atomic | .fill _ => match mfind s.ops e.op with | some o => o.size | none => 0

/-- An unaccepted entry of the group's store queue, released before the load, overlaps its bytes (R256; log 81), or an access of
the same lane stands before it: a store or atomic that its home has not applied, or a load not performed (R223). -/
def State.storeAhead (s : State) (o : Op) (q : LaneReq) : Bool :=
  match s.group o.core o.slot with
  | none => false
  | some g =>
    g.sq.any (fun e => decide (e.op < o.id) && s.overlap o.core g e.va e.size q.va o.size)
      || s.aq.any (fun e => e.core == o.core && e.slot == o.slot && e.lane == q.lane && decide (e.op < o.id)
          && (match e.act with | .fill _ => false | _ => true) && s.overlap o.core g e.va (s.entrySize e) q.va o.size)
      || s.ops.any (fun x => x.2.core == o.core && x.2.slot == o.slot && x.2.reads && decide (x.1 < o.id)
          && x.2.lanes.any (fun y => y.req.lane == q.lane && y.st != .done && s.overlap o.core g y.req.va x.2.size q.va o.size))

/-- The running number in its workgroup of a lane of the group in a slot, as held lines keep it. -/
def State.laneKey (s : State) (core slot l : Nat) : Nat := match s.group core slot with | some g => 32 * s.w1Of g + l | none => l

/-- A load of `n` bytes from `off` on observes a held line of its own workgroup: it bears a witness of workgroup scope or follows
a `wwait` on one (R236, R256), or its own lane has written the bytes there (R223). -/
def State.seesHeld (s : State) (o : Op) (q : LaneReq) (off n : Nat) (x : L1Line) : Bool :=
  witScope q.wit == 1 || o.scope == .wg ||
    x.own.any (fun w => w.1 == s.laneKey o.core o.slot q.lane && rangesMeet w.2.1 w.2.2 off n)

/-- The clean L1 line a load may use (R251, R256). -/
def State.l1Hit (s : State) (core guest line : Nat) (wit : DWord) : Option L1Line :=
  s.l1.find? (fun x => x.core == core && x.line == line && (match x.kind with
    | .clean t gen g => g == guest && gen == (s.ctx guest).asgen && leaseLive s.dtime t Config.lease
        && (witScope wit == 0 || !dtLater (witBound wit) t)
    | _ => false))

/-- The held line of a workgroup in its core's L1 (R258). -/
def State.heldLine (s : State) (core wslot line : Nat) : Option L1Line :=
  s.l1.find? (fun x => x.core == core && x.line == line && (match x.kind with | .held w _ _ => w == wslot | _ => false))

/-- Bytes of a line from an address on. -/
def lineBytes (data : List Byte) (addr n : Nat) : List Byte := (data.drop (addr % 128)).take n

/-- A lane of a load or prefetch has its bytes. -/
def State.laneData (s : State) (o : Op) (l : Nat) (bs : List Byte) : State :=
  if o.kind = .prf then (s.modOp o.id (fun o => o.setLane l .done)).settleOp o.id
  else s.loadDone o.id l (loadWords o.size o.ext bs)

/-- A lane of a load meets a fault; a prefetch ignores it (R216, R225). -/
def State.laneFault (s : State) (o : Op) (l : Nat) (k : Cause) : State :=
  if o.kind = .prf then (s.modOp o.id (fun o => o.setLane l .done)).settleOp o.id else s.loadFault o.id l k

/-- The fault that a lane of a load meets, which may be detected while an access stands before it still (R216). -/
def State.laneMeets (s : State) (o : Op) (q : LaneReq) (wslot : Nat) : Option Cause :=
  match aperture q.va with
  | .none => some cAddrForm
  | .scratch => if (s.scratchTarget o.core wslot q.va o.size).isNone then some cScratchBounds else none
  | .thread => match s.privFill o.core o.guest (q.va &&& ~~~(127 : Addr)) .load with | .error k => some k | .ok _ => none
  | .global => match s.translate o.guest q.va.toNat .load with | .error k => some k | .ok _ => none

/-- One lane of a load takes its bytes from a source, where R256 allows that source now. -/
def State.loadLane (s : State) (o : Op) (q : LaneReq) (src : LoadSrc) : State :=
  let wslot := match s.group o.core o.slot with | some g => g.wslot | none => 0
  if let some k := s.laneMeets o q wslot then s.laneFault o q.lane k else
  if s.storeAhead o q then s else
  match aperture q.va with
  | .none => s
  | .scratch =>
    match s.scratchTarget o.core wslot q.va o.size with
    | none => s
    | some (k, a) => if s.scoreHit k a o.size then s else s.laneData o q.lane (rdBytes (s.scratchOf k) a o.size)
  | .thread =>
    let line := q.va &&& ~~~(127 : Addr)
    match s.privFill o.core o.guest line .load with
    | .error _ => s
    | .ok s =>
      if s.privHere o.core o.guest line then s.laneData o q.lane (lineBytes (s.privData o.core o.guest line) q.va.toNat o.size) else s
  | .global =>
    match s.translate o.guest q.va.toNat .load with
    | .error _ => s
    | .ok (pa, _) =>
      let own := (s.heldLine o.core wslot (pa / 128)).filter (fun x => s.seesHeld o q (pa % 128) o.size x)
      match src with
      | .l1 => match s.l1Hit o.core o.guest (pa / 128) q.wit with
        | some x => s.laneData o q.lane (lineBytes x.data pa o.size)
        | none => s
      | .held => match own with
        | some x => s.laneData o q.lane (lineBytes x.data pa o.size)
        | none => s
      | .fill =>
        if own.isSome then s else
        let owner := match s.group o.core o.slot with | some g => g.wid | none => 0
        let e : AQEntry := ⟨pa, q.va, o.pc, .fill s.dtime, o.id, q.lane, o.core, o.slot, o.guest, s.launchAt o.core o.slot, owner, (s.ctx o.guest).asgen⟩
        (s.enqueue e).modOp o.id (fun o => o.setLane q.lane .queued)

/-- R256. -/
def execLoadPerform (op lane : Nat) (src : LoadSrc) (s : State) : Host.Outcome State Fault Refusal :=
  s.event (fun s =>
    match mfind s.ops op with
    | none => s
    | some o =>
      if (o.kind = .load ∨ o.kind = .prf) ∧ o.saved = false then
        match o.lanes.find? (fun x => x.req.lane == lane && x.st == .todo) with
        | some x => s.loadLane o x.req src
        | none => s
      else s)

/-- The oldest entry of a line in its home's apply queue (R254). -/
def State.oldest (s : State) (line : Nat) : Option (Nat × AQEntry) :=
  match s.aq.findIdx? (fun e => e.addr / 128 == line) with
  | none => none
  | some i => (s.aq[i]?).map (fun e => (i, e))

/-- A fill request served: the line is installed with its stamp and the lane has its bytes (R245, R255). -/
def State.serveFill (s : State) (i : Nat) (e : AQEntry) (stamp : DTime) : State :=
  let s := { s with aq := s.aq.eraseIdx i }
  match mfind s.ops e.op with
  | none => s
  | some o =>
    if e.gen ≠ (s.ctx e.guest).asgen then s.modOp e.op (fun o => o.setLane e.lane .todo) else
    let line := e.addr / 128
    let data := s.homeLine line
    let clean (x : L1Line) : Bool := x.core == e.core && x.line == line && (match x.kind with | .clean _ _ _ => true | _ => false)
    let s := if s.l1.any (fun x => x.core == e.core && x.line == line && !clean x) then s
      else
        let s := ({ s with l1 := s.l1.filter (fun x => !clean x) }).l1Room e.core
        { s with l1 := ⟨e.core, line, data, .clean stamp e.gen e.guest, []⟩ :: s.l1 }
    s.laneData o e.lane (lineBytes data e.addr o.size)

/-- The line has been applied to, or a fill served from it, in this cc: nothing more is applied to it (R254; log 89). -/
def State.lineBusy (s : State) (line : Nat) : Bool := mfind s.lastApply line == some s.cc || mfind s.lastFill line == some s.cc

/-- R255; a fill is served in no cc in which its line is applied to, and several may be in one (R254; log 89). A fill from another
package comes with its response (R420). -/
def execFillServe (line : Nat) (s : State) : Host.Outcome State Fault Refusal :=
  s.event (fun s =>
    match s.oldest line with
    | some (i, e) => match e.act with
      | .fill t =>
        if isRemote e.addr || !s.homeUp e.addr || mfind s.lastApply line = some s.cc then s
        else { s with lastFill := mset s.lastFill line s.cc }.serveFill i e t
      | _ => s
    | none => s)

/-! ## Stores accepted (R222, R253, R370) -/

/-- The record of one faulting lane of a plain store (R367, R370). -/
def Op.storeRec (o : Op) (owner : DWord) (q : LaneReq) (k : Cause) : Rec :=
  { core := o.core, guest := o.guest, slot := o.slot, pc := o.pc, unf := BitVec.ofNat 32 (2 ^ q.lane), rslv := 0, cause := k
    kind := 2, size := sizeByte o.size false, dest := 0, owner := owner, gen := o.gen, seqno := 0, hw := none
    pinned := false, delivered := false, store := true, addr := [(q.lane, q.va)], data := [(q.lane, q.val)], op := o.id }

/-- Faulting lanes of a plain store that no record holds yet: those that live are recorded; where all have exited and no
record stands, the error record takes the first (R370). `none`: no room. -/
def State.storeRecord (s : State) (o : Op) : Option State :=
  let live := s.liveOf o
  let bad := o.lanes.filterMap (fun x => match x.st with | .faulted k => some (x.req, k) | _ => none)
  let owner := match s.group o.core o.slot with | some g => g.wid | none => 0
  match bad with
  | [] => some s
  | (_, k) :: _ =>
    match bad.filter (fun x => laneOn live x.1.lane) with
    | [] => if s.recs.any (fun r => r.isFor o.id) then some s
            else some ((s.errorEntry o.guest o.pc owner k 0 o.core).groupErr o.core o.slot)
    | here => here.foldlM (fun (s : State) x => s.recordLane (o.storeRec owner x.1 x.2) x.1.lane) s

/-- A plain store whose lanes are all accepted or faulted is finished, with a record for those that faulted (R222). -/
def State.finishStore (s : State) (id : Nat) : State :=
  match mfind s.ops id with
  | none => s
  | some o =>
    if o.lanes.any (fun x => x.st == .todo) then s
    else match s.storeRecord o with
      | some s => s.completeOp id
      | none => s

/-- A faulting lane that lives is recorded as soon as its fault is detected (R370). -/
def State.recordStore (s : State) (id l : Nat) : State :=
  match mfind s.ops id with
  | none => s
  | some o =>
    match o.lanes.find? (fun x => x.req.lane == l) with
    | some ⟨q, .faulted k⟩ =>
      if !laneOn (s.liveOf o) l then s else
      match s.recordLane (o.storeRec (match s.group o.core o.slot with | some g => g.wid | none => 0) q k) l with
      | some s => s.modOp id (fun o => o.setLane l .done)
      | none => s
    | _ => s

/-- A lane of a plain store is accepted or has faulted. -/
def State.storeLane (s : State) (e : SQEntry) (st : LaneSt) : State :=
  ((s.modOp e.op (fun o => o.setLane e.lane st)).recordStore e.op e.lane).finishStore e.op

/-- An operation is of the group in a slot, be it that it bears the number of the group's escalation (R282, R382). -/
def Op.ofGroup (o : Op) (core slot : Nat) (g : Group) : Bool := o.isOf core slot || g.esc.any (fun e => o.core == ghostOf e.id)

/-- A load of the same lane that stands before the store and touches its bytes has not been performed, be it that a record
holds it (R223). -/
def State.loadAhead (s : State) (core slot : Nat) (g : Group) (e : SQEntry) : Bool :=
  s.ops.any (fun x => x.2.ofGroup core slot g && x.2.reads && decide (x.2.id < e.op)
    && x.2.lanes.any (fun y => y.req.lane == e.lane && y.st != .done && s.overlap core g y.req.va x.2.size e.va e.size))

/-- A plain store of the lane to the same line stands in an apply queue under another generation: until it has been sent again in
its place, no later access of the lane to the line goes (R245). -/
def State.staleAhead (s : State) (core slot : Nat) (g : Group) (e : SQEntry) : Bool :=
  s.aq.any (fun x => x.core == core && x.slot == slot && x.lane == e.lane && x.gen != (s.ctx g.guest).asgen
    && (match x.act with | .store bs => s.sameLine core g x.va bs.length e.va e.size | _ => false))

/-- The access of a plain store faults, as may be seen while a load stands before it still (R222, R223). -/
def State.storeMeets (s : State) (core : Nat) (g : Group) (e : SQEntry) (o : Op) : Bool :=
  o.kind == .store && (match aperture e.va with
    | .none => true
    | .scratch => (s.scratchTarget core g.wslot e.va e.size).isNone
    | .thread => (match s.privFill core g.guest (e.va &&& ~~~(127 : Addr)) .write with | .error _ => true | .ok _ => false)
    | .global => (match s.translate g.guest e.va.toNat .write with | .error _ => true | .ok _ => false))

/-- What an accepted access does at its home. -/
def aqAct (o : Op) (e : SQEntry) : AQAct :=
  match o.kind with
  | .stw => .stw (leBytes e.size e.val.toNat)
  | .atomic => .atomic
  | .ringput => .ringput (e.val.setWidth 32)
  | _ => .store (leBytes e.size e.val.toNat)

/-- Where an entry's access goes: as a synchronising access was translated before commit, else as it translates now (R229). -/
def State.placeEntry (s : State) (guest : Nat) (e : SQEntry) : Except Cause Nat :=
  match e.pa with
  | some pa => .ok pa
  | none => (s.translate guest e.va.toNat .write).map (·.1)

/-- Acceptance of one store-queue entry (R253). -/
def State.accept (s : State) (core slot i : Nat) (g : Group) (e : SQEntry) (o : Op) : State :=
  let gone (s : State) : State := s.modGroup core slot (fun g => { g with sq := g.sq.eraseIdx i })
  match aperture e.va with
  | .none => (gone s).storeLane e (.faulted cAddrForm)
  | .scratch =>
    match s.scratchTarget core g.wslot e.va e.size with
    | none => (gone s).storeLane e (.faulted cScratchBounds)
    | some (k, a) =>
      if s.scoreHit k a e.size then s
      else ((gone s).setScratch k (wrLE (s.scratchOf k) a e.size e.val.toNat)).storeLane e .done
  | .thread =>
    let line := e.va &&& ~~~(127 : Addr)
    match s.privFill core g.guest line .write with
    | .error k => (gone s).storeLane e (.faulted k)
    | .ok s' => ((gone s').privStore core g.guest line (e.va.toNat % 128) (leBytes e.size e.val.toNat)).storeLane e .done
  | .global =>
    match s.placeEntry g.guest e with
    | .error k => if o.kind = .store then (gone s).storeLane e (.faulted k) else s
    | .ok pa =>
      let a : AQEntry := ⟨pa, e.va, e.pc, aqAct o e, e.op, e.lane, core, slot, g.guest, g.launch, g.wid, (s.ctx g.guest).asgen⟩
      let s := gone (s.enqueue a)
      if o.kind = .store then s.storeLane e .done else s.modOp e.op (fun o => o.setLane e.lane .queued)

/-- R253: no earlier entry of the queue to the same line may be left; an access of the lane that the store must come after holds
it back (R223, R245). -/
def execStoreAccept (core slot idx : Nat) (s : State) : Host.Outcome State Fault Refusal :=
  s.event (fun s =>
    match s.group core slot with
    | none => s
    | some g => match g.sq[idx]? with
      | none => s
      | some e => match mfind s.ops e.op with
        | none => s
        | some o =>
          if (g.sq.take idx).any (fun x => s.sameLine core g x.va x.size e.va e.size) || s.staleAhead core slot g e
              || (s.loadAhead core slot g e && !s.storeMeets core g e o) then s
          else s.accept core slot idx g e o)

/-! ## Homes (R224, R228, R254, R258, R292) -/

/-- The result an atomic leaves in memory (R228). -/
def atomicNew (op : AtomOp) (n : Nat) (sgn : Bool) (old val cmp : Nat) : Nat :=
  let s (x : Nat) : Int := if sgn then (BitVec.ofNat (8 * n) x).toInt else (x : Int)
  match op with
  | .add => (old + val) % 2 ^ (8 * n)
  | .min => if s old ≤ s val then old else val
  | .max => if s val ≤ s old then old else val
  | .and => old &&& val
  | .or => old ||| val
  | .xor => old ^^^ val
  | .xch => val
  | .cas => if old = cmp then val else old
  | .fadd => (Fl.f32.add .rn (Fl.f32.decode old) (Fl.f32.decode val)).1

/-- The issuing core's clean copy takes an apply's bytes; its stamp stays (R254). -/
def State.patchL1 (s : State) (core addr : Nat) (bs : List Byte) : State :=
  { s with l1 := s.l1.map (fun x => match x.kind with
      | .clean _ _ _ => if x.core = core ∧ x.line = addr / 128 then { x with data := patchLine x.data (addr % 128) bs } else x
      | _ => x) }

/-- Held copies of a line are written back and released (R258); `none` while a dirty log is full. -/
def State.recall (s : State) (line : Nat) : Option State :=
  (s.l1.filter (fun x => x.line == line && (match x.kind with | .held _ _ _ => true | _ => false))).foldlM
    (fun s x => (s.writeBackLog x).map (fun s => s.dropLine x)) s

/-- The words a synchronising lane answers: old value, then witness (R224, R227). -/
def syncWords (o : Op) (old : Nat) (w : DWord) : List Word :=
  (if o.kind = .atomic then (List.range (sizeWords o.size)).map (fun k => BitVec.ofNat 32 (old / 2 ^ (32 * k))) else [])
    ++ (if o.wit then [loWord w, hiWord w] else [])

/-- A lane of a synchronising access has been applied: its results and its completion. -/
def State.syncDone (s : State) (o : Op) (l : Nat) (ws : List Word) : State :=
  (s.answer o l ws).settleOp o.id

/-- The DTIME of the home of an extended physical address: this package's, and for memory of another package one that the spec
leaves open within SKEW of it (R250, R254; log 25). -/
def State.homeTime (s : State) (a : Nat) : State × DTime :=
  if a < physSpan ∨ hostAddr 0 ≤ a then (s, s.dtime) else
  let r := s.freeWord
  (r.1, s.dtime + BitVec.ofNat 48 (r.2.toNat % (2 * Config.skew - 1)) - BitVec.ofNat 48 (Config.skew - 1))

/-- The witness of an apply at a home's DTIME, for the workgroup whose group in a slot released the access (R224, R230). -/
def State.mintWit (s : State) (core slot : Nat) (sc : Scope) (t : DTime) : DWord :=
  let wslot := match s.group core slot with | some g => g.wslot | none => 0
  mkWit (scopeCode sc) (s.domainOf core wslot sc) t

/-- The physical address of the entry that an append to the ring at `pa` would write, where it writes one (R292). -/
def State.ringEntry (s : State) (guest pa : Nat) : Option Nat :=
  let f (o n : Nat) := rdLE s.mem (pa + o) n
  if !powerIn (f 8 4) 1 (2 ^ 24) || f 20 12 ≠ 0 || decide (f 8 4 ≤ (f 12 4 + 2 ^ 32 - f 16 4) % 2 ^ 32) then none
  else match s.translate guest (f 0 8 + 4 * (f 12 4 % f 8 4)) .write with
    | .error _ => none
    | .ok (q, _) => some q

/-- A ring append at the descriptor's home: state and status (R292). An entry address that does not translate as
writable gives 3 (log 10). -/
def State.ringAppend (s : State) (guest pa : Nat) (v : Word) : State × Word :=
  let f (o n : Nat) := rdLE s.mem (pa + o) n
  if !powerIn (f 8 4) 1 (2 ^ 24) || f 20 12 ≠ 0 then (s, 3)
  else if f 8 4 ≤ (f 12 4 + 2 ^ 32 - f 16 4) % 2 ^ 32 then (s, 2)
  else match s.translate guest (f 0 8 + 4 * (f 12 4 % f 8 4)) .write with
    | .error _ => (s, 3)
    | .ok (q, _) =>
      let s := s.putHome guest q (leBytes 4 v.toNat)
      ({ s with mem := wrLE s.mem (pa + 12) 4 ((f 12 4 + 1) % 2 ^ 32) }, 1)

/-- An entry written at its device home: bytes into memory and into the issuer's copy. -/
def State.applyBytes (s : State) (e : AQEntry) (bs : List Byte) : State :=
  { s with mem := wrBytes s.mem e.addr bs }.patchL1 e.core e.addr bs

/-- An apply at a device or system home (R254). -/
def State.applyHome (s : State) (e : AQEntry) : State :=
  match e.act with
  | .store bs => s.applyBytes e bs
  | .stw bs => match mfind s.ops e.op with
    | some o =>
      let t := s.homeTime e.addr
      (t.1.applyBytes e bs).syncDone o e.lane (syncWords o 0 (t.1.mintWit e.core e.slot o.scope t.2))
    | none => s.applyBytes e bs
  | .atomic => match mfind s.ops e.op with
    | some o =>
      let old := rdLE s.mem e.addr o.size
      let q := o.req e.lane
      let new := atomicNew o.atom o.size o.sgn old q.val.toNat q.cmp.toNat
      let t := s.homeTime e.addr
      (t.1.applyBytes e (leBytes o.size new)).syncDone o e.lane (syncWords o old (t.1.mintWit e.core e.slot o.scope t.2))
    | none => s
  | .ringput v => match mfind s.ops e.op with
    | some o => let r := s.ringAppend e.guest e.addr v; (r.1.syncDone o e.lane [r.2]).stageTouch
    | none => s
  | .fill _ => s

/-- An apply at the held line of a workgroup (R258, R263). -/
def State.applyHeld (s : State) (e : AQEntry) (o : Op) (x : L1Line) (wslot : Nat) : State :=
  let old := leNat (lineBytes x.data e.addr o.size)
  let q := o.req e.lane
  let bs := match e.act with
    | .stw bs => bs
    | _ => leBytes o.size (atomicNew o.atom o.size o.sgn old q.val.toNat q.cmp.toNat)
  let y : L1Line := { x with data := patchLine x.data (e.addr % 128) bs, kind := .held wslot s.cc e.guest
                             own := (s.laneKey e.core e.slot e.lane, e.addr % 128, bs.length) :: x.own }
  ({ s with l1 := s.l1.map (fun z => if z = x then y else z) }).syncDone o e.lane (syncWords o old (s.mintWit e.core e.slot o.scope s.dtime))

/-- The group that released an accepted access stands in its slot still, and has not ended. -/
def State.ownerHere (s : State) (e : AQEntry) : Bool :=
  match s.group e.core e.slot with
  | some g => g.wid == e.owner && g.launch == e.launch && !g.ended
  | none => false

/-- An accepted store faults: its lane is recorded for the group that released it; where that has ended, the error record takes
it (R370). `none`: no room for the record (R366). -/
def State.lateFault (s : State) (e : AQEntry) (bs : List Byte) (k : Cause) : Option State :=
  if !s.ownerHere e then some ((s.errorEntry e.guest e.pc e.owner k 0 e.core).launchErr e.launch) else
  s.storeRecord { id := e.op, kind := .store, core := e.core, slot := e.slot, guest := e.guest, pc := e.pc, mask := 0
                  lanes := [⟨⟨e.lane, e.va, BitVec.ofNat 128 (leNat bs), 0, 0⟩, .faulted k⟩], dest := .none, ctr := none
                  size := bs.length, ext := .zero, atom := .add, sgn := false, scope := .dev, wit := false
                  gen := e.gen, at_ := s.cc, status := none, dropped := false, saved := false }

/-- A plain store of another generation is rejected: translated and sent again in its place, or it faults (R245). -/
def State.rejectStore (s : State) (i : Nat) (e : AQEntry) : State :=
  match s.translate e.guest e.va.toNat .write with
  | .ok (pa, _) => { s with aq := s.aq.set i { e with addr := pa, gen := (s.ctx e.guest).asgen } }
  | .error k =>
    match e.act with
    | .store bs => (({ s with aq := s.aq.eraseIdx i }).lateFault e bs k).getD s
    | _ => { s with aq := s.aq.eraseIdx i }

/-- A write to a ring's entry is readied as any other write at a home: held copies recalled, the page logged (R258, R418). -/
def State.ringReady (s : State) (e : AQEntry) : Option State :=
  match e.act with
  | .ringput _ => match s.ringEntry e.guest e.addr with
    | some q => (s.recall (q / 128)).bind (fun s => s.logPage e.guest q)
    | none => some s
  | _ => some s

/-- The oldest entry of a line applied, where its home may (R254, R258, R419). -/
def State.applyOldest (s : State) (i : Nat) (e : AQEntry) : State :=
  let line := e.addr / 128
  let done (s : State) : State := { s with aq := s.aq.eraseIdx i, lastApply := mset s.lastApply line s.cc }
  let plain : Bool := match e.act with | .store _ => true | _ => false
  let wg : Bool := match mfind s.ops e.op with | some o => o.scope == .wg && (o.kind == .stw || o.kind == .atomic) | none => false
  let wslot := match s.group e.core e.slot with | some g => g.wslot | none => 0
  if plain ∧ e.gen ≠ (s.ctx e.guest).asgen then s.rejectStore i e
  else if wg then
    match s.heldLine e.core wslot line, mfind s.ops e.op with
    | some x, some o => (done s).applyHeld e o x wslot
    | _, _ => s
  else match ((s.recall line).bind (fun s => s.logPage e.guest e.addr)).bind (fun s => s.ringReady e) with
    | none => s
    | some s => ((done s).applyHome e).returnGroup e.core e.slot

/-- An access that can no longer reach its home: a store faults imprecisely with PATH_DOWN, and waits while there is no room
for its record (R366, R420); a fill's load is deferred. -/
def State.loseEntry (s : State) (e : AQEntry) : State :=
  let gone (s : State) : State := { s with aq := s.aq.erase e }.unsent e
  match e.act with
  | .fill _ => match mfind s.ops e.op with
    | some o => gone (s.laneFault o e.lane cPathDown)
    | none => gone s
  | .store bs => match s.lateFault e bs cPathDown with
    | some s => gone s
    | none => s
  | _ => s

/-- R254: one line, one cc. A home on another package answers in its own time (R420). -/
def execHomeApply (line : Nat) (s : State) : Host.Outcome State Fault Refusal :=
  s.event (fun s =>
    match s.oldest line with
    | none => s
    | some (i, e) =>
      if isRemote e.addr && s.homeUp e.addr then s else
      match e.act with
      | .fill _ => s
      | .store _ => if !s.homeUp e.addr then s.loseEntry e else if s.lineBusy line then s else s.applyOldest i e
      | _ => if s.lineBusy line || !s.homeUp e.addr then s else s.applyOldest i e)

/-- R258: a workgroup-scope access stands first for the line; the L1 takes it in held state. -/
def execHeldLineTake (core line : Nat) (s : State) : Host.Outcome State Fault Refusal :=
  s.event (fun s =>
    match s.oldest line with
    | none => s
    | some (_, e) =>
      match mfind s.ops e.op, s.group e.core e.slot with
      | some o, some g =>
        if e.core = core ∧ o.scope = .wg ∧ (o.kind = .stw ∨ o.kind = .atomic) ∧ (s.heldLine core g.wslot line).isNone then
          match s.recall line with
          | none => s
          | some s =>
            let clean (x : L1Line) : Bool := x.core == core && x.line == line && (match x.kind with | .clean _ _ _ => true | _ => false)
            let s := ({ s with l1 := s.l1.filter (fun x => !clean x) }).l1Room core
            { s with l1 := ⟨core, line, s.homeLine line, .held g.wslot s.cc e.guest, []⟩ :: s.l1 }
        else s
      | _, _ => s)

/-- R258: a held line unused for LEASE cc. -/
def execHeldLineLeaseRelease (core line : Nat) (s : State) : Host.Outcome State Fault Refusal :=
  s.event (fun s =>
    match s.l1.find? (fun x => x.core == core && x.line == line && (match x.kind with
      | .held _ t _ => decide (t + Config.lease ≤ s.cc)
      | _ => false)) with
    | none => s
    | some x => match s.writeBackLog x with
      | some s => match x.kind with
        | .held w _ _ => (s.dropLine x).wgroupGone core w
        | _ => s
      | none => s)

/-- R241, R257: a clean line goes, a dirty per-thread line is written back; a held line stays, and one on its way. -/
def execL1Evict (core line : Nat) (s : State) : Host.Outcome State Fault Refusal :=
  s.event (fun s =>
    match s.l1.find? (fun x => x.core == core && x.line == line && x.evictable && !s.coming x) with
    | none => s
    | some x => match s.writeBackLog x with
      | some s => s.dropLine x
      | none => s)

/-! ## Completion of operations (R75, R215, R339) -/

/-- The status and data of an operation that answers them, delivered to its guarded-on lanes (R289 to R291). -/
def State.deliverStatus (s : State) (o : Op) : State :=
  match o.status with
  | none => s
  | some st => (lanesOf o.mask).foldl (fun s l =>
      s.deliverLane o l (if o.kind = .mrecv then [(o.req l).val.setWidth 32, st] else [st])) s

/-- A group's accumulator accesses make a fresh start where another context used the rows (R322). -/
def State.useCells (s : State) (o : Op) : State :=
  let keys := o.lanes.map (fun x => x.req.va.toNat)
  (List.range 2).foldl (fun s h => if keys.any (fun k => k / 65536 == h) then s.useHalf (clusterOf o.core) h o.guest else s) s

/-- Accumulator entries read into the lanes' registers, `n` to a lane (R339). -/
def State.accRead (s : State) (o : Op) : State :=
  let s := s.useCells o
  let acc := (s.cluster (clusterOf o.core)).acc
  (lanesOf o.mask).foldl (fun s l =>
    s.deliverLane o l ((o.lanes.filter (fun x => x.req.lane == l)).map (fun x => mget acc x.req.va.toNat 0))) s

/-- Accumulator entries written in ascending lane order (R339). -/
def State.accPut (s : State) (o : Op) : State :=
  (s.useCells o).modCluster (clusterOf o.core) (fun k =>
    { k with acc := o.lanes.foldl (fun a x => mset a x.req.va.toNat (x.req.val.setWidth 32)) k.acc })

/-- R75, R215: an operation whose result is at hand completes, no earlier than 1 cc after dispatch. -/
def execOperationComplete (op : Nat) (s : State) : Host.Outcome State Fault Refusal :=
  s.event (fun s =>
    match mfind s.ops op with
    | none => s
    | some o =>
      if s.cc ≤ o.at_ ∨ o.saved then s else
      match o.kind with
      | .accld => (s.accRead o).completeOp op
      | .accWrite => (s.accPut o).completeOp op
      | .timer => s.completeOp op
      | .enq | .enqw | .lsend | .mrecv => if o.status.isSome then (s.deliverStatus o).completeOp op else s
      | .unveil _ => if o.status.isSome then s.completeOp op else s
      | .load | .store | .stw | .atomic | .ringput | .prf | .tload _ | .watch _ => s.settleOp op
      | .chain _ | .arming => s)

/-- R366: with the record area full a faulting lane is translated again, or finds room for its record. -/
def execRecordRetranslate (op lane : Nat) (s : State) : Host.Outcome State Fault Refusal :=
  s.event (fun s =>
    match mfind s.ops op with
    | none => s
    | some o =>
      if o.saved || laneOn (s.recorded op) lane then s else
      match o.lanes.find? (fun x => x.req.lane == lane && (match x.st with | .faulted _ => true | _ => false)) with
      | none => s
      | some x =>
        let acc : Access := if o.kind = .store then .write else .load
        match s.globalVa o.guest x.req.va o.size with
        | none => s
        | some va => match s.translate o.guest va acc with
          | .ok _ =>
            if o.kind = .store then
              let e : SQEntry := ⟨op, lane, x.req.va, o.size, x.req.val, (s.ctx o.guest).asgen, o.pc, none⟩
              (s.modGroup o.core o.slot (fun g => { g with sq := g.sq ++ [e] })).modOp op (fun o => o.setLane lane .todo)
            else s.modOp op (fun o => o.setLane lane .todo)
          | .error k => if o.kind = .store then s.storeLane ⟨op, lane, x.req.va, o.size, 0, 0, o.pc, none⟩ (.faulted k) else s.loadFault op lane k)

/-! ## Whole images read as a plain load reads (R189, R286) -/

/-- `n` bytes from `off` on of the line at a generic address, as a lane of a load reads them: from the scratchpad, the core's
private line, the held line that it observes, or the home. None while they cannot be had: a copy stands in the way (R261), or the
line is on its way from another package (R420). -/
def State.readLine (s : State) (o : Op) (q : LaneReq) (wslot a off n : Nat) : Except Cause (State × Option (List Byte)) :=
  let va : Addr := BitVec.ofNat 64 a
  match aperture va with
  | .none => .error cAddrForm
  | .scratch => match s.scratchTarget o.core wslot va 128 with
    | some (c, p) => .ok (s, if s.scoreHit c (p + off) n then none else some (rdBytes (s.scratchOf c) (p + off) n))
    | none => .error cScratchBounds
  | .thread => (s.privFill o.core o.guest va .load).map (fun s =>
      (s, if s.privHere o.core o.guest va then some (((s.privData o.core o.guest va).drop off).take n) else none))
  | .global => (s.translate o.guest a .load).map (fun x =>
      match (s.heldLine o.core wslot (x.1 / 128)).filter (fun y => s.seesHeld o q off n y) with
      | some y => (s, some ((y.data.drop off).take n))
      | none => s.farGet (.op o.id) o.guest va (x.1 + off) n)

/-- The `n` bytes at a generic address, line by line, or the first fault; none while some cannot be had. -/
def State.readVa (s : State) (o : Op) (q : LaneReq) (wslot : Nat) (va : Addr) (n : Nat) : Except Cause (State × Option (List Byte)) :=
  let first := va.toNat / 128
  let line (acc : State × Option (List Byte)) (k : Nat) : Except Cause (State × Option (List Byte)) :=
    let a := (first + k) * 128
    let off := va.toNat - a
    (acc.1.readLine o q wslot a off (min (a + 128) (va.toNat + n) - (a + off))).map (fun r =>
      (r.1, acc.2.bind (fun x => r.2.map (fun y => x ++ y))))
  (List.range ((va.toNat + n - 1) / 128 - first + 1)).foldlM line (s, some [])

/-- The image of `n` bytes that an operation of one lane reads: `none` while it has to wait for an access of its lane (R223), for
`replay`, or for bytes. -/
def State.readImage (s : State) (o : Op) (va : Addr) (n : Nat) : Except Cause (State × Option (List Byte)) :=
  let q := o.req ((o.lanes.map (fun x => x.req.lane)).headD 0)
  let wslot := match s.group o.core o.slot with | some g => g.wslot | none => 0
  if o.saved || s.storeAhead o q || o.lanes.any (fun x => x.st != .todo) then .ok (s, none)
  else (s.readVa o q wslot va n).map (fun r => (if r.2.isSome then r.1.farDone (.op o.id) else r.1, r.2))

/-- The core's other bank has a load that was dispatched before operation `op`. -/
def State.bankBefore (s : State) (core bank op : Nat) : Bool :=
  match mfind s.banks (core * 2 + (1 - bank)) with
  | some k => k.st == .loading && decide (k.op < op)
  | none => false

/-- A load of a table has completed (R189): the bank is ready and current; one on its group's behalf binds the group (R190). -/
def State.tableReady (s : State) (core bank : Nat) (b : Bank) (o : Op) (bs : List Byte) : State :=
  let mine := o.behalf o.core o.slot
  let s : State := { s with
    banks := mset s.banks (core * 2 + bank) { b with st := .ready, image := bs, binds := if mine then b.binds + 1 else b.binds }
    curBank := mset s.curBank core bank }
  (if mine then s.modGroup o.core o.slot (fun g => { g with tab := some bank, tabAddr := none }) else s).completeOp o.id

/-- R189: the image is read, and the bank becomes ready and current. Completions of a core follow dispatch order. A fault is
recorded as a load's; where the group has ended it leaves the bank empty and the operation complete (log 78). -/
def execTableLoadComplete (core bank : Nat) (s : State) : Host.Outcome State Fault Refusal :=
  s.event (fun s =>
    match mfind s.banks (core * 2 + bank) with
    | none => s
    | some b =>
      if (b.st != .loading) || s.bankBefore core bank b.op then s else
      match mfind s.ops b.op with
      | none => s
      | some o => match s.readImage o b.addr 3088 with
        | .ok (s, some bs) => s.tableReady core bank b o bs
        | .ok (s, none) => s
        | .error k =>
          if o.dropped then (s.emptyBank b.op).completeOp b.op
          else s.loadFault b.op ((o.lanes.map (fun x => x.req.lane)).headD 0) k)

/-- R286, R398: the descriptor has reached every core; the unit is armed, or stays disarmed where it is not valid. An `unwatch`
that came while the descriptor was being read does not undo it (log 82). -/
def execWatchArmed (op : Nat) (s : State) : Host.Outcome State Fault Refusal :=
  s.event (fun s =>
    match mfind s.ops op with
    | none => s
    | some o => match o.kind with
      | .watch n =>
        let q := o.req ((o.lanes.map (fun x => x.req.lane)).headD 0)
        (match s.readImage o q.va 128 with
          | .ok (s, some bs) => (s.modCtx o.guest (fun x => { x with watch := x.watch.modify n (fun w =>
              { w with armed := watchValid bs, desc := bs }) })).completeOp op
          | .ok (s, none) => s
          | .error k => if o.dropped then s.completeOp op else s.loadFault op q.lane k)
      | _ => s)

end Sys2Proof.Machine
end

