-- ==== Sys2Proof/Machine/Transfer.lean ====
section
/-! DEFINITION. The steps of the transfer unit: chains, elements, the scout, failures, `unveil` (R248, R259, R260, R295 to
R312, R314, R317). -/

namespace Sys2Proof.Machine

/-! ## Elements (R295 to R297) -/

/-- A scatter-gather element. -/
structure Elem where
  next : Nat
  src : Nat
  dst : Nat
  skaddr : Nat
  ctl : Nat
  /-- Counts of the ten dimensions, and strides of dimensions 1 to 9. -/
  count : List Nat
  sstr : List Int
  dstr : List Int
  deriving DecidableEq, Repr

/-- The element in 128 bytes (R295). -/
def Elem.ofBytes (b : List Byte) : Elem where
  next := fieldLE b 0 8
  src := fieldLE b 8 8
  dst := fieldLE b 16 8
  skaddr := fieldLE b 24 8
  ctl := fieldLE b 32 4
  count := (List.range 10).map (fun d => fieldLE b (36 + 2 * d) 2 + 1)
  sstr := (List.range 9).map (fun d => signed 32 (fieldLE b (56 + 4 * d) 4))
  dstr := (List.range 9).map (fun d => signed 32 (fieldLE b (92 + 4 * d) 4))

namespace Elem
/-- Fields of CTL (R296). -/
def bar (e : Elem) : Nat := nbits e.ctl 17 14
def bv (e : Elem) : Bool := nbits e.ctl 13 13 == 1
def dkind (e : Elem) : Nat := nbits e.ctl 12 11
def skind (e : Elem) : Nat := nbits e.ctl 10 9
def ndim (e : Elem) : Nat := nbits e.ctl 8 5
def esize (e : Elem) : Nat := nbits e.ctl 4 2
def sense (e : Elem) : Nat := nbits e.ctl 1 1
def sken (e : Elem) : Bool := nbits e.ctl 0 0 == 1
/-- Bytes of the unit U. -/
def unit (e : Elem) : Nat := match e.esize with | 1 => 2 | 2 => 4 | 3 => 8 | _ => 1
/-- Units in a row. -/
def row (e : Elem) : Nat := if e.esize = 4 then e.count.getD 0 1 / 2 else e.count.getD 0 1
/-- Dimensions from the slowest to dimension 0: count, source stride, destination stride. -/
def dims (e : Elem) : List (Nat × Int × Int) :=
  ((List.range (e.ndim - 1)).map (fun d => (e.count.getD (d + 1) 1, e.sstr.getD d 0, e.dstr.getD d 0))).reverse
    ++ [(e.row, (e.unit : Int), (e.unit : Int))]
end Elem

/-- Offsets of source and destination of every unit of a box, in row-major order (R297). -/
def boxOffsets : List (Nat × Int × Int) → List (Int × Int)
  | [] => [(0, 0)]
  | (n, a, b) :: rest => (List.range n).flatMap (fun i => (boxOffsets rest).map (fun p => (p.1 + i * a, p.2 + i * b)))

/-- Offsets of an element's units. -/
def Elem.units (e : Elem) : List (Int × Int) := boxOffsets e.dims

/-- The lowest offset and the highest byte offset of one side of a box. -/
def boundOf (u : Nat) (ds : List (Nat × Int)) : Int × Int :=
  let r := ds.foldl (fun (r : Int × Int) d =>
    let x : Int := ((d.1 - 1 : Nat) : Int) * d.2
    (r.1 + min 0 x, r.2 + max 0 x)) (0, 0)
  (r.1, r.2 + u - 1)

/-- Bounding offsets of the source and of the destination. -/
def Elem.srcBound (e : Elem) : Int × Int := boundOf e.unit (e.dims.map (fun d => (d.1, d.2.1)))
def Elem.dstBound (e : Elem) : Int × Int := boundOf e.unit (e.dims.map (fun d => (d.1, d.2.2)))

/-- Spaces of a side: global and mould are one (R299 check 7). -/
inductive Side | glob | scr | win | bad
  deriving DecidableEq, Repr

def Elem.srcSide (e : Elem) : Side := match e.skind with | 0 => .glob | 1 => .scr | 2 => .win | _ => .bad
def Elem.dstSide (e : Elem) : Side := match e.dkind with | 0 | 1 => .glob | 2 => .scr | _ => .win

/-- An address at an offset from a base. -/
def plusOff (base : Nat) (o : Int) : Nat := (BitVec.ofInt 64 ((base : Int) + o)).toNat

/-! ## Checks (R299) -/

/-- Check 2. -/
def Elem.formOk (e : Elem) : Bool :=
  decide (nbits e.ctl 31 18 = 0) && decide (e.esize ≤ 4) && decide (e.skind ≠ 3) && decide (1 ≤ e.ndim) && decide (e.ndim ≤ 10)
    && (e.esize != 4 || decide (e.count.getD 0 1 % 2 = 0))

/-- Check 3 passes. -/
def Elem.privOk (e : Elem) (sup : Bool) : Bool := sup || (decide (e.skind ≠ 2) && decide (e.dkind ≠ 3))

/-- A byte lies in the window ranges (R246). -/
def inWindows (pa : Nat) : Bool :=
  (decide (0x80000000000 ≤ pa) && decide (pa < 0x80048000000)) || (decide (0x90000000000 ≤ pa) && decide (pa < 0x90009000000))

/-- The form of one side (check 4). -/
def sideOk (side : Side) (u base : Nat) (bound : Int × Int) (offs : List Int) : Bool :=
  match side with
  | .glob => decide (0 ≤ (base : Int) + bound.1) && decide ((base : Int) + bound.2 < 2 ^ 57)
  | .scr => aperture (BitVec.ofNat 64 base) == .scratch && scratchFormOk (BitVec.ofNat 64 base)
  | .win => (u == 4 || u == 8) && offs.all (fun o => inWindows (plusOff base o) && inWindows (plusOff base o + u - 1))
  | .bad => false

/-- Check 4: form and alignment. The skip word's address, which is read only where SKEN is 1 (R295), is judged only then (log
84). -/
def Elem.addrOk (e : Elem) : Bool :=
  let u := e.unit
  sideOk e.srcSide u e.src e.srcBound (e.units.map (·.1)) && sideOk e.dstSide u e.dst e.dstBound (e.units.map (·.2))
    && decide (e.src % u = 0) && decide (e.dst % u = 0)
    && e.dims.all (fun d => decide (d.2.1 % (u : Int) = 0) && decide (d.2.2 % (u : Int) = 0))
    && (!e.sken || (decide (e.skaddr % 4 = 0) && decide (e.skaddr < 2 ^ 57)))

/-- Checks 2 to 4: the first that fails. -/
def Elem.check24 (e : Elem) (sup : Bool) : Option Cause :=
  if !e.formOk then some cCopyForm else if !e.privOk sup then some cPriv else if !e.addrOk then some cAddrForm else none

/-- The core and physical bytes of a scratchpad side: core, lowest byte, length (check 5); `none` outside its allocation. -/
def State.scratchSide (s : State) (core wslot base : Nat) (bound : Int × Int) : Option (Nat × Nat × Nat) :=
  let key := if nbits base 21 21 = 0 then some (wkey core wslot)
    else match s.wgroup core wslot with | some w => w.span[nbits base 20 19]? | none => none
  match key with
  | none => none
  | some k => match mfind s.wgroups k with
    | none => none
    | some t =>
      let lo := (nbits base 18 0 : Int) + bound.1
      let hi := (nbits base 18 0 : Int) + bound.2
      if 0 ≤ lo ∧ hi < 1024 * t.sgran ∧ hi < 2 ^ 19 then some (k / 16, 1024 * t.sbase + lo.toNat, (hi - lo).toNat + 1) else none

/-- The scratchpad sides of an element; `none` where check 5 fails. -/
def State.scratchSides (s : State) (c : Chain) (e : Elem) : Option (Option (Nat × Nat × Nat) × Option (Nat × Nat × Nat)) :=
  let one (side : Side) (base : Nat) (b : Int × Int) : Option (Option (Nat × Nat × Nat)) :=
    if side = .scr then (s.scratchSide c.core c.wslot base b).map some else some none
  match one e.srcSide e.src e.srcBound, one e.dstSide e.dst e.dstBound with
  | some a, some b => some (a, b)
  | _, _ => none

/-- The bound mould of a context whose buffer holds a byte. -/
def State.mouldAt (s : State) (guest va : Nat) : Option (Nat × Mould) :=
  (List.range 8).findSome? (fun h => match (s.ctx guest).moulds[h]? with
    | some m => if m.bound && decide (m.base.toNat ≤ va) && decide (va < m.base.toNat + m.len.toNat) then some (h, m) else none
    | none => none)

/-- Check 6. -/
def State.mouldOk (s : State) (guest : Nat) (e : Elem) : Bool :=
  decide (e.dkind ≠ 1) || e.units.all (fun p => (List.range e.unit).all (fun k => (s.mouldAt guest (plusOff e.dst p.2 + k)).isSome))

/-- Two bounding ranges meet. -/
def boundsMeet (a : Nat) (x : Int × Int) (b : Nat) (y : Int × Int) : Bool :=
  decide ((a : Int) + x.1 ≤ b + y.2) && decide ((b : Int) + y.1 ≤ a + x.2)

/-- Check 7 fails. -/
def Elem.overlaps (e : Elem) (sides : Option (Nat × Nat × Nat) × Option (Nat × Nat × Nat)) : Bool :=
  match sides with
  | (some (c, a, n), some (d, b, m)) => c == d && rangesMeet a n b m
  | _ => e.srcSide == e.dstSide && e.srcSide != .scr && boundsMeet e.src e.srcBound e.dst e.dstBound

/-- The generic or window address of a unit of a side: a scratchpad offset never carries out of its field (R297). -/
def sideAddr (side : Side) (base : Nat) (o : Int) : Nat :=
  if side = .scr then base - nbits base 18 0 + ((nbits base 18 0 : Int) + o).toNat else plusOff base o

/-- Units that check 8 finds covering the element, with the first covered address (R399). -/
def State.elemWatch (s : State) (c : Chain) (e : Elem) : BitVec 4 × Nat :=
  let sp (x : Side) : Nat := if x = .win then 1 else 0
  e.units.foldl (fun (acc : BitVec 4 × Nat) p =>
    let a := sideAddr e.srcSide e.src p.1
    let b := sideAddr e.dstSide e.dst p.2
    let ma := s.watchHits c.guest c.watchOff (sp e.srcSide) true false a e.unit
    let mb := s.watchHits c.guest c.watchOff (sp e.dstSide) false true b e.unit
    let at_ (x : Side) (rd : Bool) (v : Nat) : Nat :=
      s.firstHit c.guest c.watchOff (sp x) rd (!rd) v e.unit (if x = .win then 4 else 1)
    (acc.1 ||| ma ||| mb, if acc.1 != 0 then acc.2 else if ma != 0 then at_ e.srcSide true a
      else if mb != 0 then at_ e.dstSide false b else 0)) (0, 0)

/-! ## Chains: changes, retirement, failure, records (R300, R303, R305, R308) -/

/-- A chain changed. -/
def State.modChain (s : State) (id : Nat) (f : Chain → Chain) : State :=
  { s with chains := s.chains.map (fun c => if c.id = id then f c else c) }

/-- The chain of an identifier. -/
def State.chain (s : State) (id : Nat) : Option Chain := s.chains.find? (fun c => c.id == id)

/-- A chain retires: its scoreboard entry is free and the cp counter falls (R300, R314). Its writes that are on their way to
another package are applied there, where it can be reached. -/
def State.retireChain (s : State) (c : Chain) : State :=
  { s with chains := s.chains.filter (fun x => x.id != c.id)
           far := s.far.filter (fun f => !(f.who == FarUser.chain c.id && (f.bytes.isEmpty || !s.homeUp f.addr))) }.completeOp c.op

/-- The transfer unit arrives on a barrier; `none` where one more held arrival is not possible (R303). -/
def WGroup.engineArrive (w : WGroup) (n : Nat) : Option WGroup :=
  match mfind w.bars n with
  | none => some w
  | some b =>
    if !w.member n memTU then some w
    else if mfind b.arr memTU = some b.pn then
      (if 65535 ≤ b.held then none else some { w with bars := mset w.bars n { b with held := b.held + 1 } })
    else some (w.arrive n memTU)

/-- An element's arrival, if it makes one. -/
def State.elemArrive (s : State) (c : Chain) (e : Elem) : Option State :=
  if !e.bv then some s else
  match s.wgroup c.core c.wslot with
  | none => some s
  | some w => (w.engineArrive e.bar).map (fun w => s.modWG c.core c.wslot (fun _ => w))

/-- A chain fails (R305): arrival, copy status, error entry, DETACH, retirement. -/
def State.failChain (s : State) (c : Chain) (e : Option Elem) (k : Cause) : State :=
  let s := match e with
    | some e => (s.elemArrive c e).getD s
    | none => s
  let owner := match s.wgroup c.core c.wslot with | some w => w.wid | none => 0
  let s := s.modWG c.core c.wslot (fun w => { w with fail := true, fcause := k, felem := BitVec.ofNat 20 (min c.index 65535) })
  let s := s.errorEntry c.guest c.elem owner k 1 c.core
  let s := s.modWG c.core c.wslot (fun w => { w.leave memTU with detach := true })
  s.retireChain c

/-- The producer group of a chain has a live lane. -/
def State.producerLives (s : State) (c : Chain) : Bool :=
  match s.group c.core c.slot with
  | some g => !g.ended && g.live != 0
  | none => false

/-- A copy record (R308, R367). -/
def Chain.record (c : Chain) (owner : DWord) (gen : BitVec 12) (k : Cause) (va : Nat) : Rec where
  core := c.core
  guest := c.guest
  slot := c.slot
  pc := c.elem
  unf := BitVec.ofNat 32 (2 ^ c.lane)
  rslv := 0
  cause := k
  kind := 3
  size := 0
  dest := 0
  owner := owner
  gen := gen
  seqno := 0
  hw := none
  pinned := false
  delivered := false
  store := false
  addr := [(c.lane, BitVec.ofNat 64 va)]
  data := []
  op := c.id

/-- A copy record is made and the chain changed; the chain fails where its producer has no live lane; with no room
nothing happens yet (R308, R366). -/
def State.copyFault (s : State) (c : Chain) (e : Option Elem) (k : Cause) (va : Nat) (f : Chain → Chain) : State :=
  if !s.producerLives c then s.failChain c e k else
  let owner := match s.group c.core c.slot with | some g => g.wid | none => 0
  match s.placeRec (c.record owner (s.ctx c.guest).asgen k va) with
  | some s => s.modChain c.id f
  | none => s

/-- The chain stands at a record of a cause and goes on as `after` when it is resolved. -/
def Chain.stopAt (after : ChainPhase) (k : Cause) (c : Chain) : Chain := { c with phase := .stopped, after := after, cause := k }

/-- An element is complete (R300): its arrival, then the next element or the end of the chain. -/
def State.elemDone (s : State) (c : Chain) (e : Elem) : State :=
  match s.elemArrive c e with
  | none => s.modChain c.id (fun c => { c with phase := .arriving, range := [] })
  | some s =>
    if e.next = 0 then s.retireChain c
    else s.modChain c.id (fun c => { c with
      phase := .waiting, elem := BitVec.ofNat 64 e.next, index := c.index + 1, range := [], bytes := [], moved := 0 })

/-! ## CHAIN_START (R300, R314) -/

/-- Whose an accepted access is: its operation's group, which may have been saved since (R382). -/
def State.entryOwner (s : State) (e : AQEntry) : Nat × Nat :=
  match mfind s.ops e.op with
  | some o => (o.core, o.slot)
  | none => (e.core, e.slot)

/-- Every store that a group released before operation `op` has been applied at its home. -/
def State.storesApplied (s : State) (core slot op : Nat) : Bool :=
  (match s.group core slot with | some g => g.sq.all (fun e => decide (op ≤ e.op)) | none => true)
    && s.aq.all (fun e => !(s.entryOwner e == (core, slot) && decide (e.op < op)
        && (match e.act with | .fill _ => false | _ => true)))

/-- A waiting chain may be taken up: its guest is not throttled (R419), its stores are applied, and no earlier chain of its workgroup has yet to start. -/
def State.startable (s : State) (c : Chain) : Bool :=
  c.phase == .waiting && !(s.ctx c.guest).throttled && (decide (c.index ≠ 0) || s.storesApplied c.core c.slot c.op)
    && !s.chains.any (fun x => x.core == c.core && x.wslot == c.wslot && x.index == 0 && x.phase == .waiting && decide (x.id < c.id))

/-- R300, R314: the transfer unit takes up its oldest waiting chain, four at once. -/
def execChainStart (chain : Nat) (s : State) : Host.Outcome State Fault Refusal :=
  s.event (fun s =>
    match s.chain chain with
    | none => s
    | some c =>
      let busy := (s.chains.filter (fun x => x.cluster == c.cluster && x.phase != .waiting)).length
      let older := s.chains.any (fun x => x.cluster == c.cluster && decide (x.id < c.id) && s.startable x)
      if !s.startable c || older || decide (4 ≤ busy) then s
      else s.modChain chain (fun c => { c with
        phase := .fetch, bytes := [], moved := 0, scoutAt := 0, scoutOff := false, watchOff := 0, at_ := s.cc
        scout := match s.wgroup c.core c.wslot with | some w => w.scout | none => 4 }))

/-! ## ELEMENT_FETCH, SKIP_WORD_READ (R298, R299) -/

/-- An `unveil` that began before the element started waits to replace a mould that the element's destination overlaps (R312). -/
def State.unveilWaits (s : State) (c : Chain) (e : Elem) : Bool :=
  e.dstSide == .glob && s.ops.any (fun x => match x.2.kind with
    | .unveil h => x.2.guest == c.guest && x.2.mask != 0 && decide (x.2.at_ < c.at_) && (match (s.ctx c.guest).moulds[h]? with
        | some m => m.bound && boundsMeet e.dst e.dstBound m.base.toNat (0, (m.len.toNat : Int) - 1)
        | none => false)
    | _ => false)

/-- Checks 5 to 8, after which the element's bytes begin to move. -/
def State.checkMove (s : State) (c : Chain) (e : Elem) : State :=
  match s.scratchSides c e with
  | none => s.failChain c (some e) cScratchBounds
  | some sides =>
    if !s.mouldOk c.guest e || e.overlaps sides then s.failChain c (some e) cCopyForm
    else
      let w := s.elemWatch c e
      if w.1 ≠ 0 then
        let s' := s.copyFault c (some e) cWatch w.2 (fun c => { c.stopAt .check cWatch with watchOff := c.watchOff ||| w.1 })
        if s'.recs.length = s.recs.length ∧ s.producerLives c then s else s'.setHits c.guest w.1
      else if s.unveilWaits c e then s.modChain c.id (fun c => { c with phase := .check })
      else s.modChain c.id (fun c => { c with phase := .moving, range := (sides.1.toList ++ sides.2.toList) })

/-- R299: the element is read at its home and checked. -/
def execElementFetch (chain : Nat) (s : State) : Host.Outcome State Fault Refusal :=
  s.event (fun s =>
    match s.chain chain with
    | none => s
    | some c =>
      if c.phase = .check then s.checkMove c (Elem.ofBytes c.bytes)
      else if c.phase ≠ .fetch then s
      else if c.elem.toNat % 128 ≠ 0 ∨ 2 ^ 20 ≤ c.index then s.failChain c none cCopyForm
      else if 2 ^ 57 ≤ c.elem.toNat then s.failChain c none cAddrForm
      else match s.translate c.guest c.elem.toNat .load with
        | .error k => s.copyFault c none k c.elem.toNat (Chain.stopAt .fetch k)
        | .ok (pa, _) => match s.farGet (.chain chain) c.guest c.elem pa 128 with
          | (s, none) => s
          | (s, some bs) =>
            let s := s.farDone (.chain chain)
            let e := Elem.ofBytes bs
            match e.check24 c.sup with
            | some k => s.failChain c (some e) k
            | none =>
              let c' := { c with bytes := bs }
              let s := s.modChain chain (fun _ => { c' with phase := if e.sken then .skip else .check })
              if e.sken then s else s.checkMove { c' with phase := .check } e)

/-- R298: the skip word is read at its home. -/
def execSkipWordRead (chain : Nat) (s : State) : Host.Outcome State Fault Refusal :=
  s.event (fun s =>
    match s.chain chain with
    | none => s
    | some c =>
      if c.phase ≠ .skip then s else
      let e := Elem.ofBytes c.bytes
      match s.translate c.guest e.skaddr .load with
      | .error k => s.copyFault c (some e) k e.skaddr (Chain.stopAt .skip k)
      | .ok (pa, _) => match s.farGet (.chain chain) c.guest (BitVec.ofNat 64 e.skaddr) pa 4 with
      | (s, none) => s
      | (s, some bs) =>
        let s := s.farDone (.chain chain)
        let z := decide (leNat bs = 0)
        if (if e.sense = 0 then z else !z) then s.elemDone c e
        else (s.modChain chain (fun c => { c with phase := .check })).checkMove { c with phase := .check } e)

/-! ## The scout (R307) -/

/-- The 64 KiB pages a run of units touches, in the order first touched; the source of a unit comes first. -/
def Elem.pages (e : Elem) (us : List (Int × Int)) : List Nat :=
  (us.flatMap (fun p =>
    (if e.srcSide = .glob then [plusOff e.src p.1 / 65536] else []) ++
    (if e.dstSide = .glob then [plusOff e.dst p.2 / 65536] else []))).eraseDups

/-- The first access of the element to a page, and what its translation meets. -/
def State.pageFault (s : State) (guest : Nat) (e : Elem) (page : Nat) : Option (Cause × Nat) :=
  e.units.findSome? (fun p =>
    let a := plusOff e.src p.1
    let b := plusOff e.dst p.2
    let one (on : Bool) (x : Nat) (acc : Access) : Option (Cause × Nat) :=
      if on && x / 65536 == page then (match s.translate guest x acc with | .error k => some (k, x) | .ok _ => none) else none
    match one (e.srcSide == .glob) a .load with
    | some r => some r
    | none => one (e.dstSide == .glob) b .write)

/-- R307: the next page ahead of the data engine; the scout passes over the pages that the data engine has reached. -/
def execScoutTranslate (chain : Nat) (s : State) : Host.Outcome State Fault Refusal :=
  s.event (fun s =>
    match s.chain chain with
    | none => s
    | some c =>
      let e := Elem.ofBytes c.bytes
      let at_ := (e.pages (e.units.take c.moved)).length
      let next := max at_ c.scoutAt
      if c.phase ≠ .moving ∨ c.scoutOff ∨ at_ + c.scout ≤ next then s else
      match (e.pages e.units)[next]? with
      | none => s
      | some page => match s.pageFault c.guest e page with
        | none => s.modChain chain (fun c => { c with scoutAt := next + 1 })
        | some (k, va) => s.copyFault c (some e) k va (fun c => { c with scoutAt := next, scoutOff := true, cause := k }))

/-! ## Windows (R141, R248) -/

/-- The group of a core that holds a granule of its frame pool, and the granule's place among the group's. -/
def State.granuleOf (s : State) (core gran : Nat) : Option (Nat × Group × Nat) :=
  s.groups.findSome? (fun x =>
    if x.1 / 64 = core then (x.2.grans.findIdx? (fun k => k == gran)).map (fun i => (x.1 % 64, x.2, i)) else none)

/-- A 4-byte read of a window address (R248). -/
def State.winRead (s : State) (guest pa : Nat) : State × Word :=
  if pa < 0x90000000000 then
    let core := (pa - 0x80000000000) / 0x200000
    let o := (pa - 0x80000000000) % 0x200000
    if o < 0x80000 then
      match s.granuleOf core (o / 0x400) with
      | some (_, g, i) => (s, laneAt (mget g.frame (8 * i + o % 0x400 / 0x80) []) (o % 0x80 / 4))
      | none => (s, laneAt (mget s.pool (poolKey core (o / 0x400) (o % 0x400 / 0x80)) []) (o % 0x80 / 4))
    else if o < 0xE0000 then (s, BitVec.ofNat 32 (rdLE (s.scratchOf core) (o - 0x80000) 4))
    else if o < 0xEC000 then
      let slot := (o - 0xE0000) / 0x400
      let n := (o - 0xE0000) % 0x400 / 0x80
      match s.group core slot with
      | some g => (s, laneAt (mget g.win n []) (o % 0x80 / 4))
      | none => (s, laneAt (mget s.winPool (gkey core slot * 8 + n) []) (o % 0x80 / 4))
    else (s, 0)
  else
    let n := (pa - 0x90000000000) / 0x100000
    let o := (pa - 0x90000000000) % 0x100000
    if o < 0x80000 then
      let s := s.useHalf n (o / 0x40000) guest
      (s, mget (s.cluster n).acc (o / 4) 0)
    else (s, 0)

/-- One lane of a register or window word replaced. -/
def oneLane (l : Nat) (v : Word) (old : Lanes) : Lanes := mergeLanes (BitVec.ofNat 32 (2 ^ l)) (mkLanes (fun _ => v)) old

/-- A 4-byte write to a window address; `none` while a run of the group it touches is in progress (R141, R248). -/
def State.winWrite (s : State) (guest pa : Nat) (v : Word) : Option State :=
  if pa < 0x90000000000 then
    let core := (pa - 0x80000000000) / 0x200000
    let o := (pa - 0x80000000000) % 0x200000
    if o < 0x80000 then
      match s.granuleOf core (o / 0x400) with
      | some (slot, g, i) =>
        if g.run.isSome then none else
        let n := 8 * i + o % 0x400 / 0x80
        some (s.setGroup core slot { g with frame := mset g.frame n (oneLane (o % 0x80 / 4) v (mget g.frame n [])) })
      | none =>
        let k := poolKey core (o / 0x400) (o % 0x400 / 0x80)
        some { s with pool := mset s.pool k (oneLane (o % 0x80 / 4) v (mget s.pool k [])) }
    else if o < 0xE0000 then some (s.setScratch core (wrLE (s.scratchOf core) (o - 0x80000) 4 v.toNat))
    else if o < 0xEC000 then
      let slot := (o - 0xE0000) / 0x400
      let n := (o - 0xE0000) % 0x400 / 0x80
      match s.group core slot with
      | some g =>
        if g.run.isSome then none else
        some (s.setGroup core slot { g with win := mset g.win n (oneLane (o % 0x80 / 4) v (mget g.win n [])) })
      | none =>
        let k := gkey core slot * 8 + n
        some { s with winPool := mset s.winPool k (oneLane (o % 0x80 / 4) v (mget s.winPool k [])) }
    else some s
  else
    let n := (pa - 0x90000000000) / 0x100000
    let o := (pa - 0x90000000000) % 0x100000
    if o < 0x80000 then
      some ((s.useHalf n (o / 0x40000) guest).modCluster n (fun k => { k with acc := mset k.acc (o / 4) v }))
    else some s

/-! ## ELEMENT_COMPLETE (R259, R260, R297, R300, R307) -/

/-- What moving one unit comes to: done, a fault, a wait for its bytes or its destination, or the page that the scout has not
resolved. -/
inductive MoveRes
  | ok (s : State)
  | fault (k : Cause) (va : Nat)
  | wait (s : State)
  | stop
  deriving DecidableEq

/-- The source bytes of a unit, read at their home; none while they are on their way from another package (R259, R420). -/
def State.unitRead (s : State) (c : Chain) (e : Elem) (o : Int) : Except (Cause × Nat) (State × Option (List Byte)) :=
  match e.srcSide with
  | .glob =>
    let a := plusOff e.src o
    match s.translate c.guest a .load with
    | .error k => .error (k, a)
    | .ok (pa, _) => .ok (s.farGet (.chain c.id) c.guest (BitVec.ofNat 64 a) pa e.unit)
  | .scr => match s.scratchTarget c.core c.wslot (BitVec.ofNat 64 (sideAddr .scr e.src o)) e.unit with
    | some (k, a) => .ok (s, some (rdBytes (s.scratchOf k) a e.unit))
    | none => .ok (s, some [])
  | _ =>
    let r := (List.range (e.unit / 4)).foldl (fun (acc : State × List Byte) k =>
      let r := acc.1.winRead c.guest (plusOff e.src o + 4 * k)
      (r.1, acc.2 ++ leBytes 4 r.2.toNat)) (s, [])
    .ok (r.1, some r.2)

/-- An engine write applied at its home (R254, R258, R259, R418). `none` while an entry of the line stands in the apply queue
before it, while the line has had its apply or a fill of this cc, `last` telling the applies before the engine's own, and while a
dirty log is full. What an engine writes of a line in one cc is one access (log 74). -/
def State.engineWrite (s : State) (guest pa : Nat) (bs : List Byte) (last : AMap Nat) : Option State :=
  let line := pa / 128
  if s.aq.any (fun e => e.addr / 128 == line) || mfind last line = some s.cc || mfind s.lastFill line = some s.cc then none else
  ((s.recall line).bind (fun s => s.logPage guest pa)).map (fun s =>
    { s with mem := wrBytes s.mem pa bs, lastApply := mset s.lastApply line s.cc })

/-- Bytes written into the shadow of a bound mould (R260). -/
def State.shadowWrite (s : State) (guest h va : Nat) (m : Mould) (bs : List Byte) : State :=
  s.modCtx guest (fun x => { x with moulds := x.moulds.modify h (fun m' => { m' with shadow := wrBytes m'.shadow (va - m.base.toNat) bs }) })

/-- A unit's bytes written to its destination, on another package by a store to it (R259, R420); into a shadow they are logged
under the buffer's page (R418). -/
def State.unitWrite (s : State) (c : Chain) (e : Elem) (o : Int) (bs : List Byte) (last : AMap Nat) : MoveRes :=
  match e.dstSide with
  | .glob =>
    let a := plusOff e.dst o
    match s.translate c.guest a .write with
    | .error k => .fault k a
    | .ok (pa, _) => match s.mouldAt c.guest a with
      | some (h, m) => match s.logPage c.guest pa with
        | some s => .ok (s.shadowWrite c.guest h a m bs)
        | none => .wait s
      | none =>
        if isRemote pa then .ok (s.farStore (.chain c.id) c.guest (BitVec.ofNat 64 a) pa bs)
        else match s.engineWrite c.guest pa bs last with
        | some s => .ok s
        | none => .wait s
  | .scr => match s.scratchTarget c.core c.wslot (BitVec.ofNat 64 (sideAddr .scr e.dst o)) e.unit with
    | some (k, a) => .ok (s.setScratch k (wrBytes (s.scratchOf k) a bs))
    | none => .ok s
  | _ => match (List.range (e.unit / 4)).foldlM (fun s k =>
        State.winWrite s c.guest (plusOff e.dst o + 4 * k) (BitVec.ofNat 32 (fieldLE bs (4 * k) 4))) s with
    | some s => .ok s
    | none => .wait s

/-- One unit moved. -/
def State.moveUnit (s : State) (c : Chain) (e : Elem) (last : AMap Nat) (p : Int × Int) : MoveRes :=
  match s.unitRead c e p.1 with
  | .error (k, a) => .fault k a
  | .ok (s, some bs) => s.unitWrite c e p.2 bs last
  | .ok (s, none) => .wait s

/-- Units moved up to the first that stops: the state, how many, and how it stopped. -/
def State.moveUnits (s : State) (c : Chain) (e : Elem) (stop : Option Nat) (last : AMap Nat) (n : Nat) :
    List (Int × Int) → State × Nat × MoveRes
  | [] => (s, n, .ok s)
  | p :: ps =>
    if (match stop with | some pg => (e.pages [p]).contains pg | none => false) then (s, n, .stop)
    else match s.moveUnit c e last p with
      | .ok s' => s'.moveUnits c e stop last (n + 1) ps
      | .wait s' => (s', n, .wait s')
      | r => (s, n, r)

/-- An element whose bytes have all moved (R259): it is complete once its writes to other packages have been applied; one whose
home nothing reaches stops the chain at a record (R308, R362, R420). -/
def State.elemMoved (s : State) (c : Chain) (e : Elem) : State :=
  let mine (f : Far) : Bool := f.who == .chain c.id && !f.bytes.isEmpty
  match s.far.find? (fun f => mine f && !s.homeUp f.addr) with
  | some f => s.copyFault c (some e) cPathDown f.va.toNat (Chain.stopAt .moving cPathDown)
  | none => if s.far.any mine then s else (s.farDone (.chain c.id)).elemDone c e

/-- R300: the element's bytes move, up to the first page that does not translate, and the element completes. -/
def execElementComplete (chain : Nat) (s : State) : Host.Outcome State Fault Refusal :=
  s.event (fun s =>
    match s.chain chain with
    | none => s
    | some c =>
      let e := Elem.ofBytes c.bytes
      match c.phase with
      | .stopped =>
        if s.producerLives c then s else
        (s.dropRecs (fun r => r.kind == 3 && r.op == c.id)).failChain c (if c.after = .fetch then none else some e) c.cause
      | .arriving => s.elemDone c e
      | .moving =>
        let stop := if c.scoutOff then (e.pages e.units)[c.scoutAt]? else none
        let r := s.moveUnits c e stop s.lastApply c.moved (e.units.drop c.moved)
        let s' := r.1.modChain chain (fun c => { c with moved := r.2.1 })
        (match r.2.2 with
          | .ok _ => s'.elemMoved { c with moved := r.2.1 } e
          | .fault k va => (s'.farDone (.chain chain)).copyFault { c with moved := r.2.1 } (some e) k va (Chain.stopAt .moving k)
          | .stop => (s'.farDone (.chain chain)).modChain chain (Chain.stopAt .moving c.cause)
          | .wait _ => s')
      | _ => s)

/-! ## UNVEIL_REPLACE (R260, R312, R317) -/

/-- The chains of the transfer units, those that have been saved with their workgroups among them (R309). -/
def State.allChains (s : State) : List Chain := s.chains ++ s.units.flatMap (fun u => u.2.saved.flatMap (fun w => w.chains))

/-- An element that started no later than the cc at which an `unveil` began is in progress, be it of a saved chain, and has the
mould's buffer in its destination's bounding range; of one still to be read that cannot be told yet (R312). -/
def State.mouldBusy (s : State) (o : Op) (m : Mould) : Bool :=
  s.allChains.any (fun c => c.guest == o.guest && c.phase != .waiting && decide (c.at_ ≤ o.at_) &&
    (c.phase == .fetch || (c.phase == .stopped && c.after == .fetch) ||
    (let e := Elem.ofBytes c.bytes
     e.dstSide == .glob && boundsMeet e.dst e.dstBound m.base.toNat (0, (m.len.toNat : Int) - 1))))

/-- Shadow(m) replaces the visible contents in the frames kept at the bind; `none` while a dirty log is full. -/
def State.replaceBuffer (s : State) (guest : Nat) (m : Mould) : Option State :=
  let base := m.base.toNat
  let len := m.len.toNat
  (List.range m.frames.length).foldlM (fun s k =>
    let f := m.frames.getD k 0
    let lo := max base ((base / 65536 + k) * 65536)
    let hi := min (base + len) ((base / 65536 + k + 1) * 65536)
    let held := s.l1.filter (fun x => (match x.kind with | .held _ _ _ => true | _ => false)
      && decide (f ≤ x.line * 128) && decide (x.line * 128 < f + 65536))
    ((held.foldlM (fun (s : State) x => s.recall x.line) s).bind (fun s => s.logPage guest f)).map (fun s =>
      let m0 := zeroBytes s.mem (f + lo % 65536) (hi - lo)
      let cells := m.shadow.filter (fun c => decide (lo ≤ base + c.1) && decide (base + c.1 < hi))
      { s with mem := cells.foldl (fun mm c => wrByte mm (mouldAddr base m.frames c.1) c.2) m0 })) s

/-- The witness reaches the guarded-on lanes, and the operation completes. -/
def State.unveilAnswer (s : State) (o : Op) (w : DWord) : State :=
  ((lanesOf o.mask).foldl (fun s l => s.deliverLane o l [loWord w, hiWord w]) s).completeOp o.id

/-- R312. -/
def execUnveilReplace (op : Nat) (s : State) : Host.Outcome State Fault Refusal :=
  s.event (fun s =>
    match mfind s.ops op with
    | none => s
    | some o => match o.kind with
      | .unveil h =>
        if s.cc ≤ o.at_ then s
        else if o.mask = 0 then s.completeOp op else
        (match (s.ctx o.guest).moulds[h]? with
        | none => s.unveilAnswer o 0
        | some m =>
          if !m.bound then s.unveilAnswer o m.lastw
          else if s.mouldBusy o m then s
          else match s.replaceBuffer o.guest m with
            | none => s
            | some s' =>
              let w := mkWit 2 s.dev.pkgid.toNat s.dtime
              (s'.modCtx o.guest (fun x => { x with moulds := x.moulds.modify h (fun _ => { Mould.free with lastw := w }) })).unveilAnswer o w)
      | _ => s)

end Sys2Proof.Machine
end

