-- ==== Sys2Proof/Machine/Launch.lean ====
section
/-! DEFINITION. Launches: headers, placement, kernel boundaries, child launches, messages, stage pipelines, submissions
(R262, R289, R290, R348 to R359, R411). -/

namespace Sys2Proof.Machine

/-! ## Launch headers (R348, R349) -/

/-- The fields of a launch header's 128 bytes (R348). -/
def Hdr.ofBytes (b : List Byte) : Hdr :=
  let f (o n : Nat) : Nat := fieldLE b o n
  { code := BitVec.ofNat 64 (f 0 8), seq := BitVec.ofNat 64 (f 8 8), safetab := BitVec.ofNat 64 (f 16 8)
    w := (List.range 6).map (fun k => f (24 + k) 1), prod := f 30 1, fgran := f 31 1, sgran := f 32 2, nsafe := f 34 2
    plinth := f 36 4, e := [f 40 1 + 1, f 41 1 + 1, f 48 4 + 1, f 52 4 + 1, f 56 4 + 1]
    flags := BitVec.ofNat 8 (f 42 1), cls := BitVec.ofNat 8 (f 43 1), cpbar := BitVec.ofNat 16 (f 44 2)
    sqbar := BitVec.ofNat 16 (f 46 2), stage := BitVec.ofNat 32 (f 60 4)
    bmask := (List.range 16).map (fun n => BitVec.ofNat 32 (f (64 + 4 * n) 4)) }

def Hdr.width (h : Hdr) (k : Nat) : Nat := h.w.getD k 0
/-- The extent Ek of a level k from 1 to 5. -/
def Hdr.ext (h : Hdr) (k : Nat) : Nat := h.e.getD (k - 1) 1
def Hdr.prio (h : Hdr) : Nat := nbits h.flags.toNat 1 0
def Hdr.coop (h : Hdr) : Bool := h.flags.getLsbD 2
def Hdr.staged (h : Hdr) : Bool := h.flags.getLsbD 3
def Hdr.half (h : Hdr) : Nat := nbits h.cls.toNat 1 0
def Hdr.quotaClass (h : Hdr) : Nat := nbits h.cls.toNat 3 2

/-- Bytes of a plinth block (R351). -/
def blockSize (plinth : Nat) : Nat := (32 * (plinth + 16) + 127) / 128 * 128

/-- Spans of a launch, in (W5, W4, W3) order, and the spans placed at once: one, or a gang's (R55, R358). -/
def Hdr.spans (h : Hdr) : Nat := h.ext 3 * h.ext 4 * h.ext 5
def Hdr.atOnce (h : Hdr) : Nat := if h.coop then h.ext 3 else 1

/-! ## Room on cores (R351) -/

/-- Groups in the slots of a scheduler. -/
def State.occupied (s : State) (core sched : Nat) : Nat :=
  (s.groups.filter (fun x => x.1 / 64 == core && (x.1 % 64) / 12 == sched)).length

/-- The slot a new group takes on a core: on the scheduler with the fewest occupied slots, the lowest of equals; there
the lowest free slot (log 12). -/
def State.pickSlot (s : State) (core : Nat) : Option Nat :=
  let best := (List.range 4).foldl (fun b k => if s.occupied core k < s.occupied core b then k else b) 0
  ((List.range 12).map (fun k => 12 * best + k)).find? (fun n => (s.group core n).isNone)

/-- The lowest free workgroup slot of a core (log 12). -/
def State.pickWslot (s : State) (core : Nat) : Option Nat := (List.range 16).find? (fun n => (s.wgroup core n).isNone)

/-- A scratchpad granule of a core that no workgroup holds. -/
def State.granuleFree (s : State) (core k : Nat) : Bool :=
  !s.wgroups.any (fun x => x.1 / 16 == core && !x.2.freed && decide (x.2.sbase ≤ k) && decide (k < x.2.sbase + x.2.sgran))

/-- The lowest run of `n` free scratchpad granules of a core (log 12). -/
def State.pickScratch (s : State) (core n : Nat) : Option Nat :=
  (List.range (385 - n)).find? (fun b => (List.range n).all (fun k => s.granuleFree core (b + k)))

/-- Disjoint runs of `n` free scratchpad granules that a core has, at most 16. -/
def State.scratchRuns (s : State) (core n : Nat) : Nat :=
  if n = 0 then 16 else
  min 16 ((List.range 384).foldl (fun (acc : Nat × Nat) k =>
    let run := if s.granuleFree core k then acc.1 + 1 else 0
    if run = n then (0, acc.2 + 1) else (run, acc.2)) (0, 0)).2

/-- Workgroups of a header that a core has room for now, and that it has room for with nothing else on it. -/
def State.coreRoom (s : State) (h : Hdr) (core : Nat) : Nat :=
  let wgs := (s.wgroups.filter (fun x => x.1 / 16 == core)).length
  let slots := (s.groups.filter (fun x => x.1 / 64 == core)).length
  let g := h.ext 1 * h.fgran
  min (min (16 - wgs) ((48 - slots) / h.ext 1)) (min (if g = 0 then 16 else s.freeGranules core / g) (s.scratchRuns core h.sgran))
def Hdr.emptyRoom (h : Hdr) : Nat :=
  let g := h.ext 1 * h.fgran
  min (min 16 (48 / h.ext 1)) (min (if g = 0 then 16 else 512 / g) (if h.sgran = 0 then 16 else 384 / h.sgran))

/-- Cores of a cluster that HALF allows, within it (R351). -/
def halfCores (half : Nat) : List Nat := if half = 1 then [0, 1] else if half = 2 then [2, 3] else [0, 1, 2, 3]

/-- The cluster is an unfenced one of the context's partition, and the context holds what HALF asks for (R351). -/
def State.clusterHas (s : State) (guest half n : Nat) : Bool :=
  let k := s.cluster n
  let lower := if k.split then k.lower == some guest else k.upper == some guest
  (match mfind s.dev.parts (s.ctx guest).partition with | some p => p.clusters.getLsbD n | none => false) && !k.fenced &&
    (match half with
     | 0 => true
     | 1 => k.upper == some guest
     | 2 => lower
     | _ => k.upper == some guest && lower)

/-- A cluster that takes placements: it is not being vacated (R416, R425). -/
def State.clusterOk (s : State) (guest half n : Nat) : Bool := s.clusterHas guest half n && !s.dev.leaving.contains n

/-- Spans of `e2` workgroups that cores with given room can take, each span's workgroups on distinct cores. -/
def spansOn (room : List Nat) (e2 : Nat) : Nat :=
  (List.range 65).foldl (fun m k => if k * e2 ≤ (room.map (min k)).sum then k else m) 0

/-- Spans of a header that a cluster's cores have room for. -/
def Hdr.spanRoom (h : Hdr) (room : Nat → Nat) (n : Nat) : Nat := spansOn ((halfCores h.half).map (fun k => room (4 * n + k))) (h.ext 2)

/-- Spans of a header that a cluster has room for. -/
def State.clusterRoom (s : State) (guest : Nat) (h : Hdr) (room : Nat → Nat) (n : Nat) : Nat :=
  if s.clusterOk guest h.half n then h.spanRoom room n else 0

/-- Spans of a header that the context's partition has room for. -/
def State.partRoom (s : State) (guest : Nat) (h : Hdr) (room : Nat → Nat) : Nat :=
  ((List.range 144).map (s.clusterRoom guest h room)).sum

/-- Spans of a header that the partition's unfenced clusters hold with no other work present (R358). -/
def State.partEmpty (s : State) (guest : Nat) (h : Hdr) : Nat :=
  ((List.range 144).map (fun n => if s.clusterHas guest h.half n then h.spanRoom (fun _ => h.emptyRoom) n else 0)).sum

/-! ## Plinth blocks (R351) -/

/-- Offsets that the plinth blocks of a context's live and saved groups occupy. -/
def State.blocksHeld (s : State) (guest : Nat) : List (Nat × Nat) :=
  let one (g : Group) : Nat × Nat := (g.pb.toNat % 2 ^ 56, g.pb.toNat % 2 ^ 56 + blockSize g.plinth)
  (s.groups.filterMap (fun x => if x.2.guest = guest && !x.2.ended then some (one x.2) else none)) ++
    s.units.flatMap (fun u => if u.2.guest = guest then u.2.saved.flatMap (fun w => w.groups.map (fun g => one g.g)) else [])

/-- A plinth block at PB lies in the per-thread region and meets no other. -/
def State.blockFree (s : State) (guest : Nat) (pb : Addr) (plinth : Nat) : Bool :=
  let o := pb.toNat % 2 ^ 56
  aperture pb == .thread && decide (o % 128 = 0) && decide (o + blockSize plinth ≤ (s.ctx guest).ptmsize.toNat)
    && (s.blocksHeld guest).all (fun x => decide (o + blockSize plinth ≤ x.1) || decide (x.2 ≤ o))

/-- Blocks of a size that the per-thread region still has room for. -/
def State.blockRoom (s : State) (guest size : Nat) : Nat :=
  let held := (s.blocksHeld guest).foldl (fun (m : AMap Nat) x => mset m x.1 x.2) []
  let r := held.foldl (fun (acc : Nat × Nat) x => (max acc.1 x.2, acc.2 + (x.1 - acc.1) / size)) (0, 0)
  r.2 + ((s.ctx guest).ptmsize.toNat - r.1) / size

/-! ## Refusals (R349) -/

/-- The header breaks the layout of R348 or a limit of R53, whatever the state. -/
def Hdr.malformed (h : Hdr) : Bool :=
  decide (5 < h.width 0) || decide (5 < h.width 1) || decide (2 < h.width 2) || decide (64 < h.w.sum)
    || (List.range 5).any (fun k => decide (2 ^ h.width (k + 1) < h.ext (k + 1)))
    || decide (h.ext 1 ≤ h.prod) || decide (32 < h.fgran) || decide (384 < h.sgran) || decide (512 < h.ext 1 * h.fgran)
    || decide (h.plinth % 16 ≠ 0) || decide (nbits h.flags.toNat 7 4 ≠ 0) || decide (nbits h.cls.toNat 7 4 ≠ 0)
    || decide (h.stage.toNat / 8 ≠ 0) || (h.seq != 0 && h.half == 0)
    || ((h.half == 1 || h.half == 2) && decide (2 < h.ext 2))
    || (h.staged && (decide (h.width 0 ≠ 5) || decide ((h.w.drop 1).sum ≠ 0) || h.fgran == 0))

/-- A gang can be resident: its spans, and a plinth block for each of its groups (R351, R358). -/
def State.gangFits (s : State) (guest : Nat) (h : Hdr) : Bool :=
  decide (h.ext 3 ≤ s.partEmpty guest h) && decide (h.ext 3 * h.ext 2 * h.ext 1 * blockSize h.plinth ≤ (s.ctx guest).ptmsize.toNat)

/-- The header is refused (R349). -/
def State.refused (s : State) (guest : Nat) (h : Hdr) : Bool :=
  h.malformed || decide ((s.ctx guest).ptmsize.toNat < h.ext 1 * blockSize h.plinth) || (h.coop && !s.gangFits guest h)

/-! ## Where launches stand (R350, R351, R355) -/

/-- Every span has been placed. -/
def Launch.allPlaced (l : Launch) : Bool := l.aborted || decide (l.hdr.spans ≤ l.nextSpan)

/-- The launch has nothing left of its own (R350). -/
def Launch.empty (l : Launch) : Bool := l.groups == 0 && l.seqs == 0

/-- The pipeline and stage a launch serves. -/
def State.stageOf (s : State) (l : Launch) : Option (Nat × Nat × Pipe) :=
  match l.stage with
  | none => none
  | some (n, k) => (mfind s.pipes n).map (fun p => (n, k, p))

/-- A stage of a pipeline has something to place on a cluster and its output ring has room (R355). -/
def State.stageWaits (s : State) (p : Pipe) (k cluster : Nat) : Bool :=
  let l := mfind s.launches (p.launches.getD k 0)
  let out := p.stage k 20 1
  (match l with
    | some l => l.phase == .running && (if k = 0 then !l.allPlaced else !(p.gathered k cluster).isEmpty && !l.aborted)
    | none => false)
    && (out == 0xFF || (match s.stageRing p out cluster with | some r => decide (p.stage k 18 2 ≤ r.free) | none => false))

/-- The header of an earlier `enq` of the tenant has still to be read (R357). -/
def State.earlierEnq (s : State) (guest id : Nat) : Bool :=
  s.ops.any (fun x => decide (x.1 < id) && x.2.guest == guest && (x.2.kind == .enq || x.2.kind == .enqw)
    && x.2.status.isNone && (mfind s.launches x.1).isNone)

/-- Something of the launch waits to be placed on a cluster and fits there now (R351, R355, R358, R419); a child launch waits
until what each earlier `enq` of its tenant launches is known (R357). -/
def State.placeable (s : State) (id : Nat) (l : Launch) (cluster : Nat) : Bool :=
  let n := l.hdr.atOnce
  l.phase == .running && !(l.parent.isSome && s.earlierEnq l.guest id) && !(l.parent.isSome && l.nextSpan == 0 && (s.ctx l.guest).throttled)
    && (match s.stageOf l with | some (_, k, p) => s.stageWaits p k cluster | none => !l.allPlaced)
    && decide (0 < s.clusterRoom l.guest l.hdr (s.coreRoom l.hdr) cluster)
    && (!l.hdr.coop || decide (n ≤ s.partRoom l.guest l.hdr (s.coreRoom l.hdr)))
    && decide (n * l.hdr.ext 2 * l.hdr.ext 1 ≤ s.blockRoom l.guest (blockSize l.hdr.plinth))

/-- How full a stage's input ring is on a cluster: records and capacity; stage 0 counts as empty (R355). -/
def State.stageFill (s : State) (p : Pipe) (k cluster : Nat) : Nat × Nat :=
  if k = 0 then (0, 1) else match s.stageRing p k cluster with
  | some r => (r.used, r.cap)
  | none => (0, 1)

/-- Stage `j` is chosen before stage `k`: fuller, or as full and higher (R355). -/
def State.stageBefore (s : State) (p : Pipe) (j k cluster : Nat) : Bool :=
  let a := s.stageFill p j cluster
  let b := s.stageFill p k cluster
  decide (b.1 * a.2 < a.1 * b.2) || (a.1 * b.2 == b.1 * a.2 && decide (k < j))

/-- Launch `x` comes before launch `y` where both compete for a cluster (R351); launches are numbered in the order of
their submissions and `enq` trailers. -/
def placeBefore (x y : Nat × Launch) : Bool := decide (y.2.prio < x.2.prio) || (x.2.prio == y.2.prio && decide (x.1 < y.1))

/-- A launch competes for a cluster: of a pipeline, only the stage that the leaf chooses (R355). -/
def State.competes (s : State) (id : Nat) (l : Launch) (cluster : Nat) : Bool :=
  s.placeable id l cluster && (match s.stageOf l with
    | none => true
    | some (n, k, p) => !s.launches.any (fun x => match s.stageOf x.2 with
        | some (m, j, _) => m == n && j != k && s.stageBefore p j k cluster && s.placeable x.1 x.2 cluster
        | none => false))

/-- It is the launch's turn on a cluster (R351, R355). -/
def State.mayPlace (s : State) (id : Nat) (l : Launch) (cluster : Nat) : Bool :=
  s.competes id l cluster && !s.launches.any (fun x => x.1 != id && placeBefore x (id, l) && s.competes x.1 x.2 cluster)

/-! ## Placing workgroups (R53 to R57, R72, R168, R323, R351) -/

/-- A WID from its fields W0 to W5 (R53). -/
def Hdr.widOf (h : Hdr) (f : List Nat) : DWord :=
  BitVec.ofNat 64 ((List.range 6).foldl (fun acc k => acc + f.getD k 0 * 2 ^ (h.w.take k).sum) 0)

/-- The six fields of a workgroup of span `n`, W0 and W1 zero. -/
def Hdr.fields (h : Hdr) (n w2 w1 : Nat) : List Nat :=
  [0, w1, w2, n % h.ext 3, n / h.ext 3 % h.ext 4, n / (h.ext 3 * h.ext 4)]

/-- A barrier at workgroup start (R168, R302). -/
def Hdr.barrier (h : Hdr) (n : Nat) : Bar :=
  let groups := ((List.range (h.ext 1)).filter (fun j => (h.bmask.getD n 0).getLsbD j)).length
  ⟨groups + (if h.cpbar.getLsbD n then 1 else 0) + (if h.seq != 0 && h.sqbar.getLsbD n then 1 else 0), 0, 0, [], 0, 0⟩

/-- A sequencer at workgroup start (R323). -/
def Seq.start (pc : Addr) : Seq where
  pc := pc
  lc := List.replicate 4 0
  o := List.replicate 4 0
  wpitch := 0
  apitch := 0
  ascale := 0
  gindex := 0
  wsl := .none
  asl := .none
  mxflags := 0
  mxAt := 0
  mxNew := 0
  block := none
  posted := none
  gathering := none
  heldRec := false
  heldCause := 0
  resolved := none
  bwait := none
  mark := none
  stopped := false
  waived := 0
  held := []
  arrived := false

/-- A workgroup before its groups are placed. -/
def Hdr.wgroup (h : Hdr) (launch guest n w2 sbase : Nat) : WGroup where
  wid := h.widOf (h.fields n w2 0)
  w2 := w2
  launch := launch
  guest := guest
  span := []
  sbase := sbase
  sgran := h.sgran
  bars := (List.range 16).map (fun k => (k, h.barrier k))
  bmask := h.bmask
  cpbar := h.cpbar
  sqbar := if h.seq = 0 then 0 else h.sqbar
  prod := h.prod
  groups := []
  felem := 0
  fcause := 0
  fail := false
  detach := false
  scout := 4
  alias_ := none
  token := 0
  freed := false
  seq := if h.seq = 0 then none else some (Seq.start h.seq)

/-- START (R394). -/
def State.traceStart (s : State) (core slot : Nat) : State :=
  match s.group core slot with
  | some g => s.trace g.guest core slot 0 0xE (leBytes 8 g.wid.toNat ++ leBytes 4 g.live.toNat)
  | none => s

/-- Group `j` of a workgroup placed; `none` where a slot or a granule is wanting, or its plinth block is not free. -/
def State.placeGroup (s : State) (l : Launch) (id core wslot n w2 j : Nat) (live : Mask) (f0 : List Word) (pb : Addr) : Option State :=
  let h := l.hdr
  match s.pickSlot core with
  | none => none
  | some slot =>
    if s.freeGranules core < h.fgran || !s.blockFree l.guest pb h.plinth then none else
    let g := Group.fresh (h.widOf (h.fields n w2 j)) id l.guest wslot live h.code pb h.plinth h.fgran
    let g := { g.modSplit 0 (fun p => { p with queued := s.cc }) with
      grans := s.pickGranules core h.fgran, frame := if f0.isEmpty then [] else [(0, f0)] }
    some ((s.setGroup core slot g).modWG core wslot (fun w => { w with groups := mset w.groups j slot }))

/-- One workgroup placed on a core: the state and the workgroup's key. -/
def State.placeWG (s : State) (l : Launch) (id core n w2 : Nat) (live : Mask) (f0 : List Word) (pbs : List Addr) :
    Option (State × Nat) :=
  let h := l.hdr
  match s.pickWslot core, s.pickScratch core h.sgran with
  | some wslot, some base =>
    let s := { s with wgroups := mset s.wgroups (wkey core wslot) (h.wgroup id l.guest n w2 base)
                      scratch := mset s.scratch core (zeroBytes (s.scratchOf core) (1024 * base) (1024 * h.sgran)) }
    ((List.range (h.ext 1)).foldlM (fun (s : State) j => s.placeGroup l id core wslot n w2 j live f0 (pbs.getD j 0)) s).map
      (fun s => (s, wkey core wslot))
  | _, _ => none

/-- The span of the launch's `n`-th place: its workgroups on the given cores (R55, R351). -/
def State.placeSpan (s : State) (l : Launch) (id n : Nat) (cores : List Nat) (live : Mask) (f0 : List Word) (pbs : List Addr) :
    Option (State × List Nat) :=
  let h := l.hdr
  let cluster := clusterOf (cores.getD 0 0)
  if cores.length ≠ h.ext 2 || !cores.Nodup || !s.clusterOk l.guest h.half cluster
      || !cores.all (fun c => clusterOf c == cluster && (halfCores h.half).contains (c % 4)) then none else
  let r := (List.range (h.ext 2)).foldlM (fun (acc : State × List Nat) i =>
    (acc.1.placeWG l id (cores.getD i 0) n i live f0 ((pbs.drop (i * h.ext 1)).take (h.ext 1))).map
      (fun x => (x.1, acc.2 ++ [x.2]))) (s, [])
  r.map (fun x => (x.2.foldl (fun s k => s.modWG (k / 16) (k % 16) (fun w => { w with span := x.2 })) x.1, x.2))

/-- The group slots of workgroups by their keys, those of each scheduler in turn. -/
def State.slotsOf (s : State) (keys : List Nat) : List Nat :=
  let all := keys.flatMap (fun k => match mfind s.wgroups k with
    | some w => w.groups.map (fun x => gkey (k / 16) x.2)
    | none => [])
  (List.range 4).flatMap (fun n => all.filter (fun k => schedOf (k % 64) == n))

/-- The START packets of a new unit's groups (R394), those of one core in scheduler order (R395). -/
def State.traceStarts (s : State) (keys : List Nat) : State :=
  (s.slotsOf keys).foldl (fun s k => s.traceStart (k / 64) (k % 64)) s

/-- `m` spans from the `n`-th on, each on its own cores: one unit of pre-emption (R351, R358, R378). -/
def State.placeUnit (s : State) (id : Nat) (l : Launch) (n m : Nat) (cores : List Nat) (live : Mask) (f0 : List Word)
    (pbs : List Addr) : Option State :=
  let h := l.hdr
  let e2 := h.ext 2
  let gs := e2 * h.ext 1
  if cores.length ≠ m * e2 || pbs.length ≠ m * gs then none else
  let r := (List.range m).foldlM (fun (acc : State × List Nat) i =>
    (acc.1.placeSpan l id (n + i) ((cores.drop (i * e2)).take e2) live f0 ((pbs.drop (i * gs)).take gs)).map
      (fun x => (x.1, acc.2 ++ x.2))) (s, [])
  r.map (fun x =>
    let (s, u) := (x.1.traceStarts x.2).newId
    { s with units := mset s.units u ⟨l.guest, id, x.2, false, [], none⟩
             launches := mmod s.launches id (fun l => { l with
               nextSpan := l.nextSpan + m, groups := l.groups + m * gs
               seqs := l.seqs + (if h.seq = 0 then 0 else m * e2) }) })

/-- Lanes below `n`. -/
def lowLanes (n : Nat) : Mask := maskOf (fun l => decide (l < n))

/-- R351, R355, R358: the launch's next span or gang, or a stage's oldest gathered group. -/
def execSpanPlacement (launch cluster : Nat) (cores : List Nat) (pbs : List Addr) (s : State) : Host.Outcome State Fault Refusal :=
  s.event (fun s =>
    match mfind s.launches launch with
    | none => s
    | some l =>
      if clusterOf (cores.getD 0 0) != cluster || !(cores.map clusterOf).all (s.mayPlace launch l) then s else
      let plain (f0 : List Word) (live : Mask) : Option State := s.placeUnit launch l l.nextSpan l.hdr.atOnce cores live f0 pbs
      match s.stageOf l with
      | some (n, k, p) =>
        if k = 0 then (plain [] (lowLanes (2 ^ l.hdr.width 0))).getD s else
        match p.gathered k cluster with
        | [] => s
        | recs :: rest =>
          match s.placeUnit launch l 0 1 cores (lowLanes recs.length) (mkLanes (fun i => recs.getD i 0)) pbs with
          | none => s
          | some s => (s.modPipe n (fun p => { p with waiting := mset p.waiting (stageKey k cluster) rest })).stageTouch
      | none => (plain [] (lowLanes (2 ^ l.hdr.width 0))).getD s)

/-! ## Completion entries (R411) -/

/-- Waiting completion entries are written while the ring has room. -/
def State.flushCq (guest : Nat) : Nat → State → State
  | 0, s => s
  | fuel + 1, s =>
    let x := s.ctx guest
    match x.cqWait with
    | [] => s
    | e :: rest =>
      let size := s.cmdField guest 28 4
      let tail := s.cmdField guest 32 4
      if size ≤ (tail + 2 ^ 32 - s.cmdField guest 36 4) % 2 ^ 32 then s else
      let r := s.freeByte
      let bytes := e ++ leBytes 6 s.dtime.toNat ++ [if x.ctxerr then 1 else 0, r.2]
      let s := { r.1 with mem := wrBytes s.mem (s.cmdField guest 20 8 + 32 * (tail % size)) bytes }
      State.flushCq guest fuel ((s.setCmd guest 32 4 ((tail + 1) % 2 ^ 32)).modCtx guest (fun x => { x with cqWait := rest }))

/-- A completion entry of a kind with a tag: its reason code, the bytes that no field names, and its address where the
spec gives none are free values (log 2). -/
def State.completion (s : State) (guest kind : Nat) (tag : DWord) (addr : Option Addr) : State :=
  let pad := (List.range 7).foldl (fun (acc : State × List Byte) _ => let r := acc.1.freeByte; (r.1, acc.2 ++ [r.2])) (s, [])
  let a := match addr with | some a => (pad.1, a) | none => pad.1.freeBlock
  let e := BitVec.ofNat 8 kind :: pad.2 ++ leBytes 8 tag.toNat ++ leBytes 8 a.2.toNat
  let s := a.1.modCtx guest (fun x => { x with cqWait := x.cqWait ++ [e] })
  s.flushCq guest (s.ctx guest).cqWait.length

/-- The tag of the submission that a launch comes from. -/
def State.tagOf (s : State) (launch : Nat) : DWord :=
  match mfind s.launches launch with
  | none => 0
  | some l => match mfind s.launches l.root with
    | some r => r.tag
    | none => l.tag

/-! ## Kernel boundaries (R128, R262, R264, R350) -/

/-- Every store, atomic, `stw` and engine write of a context has been applied at its home, on another package too, and its private
lines have come (R262). -/
def State.writesApplied (s : State) (guest : Nat) : Bool :=
  s.aq.all (fun e => e.guest != guest || (match e.act with | .fill _ => true | _ => false))
    && s.groups.all (fun x => x.2.guest != guest || x.2.sq.isEmpty)
    && !s.chains.any (fun c => c.guest == guest)
    && s.ops.all (fun x => x.2.guest != guest || !(x.2.kind == .store || x.2.kind == .stw || x.2.kind == .atomic || x.2.kind == .ringput))
    && s.far.all (fun f => f.guest != guest || (f.bytes.isEmpty && (match f.who with | .l1 _ _ _ => false | _ => true)))

/-- Steps 2 to 4 of R262; `none` while a write-back waits for the dirty log. -/
def State.boundaryFlush (s : State) (guest : Nat) : Option State :=
  let own (x : L1Line) : Bool := match x.kind with
    | .clean _ _ _ => false
    | .held _ _ g => g == guest
    | .priv g _ _ => g == guest
  let keep (x : L1Line) : Bool := match x.kind with | .clean _ _ _ => false | _ => !own x
  ((s.l1.filter own).foldlM (fun (s : State) x => s.writeBackLog x) s).map (fun s =>
    { s with l1 := s.l1.filter keep, icache := [], far := s.far.filter (fun f => !f.isCode)
             scopes := s.scopes.filter (fun x => x.2.guest != guest) })

/-- Nothing is left of a launch, of the launches made from it and, for a pipeline, of its stages (R350, R355). -/
def State.launchOver (s : State) (id : Nat) (l : Launch) : Bool :=
  l.phase == .running && l.allPlaced && l.empty
    && s.launches.all (fun x => x.1 == id || !(x.2.parent == some id || (l.host && x.2.root == id && !(x.2.stage.isSome && x.2.empty))))
    && (match s.stageOf l with | some (_, 0, p) => l.aborted || s.pipeDrained p | _ => true)

/-- The start of a host-submitted launch: LSTART after the boundary, and its pipeline's stages with it. -/
def State.startLaunch (s : State) (id : Nat) (l : Launch) : State :=
  let up (x : Nat × Launch) : Nat × Launch :=
    if x.2.root = id && x.2.phase == .queued then (x.1, { x.2 with phase := .running, lstart := s.dtime }) else x
  let s := { s with launches := s.launches.map up }
  let s := s.modCtx l.guest (fun x => { x with current := some id, queue := x.queue.drop 1, lstart := s.dtime })
  match l.stage with
  | some (n, _) => (s.modPipe n (fun p => { p with live := true })).stageTouch
  | none => s

/-- The completion of a host-submitted launch, with its completion entry. -/
def State.finishLaunch (s : State) (id : Nat) (l : Launch) : State :=
  let s := s.modCtx l.guest (fun x => { x with current := none })
  let s := s.completion l.guest 1 l.tag none
  { s with launches := s.launches.filter (fun x => x.2.root != id)
           pipes := match l.stage with | some (n, _) => mdel s.pipes n | none => s.pipes }

/-- R262. The write-backs to other packages are waited for (R420). -/
def execKernelBoundary (launch : Nat) (s : State) : Host.Outcome State Fault Refusal :=
  s.event (fun s =>
    match mfind s.launches launch with
    | none => s
    | some l =>
      let x := s.ctx l.guest
      let begins := l.phase == .queued && x.valid && x.current.isNone && x.queue.head? == some launch
      let ends := s.launchOver launch l
      if !l.host || !(begins || ends) || !s.writesApplied l.guest then s else
      match s.boundaryFlush l.guest with
      | none => s
      | some s => if s.farOut (fun f => f.guest == l.guest) then s else if begins then s.startLaunch launch l else s.finishLaunch launch l)

/-! ## Child launches (R289, R357) -/

/-- The physical places of `n` bytes at a global address of a context, where all of them translate. -/
def State.homePlaces (s : State) (guest va n : Nat) : Option (List Nat) :=
  (List.range n).mapM (fun k => match s.translate guest (va + k) .load with
    | .ok (pa, _) => some pa
    | .error _ => none)

/-- Bytes at a global address of a context, read at their homes, once those of other packages have come (R420). -/
def State.homeBytes (s : State) (who : FarUser) (guest va n : Nat) : Option (List Byte) :=
  (s.homePlaces guest va n).bind (fun ps => ps.mapM (fun pa => (s.farBytes who pa 1).bind (·.head?)))

/-- The bytes are on their way from another package: they have been asked for. -/
def State.homeWait (s : State) (who : FarUser) (guest va n : Nat) : Option State :=
  if (s.homeBytes who guest va n).isSome then none else
  (s.homePlaces guest va n).map (fun ps => ps.foldl (fun (s : State) pa => s.farWant who guest (BitVec.ofNat 64 va) pa 1) s)

/-- A quota unit of a class is free. -/
def Ctx.quotaFree (x : Ctx) (k : Nat) : Bool := let q := x.quota.getD k (0, 0); decide (q.2 < q.1)

/-- Units in use of a class, changed. -/
def Ctx.modQuota (x : Ctx) (k : Nat) (f : Nat → Nat) : Ctx := { x with quota := x.quota.modify k (fun q => (q.1, f q.2)) }

/-- A launch of a header in a context: queued until its start. -/
def Hdr.launch (h : Hdr) (guest root prio : Nat) (parent : Option Nat) (host : Bool) (tag : DWord) : Launch where
  guest := guest
  hdr := h
  parent := parent
  root := root
  lstart := 0
  prio := prio
  phase := .queued
  nextSpan := 0
  quota := .none
  waiter := none
  host := host
  tag := tag
  stage := none
  err := false
  groups := 0
  seqs := 0
  aborted := false

/-- A resident group, or the saved group whose operations bear the number `core` (R382). -/
def State.anyGroup (s : State) (core slot : Nat) : Option Group :=
  match s.group core slot with
  | some g => some g
  | none => ((s.units.flatMap (fun u => u.2.saved.flatMap (fun w => w.groups))).find? (fun x => x.ghost == core)).map (·.g)

/-- The state with a resident or saved group changed. -/
def State.modAnyGroup (s : State) (core slot : Nat) (f : Group → Group) : State :=
  let sg (x : SavedGroup) : SavedGroup := if x.ghost = core then { x with g := f x.g } else x
  { s.modGroup core slot f with units := s.units.map (fun (u : Nat × Unit_) =>
      (u.1, { u.2 with saved := u.2.saved.map (fun w => { w with groups := w.groups.map sg }) })) }

/-- A child launch is queued under the number of its `enq`, so that children stand in the order of their trailers. -/
def State.queueChild (s : State) (o : Op) (p : Launch) (pid : Nat) (h : Hdr) (q : Quota) : State :=
  let root := match mfind s.launches p.root with | some r => r.lstart | none => p.lstart
  let l := { h.launch o.guest p.root (min h.prio p.prio) (some pid) false 0 with
    lstart := root, phase := .running, quota := q, waiter := if o.kind = .enqw then some o.id else none }
  let s := { s with launches := mset s.launches o.id l }
  match q with
  | .unit k => s.modCtx o.guest (fun x => x.modQuota k (· + 1))
  | .credit core slot => s.modAnyGroup core slot (fun g => { g with credit := true })
  | .none => s

/-- R289: the header is read at its home once the group's earlier stores have been applied; a refused header gives 3, a
spent quota 2, a queued launch 1, which `enqw` answers only at its end. -/
def execEnqHeaderRead (op : Nat) (s : State) : Host.Outcome State Fault Refusal :=
  s.event (fun s =>
    match mfind s.ops op with
    | none => s
    | some o =>
      if !(o.kind == .enq || o.kind == .enqw) || o.status.isSome || (mfind s.launches op).isSome
          || !s.storesApplied o.core o.slot op then s else
      let answer (v : Word) (s : State) : State := s.putStatus op v
      match s.anyGroup o.core o.slot with
      | none => answer 3 s
      | some g =>
        if let some s := s.homeWait (.op op) o.guest (o.req 0).va.toNat 128 then s else
        match mfind s.launches g.launch, s.homeBytes (.op op) o.guest (o.req 0).va.toNat 128 with
        | some p, some b =>
          let s := s.farDone (.op op)
          let h := Hdr.ofBytes b
          if s.refused o.guest h then answer 3 s
          else if (s.ctx o.guest).quotaFree h.quotaClass then
            let s := s.queueChild o p g.launch h (.unit h.quotaClass)
            if o.kind = .enq then answer 1 s else s
          else if o.kind = .enqw ∧ g.credit = false then s.queueChild o p g.launch h (.credit o.core o.slot)
          else answer 2 s
        | _, _ => answer 3 s)

/-- What a child launch took goes back (R289, R357). -/
def State.returnQuota (s : State) (guest : Nat) : Quota → State
  | .none => s
  | .unit k => s.modCtx guest (fun x => x.modQuota k (· - 1))
  | .credit core slot => s.modAnyGroup core slot (fun g => { g with credit := false })

/-- R289, R357: a child launch has ended; an `enqw` answers once its stores have been applied. -/
def execChildLaunchEnd (launch : Nat) (s : State) : Host.Outcome State Fault Refusal :=
  s.event (fun s =>
    match mfind s.launches launch with
    | none => s
    | some l =>
      let out := s.aq.any (fun e => e.launch == launch && (match e.act with | .fill _ => false | _ => true))
      if l.parent.isNone || !s.launchOver launch l || (l.waiter.isSome && out) then s else
      let s := s.returnQuota l.guest l.quota
      let s := match l.waiter with
        | some w => s.putStatus w (if l.err then 4 else 1)
        | none => s
      { s with launches := mdel s.launches launch })

/-! ## Messages (R290) -/

/-- R290: messages of one group to one mailbox are stored in the order of their trailers. A mailbox of another package
answers 1 or 2 as it finds (log 2). -/
def execMessageDelivery (op : Nat) (s : State) : Host.Outcome State Fault Refusal :=
  s.event (fun s =>
    match mfind s.ops op with
    | none => s
    | some o =>
      let d := (o.req 0).va.toNat
      let earlier := s.ops.any (fun x => x.2.kind == .lsend && x.2.core == o.core && x.2.slot == o.slot
        && decide (x.2.id < op) && x.2.status.isNone && (x.2.req 0).va.toNat == d)
      if o.kind != .lsend || o.status.isSome || earlier then s else
      let answer (v : Word) (s : State) : State := s.putStatus op v
      let pkg := nbits d 12 0
      if nbits d 31 15 ≠ 0 then answer 3 s
      else if pkg = s.dev.pkgid.toNat then
        let x := s.ctx o.guest
        let box := mget x.mail (nbits d 14 13) []
        if 64 ≤ box.length then answer 2 s else
        let m : Msg := ⟨s.dev.pkgid, BitVec.ofNat 2 o.size, o.lanes.map (fun y => y.req.val.setWidth 32), o.wit⟩
        answer 1 (s.setCtx o.guest { x with mail := mset x.mail (nbits d 14 13) (box ++ [m]) })
      else if !s.reaches pkg then answer 3 s
      else
        let m : Config.LinkMessage := ⟨o.guest, nbits d 14 13, s.dev.pkgid, BitVec.ofNat 2 o.size,
          o.lanes.map (fun y => y.req.val.setWidth 32), o.wit⟩
        let r := (match mfind s.dev.routes pkg with
          | some t => s.sendFlit t.port 3 (Config.linkPackMessage m)
          | none => s).freeWord
        answer (if r.2.getLsbD 0 then 2 else 1) r.1)

/-! ## Stage pipelines (R354, R356) -/

/-- The oldest `n` records of a stage's ring become one gathered group. -/
def State.gather (s : State) (pipe : Nat) (p : Pipe) (stage cluster n : Nat) (r : InRing) : State :=
  match s.ringOldest p.guest r n with
  | none => s
  | some ws => ((s.ringTake r n).modPipe pipe (fun p =>
      { p with waiting := mset p.waiting (stageKey stage cluster) (p.gathered stage cluster ++ [ws]) })).stageTouch

/-- A stage from 1 on of a running pipeline, with its ring on a cluster. -/
def State.stageAt (s : State) (pipe stage cluster : Nat) : Option (Pipe × InRing) :=
  match mfind s.pipes pipe with
  | none => none
  | some p =>
    if !p.live || stage = 0 || decide (p.nst ≤ stage) || decide (144 ≤ cluster) then none
    else (s.stageRing p stage cluster).map (fun r => (p, r))

/-- R354: 32 records are present. -/
def execStageGather (pipe stage cluster : Nat) (s : State) : Host.Outcome State Fault Refusal :=
  s.event (fun s =>
    match s.stageAt pipe stage cluster with
    | some (p, r) => if 32 ≤ r.used then s.gather pipe p stage cluster 32 r else s
    | none => s)

/-- R354: GTIME cc after the timer's start. -/
def execStageGatherTimeout (pipe stage cluster : Nat) (s : State) : Host.Outcome State Fault Refusal :=
  s.event (fun s =>
    match s.stageAt pipe stage cluster with
    | some (p, r) => match mfind p.timer (stageKey stage cluster) with
      | some t => if t + p.stage stage 16 2 ≤ s.cc ∧ 0 < r.used then s.gather pipe p stage cluster (min r.used 32) r else s
      | none => s
    | none => s)

/-- The neighbour that follows a cluster round its die (R356). -/
def nextCluster (n : Nat) : Nat := if n % 36 = 35 then n - 35 else n + 1

/-- Records move from the tail side of one ring to another (R356). -/
def State.balance (s : State) (guest thresh : Nat) (a b : InRing) : State :=
  let (hi, lo) := if a.used < b.used then (b, a) else (a, b)
  let m := min (min ((hi.used - lo.used) / 2) 32) lo.free
  if hi.used - lo.used ≤ thresh then s else
  match s.ringOldest guest hi m with
  | none => s
  | some ws => match (s.ringTake hi m).ringAdd guest lo ws with
    | some s => s
    | none => s

/-- R356: a cluster and the neighbour after it, once in 4,096 cc. -/
def execStageBalance (pipe stage cluster : Nat) (s : State) : Host.Outcome State Fault Refusal :=
  s.event (fun s =>
    let other := nextCluster cluster
    match s.stageAt pipe stage cluster, s.stageAt pipe stage other with
    | some (p, a), some (_, b) =>
      if s.dtime.toNat % 4096 = 0 && s.clusterOk p.guest 0 cluster && s.clusterOk p.guest 0 other
        then (s.balance p.guest p.thresh a b).stageTouch else s
    | _, _ => s)

/-! ## Submissions (R350, R352, R411, R431) -/

/-- R350: kind 1, where the header's bytes are at hand. -/
def State.submitHeader (s : State) (guest : Nat) (addr : Addr) (tag : DWord) : State :=
  match (if addr.toNat % 64 = 0 then s.homeBytes (.host guest) guest addr.toNat 128 else none) with
  | none => s.completion guest 2 tag none
  | some b =>
    let h := Hdr.ofBytes b
    if s.refused guest h then s.completion guest 2 tag none else
    let (s, id) := s.newId
    { s.modCtx guest (fun x => { x with queue := x.queue ++ [id] }) with
      launches := mset s.launches id (h.launch guest id h.prio none true tag) }

/-- The bytes that stage `k` of a descriptor may hold (R352). -/
def Pipe.stageOk (p : Pipe) (k : Nat) : Bool :=
  let out := p.stage k 20 1
  (out == 0xFF || (decide (k < out) && decide (out < p.nst))) && p.stage k 21 11 == 0 && (k == 0 || p.stage k 16 2 != 0)

/-- The descriptor keeps to the layout of R352. -/
def Pipe.wellFormed (p : Pipe) : Bool :=
  decide (p.nst ≤ 8) && p.field 1 3 == 0 && p.thresh != 0 && p.field 6 58 == 0 && (List.range p.nst).all p.stageOk

/-- The header of stage `k`, where it is in order (R349, R352). -/
def State.stageHeader (s : State) (p : Pipe) (k : Nat) : Option Hdr :=
  match s.homeBytes (.host p.guest) p.guest (p.stage k 0 8) 128 with
  | none => none
  | some b =>
    let h := Hdr.ofBytes b
    if p.stage k 0 8 % 64 ≠ 0 || s.refused p.guest h then none
    else if k = 0 then (if h.staged then none else some h)
    else if h.staged && h.stage.toNat == k then some h else none

/-- R352: kind 2, where the bytes are at hand. Stage 0's launch is the one that waits its turn. -/
def State.submitPipe (s : State) (guest : Nat) (addr : Addr) (tag : DWord) : State :=
  match s.homeBytes (.host guest) guest addr.toNat 320 with
  | none => s.completion guest 2 tag none
  | some b =>
    let p : Pipe := ⟨guest, b, [], tag, [], [], false⟩
    match (if p.wellFormed then (List.range p.nst).mapM (s.stageHeader p) else none) with
    | none => s.completion guest 2 tag none
    | some hs =>
      let (s, n) := s.newId
      let ids := (List.range p.nst).map (fun k => s.nextId + k)
      let root := ids.getD 0 0
      let add (m : AMap Launch) (k : Nat) : AMap Launch := match hs[k]? with
        | some h => mset m (ids.getD k 0) { h.launch guest root h.prio none (k == 0) tag with stage := some (n, k) }
        | none => m
      { s.modCtx guest (fun x => { x with queue := x.queue ++ [root] }) with
        nextId := s.nextId + p.nst, pipes := mset s.pipes n { p with launches := ids }
        launches := (List.range p.nst).foldl add s.launches }

/-- The descriptor that a submission's kind names, or the stage headers that its descriptor names, are on their way from another
package: they have been asked for (R420). -/
def State.submitWaits (s : State) (guest kind : Nat) (addr : Addr) : Option State :=
  let who : FarUser := .host guest
  match kind with
  | 1 => if addr.toNat % 64 = 0 then s.homeWait who guest addr.toNat 128 else none
  | 2 => match s.homeBytes who guest addr.toNat 320 with
    | none => s.homeWait who guest addr.toNat 320
    | some b =>
      let p : Pipe := ⟨guest, b, [], 0, [], [], false⟩
      if p.wellFormed then (List.range p.nst).findSome? (fun k => s.homeWait who guest (p.stage k 0 8) 128) else none
  | _ => none

/-- A submission waits in its context. -/
def State.holdSub (s : State) (guest kind : Nat) (addr : Addr) (tag : DWord) : State :=
  s.modCtx guest (fun x => { x with held := x.held ++ [(kind, addr, tag)] })

/-! ## The end of launches from outside (R431) -/

/-- Every group and sequencer that satisfies a condition on its launch ends, its saved units with them. -/
def State.endWork (s : State) (mine : Nat → Bool) : State :=
  let s := (s.groups.filter (fun x => mine x.2.launch && !x.2.ended)).foldl (fun s x => s.endGroup (x.1 / 64) (x.1 % 64)) s
  let s := (s.wgroups.filter (fun x => mine x.2.launch)).foldl (fun s x => s.stopSeq (x.1 / 16) (x.1 % 16) none) s
  let gone := (s.units.filter (fun u => mine u.2.launch)).flatMap (fun u => u.2.saved)
  let ghosts := gone.flatMap (fun w => w.groups.map (·.ghost))
  let s := gone.foldl (fun (s : State) w => s.storeErrors (fun r => w.groups.any (fun x => x.ghost == r.core)) w.wg.launch w.core) s
  let less (l : Nat) : Nat × Nat :=
    (((gone.filter (fun w => w.wg.launch == l)).map (fun w => w.groups.length)).sum,
     (gone.filter (fun w => w.wg.launch == l && (match w.wg.seq with | some q => !q.stopped | none => false))).length)
  { s with units := (s.units.map (fun (u : Nat × Unit_) => (u.1, if mine u.2.launch then { u.2 with saved := [] } else u.2))).filter
             (fun (u : Nat × Unit_) => !(u.2.wgs.isEmpty && u.2.saved.isEmpty))
           ops := s.ops.map (fun (x : Nat × Op) => (x.1, if ghosts.contains x.2.core then { x.2.drop with saved := false, area := none } else x.2))
           recs := s.recs.filter (fun r => !ghosts.contains r.core)
           launches := s.launches.map (fun (x : Nat × Launch) => (x.1, if mine x.1 then
             { x.2 with aborted := true, groups := x.2.groups - (less x.1).1, seqs := x.2.seqs - (less x.1).2 } else x.2)) }

/-- A guest's launches end; those that have not started are over at once, each with its completion entry, and so are the
submissions that wait (log 85). -/
def State.endLaunches (s : State) (guest : Nat) : State :=
  let q := (s.ctx guest).queue
  let tags := q.map s.tagOf
  let held := (s.ctx guest).held
  let s := { s with launches := s.launches.filter (fun x => !q.contains x.2.root)
                    pipes := s.pipes.filter (fun x => !(x.2.guest == guest && !x.2.live)) }
  let s := s.modCtx guest (fun x => { x with queue := [], held := [] })
  let s := tags.foldl (fun (s : State) t => s.completion guest 1 t none) s
  let s := held.foldl (fun (s : State) (x : Nat × Addr × DWord) =>
    s.completion guest (if x.1 = 1 ∨ x.1 = 2 then 1 else 2) x.2.2 (if x.1 = 3 ∨ x.1 = 4 then some x.2.1 else none)) s
  s.endWork (fun l => match mfind s.launches l with | some x => x.guest == guest | none => false)

/-- A guest reset (R431): its launches end, and its moulds and mailboxes are discarded. -/
def State.resetGuest (s : State) (guest : Nat) : State :=
  (s.endLaunches guest).modCtx guest (fun x => { x with moulds := List.replicate 8 Mould.free, mail := [] })

/-- R350. Bytes of another package are waited for (R420). -/
def execSubmitLaunch (guest : Nat) (addr : Addr) (tag : DWord) (s : State) : Host.Outcome State Fault Refusal :=
  s.event (fun s =>
    if !(s.ctx guest).valid then s else
    if let some s := s.submitWaits guest 1 addr then s.holdSub guest 1 addr tag
    else (s.submitHeader guest addr tag).farDone (.host guest))

/-- R352. Bytes of another package are waited for (R420). -/
def execSubmitPipeline (guest : Nat) (addr : Addr) (tag : DWord) (s : State) : Host.Outcome State Fault Refusal :=
  s.event (fun s =>
    if !(s.ctx guest).valid then s else
    if let some s := s.submitWaits guest 2 addr then s.holdSub guest 2 addr tag
    else (s.submitPipe guest addr tag).farDone (.host guest))

/-- R411, R431: kind 5. -/
def State.submitStop (s : State) (guest : Nat) (tag : DWord) : State :=
  let had := (s.ctx guest).current.isSome
  (s.resetGuest guest).completion guest (if had then 1 else 2) tag none

/-- R411, R431. -/
def execSubmitAbort (guest : Nat) (tag : DWord) (s : State) : Host.Outcome State Fault Refusal :=
  s.event (fun s => if (s.ctx guest).valid then s.submitStop guest tag else s)

end Sys2Proof.Machine
end

