-- ==== Sys2Proof/Machine/Block.lean ====
section
/-! DEFINITION. Workgroup save blocks in memory (R346, R379; log 26). -/

namespace Sys2Proof.Machine

/-! ## Workgroup save blocks (R379) -/

/-- The 16 bytes of a barrier (R379). -/
def Bar.bytes16 (b : Bar) : List Byte :=
  let here (j : Nat) : Bool := mfind b.arr j == some b.pn
  leBytes 4 (maskOf here).toNat ++ leBytes 4 b.pn ++ leBytes 2 b.held ++ [BitVec.ofNat 8 b.an, BitVec.ofNat 8 b.en,
    BitVec.ofNat 8 ((here memTU).toNat + 2 * (here memSeq).toNat), 0, 0, 0]

/-- Bytes of a workgroup save block whose layout the spec does not give: the sequencer's state with the ungranted word, the
armings, and the latches (log 26). -/
def SavedWG.openLen (x : SavedWG) : Nat := 128 + 16 * x.arms.length + 64 * x.halves.length

/-- Where the sequencer's state, the row halves and the groups begin in a block. -/
def SavedWG.seqAt (x : SavedWG) : Nat := 512 + 1024 * x.wg.sgran
def SavedWG.halfAt (x : SavedWG) (i : Nat) : Nat := x.seqAt + 128 + 16 * x.arms.length + (16384 + 64 + 262144) * i
def SavedWG.groupAt (x : SavedWG) (i : Nat) : Nat :=
  lineUp (x.halfAt x.halves.length) + ((x.groups.take i).map (fun g => g.g.blockLen g.whole)).sum

/-- The length of a workgroup save block. -/
def SavedWG.len (x : SavedWG) : Nat := x.groupAt x.groups.length

/-- The header and the barriers of a workgroup save block. -/
def SavedWG.head (x : SavedWG) (half : Nat) : List Host.Cell :=
  cellsAt 0 (leBytes 8 x.wg.wid.toNat ++ leBytes 2 x.wg.sgran ++ [BitVec.ofNat 8 x.groups.length, BitVec.ofNat 8 half]
    ++ leBytes 4 (x.wg.detach.toNat + 2 * x.wg.seq.isSome.toNat)
    ++ leBytes 8 (mkWit 1 (x.core * 16 + x.wslot) x.tsave).toNat)
  ++ (List.range 16).flatMap (fun n => match mfind x.wg.bars n with
    | some b => cellsAt (256 + 16 * n) b.bytes16
    | none => [])

/-- One row half of the engine: weights of 2 bytes in PE order, the latches, the accumulator entries (R248, R320, R346). -/
def SavedWG.half (x : SavedWG) (i h : Nat) (latch : List Byte) : List Host.Cell :=
  (x.weights.filter (fun w => w.1 / 8192 == h)).flatMap (fun w => cellsAt (x.halfAt i + 2 * (w.1 % 8192)) (leBytes 2 w.2.toNat))
  ++ cellsAt (x.halfAt i + 16384) latch
  ++ (x.acc.filter (fun w => w.1 / 65536 == h)).flatMap (fun w =>
    cellsAt (x.halfAt i + 16448 + 4 * (w.1 % 65536)) (leBytes 4 w.2.toNat))

/-- The bytes of a workgroup save block; `free` are those that no layout gives. -/
def SavedWG.image (x : SavedWG) (half : Nat) (free : List Byte) : List Host.Cell :=
  let n := 128 + 16 * x.arms.length
  x.head half ++ x.scratch.map (fun c => (512 + c.1, c.2)) ++ cellsAt x.seqAt (free.take n)
    ++ (x.halves.zipIdx).flatMap (fun h => x.half h.2 h.1 ((free.drop (n + 64 * h.2)).take 64))
    ++ (x.groups.zipIdx).flatMap (fun g => (g.1.g.image g.1.whole).map (fun c => (x.groupAt g.2 + c.1, c.2)))

/-- Several free bytes (log 2). -/
def State.freeBytes (s : State) (n : Nat) : State × List Byte :=
  (List.range n).foldl (fun (acc : State × List Byte) _ => let r := acc.1.freeByte; (r.1, acc.2 ++ [r.2])) (s, [])

/-- A saved workgroup of a unit stands in its save block, where firmware places it (R379); without room in the save area no
byte is written (log 26). -/
def State.keepWG (s : State) (unit i : Nat) : State :=
  match mfind s.units unit with
  | none => s
  | some u => match u.saved[i]? with
    | none => s
    | some x =>
      let half := match mfind s.launches x.wg.launch with | some l => l.hdr.half | none => 0
      let a := s.freeBlock
      let f := a.1.freeBytes x.openLen
      match f.1.blockPlace u.guest x.len (a.2.toNat / 128) with
      | none => f.1
      | some p => { f.1 with
          mem := putImage f.1.mem p x.len (x.image half f.2)
          units := mset f.1.units unit { u with saved := u.saved.set i { x with block := some (p, x.len) } } }

/-- Every saved workgroup of a unit stands in a save block. -/
def State.keepUnit (s : State) (unit : Nat) : State :=
  match mfind s.units unit with
  | none => s
  | some u => (List.range u.saved.length).foldl (fun (s : State) i => s.keepWG unit i) s

end Sys2Proof.Machine
end

