-- ==== Sys2Proof/Machine/Save.lean ====
section
/-! DEFINITION. Pre-emption, saving and resumption of groups, escalated groups in firmware's hands, machine checks (R86 to
R88, R190, R233, R309, R346, R359, R371 to R376, R378 to R384, R411). -/

namespace Sys2Proof.Machine

/-! ## Units and their groups -/

/-- The groups of a resident unit with their cores and slots. -/
def State.unitGroups (s : State) (u : Unit_) : List (Nat × Nat × Group) :=
  u.wgs.flatMap (fun k => match mfind s.wgroups k with
    | some w => w.groups.filterMap (fun x => (s.group (k / 16) x.2).map (fun g => (k / 16, x.2, g)))
    | none => [])

/-- The unit that a workgroup key belongs to. -/
def State.unitOf (s : State) (key : Nat) : Option (Nat × Unit_) := s.units.find? (fun u => u.2.wgs.contains key)

/-- A request to stop reaches every live group of a unit that satisfies a condition (R378). -/
def State.stopUnit (s : State) (u : Unit_) (p : Group → Bool) : State :=
  (s.unitGroups u).foldl (fun (s : State) x => s.modGroup x.1 x.2.1 (fun g => if !g.ended && p g then { g with preempt := true } else g)) s

/-- R378: a resident unit is pre-empted: the request reaches every group of it. -/
def State.preemptUnit (s : State) (x : Nat × Unit_) : State :=
  { s.stopUnit x.2 (fun _ => true) with units := mset s.units x.1 { x.2 with asked := true } }

/-- R378. -/
def execPreemptRequest (unit : Nat) (s : State) : Host.Outcome State Fault Refusal :=
  s.event (fun s => match mfind s.units unit with
    | none => s
    | some u => if u.wgs.isEmpty then s else s.preemptUnit (unit, u))

/-- R359: 2^20 cc after a shrink was asked for, the next run boundary stops the group. -/
def execGangStopTimeout (unit : Nat) (s : State) : Host.Outcome State Fault Refusal :=
  s.event (fun s => match mfind s.units unit with
    | some u => match u.shrink with
      | some t => if t + 2 ^ 20 ≤ s.cc then s.stopUnit u (fun g => g.gangStop.isSome) else s
      | none => s
    | none => s)

/-! ## GROUP_SAVE (R86 to R88) -/

/-- The group stands at a run boundary, or stopped for the debugger, with its released stores accepted or recorded. -/
def State.quiet (s : State) (core slot : Nat) (g : Group) : Bool :=
  (g.run.isNone || (match g.dbg with | .stopped _ => true | _ => false)) && g.port.isNone && g.sq.isEmpty
    && !s.ops.any (fun x => x.2.isOf core slot && x.2.kind == .store)

/-- The group may be saved by flashback (R86). A gang that makes way for a shrink is saved whole (R359). -/
def State.mayFlash (s : State) (u : Unit_) (core slot : Nat) (g : Group) : Bool :=
  !g.nofb && decide (g.runs ≤ 512) && !s.recs.any (fun r => r.isOf core slot) && !g.sup && g.dbg == .running && !g.step
    && g.esc.isNone && u.shrink.isNone

/-- A register of the live mask is pending (R86). -/
def Group.livePending (g : Group) : Bool := g.pendFrm.any (fun p => g.safe.frameLive p.reg)

/-- A group of a shrinking gang waits for all the others to stop (R359). -/
def State.gangWaits (s : State) (u : Unit_) : Bool :=
  u.shrink.isSome && (s.unitGroups u).any (fun x => !x.2.2.ended && !(x.2.2.preempt && s.quiet x.1 x.2.1 x.2.2))

/-- The group is saved, by flashback or whole: its request for granules goes, its table is released, a run it was stopped
in is rolled back, and by flashback its outstanding results are discarded. -/
def State.saveGroup (s : State) (core slot : Nat) (g : Group) (flash : Bool) : State :=
  let s := match g.run with
    | some r => s.rollback core slot r.split .nothing
    | none => s
  let s := (s.growLeave core slot).releaseTable core slot
  let s := s.modGroup core slot (fun g => { g with saved := some (!flash) })
  if flash then { s with ops := s.ops.map (fun (x : Nat × Op) => (x.1, if x.2.isOf core slot then x.2.drop else x.2)) } else s

/-- R86. -/
def execGroupSave (core slot : Nat) (s : State) : Host.Outcome State Fault Refusal :=
  s.event (fun s => match s.group core slot with
    | none => s
    | some g =>
      if !g.preempt || g.saved.isSome || g.ended || !s.quiet core slot g then s else
      match s.unitOf (wkey core g.wslot) with
      | none => s
      | some (_, u) =>
        let flash := s.mayFlash u core slot g
        if s.gangWaits u || (flash && g.livePending) then s else s.saveGroup core slot g flash)

/-! ## SAVE_COMPLETE (R233, R241, R309, R346, R378, R382) -/

/-- A workgroup of the unit can be taken away: its chains stand at records of a living producer, its granted engine
operations have retired, and so has its sequencer's record a living owner. -/
def State.wgroupStill (s : State) (key : Nat) (w : WGroup) : Bool :=
  let core := key / 16
  let mine (c : Chain) : Bool := wkey c.core c.wslot == key
  s.chains.all (fun c => !mine c || (c.phase == .stopped && s.producerLives c))
    && !s.eops.any (fun e => wkey e.core e.wslot == key && e.granted.isSome)
    && (match w.seq with | some q => !q.heldRec || (s.producerOf core w).isSome | none => true)

/-- The counted operations of a group that R378 waits for have completed; an arming that no granted drain has taken is recorded
instead (R346). -/
def State.opsStill (s : State) (core slot : Nat) : Bool :=
  s.ops.all (fun x => !x.2.isOf core slot || !(x.2.ctr == some .cp || x.2.ctr == some .tl) || (match x.2.kind with
    | .chain _ => true
    | .arming => s.armings.any (fun a => a.op == x.1)
    | _ => false))

/-- The group's accesses that its homes have yet to apply are fills and synchronising accesses of a wider scope. -/
def State.writesStill (s : State) (core slot : Nat) : Bool :=
  s.aq.all (fun e => !(e.core == core && e.slot == slot) || (match e.act with
    | .fill _ => true
    | .store _ => false
    | _ => (match mfind s.ops e.op with | some o => o.scope != .wg | none => true)))

/-- Lines written back and dropped at a save: held lines of the unit's workgroups and per-thread lines of its guest on
its cores (R233, R241, R258). -/
def Unit_.ownLine (u : Unit_) (x : L1Line) : Bool :=
  match x.kind with
  | .held w _ _ => u.wgs.contains (wkey x.core w)
  | .priv g _ _ => g == u.guest && u.wgs.any (fun k => k / 16 == x.core)
  | .clean _ _ _ => false

/-- A write-back of a line that a unit wrote is on its way to another package (R241, R420). -/
def Unit_.ownFar (u : Unit_) (f : Far) : Bool :=
  match f.who with
  | .l1 core g _ => g == u.guest && u.wgs.any (fun k => k / 16 == core)
  | _ => false

/-- Everything R378 waits for has come about. -/
def State.unitStill (s : State) (u : Unit_) : Bool :=
  (s.unitGroups u).all (fun x => (x.2.2.saved.isSome || x.2.2.ended) && x.2.2.sq.isEmpty
      && s.opsStill x.1 x.2.1 && s.writesStill x.1 x.2.1)
    && !s.l1.any (fun x => u.ownLine x && s.coming x)
    && u.wgs.all (fun k => match mfind s.wgroups k with | some w => s.wgroupStill k w | none => true)

/-- A group leaves its slot: saved under a number, or, where it has ended, gone (R165, R382). -/
def State.takeGroup (s : State) (core slot w1 : Nat) (g : Group) : State × Option SavedGroup :=
  let r := s.newId
  let ghost := ghostOf (match g.esc with | some e => e.id | none => r.2)
  let s := (r.1.detachGroup core slot ghost g).parkGroup core slot g
  let s := { s with groups := mdel s.groups (gkey core slot) }
  match g.saved with
  | some whole => (s, some ⟨w1, whole, { g with preempt := false, saved := none, gangStop := none, grans := [] }, ghost⟩)
  | none => ({ s with launches := mmod s.launches g.launch (fun l => { l with groups := l.groups - 1 }) }, none)

/-- Row halves that the save of a workgroup with a sequencer records: those of the sequencer's tenant that its context
uses (R322, R346). -/
def State.savedHalves (s : State) (key : Nat) (w : WGroup) : List Nat :=
  let core := key / 16
  let rows := s.tenantRows core
  if w.seq.isNone then [] else
  (halvesOf rows.1 rows.2).filter (fun h => (s.cluster (clusterOf core)).user.getD h none == some w.guest)

/-- Bytes of a workgroup's allocation, counted from its start. -/
def scratchImage (m : Memory) (at_ n : Nat) : Memory :=
  (m.filter (fun c => decide (at_ ≤ c.1) && decide (c.1 < at_ + n))).map (fun c => (c.1 - at_, c.2))

/-- A workgroup leaves its core (R346, R379). -/
def State.takeWG (s : State) (key : Nat) : State × Option SavedWG :=
  match mfind s.wgroups key with
  | none => (s, none)
  | some w =>
    let core := key / 16
    let wslot := key % 16
    let r := w.groups.foldl (fun (acc : State × List SavedGroup) x => match acc.1.group core x.2 with
      | none => acc
      | some g => let t := acc.1.takeGroup core x.2 x.1 g
        (t.1, acc.2 ++ t.2.toList)) (s, [])
    let numberOf (slot : Nat) : Nat := match r.2.find? (fun x => (mfind w.groups x.w1) == some slot) with
      | some x => x.ghost
      | none => deadKey
    let hs := s.savedHalves key w
    let k := s.cluster (clusterOf core)
    let arms := s.armings.filter (fun a => a.core == core && w.groups.any (fun x => x.2 == a.slot))
    let chains := s.chains.filter (fun c => wkey c.core c.wslot == key)
    let eop := s.eops.find? (fun e => wkey e.core e.wslot == key)
    let out : SavedWG := {
      block := none, halves := hs, wg := { w with groups := [], seq := w.seq.map (fun q => { q with block := none, gathering := none }) }
      core := core, wslot := wslot, tsave := s.dtime
      scratch := scratchImage (s.scratchOf core) (1024 * w.sbase) (1024 * w.sgran), groups := r.2
      acc := k.acc.filter (fun x => hs.contains (x.1 / 65536)), weights := k.weights.filter (fun x => hs.contains (x.1 / 8192))
      wscales := k.wscales.filter (fun x => hs.contains (x.1 / 1024)), latches := k.latches.filter (fun x => hs.contains (x.1 / 2))
      arms := arms.map (fun a => { a with core := numberOf a.slot, slot := 0 })
      chains := chains.map (fun c => { c with slot := numberOf c.slot }), eop := eop }
    let s := r.1.perfWait (clusterOf core) (r.1.tenantOf core)
    let runs : Bool := r.2.isEmpty && (match w.seq with | some q => !q.stopped | none => false)
    ({ s with launches := mmod s.launches w.launch (fun l => { l with seqs := if runs then l.seqs - 1 else l.seqs })
              wgroups := mdel s.wgroups key
              armings := s.armings.filter (fun a => !(a.core == core && w.groups.any (fun x => x.2 == a.slot)))
              chains := s.chains.filter (fun c => wkey c.core c.wslot != key)
              eops := s.eops.filter (fun e => wkey e.core e.wslot != key) }.granulesBack core, some out)

/-- The unit leaves its cores, once its lines have been written back at their homes (R241); `none` while a write-back waits for
the dirty log. -/
def State.takeUnit (s : State) (unit : Nat) (u : Unit_) : Option State :=
  ((s.l1.filter u.ownLine).foldlM (fun (s : State) x => s.writeBackLog x) s).map (fun s =>
    let s := { s with l1 := s.l1.filter (fun x => !u.ownLine x) }
    if s.farOut u.ownFar then s else
    let r := u.wgs.foldl (fun (acc : State × List SavedWG) k => let t := acc.1.takeWG k; (t.1, acc.2 ++ t.2.toList)) (s, [])
    let saved := r.2.filter (fun w => !w.groups.isEmpty)
    { r.1 with units := if saved.isEmpty then mdel r.1.units unit
               else mset r.1.units unit { u with wgs := [], asked := false, saved := saved } }.keepUnit unit)

/-- R378. -/
def execSaveComplete (unit : Nat) (s : State) : Host.Outcome State Fault Refusal :=
  s.event (fun s => match mfind s.units unit with
    | none => s
    | some u =>
      if u.wgs.isEmpty || !(u.asked || u.shrink.isSome) || !s.unitStill u then s else (s.takeUnit unit u).getD s)

/-! ## Replies to a saved unit (R383) -/

/-- R383: the reply is written into DATA and the lane's RSLV bit is set. -/
def execSavedRecordReply (op lane : Nat) (data : BitVec 128) (s : State) : Host.Outcome State Fault Refusal :=
  s.event (fun s => match mfind s.ops op with
    | none => s
    | some o =>
      if o.saved && o.lanes.any (fun x => x.req.lane == lane && x.st == .replied && x.req.val == data)
      then (s.modOp op (fun o => o.setLane lane .resolved)).keepReplies op else s)

/-- A reply is still owed to a saved group; the status of `enqw` is not waited for (R384). -/
def State.owed (s : State) (ghost : Nat) : Bool :=
  s.ops.any (fun x => x.2.saved && x.2.core == ghost && (x.2.lanes.any (fun y => y.st == .queued || y.st == .replied)
    || ((x.2.kind == .enq || x.2.kind == .lsend) && x.2.status.isNone)))

/-! ## RESUME (R87, R88, R233, R346, R371, R384) -/

/-- The span a workgroup belongs to, as a number. -/
def State.spanOf (s : State) (w : WGroup) : Nat :=
  match mfind s.launches w.launch with
  | some l => w.wid.toNat / 2 ^ (l.hdr.w.take 3).sum
  | none => 0

/-- The cores a saved unit would return to suit it: workgroups of one span stand on distinct cores of one cluster that
their launch may use (R55, R351). -/
def State.coresSuit (s : State) (u : Unit_) (cores : List Nat) : Bool :=
  let ps := u.saved.zip cores
  let half := match mfind s.launches u.launch with | some l => l.hdr.half | none => 0
  cores.length == u.saved.length
    && cores.all (fun c => s.clusterOk u.guest half (clusterOf c) && (halfCores half).contains (c % 4))
    && ps.all (fun p => ps.all (fun q => p.1.wg.w2 == q.1.wg.w2 && s.spanOf p.1.wg == s.spanOf q.1.wg
        || s.spanOf p.1.wg != s.spanOf q.1.wg || (clusterOf p.2 == clusterOf q.2 && p.2 != q.2)))

/-- A register number and its value are live in the safe record. -/
def liveRegs {α : Type} (m : AMap α) (live : Nat → Bool) : AMap α := m.filter (fun x => live x.1)

/-- An 8-byte field of the safe record's entry. -/
def SafeRec.addr (r : SafeRec) (o : Nat) : Addr := BitVec.ofNat 64 (fieldLE r.bytes o 8)

/-- A part as a saved group resumes with it: its header is decoded afresh. -/
def Part.restored (p : Part) : Part :=
  { p with image := none, wait := .nothing, readyAt := none, passed := 0, due := false, held := none, fault := none }

/-- A whole-saved group as it resumes (R88). -/
def Group.wholeAgain (g : Group) : Group :=
  let k (p : Parked) : Parked := { p with splits := p.splits.map (Option.map Part.restored), pend := p.pend.map Part.restored
                                          ovf := p.ovf.map Part.restored }
  { g with splits := g.splits.map (Option.map Part.restored), pend := g.pend.map Part.restored, ovf := g.ovf.map Part.restored
           parked := g.parked.map k, run := none, port := none, inE := none, starved := false, yieldAt := none, sleepAt := none }

/-- A flashback-saved group as it resumes (R87): it starts at the maquette, or at the resume PC; the start entry names
the kernel's code. -/
def Group.flashAgain (g : Group) (code : Addr) (now : Nat) : Group :=
  let resume := if g.safe.entry.isNone then code else g.safe.addr 48
  let maq := if g.safe.entry.isNone then 0 else g.safe.addr 56
  let g0 := Group.fresh g.wid g.launch g.guest g.wslot g.live (if maq = 0 then resume else maq) g.pb g.plinth g.fgran
  { g0.modSplit 0 (fun p => { p with queued := now, maq := maq != 0 }) with
    start := g.start, frame := liveRegs g.frame g.safe.frameLive, uni := liveRegs g.uni g.safe.uniLive
    prd := liveRegs g.prd g.safe.prdLive, segw := g.safe.segw, dkey := g.safe.dkey, drctr := g.safe.drctr, dcoin := g.safe.dcoin
    aflags := g.aflags, runs := g.runs, safe := g.safe, maq := if maq = 0 then none else some resume
    tabAddr := g.tabAddr, pmark := g.pmark, credit := g.credit, dbg := g.dbg, step := g.step }

/-- Data of resolved lanes reach their destination; every other lane goes out again (R371, R384). -/
def State.replayOp (s : State) (id : Nat) : State :=
  match mfind s.ops id with
  | none => s
  | some o =>
    if o.dropped then s else
    let words (d : BitVec 128) : List Word := (List.range 4).map (fun k => (d >>> (32 * k)).setWidth 32)
    let s := o.lanes.foldl (fun (s : State) x => if x.st = .resolved then s.deliverLane o x.req.lane (words x.req.val) else s) s
    let recd := s.recorded id
    let again (x : OpLane) : OpLane := match x.st with
      | .resolved => { x with st := .done }
      | .faulted k => { x with st := if laneOn recd x.req.lane then .faulted k else .todo }
      | _ => x
    let s := s.modOp id (fun o => { o with gen := (s.ctx o.guest).asgen, lanes := o.lanes.map again })
    match o.kind with
    | .enq | .enqw | .lsend | .mrecv => if o.status.isSome then (s.deliverStatus o).completeOp id else s
    | _ => s.settleOp id

/-- Every unpinned record of a group is replayed and goes (R371, R384). -/
def State.replayAll (s : State) (core slot : Nat) : State :=
  let mine (r : Rec) : Bool := r.isOf core slot && !r.pinned
  let idxs := (List.range s.recs.length).filter (fun i => match s.recs[i]? with | some r => mine r | none => false)
  let s := idxs.foldl (fun (s : State) i => s.replayRec core slot i) s
  s.dropRecs (fun r => mine r && r.unf == 0)

/-- A saved group stands in a slot again. One that has escalated stands there for firmware: its records, and its operations
that the area records, stay in the area. -/
def State.returnSaved (s : State) (x : SavedGroup) (core wslot : Nat) : Option State :=
  match s.pickSlot core with
  | none => none
  | some slot =>
    let esc := x.g.esc.isSome
    if s.freeGranules core < x.g.fgran || !(esc || s.pinFree core x.ghost x.g.pinIdx) then none else
    let code := match mfind s.launches x.g.launch with | some l => l.hdr.code | none => 0
    let g := if x.whole then x.g.wholeAgain else x.g.flashAgain code s.cc
    let s := s.setGroup core slot { g with wslot := wslot, grans := s.pickGranules core g.fgran }
    let s := s.modWG core wslot (fun w => { w with groups := mset w.groups x.w1 slot })
    some (if esc then s.attachOps x.ghost core slot (fun o => o.ctr != some .ld)
          else s.attachGroup x.ghost x.g.pinIdx core slot (wkey core wslot))

/-- The engine state of a saved workgroup's row halves (R346). -/
def State.restoreEngine (s : State) (cluster : Nat) (w : SavedWG) : State :=
  let hs := w.halves
  let s := hs.foldl (fun (s : State) h => s.useHalf cluster h w.wg.guest) s
  let merge {α : Type} (old new : AMap α) (per : Nat) : AMap α :=
    new.foldl (fun m x => mset m x.1 x.2) (old.filter (fun x => !hs.contains (x.1 / per)))
  s.modCluster cluster (fun k => { k with
    acc := merge k.acc w.acc 65536, weights := merge k.weights w.weights 8192
    wscales := merge k.wscales w.wscales 1024, latches := merge k.latches w.latches 2 })

/-- The lowest W1 among the groups of a workgroup (R391). -/
def lowestW1 (gs : AMap Nat) : Nat := match gs with | [] => 0 | (j, _) :: _ => j

/-- A saved workgroup stands on a core again, with its groups (R384 steps 3 and 4). -/
def State.returnWG (s : State) (w : SavedWG) (core : Nat) : Option (State × Nat) :=
  match s.pickWslot core, s.pickScratch core w.wg.sgran with
  | some wslot, some base =>
    let domain := BitVec.ofNat 14 (w.core * 16 + w.wslot)
    let moved := decide (wkey core wslot ≠ wkey w.core w.wslot)
    let wg := { w.wg with sbase := base, alias_ := if moved then some (domain, w.tsave) else none }
    let clear := zeroBytes (s.scratchOf core) (1024 * base) (1024 * w.wg.sgran)
    let image := w.scratch.foldl (fun (m : Memory) c => wrByte m (1024 * base + c.1) c.2) clear
    let s := { s with wgroups := mset s.wgroups (wkey core wslot) wg, scratch := mset s.scratch core image }
    let s := s.restoreEngine (clusterOf core) w
    (w.groups.foldlM (fun (s : State) x => s.returnSaved x core wslot) s).map (fun s =>
      (s.modWG core wslot (fun w => { w with token := lowestW1 w.groups }), wkey core wslot))
  | _, _ => none

/-- The place that a saved workgroup's key has become. -/
def newKey (ps : List (SavedWG × Nat)) (key : Nat) : Nat :=
  match ps.find? (fun p => wkey p.1.core p.1.wslot == key) with
  | some p => p.2
  | none => deadKey

/-- A scratchpad range of a chain, on the core and at the place its workgroup now has. -/
def State.movedRange (s : State) (ps : List (SavedWG × Nat)) (x : Nat × Nat × Nat) : Nat × Nat × Nat :=
  let inside (p : SavedWG × Nat) : Bool := p.1.core == x.1 && decide (1024 * p.1.wg.sbase ≤ x.2.1)
    && decide (x.2.1 < 1024 * (p.1.wg.sbase + p.1.wg.sgran))
  match ps.find? inside with
  | some p => match mfind s.wgroups p.2 with
    | some w => (p.2 / 16, x.2.1 - 1024 * p.1.wg.sbase + 1024 * w.sbase, x.2.2)
    | none => x
  | none => x

/-- The slot in which a saved group's number has come to stand. -/
def State.slotOf (s : State) (key : Nat) (w : SavedWG) (ghost : Nat) : Nat :=
  match w.groups.find? (fun x => x.ghost == ghost), mfind s.wgroups key with
  | some x, some g => mget g.groups x.w1 0
  | _, _ => 0

/-- Spans, armings, chains and the ungranted word of a workgroup that has returned (R346, R384 step 3). -/
def State.rejoinWG (s : State) (ps : List (SavedWG × Nat)) (p : SavedWG × Nat) : State :=
  let core := p.2 / 16
  let wslot := p.2 % 16
  let arm (a : Arming) : Arming := { a with core := core, slot := s.slotOf p.2 p.1 a.core }
  let chain (c : Chain) : Chain := { c with
    core := core, wslot := wslot, slot := s.slotOf p.2 p.1 c.slot, cluster := clusterOf core, range := c.range.map (s.movedRange ps) }
  let eop (e : EOp) : EOp := { e with core := core, wslot := wslot, cluster := clusterOf core, posted := s.cc, aged := false }
  let s := s.perfWait (clusterOf core) (s.tenantOf core)
  { s.modWG core wslot (fun w => { w with span := w.span.map (newKey ps) }) with
    armings := s.armings ++ p.1.arms.map arm, chains := s.chains ++ p.1.chains.map chain
    eops := s.eops ++ (p.1.eop.map eop).toList }

/-- A resumed group's outstanding operations and records are replayed before its first run (R384 step 5), its table is
bound again (R190), and the trace starts afresh (R396). One that has escalated is not resident (R394). -/
def State.reviveGroup (s : State) (core slot : Nat) : State :=
  if (s.group core slot).any (fun g => g.esc.isSome) then s else
  let ids := (s.ops.filter (fun x => x.2.isOf core slot)).map (·.1)
  let s := ids.foldl (fun (s : State) id => s.replayOp id) s
  let s := (s.replayAll core slot).rebind core slot
  (s.traceStart core slot).traceSyncs core slot

/-- The eight scoreboard entries and the four places of the edge-port queue hold what stands on each core (R306, R335). -/
def State.queuesFit (s : State) (cores : List Nat) : Bool :=
  cores.all (fun c => decide (s.scoreHeld c ≤ 8) && decide (s.portHeld c ≤ 4))

/-- The whole unit returns; `none` where something of it does not fit. -/
def State.returnUnit (s : State) (unit : Nat) (u : Unit_) (cores : List Nat) : Option State :=
  let r := (u.saved.zip cores).foldlM (fun (acc : State × List (SavedWG × Nat)) p =>
    (acc.1.returnWG p.1 p.2).map (fun x => (x.1, acc.2 ++ [(p.1, x.2)]))) (s, [])
  (r.map (fun r => (r.2.foldl (fun (s : State) p => s.rejoinWG r.2 p) r.1, r.2))).bind (fun r =>
    let s := r.1
    if !s.queuesFit cores then none else
    let u' : Unit_ := { u with wgs := r.2.map (·.2), asked := false, saved := [], shrink := none }
    let s := { s with units := mset s.units unit u' }
    some ((s.unitGroups u').foldl (fun (s : State) x => s.reviveGroup x.1 x.2.1) s))

/-- R384. -/
def execResume (unit cluster : Nat) (cores : List Nat) (s : State) : Host.Outcome State Fault Refusal :=
  s.event (fun s => match mfind s.units unit with
    | none => s
    | some u =>
      if !u.wgs.isEmpty || u.saved.isEmpty || clusterOf (cores.getD 0 0) != cluster || !s.coresSuit u cores
          || u.saved.any (fun w => w.groups.any (fun g => s.owed g.ghost)) then s
      else (s.returnUnit unit u cores).getD s)

/-! ## Escalated groups (R282, R373 to R375) -/

/-- The resident group that an escalation's number names. -/
def State.escGroup (s : State) (gid : Nat) : Option (Nat × Nat × Group × Escal) :=
  s.groups.findSome? (fun x => match x.2.esc with
    | some e => if e.id = gid ∧ x.2.saved.isNone then some (x.1 / 64, x.1 % 64, x.2, e) else none
    | none => none)

/-- The resumption of an escalated group has what it waits for: every reply owed to its records, and the index that its
XCAUSE pins (R384). -/
def State.mayResume (s : State) (core : Nat) (g : Group) (e : Escal) : Bool :=
  !s.owed (ghostOf e.id) && s.pinFree core (ghostOf e.id) g.pinIdx

/-- A group that firmware resumes (R282, R373): it goes on as saved (R88), its records back in the hardware queues, those
that are not pinned and its operations in flight replayed (R384), the trace begun afresh (R395); an entry to the handler that its
spill broke off is made again. -/
def State.fwResumeAt (s : State) (core slot : Nat) (g : Group) (e : Escal) : State :=
  let ids := (s.ops.filter (fun x => x.2.core == ghostOf e.id)).map (·.1)
  let s := s.setGroup core slot { g.wholeAgain with esc := none }
  let s := s.attachGroup (ghostOf e.id) g.pinIdx core slot (wkey core g.wslot)
  let s := ((ids.foldl (fun (s : State) id => s.replayOp id) s).replayAll core slot).rebind core slot
  let s := (s.traceStart core slot).traceSyncs core slot
  match e.entry with
  | some (p, x) => if dispositionOf x.cause = Disposition.handler then s.enterHandler core slot p x else s
  | none => s

/-- Firmware itself disposes of the escalation: it has not referred it, and it is no `trap` that it must refer (R374). -/
def Escal.own (e : Escal) : Bool := !e.referred && (e.cause != cTrap || e.info == 1)

/-- The header at which an escalated group stands (R377). -/
def Group.standsAt (g : Group) : Addr := match g.parts with | p :: _ => p.pc | [] => g.xpc

/-- R373: the group ends as `kill` ends it, with FW_END. -/
def State.fwEndAt (s : State) (core slot : Nat) (g : Group) : State := s.killGroup core slot g.standsAt cFwEnd 3 none

/-- R373. -/
def execFwEnd (gid : Nat) (s : State) : Host.Outcome State Fault Refusal :=
  s.event (fun s => match s.escGroup gid with
    | some (core, slot, g, e) => if e.own then s.fwEndAt core slot g else s
    | none => s)

/-- R373, R411: host software is told with a completion entry of kind 3. -/
def execFwRefer (gid : Nat) (s : State) : Host.Outcome State Fault Refusal :=
  s.event (fun s => match s.escGroup gid with
    | some (core, slot, g, e) =>
      if e.referred then s else
      let s := s.setGroup core slot { g with esc := some { e with referred := true } }
      s.completion g.guest 3 (s.tagOf g.launch) (some e.addr)
    | none => s)

/-- The referred escalation of a guest whose save block has an address. -/
def State.referredAt (s : State) (guest : Nat) (addr : Addr) : Option (Nat × Nat × Group × Escal) :=
  s.groups.findSome? (fun x => match x.2.esc with
    | some e => if x.2.guest = guest ∧ e.referred ∧ e.addr = addr ∧ x.2.saved.isNone then some (x.1 / 64, x.1 % 64, x.2, e) else none
    | none => none)

/-- R411: kind 3 resumes the escalated group; `none` while the resumption waits (R384). -/
def State.submitResumed (s : State) (guest : Nat) (addr : Addr) (tag : DWord) : Option State :=
  match s.referredAt guest addr with
  | some (core, slot, g, e) =>
    if s.mayResume core g e then some ((s.fwResumeAt core slot g e).completion guest 1 tag (some addr)) else none
  | none => some (s.completion guest 2 tag (some addr))

/-- A submission of kind 3 that waited is carried out, where it may be now (R411, R412). -/
def State.heldResume (s : State) (guest : Nat) (addr : Addr) : State :=
  match (s.ctx guest).held.find? (fun x => x.1 == 3 && x.2.1 == addr) with
  | none => s
  | some x => match s.submitResumed guest addr x.2.2 with
    | some s => s.modCtx guest (fun y => { y with held := y.held.erase x })
    | none => s

/-- R373. A group that met the pool-empty request goes on once the pool registers are written (R374); one that has been referred
goes on when host software's order to resume it has waited long enough (R411). -/
def execFwResume (gid : Nat) (s : State) : Host.Outcome State Fault Refusal :=
  s.event (fun s => match s.escGroup gid with
    | some (core, slot, g, e) =>
      if e.referred then s.heldResume g.guest e.addr
      else if e.own && (e.cause != cTrap || e.pool) && s.mayResume core g e then s.fwResumeAt core slot g e else s
    | none => s)

/-- R411: kind 4 ends it. -/
def State.submitEnded (s : State) (guest : Nat) (addr : Addr) (tag : DWord) : State :=
  match s.referredAt guest addr with
  | some (core, slot, g, _) => (s.fwEndAt core slot g).completion guest 1 tag (some addr)
  | none => s.completion guest 2 tag (some addr)

/-- R373, R411. An order that comes while a reply is owed waits for it (R384, R412). -/
def execSubmitResume (guest : Nat) (addr : Addr) (tag : DWord) (s : State) : Host.Outcome State Fault Refusal :=
  s.event (fun s => if (s.ctx guest).valid then (s.submitResumed guest addr tag).getD (s.holdSub guest 3 addr tag) else s)

/-- R373, R411. -/
def execSubmitEnd (guest : Nat) (addr : Addr) (tag : DWord) (s : State) : Host.Outcome State Fault Refusal :=
  s.event (fun s => if (s.ctx guest).valid then s.submitEnded guest addr tag else s)

/-- A `pgmap` of the context waits for its run's trailer. -/
def State.mapping (s : State) (guest : Nat) : Bool :=
  s.groups.any (fun x => x.2.guest == guest && (match x.2.run with | some r => r.staged.any isPgmap | none => false))

/-- R374: with a group of the context escalated, firmware writes the three pool registers, which answers a pool-empty
request. It waits for a run whose `pgmap` has taken pages that its trailer has yet to map. -/
def execPoolRefill (guest : Nat) (base next end_ : Addr) (s : State) : Host.Outcome State Fault Refusal :=
  s.event (fun s =>
    if s.mapping guest || !s.groups.any (fun x => x.2.guest == guest && x.2.esc.isSome) then s else
    let filled (e : Escal) : Escal := if e.cause = cTrap ∧ e.info = 1 then { e with pool := true } else e
    { s.modCtx guest (fun x => { x with poolbase := base, poolnext := next, poolend := end_ }) with
      groups := s.groups.map (fun x => (x.1, if x.2.guest = guest then { x.2 with esc := x.2.esc.map filled } else x.2)) })

/-- Firmware changes a context's translation tables while it holds a group of it, by writes of 8-byte entries in this package's
memory, and advances ASGEN (R373, R245; log 79). -/
def State.fwTables (s : State) (guest : Nat) (ws : List (Nat × DWord)) : State :=
  if s.groups.any (fun x => x.2.guest == guest && x.2.esc.isSome) && !s.mapping guest && !s.asgenWaits guest 1
      && ws.all (fun x => decide (x.1 % 8 = 0) && backed x.1) then
    { s with mem := ws.foldl (fun (m : Memory) (x : Nat × DWord) => wrLE m x.1 8 x.2.toNat) s.mem }.advanceAsgen guest
  else s

/-- The atomic that is the single instruction of a run's image, with the halfwords it occupies (R375). -/
def RunImage.onlyAtomic (m : RunImage) : Option (AtomReq × Nat) :=
  match decode m.code with
  | .ok (i, _) =>
    let n := opLength (opOf (m.code.getD 0 0))
    if m.code.length = n + 3 then (atomOf i).map (fun q => (q, n)) else none
  | .error _ => none

/-- One lane of an emulated atomic performed at its home: the result words (R375). -/
def State.emulateLane (s : State) (core : Nat) (g : Group) (q : AtomReq) (r : LaneReq) : Option (State × List Word) :=
  match s.translate g.guest r.va.toNat .write with
  | .error _ => none
  | .ok (pa, _) =>
    let n := 4 * opWords q.w
    match (s.recall (pa / 128)).bind (fun s => s.logPage g.guest pa) with
    | none => none
    | some s =>
      let old := rdLE s.mem pa n
      let new := atomicNew q.op n q.sgn old r.val.toNat r.cmp.toNat
      let w := mkWit (scopeCode q.x.scope) (s.domainOf core g.wslot q.x.scope) s.dtime
      let words := (List.range (opWords q.w)).map (fun k => BitVec.ofNat 32 (old / 2 ^ (32 * k)))
      some (s.putHome g.guest pa (leBytes n new), words ++ (if q.x.w then [loWord w, hiWord w] else []))

/-- What an emulated atomic finds at homes on other packages is asked for, and, once all of it has come, stands in the cells of
this package (R375, R420; log 77). -/
def State.emulateAsk (s : State) (core slot n : Nat) (g : Group) (ls : List LaneReq) : State × Bool :=
  let who : FarUser := .group (gkey core slot)
  let one (acc : State × Bool) (r : LaneReq) : State × Bool := match acc.1.translate g.guest r.va.toNat .write with
    | .ok (pa, _) => let x := acc.1.farGet who g.guest r.va pa n
      (x.1, acc.2 && x.2.isSome)
    | .error _ => acc
  let x := ls.foldl one (s, true)
  if !x.2 then x else
  let put (m : Memory) (r : LaneReq) : Memory := match x.1.translate g.guest r.va.toNat .write with
    | .ok (pa, _) => wrBytes m pa ((x.1.farBytes who pa n).getD [])
    | .error _ => m
  ({ x.1 with mem := ls.foldl put x.1.mem }.farDone who, true)

/-- R375: every guarded-on lane performed; the result entries stand in the part's window, its depth and PC as after the
run. `none` where a lane cannot be performed now. -/
def State.emulate (s : State) (core slot n : Nat) (g : Group) (p : Part) (m : RunImage) (q : AtomReq) (len : Nat) : Option State :=
  let c : Cur := ⟨core, slot, g, Run.fresh g n p m s.cc⟩
  let r := (q.lanes c).foldlM (fun (acc : State × AMap (List Word)) x =>
    (acc.1.emulateLane core g q x).map (fun y => (y.1, mset acc.2 x.lane y.2))) (s, [])
  r.map (fun r =>
    let at_ := p.depth - q.pops
    let put (w : AMap Lanes) (k : Nat) : AMap Lanes :=
      let new := mkLanes (fun l => (mget r.2 l []).getD k 0)
      mset w ((at_ + k) % 8) (mergeLanes p.mask new (mget w ((at_ + k) % 8) []))
    r.1.setGroup core slot { g.modSplit n (fun p => { p with
        depth := at_ + q.pushes, res := p.res - q.pops + q.pushes, pc := (c.r.pc + BitVec.ofNat 64 (2 * len) + 6 + 3) &&& ~~~(3 : Addr) }) with
      win := (List.range q.pushes).foldl put g.win, nofb := true })

/-- R375: an atomic that is not the single instruction of its run ends the group, which ERRCNT does not count (R270). -/
def execAtomicEmulation (gid : Nat) (s : State) : Host.Outcome State Fault Refusal :=
  s.event (fun s => match s.escGroup gid with
    | none => s
    | some (core, slot, g, e) =>
      if e.cause ≠ cAtomicPath || !e.own || !s.mayResume core g e then s else
      let stop : State := s.endError core slot g g.standsAt cAtomicPath 3 false
      match e.entry with
      | some (.slot n, _) => match g.splits.getD n none with
        | none => stop
        | some p => match s.decodeRun core g.guest (s.nsafeOf g) p.pc with
          | .error _ => stop
          | .ok m => match m.onlyAtomic with
            | none => stop
            | some (q, len) =>
              let a := s.emulateAsk core slot (4 * opWords q.w) g (q.lanes ⟨core, slot, g, Run.fresh g n p m s.cc⟩)
              if !a.2 then a.1 else match a.1.emulate core slot n g p m q len with
              | none => a.1
              | some s => match s.group core slot with
                | some g => s.fwResumeAt core slot g { e with entry := none }
                | none => s
      | _ => stop)

/-! ## Machine checks (R376) -/

/-- Host software is told of an end by MCHECK (R376, R411): the error entry and a completion entry of kind 6, at an
address the spec leaves open (log 2). -/
def State.mcheckEntry (s : State) (guest launch : Nat) (owner : DWord) (core : Nat) : State :=
  let r := s.freeBlock
  let s := (r.1.errorEntry guest r.2 owner cMcheck 4 core).launchErr launch
  s.completion guest 6 (s.tagOf launch) none

/-- A resident group ends by MCHECK. -/
def State.mcheckGroup (s : State) (core slot : Nat) : State :=
  match s.group core slot with
  | none => s
  | some g => if g.ended then s else (s.mcheckEntry g.guest g.launch g.wid core).endGroup core slot

/-- The guest that owns storage in which nothing ends is told all the same (R424; log 86). -/
def State.mcheckTell (s : State) (guest : Nat) : State :=
  s.completion guest 6 (match (s.ctx guest).current with | some l => s.tagOf l | none => 0) none

/-- Every group of a workgroup ends by MCHECK. -/
def State.mcheckWG (s : State) (key : Nat) : State :=
  match mfind s.wgroups key with
  | none => s
  | some w => if s.groupsOver (key / 16) w then s.mcheckTell w.guest
      else w.groups.foldl (fun (s : State) x => s.mcheckGroup (key / 16) x.2) s

/-- Every launch of the context's current submission ends, with its groups and sequencers. -/
def State.mcheckCtx (s : State) (guest : Nat) : State :=
  match (s.ctx guest).current with
  | none => s.mcheckTell guest
  | some id =>
    let s := s.mcheckEntry guest id 0 0
    s.endWork (fun l => match mfind s.launches l with | some x => x.root == id | none => false)

/-- A saved unit is discarded; a launch's groups and sequencers in it have ended (R376). -/
def State.discardUnit (s : State) (unit : Nat) (u : Unit_) : State :=
  let n := (u.saved.map (fun w => w.groups.length)).sum
  let q := (u.saved.filter (fun w => match w.wg.seq with | some x => !x.stopped | none => false)).length
  let ghosts := u.saved.flatMap (fun w => w.groups.map (·.ghost))
  let s := s.storeErrors (fun r => ghosts.contains r.core) u.launch 0
  { s.mcheckEntry u.guest u.launch (match u.saved with | w :: _ => w.wg.wid | [] => 0) 0 with
    units := mdel s.units unit
    ops := s.ops.map (fun (x : Nat × Op) => (x.1, if ghosts.contains x.2.core then { x.2.drop with saved := false, ctr := none, area := none } else x.2))
    recs := s.recs.filter (fun r => !ghosts.contains r.core)
    launches := mmod s.launches u.launch (fun l => { l with err := true, groups := l.groups - n, seqs := l.seqs - q }) }

/-- R376. -/
def State.machineCheck (s : State) : Storage → State
  | .cleanLine core line =>
    let hit (x : L1Line) : Bool := x.core == core && x.line == line && (match x.kind with | .clean _ _ _ => true | _ => false)
    { s with l1 := s.l1.map (fun x => if hit x then { x with data := s.homeLine line } else x) }
  | .groupStore core slot => s.mcheckGroup core slot
  | .scratch core wslot => s.mcheckWG (wkey core wslot)
  | .heldLine core line =>
    match s.l1.find? (fun x => x.core == core && x.line == line && (match x.kind with | .held _ _ _ => true | _ => false)) with
    | some x => match x.kind with
      | .held w _ _ => { s with l1 := s.l1.filter (fun y => y != x) }.mcheckWG (wkey core w)
      | _ => s
    | none => s
  | .accum cluster half =>
    let hit (x : Nat × WGroup) : Bool := clusterOf (x.1 / 16) == cluster
      && (!(s.cluster cluster).split || decide (s.tenantOf (x.1 / 16) = half))
      && (match x.2.seq with | some q => !q.stopped | none => false)
    let told := s.wgroups.filter hit
    let s := told.foldl (fun (s : State) x =>
      let s := (s.stopSeq (x.1 / 16) (x.1 % 16) (some cMcheck)).launchErr x.2.launch
      s.completion x.2.guest 6 (s.tagOf x.2.launch) none) s
    match (s.cluster cluster).user.getD half none with
    | some guest => if told.any (fun x => x.2.guest == guest) then s else s.mcheckTell guest
    | none => s
  | .ctxMemory guest => s.mcheckCtx guest
  | .saveArea unit => match mfind s.units unit with
    | some u => if u.saved.isEmpty then s else s.discardUnit unit u
    | none => s

/-- R376. -/
def execMcheck (what : Storage) (s : State) : Host.Outcome State Fault Refusal := s.event (fun s => s.machineCheck what)

end Sys2Proof.Machine
end

