-- ==== Sys2Proof/Machine/Digest.lean ====
section
/-! DEFINITION. The SHA-3 functions of FIPS 202 that R429 and R430 name or that ML-DSA uses: Keccak-f[1600], the sponge,
SHA3-256, SHAKE128 and SHAKE256. -/

namespace Sys2Proof.Machine

/-! ## Keccak-f[1600] -/

/-- Step rho walks the lanes from (1, 0), always from (x, y) to (y, 2x + 3y), and turns the n-th it meets by the n-th triangular
number: the turn of a lane `k` = x + 5y, 0 for the one it never meets. -/
def rhoTurn (k : Nat) : Nat :=
  ((List.range 24).foldl (fun (w : Nat × Nat × Nat) n =>
    let turn := if w.1 + 5 * w.2.1 = k then (n + 1) * (n + 2) / 2 else w.2.2
    (w.2.1, (2 * w.1 + 3 * w.2.1) % 5, turn)) (1, 0, 0)).2.2

/-- Bit `t` of the shift register of step iota, which starts at 1 and feeds its bit 8 back into bits 0, 4, 5 and 6. -/
def iotaBit (t : Nat) : Nat :=
  (List.range t).foldl (fun r _ => if r < 128 then 2 * r else (2 * r) ^^^ 0x171) 1 % 2

/-- The constant of round `n`: bits 7n to 7n + 6 of the register, at the places one below a power of two. -/
def iotaWord (n : Nat) : DWord :=
  BitVec.ofNat 64 ((List.range 7).map (fun j => iotaBit (7 * n + j) * 2 ^ (2 ^ j - 1))).sum

/-- The lane (x, y) of a state, its coordinates taken modulo 5. -/
def keccakLane (a : List DWord) (x y : Nat) : DWord := a.getD (x % 5 + 5 * (y % 5)) 0

/-- A state given lane by lane. -/
def keccakOf (f : Nat → Nat → DWord) : List DWord := (List.range 25).map (fun k => f (k % 5) (k / 5))

/-- Step theta. -/
def keccakTheta (a : List DWord) : List DWord :=
  let c := (List.range 5).map (fun x => (List.range 5).foldl (fun v y => v ^^^ keccakLane a x y) 0)
  keccakOf (fun x y => keccakLane a x y ^^^ c.getD ((x + 4) % 5) 0 ^^^ (c.getD ((x + 1) % 5) 0).rotateLeft 1)

/-- Steps rho and pi. -/
def keccakRhoPi (a : List DWord) : List DWord :=
  keccakOf (fun x y => (keccakLane a (x + 3 * y) x).rotateLeft (rhoTurn ((x + 3 * y) % 5 + 5 * x)))

/-- Step chi. -/
def keccakChi (a : List DWord) : List DWord :=
  keccakOf (fun x y => keccakLane a x y ^^^ (~~~(keccakLane a (x + 1) y) &&& keccakLane a (x + 2) y))

/-- The permutation: 24 rounds, step iota last in each. -/
def keccakF (a : List DWord) : List DWord :=
  (List.range 24).foldl (fun a n => (keccakChi (keccakRhoPi (keccakTheta a))).modify 0 (· ^^^ iotaWord n)) a

/-! ## The sponge -/

/-- Bytes of a state, the low byte of each lane first. -/
def keccakBytes (a : List DWord) : List Byte := a.flatMap (fun w => leBytes 8 w.toNat)

/-- A block of `rate` bytes absorbed. -/
def keccakAbsorb (a : List DWord) (block : List Byte) : List DWord :=
  keccakF (keccakOf (fun x y => keccakLane a x y ^^^ BitVec.ofNat 64 (fieldLE block (8 * (x + 5 * y)) 8)))

/-- A message with its domain suffix, filled up with the pad to whole blocks. -/
def keccakPad (rate : Nat) (suffix : Byte) (m : List Byte) : List Byte :=
  let fill := rate - 1 - m.length % rate
  let p := m ++ suffix :: List.replicate fill 0
  p.modify (p.length - 1) (· ||| 0x80)

/-- The state after every block of a message. -/
def keccakAll (rate : Nat) (suffix : Byte) (m : List Byte) : List DWord :=
  let p := keccakPad rate suffix m
  (List.range (p.length / rate)).foldl (fun a k => keccakAbsorb a ((p.drop (rate * k)).take rate)) (List.replicate 25 0)

/-- A number of blocks squeezed out. -/
def keccakSqueeze (rate : Nat) : Nat → List DWord → List Byte
  | 0, _ => []
  | n + 1, a => (keccakBytes a).take rate ++ keccakSqueeze rate n (keccakF a)

/-- The first `n` bytes that a sponge gives for a message. -/
def keccak (rate : Nat) (suffix : Byte) (m : List Byte) (n : Nat) : List Byte :=
  (keccakSqueeze rate ((n + rate - 1) / rate) (keccakAll rate suffix m)).take n

/-- SHA3-256. -/
def sha3 (m : List Byte) : List Byte := keccak 136 0x06 m 32

/-- SHAKE128. -/
def shake128 (m : List Byte) (n : Nat) : List Byte := keccak 168 0x1F m n

/-- SHAKE256. -/
def shake256 (m : List Byte) (n : Nat) : List Byte := keccak 136 0x1F m n

end Sys2Proof.Machine
end

