-- ==== Sys2Proof/Machine/Signature.lean ====
section
/-! DEFINITION. ML-DSA-44 verification as FIPS 204 defines it, and the check of a firmware image (R429). -/

namespace Sys2Proof.Machine

/-! ## Parameters of ML-DSA-44 -/

/-- The prime q, and γ1 and γ2. -/
def dsaQ : Nat := 8380417
def dsaGamma1 : Nat := 131072
def dsaGamma2 : Nat := 95232

/-- A polynomial: its 256 coefficients modulo q, the constant one first. -/
abbrev Poly := List Nat

/-! ## Numbers from bits -/

/-- The `n` numbers of `w` bits each that a byte string holds, the lowest bits first. -/
def unpackBits (w n : Nat) (bs : List Byte) : List Nat :=
  let v := fieldLE bs 0 bs.length
  (List.range n).map (fun k => v / 2 ^ (w * k) % 2 ^ w)

/-- Numbers of `w` bits each as bytes. -/
def packBits (w : Nat) (xs : List Nat) : List Byte :=
  leBytes (w * xs.length / 8) (xs.foldr (fun x v => x + 2 ^ w * v) 0)

/-! ## The number-theoretic transform -/

/-- A number of 8 bits with its bits in reverse order. -/
def bitRev8 (n : Nat) : Nat := (List.range 8).foldl (fun r k => 2 * r + n / 2 ^ k % 2) 0

/-- A power of ζ, whose order is 512. -/
def zetaPow (n : Nat) : Nat := 1753 ^ (n % 512) % dsaQ

/-- The value of a polynomial at a point. -/
def polyAt (p : Poly) (x : Nat) : Nat := p.foldr (fun a v => (a + x * v) % dsaQ) 0

/-- The transform: the values at the odd powers of ζ, in bit-reversed order. -/
def ntt (p : Poly) : Poly := (List.range 256).map (fun i => polyAt p (zetaPow (2 * bitRev8 i + 1)))

/-- Its inverse; 8347681 is the inverse of 256. -/
def nttBack (p : Poly) : Poly :=
  let v := (List.range 256).map (fun b => p.getD (bitRev8 b) 0)
  (List.range 256).map (fun j => let x := zetaPow (512 - j); 8347681 * x * polyAt v (x * x) % dsaQ)

/-- Products and differences, place by place. -/
def polyMul (a b : Poly) : Poly := List.zipWith (fun x y => x * y % dsaQ) a b
def polyAdd (a b : Poly) : Poly := List.zipWith (fun x y => (x + y) % dsaQ) a b
def polySub (a b : Poly) : Poly := List.zipWith (fun x y => (x + dsaQ - y) % dsaQ) a b

/-! ## Sampling -/

/-- RejNTTPoly: the first 256 three-byte numbers below q. FIPS 204 lets the stream be bounded; the bound here is 8 blocks. -/
def rejNtt (seed : List Byte) : Poly :=
  let bs := shake128 seed 1344
  (((List.range 448).map (fun k => fieldLE bs (3 * k) 3 % 2 ^ 23)).filter (fun z => decide (z < dsaQ))).take 256

/-- ExpandA: the entry of a row and a column. -/
def expandA (rho : List Byte) (r c : Nat) : Poly := rejNtt (rho ++ [BitVec.ofNat 8 c, BitVec.ofNat 8 r])

/-- One coefficient of SampleInBall placed: bytes above `i` are passed over. -/
def ballPlace (sign : Bool) (i : Nat) (c : Poly) (bs : List Byte) : Poly × List Byte :=
  match bs.dropWhile (fun b => decide (i < b.toNat)) with
  | [] => (c, [])
  | b :: rest => (lset (lset c i (c.getD b.toNat 0)) b.toNat (if sign then dsaQ - 1 else 1), rest)

/-- SampleInBall: 39 coefficients of 1 or -1. -/
def sampleInBall (seed : List Byte) : Poly :=
  let bs := shake256 seed 408
  let signs := fieldLE bs 0 8
  ((List.range 39).foldl (fun (acc : Poly × List Byte) k => ballPlace (signs.testBit k) (217 + k) acc.1 acc.2)
    (List.replicate 256 0, bs.drop 8)).1

/-! ## Hints -/

/-- HintBitUnpack, one polynomial after another: the places of its hints, strictly rising. -/
def hintParts (y : List Nat) : Nat → Nat → Option (List (List Nat))
  | 0, at_ => if (((y.take 80).drop at_).all (· == 0)) then some [] else none
  | k + 1, at_ =>
    let end_ := y.getD (80 + (3 - k)) 0
    let part := (y.take end_).drop at_
    if end_ < at_ ∨ 80 < end_ ∨ !(part.zip (part.drop 1)).all (fun x => decide (x.1 < x.2)) then none
    else (hintParts y k end_).map (part :: ·)

/-- UseHint: the high part of a coefficient, moved by its hint. -/
def useHint (hint : Bool) (r : Nat) : Nat :=
  let m := r % (2 * dsaGamma2)
  let low : Int := if dsaGamma2 < m then (m : Int) - 2 * dsaGamma2 else m
  let top := decide ((r : Int) - low = dsaQ - 1)
  let r1 := if top then 0 else (((r : Int) - low) / (2 * dsaGamma2)).toNat
  let r0 := if top then low - 1 else low
  if !hint then r1 else if 0 < r0 then (r1 + 1) % 44 else (r1 + 43) % 44

/-! ## Verification -/

/-- A coefficient of the signature's z, from its 18 bits. -/
def zOf (b : Nat) : Int := (dsaGamma1 : Int) - b

/-- ML-DSA.Verify_internal for the message representative `m`. -/
def dsaVerifyInternal (pk m sig : List Byte) : Bool :=
  let rho := pk.take 32
  let t1 := (List.range 4).map (fun k => unpackBits 10 256 ((pk.drop (32 + 320 * k)).take 320))
  let ct := sig.take 32
  let z := (List.range 4).map (fun k => (unpackBits 18 256 ((sig.drop (32 + 576 * k)).take 576)).map zOf)
  match hintParts ((sig.drop 2336).map BitVec.toNat) 4 0 with
  | none => false
  | some h =>
    let mu := shake256 (shake256 pk 64 ++ m) 64
    let c := ntt (sampleInBall ct)
    let zh := z.map (fun p => ntt (p.map (fun x => (x % (dsaQ : Int)).toNat)))
    let row (r : Nat) : List Nat :=
      let az := zh.zipIdx.foldl (fun s x => polyAdd s (polyMul (expandA rho r x.2) x.1)) (List.replicate 256 0)
      let w := nttBack (polySub az (polyMul c (ntt ((t1.getD r []).map (· * 8192)))))
      w.zipIdx.map (fun x => useHint ((h.getD r []).contains x.2) x.1)
    let w1 := (List.range 4).flatMap (fun r => packBits 6 (row r))
    z.all (fun p => p.all (fun x => decide (x.natAbs < dsaGamma1 - 78))) && ct == shake256 (mu ++ w1) 32

/-- ML-DSA.Verify with an empty context string. -/
def dsaVerify (pk m sig : List Byte) : Bool :=
  pk.length == 1312 && sig.length == 2420 && dsaVerifyInternal pk ([0, 0] ++ m) sig

/-- A firmware image verifies (R429): its public key has the fused digest, and its signature is one over the SHA3-256 digest of
the bytes it covers (log 6). -/
def imageVerifies (image : List Byte) : Bool :=
  let p := Config.imageParts image
  sha3 p.2.1 == Config.keyDigest && dsaVerify p.2.1 (sha3 p.1) p.2.2

end Sys2Proof.Machine
end

