-- ==== Sys2Proof/Machine/Host.lean ====
section
/-! DEFINITION. The host's side: registers, semaphores, administrative commands, reset and boot, notifications, service
life (R20, R23, R359, R406 to R413, R416 to R419, R424 to R432). -/

namespace Sys2Proof.Machine

/-! ## The device -/

/-- Unfenced clusters (R407). -/
def State.openClusters (s : State) : Nat := ((List.range 144).filter (fun n => !(s.cluster n).fenced)).length

/-- A replacement is called for, as long as this lasts (R427). -/
def State.worn (s : State) : Bool :=
  s.clusters.any (fun x => x.2.faulty) || !s.dev.laneFail.isEmpty || s.dev.spareOut || s.dev.timeBad

/-- Some unit is fenced, spared or remapped, or the clock has gone astray (R407, R422). -/
def State.impaired (s : State) : Bool :=
  s.clusters.any (fun x => x.2.fenced) || !s.dev.laneFail.isEmpty || !s.dev.spared.isEmpty || s.dev.timeBad

/-- The status fields that follow from the units at hand. -/
def State.restat (s : State) : State :=
  s.modDev (fun d => { d with degraded := s.impaired, replaceReq := d.replaceReq || s.worn, clusters := BitVec.ofNat 8 s.openClusters })

/-- An entry of the health log: DTIME, kind, unit (R409). -/
def State.logHealth (s : State) (kind unit : Nat) : State :=
  s.modDev (fun d => { d with health := d.health ++ [leBytes 6 s.dtime.toNat ++ [BitVec.ofNat 8 kind] ++ leBytes 2 unit ++ leBytes 23 0] })

/-- A free choice of two (log 2). -/
def State.freeBit (s : State) : State × Bool := let r := s.freeWord; (r.1, r.2.getLsbD 0)

/-- The agent reaches the registers: firmware (3), or one behind a trained port, A (1) or B (2) (R406). -/
def State.present (s : State) (agent : Nat) : Bool :=
  agent == 3 || (agent == 1 && s.dev.ucieA) || (agent == 2 && s.dev.ucieB)

/-! ## Semaphores (R408) -/

/-- The port that wins a tie on a semaphore, and the one that loses it. -/
def tieWinner (last : BitVec 2) : BitVec 2 × BitVec 2 := if last = 2 then (2, 1) else (1, 2)

/-- R408: acquires of one semaphore in one cc by port A, port B and firmware. Between firmware and a port the spec names
no winner (log 2). -/
def State.acquire (s : State) (n : Nat) (a b fw : Bool) : State :=
  if s.dev.sema.getD n 0 ≠ 0 ∨ 8 ≤ n then s else
  let tie := tieWinner (s.dev.semaLast.getD n 0)
  let port : BitVec 2 := if a && b then tie.1 else if a then 1 else if b then 2 else 0
  let s := if a && b then s.modDev (fun d => { d with semaLast := lset d.semaLast n tie.2 }) else s
  let r : State × BitVec 2 :=
    if fw && port != 0 then (let x := s.freeBit; (x.1, if x.2 then 3 else port)) else (s, if fw then 3 else port)
  r.1.modDev (fun d => { d with sema := lset d.sema n r.2 })

/-- R408. -/
def execSemaAcquire (n : Nat) (a b fw : Bool) (s : State) : Host.Outcome State Fault Refusal :=
  s.event (fun s => s.acquire n (a && s.dev.ucieA) (b && s.dev.ucieB) fw)

/-- R408. -/
def execSemaRelease (n agent : Nat) (s : State) : Host.Outcome State Fault Refusal :=
  s.event (fun s => if s.present agent ∧ (s.dev.sema.getD n 0).toNat = agent then s.modDev (fun d => { d with sema := lset d.sema n 0 }) else s)

/-! ## Reset and boot (R431, R432) -/

/-- An address in the form of R409, given through a port: the byte it names. -/
def hostForm (port : BitVec 2) (a : DWord) : Nat :=
  if a.getLsbD 63 then nbits a.toNat 50 0 else portAddr port (nbits a.toNat 62 0)

/-- The memory that such an address names is there: the host's only behind a trained port (R406). -/
def State.hostReached (s : State) (port : BitVec 2) (a : DWord) : Bool := a.getLsbD 63 || s.present port.toNat

/-- `n` bytes at an address of that form. -/
def State.hostBytes (s : State) (port : BitVec 2) (a : DWord) (n : Nat) : List Byte := rdBytes s.mem (hostForm port a) n

/-- Bytes written there. -/
def State.hostPut (s : State) (port : BitVec 2) (a : DWord) (bs : List Byte) : State :=
  { s with mem := wrBytes s.mem (hostForm port a) bs }

/-- The physical lanes of a scheduler's logical lanes, with at most one failed (R425; in ascending order, log 75). -/
def laneMapOf (bad : Option Nat) : List Nat := ((List.range 33).filter (fun l => some l != bad)).take 32

/-- Local DRAM and LPDDR zeroed (R432 step 5): what is left of memory is that of hosts and of other packages. -/
def zeroLocal (m : Memory) : Memory := m.filter (fun c => decide (physSpan ≤ c.1))

/-- The image that the boot ROM verifies: the one that FWADDR and FWLEN name, where both were written before READY, else the one
last staged (R432 step 2). -/
def State.bootImage (s : State) : Option (List Byte) :=
  let d := s.dev
  if !(d.fwaddrSet && d.fwlenSet) then d.staged
  else if s.hostReached d.fwPort d.fwaddr then some (s.hostBytes d.fwPort d.fwaddr d.fwlen.toNat) else none

/-- Boot from step 2: the staged image is verified and run, DRAM is zeroed after a power-on, and the device is made ready
(R429, R432). -/
def State.boot (s : State) : State :=
  match s.bootImage with
  | none => s
  | some bs =>
    if !imageVerifies bs then s.modDev (fun d => { d with fwerr := true }) else
    ({ s with mem := if s.dev.cold then zeroLocal s.mem else s.mem }.modDev (fun d => { d with
      running := some bs, fwerr := false, ready := true, lpddr := BitVec.ofNat 8 Config.fitted.val, cold := false
      laneMap := (List.range 2304).map (fun k => (k, laneMapOf (mfind d.laneFail k))) })).restat

/-- What outlives every reset: the clock's counters of the model, host memory and the memory of other packages. -/
def State.afresh (s : State) (m : Memory) : State :=
  { State.reset with agenda := s.agenda, fresh := s.fresh, nextId := s.nextId, mem := m }

/-- R431: power-on. -/
def State.powerOn (s : State) : State := (s.afresh (zeroLocal s.mem)).boot

/-- A cluster after a reset of the device: its service state stays, its on-chip memory is zero (R432 step 5). -/
def Cluster.rebooted (k : Cluster) : Cluster :=
  { Cluster.initial with fenced := k.fenced, faulty := k.faulty, volts := k.volts, ce := k.ce, split := k.split
                         upper := k.upper, lower := k.lower }

/-- The device after its contexts have ended: registers with a reset value take it, and boot runs from step 2. -/
def State.deviceAgain (s : State) : State :=
  { s.afresh s.mem with
    cc := s.cc, dtime := s.dtime, clusters := s.clusters.map (fun (x : Nat × Cluster) => (x.1, x.2.rebooted))
    dev := { s.dev with
      linkup := false, fwerr := false, replaceReq := false, degraded := false, ready := false, lpddr := 0, clusters := 0
      admBusy := false, admStatus := 0, admBlock := [], fwaddr := 0, fwlen := 0, fwaddrSet := false, fwlenSet := false, sema := List.replicate 8 0
      semaLast := List.replicate 8 0, running := none, leaving := [], deferred := [], withheld := [] } }.boot

/-- R431. -/
def execPowerOnReset (s : State) : Host.Outcome State Fault Refusal := s.event State.powerOn

/-! ## Register writes and reads (R407, R412, R413) -/

/-- A write to the device control page through a port. Until READY only PKGID and the staging of an image are accepted; the boot
ROM that waits goes on once FWADDR and FWLEN have both been written (R432; log 50). -/
def State.writeControl (s : State) (port : BitVec 2) (o : Nat) (v : DWord) : State :=
  let d := s.dev
  let ready (f : Device → Device) : State := if d.ready then s.modDev f else s
  if o = 0 then (if d.ready && v.getLsbD 2 then (s.modDev (fun d => { d with replaceReq := false })).restat else s)
  else if o = 0x8 then (if d.linkup then s else s.modDev (fun d => { d with pkgid := v.setWidth 13 }))
  else if o = 0x10 then ready (fun d => { d with admcmd := v, admPort := port })
  else if o = 0x200 then ready (fun d => { d with guesttab := v })
  else if o = 0x300 then
    let s := s.modDev (fun d => { d with fwaddr := v, fwPort := port, fwaddrSet := d.fwaddrSet || !d.ready })
    if !d.ready && d.fwlenSet then s.boot else s
  else if o = 0x308 then
    let s := s.modDev (fun d => { d with fwlen := v.setWidth 32, fwlenSet := d.fwlenSet || !d.ready })
    if !d.ready && d.fwaddrSet then s.boot else s
  else s

/-- Pool sizes of the four quota classes (R357, R412). -/
def Ctx.setPools (x : Ctx) (v : Word) : Ctx :=
  { x with quota := (List.range 4).map (fun k => (nbits v.toNat (8 * k + 7) (8 * k), (x.quota.getD k (0, 0)).2)) }

/-- A write to a guest's context register page (R386, R412). The offsets within R386's registers are log 16. So is the width of
an access, which the spec does not give: each access is of one whole register at its own offset. -/
def State.writeGuest (s : State) (g o : Nat) (v : DWord) : State :=
  if o = 0x20 then s.modCtx g (fun x => { x with smpctl := ctlBits (v.setWidth 32) })
  else if o = 0x28 then s.modCtx g (fun x => { x with dbgbase := v })
  else if o = 0x30 then s.modCtx g (fun x => { x with dbgsel := v.setWidth 32 &&& 0xFFFF })
  else if o = 0x40 then s.modCtx g (fun x => x.setPools (v.setWidth 32))
  else s

/-- A place in the register space as an agent reaches it: the space is 16 MiB, and each agent has all of it (R406). -/
def spaceAt (agent off : Nat) : Nat := agent * 0x1000000 + off

/-- R406, R407: a register that only stores its value; those that act have steps of their own. -/
def execRegisterWrite (place : Nat) (v : DWord) (s : State) : Host.Outcome State Fault Refusal :=
  s.event (fun s =>
    let agent := place / 0x1000000
    let off := place % 0x1000000
    if !s.present agent then s
    else if off < 0x10000 then s.writeControl (BitVec.ofNat 2 agent) off v
    else if 0x100000 ≤ off ∧ off < 0x900000 then s.writeGuest ((off - 0x100000) / 0x20000) ((off - 0x100000) % 0x20000) v
    else s)

/-- What a read of the device control page gives (R407). -/
def State.readControl (s : State) (o : Nat) : DWord :=
  let d := s.dev
  if o = 0 then BitVec.ofNat 64 (d.lpddr.toNat * 2 ^ 16 + d.clusters.toNat * 2 ^ 8 + bit d.linkup * 16 + bit d.fwerr * 8
    + bit d.replaceReq * 4 + bit d.degraded * 2 + bit d.ready)
  else if o = 0x8 then d.pkgid.setWidth 64
  else if o = 0x10 then d.admcmd
  else if o = 0x20 then BitVec.ofNat 64 (bit d.admBusy + d.admStatus.toNat * 256)
  else if 0x100 ≤ o ∧ o < 0x120 ∧ o % 4 = 0 then (d.sema.getD ((o - 0x100) / 4) 0).setWidth 64
  else if o = 0x200 then d.guesttab
  else if o = 0x300 then d.fwaddr
  else if o = 0x308 then d.fwlen.setWidth 64
  else 0

/-- What a read of a guest's page gives (R412). -/
def State.readGuest (s : State) (g o : Nat) : DWord :=
  let x := s.ctx g
  if o = 0x8 then BitVec.ofNat 64 x.ctxstat
  else if o = 0x20 then x.smpctl.setWidth 64
  else if o = 0x24 then x.trctl.setWidth 64
  else if o = 0x28 then x.dbgbase
  else if o = 0x30 then x.dbgsel.setWidth 64
  else if o = 0x40 then BitVec.ofNat 64 ((List.range 4).foldl (fun n k => n + (x.quota.getD k (0, 0)).1 % 256 * 256 ^ k) 0)
  else if 0x8000 ≤ o ∧ o < 0x12000 then (s.windowRead g (o - 0x8000)).setWidth 64
  else 0

/-- A counter of R347 by its place in the table, as it stands now: BUSYCC without the cc that a hold has yet to last, WAITCC
with the cc that operations now posted have waited. -/
def State.readPerf (s : State) (p k : Nat) : DWord :=
  let n := p / 2
  let at_ (j : Nat) : Nat := (mget (s.cluster n).perf (perfKey (p % 2) j) 0).toNat
  let v := match k with
    | 2 => at_ 2 + 2 ^ 64 - (at_ 6 - s.cc)
    | 3 => at_ 3 + (if s.posted n (p % 2) then s.cc - at_ 7 else 0)
    | _ => at_ k
  if k < 6 then BitVec.ofNat 64 (v % 2 ^ ([48, 48, 48, 48, 32, 16].getD k 0)) else 0

/-- A read of the register space by an agent; `none` where its port is not trained and the device reads as absent (R406). A
read takes one whole register, filled with 0 (log 16). -/
def State.registerRead (s : State) (agent off : Nat) : Option DWord :=
  if !s.present agent then none
  else some (if off < 0x10000 then s.readControl off
    else if 0x80000 ≤ off ∧ off < 0x80000 + 1024 * 288 ∧ off % 8 = 0 then s.readPerf ((off - 0x80000) / 1024) ((off - 0x80000) % 1024 / 8)
    else if 0x100000 ≤ off ∧ off < 0x900000 then s.readGuest ((off - 0x100000) / 0x20000) ((off - 0x100000) % 0x20000)
    else 0)

/-- R413. The error entries of this cc count as later than the write: ERRW is taken without them, and CTXERR and ERRCNT keep
what they have raised. -/
def execErrclrWrite (guest : Nat) (v : DWord) (s : State) : Host.Outcome State Fault Refusal :=
  s.event (fun s =>
    let x := s.ctx guest
    let base := x.saveBase.toNat
    let now := x.errCc == some s.cc
    let errw := (rdLE s.mem base 8 + 2 ^ 64 - (if now then x.errNew else 0)) % 2 ^ 64
    let clr := rdLE s.mem (base + 8) 8
    if !x.valid || decide ((errw + 2 ^ 64 - clr) % 2 ^ 64 < (v.toNat + 2 ^ 64 - clr) % 2 ^ 64) then s else
    let s := { s with mem := wrLE s.mem (base + 8) 8 v.toNat }
    if v.toNat = errw then s.setCtx guest { x with ctxerr := now, errcnt := if now then BitVec.ofNat 16 x.cntNew else 0 } else s)

/-! ## Vacating clusters (R359, R416, R417, R425, R426) -/

/-- Resident units with a workgroup that satisfies a condition on some clusters. -/
def State.unitsOn (s : State) (on : List Nat) (p : Nat → WGroup → Bool) : List (Nat × Unit_) :=
  s.units.filter (fun u => u.2.wgs.any (fun k => on.contains (clusterOf (k / 16)) && (match mfind s.wgroups k with
    | some w => p (k / 16) w
    | none => false)))

/-- The unit is a gang. -/
def State.isGang (s : State) (u : Unit_) : Bool := match mfind s.launches u.launch with | some l => l.hdr.coop | none => false

/-- A unit is asked to leave: a span is pre-empted; a gang, where it makes way for a change of its partition (`shrink`), stops at its
SAFE trailers and its guest is told (R359). -/
def State.askOut (shrink : Bool) (s : State) (x : Nat × Unit_) : State :=
  let u := x.2
  if u.asked || u.shrink.isSome then s
  else if shrink && s.isGang u then
    let s := (s.unitGroups u).foldl (fun (s : State) y => s.modGroup y.1 y.2.1 (fun g => { g with gangStop := some s.cc })) s
    let tag := s.tagOf u.launch
    let s := { s with units := mset s.units x.1 { u with shrink := some s.cc } }.modDev (fun d =>
      { d with deferred := d.deferred ++ [(u.guest, tag)] })
    s.completion u.guest 4 tag none
  else s.preemptUnit x

/-- Clusters are being vacated. -/
def State.vacate (s : State) (shrink : Bool) (on : List Nat) (p : Nat → WGroup → Bool) : State :=
  let s := s.modDev (fun d => { d with leaving := d.leaving ++ on.filter (fun n => !d.leaving.contains n) })
  (s.unitsOn on p).foldl (State.askOut shrink) s

/-- Clusters have been vacated: placement goes on, and a deferred shrink is complete once its gang stands on no cluster that
is still being vacated (R359). -/
def State.vacated (s : State) (on : List Nat) : State :=
  let left := s.dev.leaving.filter (fun n => !on.contains n)
  let stays (u : Unit_) : Bool := u.shrink.isSome && u.wgs.any (fun k => left.contains (clusterOf (k / 16)))
  let owed (x : Nat × DWord) : Bool := s.units.any (fun u => stays u.2 && u.2.guest == x.1 && s.tagOf u.2.launch == x.2)
  let due := s.dev.deferred.filter (fun x => !owed x)
  let s' := { s with units := s.units.map (fun (x : Nat × Unit_) => (x.1, if stays x.2 then x.2 else { x.2 with shrink := none })) }
  let s' := s'.modDev (fun d => { d with leaving := left, deferred := d.deferred.filter owed })
  due.foldl (fun (s : State) x => s.completion x.1 5 x.2 none) s'

/-- What follows once the clusters are vacant; until then the units on them are asked to leave. -/
def State.whenVacant (s : State) (shrink : Bool) (on : List Nat) (p : Nat → WGroup → Bool) (f : State → State) : State :=
  let s := s.vacate shrink on p
  if (s.unitsOn on p).isEmpty then f (s.vacated on) else s

/-- A cluster is fenced (R426, R427). -/
def State.fence (s : State) (n : Nat) (fault : Bool) : State :=
  s.whenVacant true [n] (fun _ _ => true) (fun s =>
    ((s.modCluster n (fun k => { k with fenced := true, faulty := k.faulty || fault })).logHealth 2 n).restat)

/-! ## Administrative commands (R408, R409) -/

/-- A number in a command block. -/
def blockField (b : List Byte) (o n : Nat) : Nat := fieldLE b o n

/-- The bytes that a command names: its code, then byte ranges, first and last. -/
def namedBytes : Nat → List (Nat × Nat)
  | 1 => [(8, 8), (16, 33), (40, 199)]
  | 2 => [(8, 11)]
  | 3 => [(8, 12)]
  | 4 => [(8, 9)]
  | 5 => [(8, 19)]
  | 6 => [(8, 47)]
  | 7 => [(8, 9)]
  | 8 => [(8, 19)]
  | 9 => [(8, 15)]
  | _ => []

/-- The block's code is known and its reserved bytes are 0. -/
def blockOk (b : List Byte) : Bool :=
  let code := blockField b 0 8
  decide (1 ≤ code) && decide (code ≤ 10) && (List.range 248).all (fun k =>
    (namedBytes code).any (fun r => decide (r.1 ≤ k + 8) && decide (k + 8 ≤ r.2)) || b.getD (k + 8) 0 == 0)

/-- The command under way ends with a status. -/
def State.admEnd (s : State) (status : BitVec 8) : State := s.modDev (fun d => { d with admBusy := false, admStatus := status, admBlock := [] })

/-- An administrative command: a write to ADMBELL by the owner of SEMA0 starts it; while it is under way, firmware (`agent`
0) goes on with it, and a further bell adds nothing. `mine` tells the command by its block; a block that is refused, or
that cannot be read, is no command's in particular. -/
def State.command (s : State) (agent : Nat) (mine : List Byte → Bool) (run : State → List Byte → State) : State :=
  if agent = 0 then (if s.dev.admBusy && mine s.dev.admBlock then run s s.dev.admBlock else s)
  else if !s.dev.ready || !s.present agent then s
  else if (s.dev.sema.getD 0 0).toNat ≠ agent then s.modDev (fun d => { d with admStatus := 2 })
  else if s.dev.admBusy then s
  else
    let b := s.hostBytes s.dev.admPort s.dev.admcmd 256
    if !s.hostReached s.dev.admPort s.dev.admcmd || !blockOk b then s.modDev (fun d => { d with admStatus := 1 })
    else if mine b then run (s.modDev (fun d => { d with admBusy := true, admBlock := b })) b else s

/-- A command whose block names an address, as host software gave it; one at which no memory can be reached is refused. -/
def State.commandAt (s : State) (a : DWord) (f : State → State) : State :=
  if s.hostReached s.dev.admPort a then f s else s.admEnd 1

/-- The block holds command `n`. -/
def isCmd (n : Nat) (b : List Byte) : Bool := decide (blockField b 0 8 = n)

/-- Leaf entries of a table and of the tables under it (R242 to R244). -/
def leavesOf (m : Memory) : Nat → Nat → Nat → List Nat
  | 0, _, _ => []
  | fuel + 1, table, level =>
    if backed table = false then [] else
    (List.range (if level = 5 then 32 else 512)).flatMap (fun i =>
      let e := rdLE m (table + 8 * i) 8
      if e % 2 = 0 then []
      else if nbits e 1 1 = 1 then [e]
      else if nodeOk e level then leavesOf m fuel (nbits e 50 8 * 2 ^ 8) (level + 1) else [])

/-- A context of a partition still maps a memory range (R416). -/
def State.mapsRange (s : State) (part : Nat) (gone : Nat → Bool) : Bool :=
  s.ctxs.any (fun x => x.2.valid && x.2.partition == part && (leavesOf s.mem 5 x.2.asroot.toNat 1).any (fun e =>
    nbits e 5 4 == 0 && gone (memRange (nbits e 50 16 * 2 ^ 16))))

/-- A memory range that is not there: LPDDR beyond what is fitted (R409). -/
def rangeAbsent (r : Nat) : Bool := decide (256 + 32 * Config.fitted.val ≤ r)

/-- R416: the partition a block describes, refused, or made once the clusters it gives up are vacant. -/
def State.partitionCmd (s : State) (b : List Byte) : State :=
  let i := blockField b 8 1
  let new : Partition := ⟨BitVec.ofNat 144 (blockField b 16 18), BitVec.ofNat 1280 (blockField b 40 160)⟩
  let old := mget s.dev.parts i ⟨0, 0⟩
  let foreign := s.dev.parts.any (fun x => x.1 != i && ((x.2.clusters &&& new.clusters) != 0 || (x.2.memory &&& new.memory) != 0))
  let absent := (List.range 1280).any (fun r => new.memory.getLsbD r && rangeAbsent r)
  let gone (r : Nat) : Bool := old.memory.getLsbD r && !new.memory.getLsbD r
  if 64 ≤ i ∨ foreign ∨ absent ∨ s.mapsRange i gone then s.admEnd 1 else
  let on := (List.range 144).filter (fun n => old.clusters.getLsbD n && !new.clusters.getLsbD n)
  s.whenVacant true on (fun _ _ => true) (fun s => (s.modDev (fun d => { d with parts := mset d.parts i new })).admEnd 0)

/-- R416. -/
def execSetPartition (agent : Nat) (s : State) : Host.Outcome State Fault Refusal :=
  s.event (fun s => s.command agent (isCmd 1) State.partitionCmd)

/-- A guest named in a block, 0xFF for none. -/
def guestField (n : Nat) : Option Nat := if n = 0xFF then none else some n

/-- The tenant of a row half (R322, R417). -/
def Cluster.tenant (k : Cluster) (half : Nat) : Option Nat := if k.split && half == 1 then k.lower else k.upper

/-- A workgroup uses a row half (R351). -/
def State.usesHalf (s : State) (half : Nat) (w : WGroup) : Bool :=
  match mfind s.launches w.launch with
  | some l => l.hdr.half == 3 || l.hdr.half == half + 1
  | none => false

/-- The cluster under its new tenants: a half that passes to another starts afresh, and the counters are cleared. -/
def Cluster.assign (k : Cluster) (split : Bool) (upper lower : Option Nat) (now : Nat) : Cluster :=
  let k' := { k with split := split, upper := upper, lower := lower }
  let t := BitVec.ofNat 64 now
  { k' with user := (List.range 2).map (fun h => if k.tenant h = k'.tenant h then k.user.getD h none else none)
            perf := [(6, t), (7, t), (14, t), (15, t)] }

/-- R417. -/
def State.tenantCmd (s : State) (b : List Byte) : State :=
  let n := blockField b 8 1
  let split := blockField b 9 1
  let up := blockField b 10 1
  let low := blockField b 11 1
  let bad (g : Nat) : Bool := decide (64 ≤ g) && g != 0xFF
  if 144 ≤ n ∨ 1 < split ∨ bad up ∨ (split = 1 ∧ bad low) then s.admEnd 1 else
  let new (k : Cluster) (now : Nat) : Cluster := k.assign (split == 1) (guestField up) (if split = 1 then guestField low else none) now
  let k := s.cluster n
  let k' := new k s.cc
  let out (core : Nat) (w : WGroup) : Bool := decide (clusterOf core = n) && (List.range 2).any (fun h =>
    k.tenant h == some w.guest && (k.tenant h != k'.tenant h || k.split != k'.split) && s.usesHalf h w)
  s.whenVacant true [n] out (fun s => (s.modCluster n (fun k => new k s.cc)).admEnd 0)

/-- R417. -/
def execAssignTenant (agent : Nat) (s : State) : Host.Outcome State Fault Refusal :=
  s.event (fun s => s.command agent (isCmd 2) State.tenantCmd)

/-- R409. -/
def execSetQuota (agent : Nat) (s : State) : Host.Outcome State Fault Refusal :=
  s.event (fun s => s.command agent (isCmd 3) (fun s b =>
    if 64 ≤ blockField b 8 1 then s.admEnd 1
    else (s.modCtx (blockField b 8 1) (fun x => x.setPools (BitVec.ofNat 32 (blockField b 9 4)))).admEnd 0))

/-- R426. -/
def execFenceCluster (agent : Nat) (s : State) : Host.Outcome State Fault Refusal :=
  s.event (fun s => s.command agent (fun b => isCmd 4 b && b.getD 9 0 != 0) (fun s b =>
    let n := blockField b 8 1
    if 144 ≤ n ∨ b.getD 9 0 ≠ 1 then s.admEnd 1
    else if (s.cluster n).fenced then s.admEnd 0
    else s.whenVacant true [n] (fun _ _ => true) (fun s =>
      ((s.modCluster n (fun k => { k with fenced := true })).logHealth 2 n).restat.admEnd 0)))

/-- R409. -/
def execRestoreCluster (agent : Nat) (s : State) : Host.Outcome State Fault Refusal :=
  s.event (fun s => s.command agent (fun b => isCmd 4 b && b.getD 9 0 == 0) (fun s b =>
    let n := blockField b 8 1
    if 144 ≤ n ∨ (s.cluster n).faulty then s.admEnd 1
    else (s.modCluster n (fun k => { k with fenced := false })).restat.admEnd 0))

/-- R409, R429. -/
def execFirmwareUpdate (agent : Nat) (s : State) : Host.Outcome State Fault Refusal :=
  s.event (fun s => s.command agent (isCmd 5) (fun s b =>
    let a := BitVec.ofNat 64 (blockField b 8 8)
    let image := s.hostBytes s.dev.admPort a (blockField b 16 4)
    if s.hostReached s.dev.admPort a && imageVerifies image then ((s.modDev (fun d => { d with staged := some image })).logHealth 6 0).admEnd 0
    else (s.modDev (fun d => { d with fwerr := true })).admEnd 1))

/-- The configuration that attestation digests, as bytes: partitions, tenants, fenced and spared units, lane maps, fused
settings (R430; the order is log 6). -/
def State.configBytes (s : State) : List Byte :=
  let id (o : Option Nat) : List Byte := [BitVec.ofNat 8 (o.getD 0xFF)]
  s.dev.parts.flatMap (fun x => BitVec.ofNat 8 x.1 :: leBytes 18 x.2.clusters.toNat ++ leBytes 160 x.2.memory.toNat)
    ++ s.clusters.flatMap (fun x => [BitVec.ofNat 8 x.1, BitVec.ofNat 8 (bit x.2.split + 2 * bit x.2.fenced + 4 * bit x.2.faulty)]
        ++ id x.2.upper ++ id x.2.lower)
    ++ s.dev.spared.flatMap (fun x => leBytes 4 x.1 ++ leBytes 4 x.2)
    ++ s.dev.laneMap.flatMap (fun x => leBytes 2 x.1 ++ x.2.map (BitVec.ofNat 8)) ++ Config.fused

/-- The report (R430). -/
def State.report (s : State) (nonce : List Byte) : List Byte :=
  let head := padTo 32 nonce ++ sha3 (s.dev.running.getD []) ++ sha3 s.configBytes
    ++ leBytes 2 s.dev.pkgid.toNat ++ leBytes 30 0 ++ padTo 1312 Config.identityKey
  head ++ padTo 2420 (Config.signature (sha3 head))

/-- R430. -/
def execAttest (agent : Nat) (s : State) : Host.Outcome State Fault Refusal :=
  s.event (fun s => s.command agent (isCmd 6) (fun s b =>
    let a := BitVec.ofNat 64 (blockField b 40 8)
    s.commandAt a (fun s => (s.hostPut s.dev.admPort a (s.report ((b.drop 8).take 32))).admEnd 0)))

/-- The reset command of a kind. -/
def isReset (kind : Byte) (b : List Byte) : Bool := isCmd 7 b && b.getD 8 0 == kind

/-- Every context ends, with its kind-6 completion entry, and with it all that runs: there are left the device, the clusters, and
what the contexts' entries need that wait for room (R431; log 50). -/
def State.endContexts (s : State) : State :=
  let guests := (s.ctxs.filter (fun x => x.2.valid)).map (·.1)
  let s := guests.foldl (fun (s : State) g => s.mcheckTell g) s
  let ended (x : Ctx) : Ctx := { x with valid := false, queue := [], held := [], current := none, moulds := Ctx.initial.moulds, mail := [] }
  { s.afresh s.mem with cc := s.cc, dtime := s.dtime, clusters := s.clusters, dev := s.dev
                        ctxs := s.ctxs.map (fun (x : Nat × Ctx) => (x.1, ended x.2)) }

/-- R431: every context ends, and, once the kind-6 entries stand in their rings, boot follows. -/
def State.resetCmd (s : State) : State :=
  let s := s.endContexts
  if s.ctxs.all (fun x => x.2.cqWait.isEmpty) then s.deviceAgain else s

/-- R431. A reset command of an unknown kind is refused. -/
def execDeviceReset (agent : Nat) (s : State) : Host.Outcome State Fault Refusal :=
  s.event (fun s => s.command agent (fun b => isCmd 7 b && b.getD 8 0 != 2) (fun s b =>
    if isReset 1 b then s.resetCmd else s.admEnd 1))

/-- R431. -/
def execGuestReset (agent : Nat) (s : State) : Host.Outcome State Fault Refusal :=
  s.event (fun s => s.command agent (isReset 2) (fun s b =>
    if 64 ≤ blockField b 9 1 then s.admEnd 1 else (s.resetGuest (blockField b 9 1)).admEnd 0))

/-- R409: the most recent entries, oldest first. -/
def execReadHealthLog (agent : Nat) (s : State) : Host.Outcome State Fault Refusal :=
  s.event (fun s => s.command agent (isCmd 8) (fun s b =>
    let n := blockField b 16 4 / 32
    let log := s.dev.health.drop (s.dev.health.length - n)
    let a := BitVec.ofNat 64 (blockField b 8 8)
    s.commandAt a (fun s => (s.hostPut s.dev.admPort a log.flatten).admEnd 0)))

/-! ## Notifications (R410 to R412) -/

/-- A guest's context at its start, from its entry in the guest table; the registers of its page stay, and so do the completion
entries that wait (R411). The TLB holds nothing of it (R410; log 24), and no row half counts as used by it (R322). -/
def State.startCtx (s : State) (guest : Nat) (b : List Byte) : State :=
  let f (o : Nat) : DWord := BitVec.ofNat 64 (fieldLE b o 8)
  let x := s.ctx guest
  let fresh (k : Cluster) : Cluster := { k with user := k.user.map (fun u => if u = some guest then none else u) }
  { s with tlb := s.tlb.filter (fun x => x.guest != guest)
           clusters := s.clusters.map (fun (x : Nat × Cluster) => (x.1, fresh x.2)) }.setCtx guest { Ctx.initial with
    valid := true, cmdPage := f 0, saveBase := f 8, saveSize := f 16, asroot := f 24, ptmbase := f 32, ptmsize := f 40
    xvec := f 48, partition := fieldLE b 56 1, smpctl := x.smpctl, trctl := x.trctl, dbgbase := x.dbgbase, dbgsel := x.dbgsel
    quota := x.quota, cqWait := x.cqWait }

/-- The guest table's entry is read where VALID has changed (R410); VALID cleared is a reset of the guest (R431). -/
def State.readEntry (s : State) (guest : Nat) : State :=
  let b := rdBytes s.mem (s.dev.guesttab.toNat + 64 * guest) 64
  let valid := (b.getD 57 0).getLsbD 0
  if valid && !(s.ctx guest).valid then s.startCtx guest b
  else if !valid && (s.ctx guest).valid then (s.resetGuest guest).modCtx guest (fun x => { x with valid := false })
  else s

/-- One submission carried out (R411); one of an unknown kind is refused. `false`: it has to wait. -/
def State.submitOne (s : State) (guest kind : Nat) (addr : Addr) (tag : DWord) : State × Bool :=
  match s.submitWaits guest kind addr with
  | some s => (s, false)
  | none => match kind with
    | 1 => ((s.submitHeader guest addr tag).farDone (.host guest), true)
    | 2 => ((s.submitPipe guest addr tag).farDone (.host guest), true)
    | 3 => match s.submitResumed guest addr tag with
      | some s => (s, true)
      | none => (s, false)
    | 4 => (s.submitEnded guest addr tag, true)
    | 5 => (s.submitStop guest tag, true)
    | _ => (s.completion guest 2 tag none, true)

/-- The submissions of a context in their order; one that waits is kept. A launch that waits holds up what comes after it, but for
orders about escalated groups (log 85). -/
def State.submitEach (guest : Nat) : Bool → List (Nat × Addr × DWord) → State → State
  | _, [], s => s
  | held, (kind, addr, tag) :: xs, s =>
    if held && kind != 3 && kind != 4 then State.submitEach guest held xs (s.holdSub guest kind addr tag) else
    let r := s.submitOne guest kind addr tag
    if r.2 then State.submitEach guest held xs r.1
    else State.submitEach guest (held || kind != 3) xs (r.1.holdSub guest kind addr tag)

/-- The submissions that wait are tried again. -/
def State.submitHeld (s : State) (guest : Nat) : State :=
  State.submitEach guest false (s.ctx guest).held (s.modCtx guest (fun x => { x with held := [] }))

/-- The entries from SQHEAD to SQTAIL are taken, after those that wait (R411). -/
def State.submitAll (guest : Nat) : Nat → State → State
  | 0, s => s.submitHeld guest
  | fuel + 1, s =>
    let size := s.cmdField guest 8 4
    let head := s.cmdField guest 16 4
    if size = 0 ∨ head = s.cmdField guest 12 4 then s.submitHeld guest else
    let b := rdBytes s.mem (s.cmdField guest 0 8 + 64 * (head % size)) 64
    State.submitAll guest fuel ((s.holdSub guest (b.getD 0 0).toNat (BitVec.ofNat 64 (fieldLE b 8 8))
      (BitVec.ofNat 64 (fieldLE b 16 8))).setCmd guest 16 4 ((head + 1) % 2 ^ 32))

/-- R412. No context starts while a reset of the device waits for room in a ring (R431). -/
def execNotify (guest : Nat) (s : State) : Host.Outcome State Fault Refusal :=
  s.event (fun s =>
    if !s.dev.ready || (s.dev.admBusy && isReset 1 s.dev.admBlock) || decide (64 ≤ guest) then s else
    let s := s.readEntry guest
    if (s.ctx guest).valid then State.submitAll guest 4096 s else s)

/-- R411. A context that has ended still takes the entries that wait for room in its ring. -/
def execCqheadAdvance (guest : Nat) (v : Word) (s : State) : Host.Outcome State Fault Refusal :=
  s.event (fun s =>
    if !(s.ctx guest).valid && (s.ctx guest).cqWait.isEmpty then s
    else let s := s.setCmd guest 36 4 v.toNat; State.flushCq guest (s.ctx guest).cqWait.length s)

/-- R419. -/
def execDirtyLogThrottleLift (guest : Nat) (s : State) : Host.Outcome State Fault Refusal :=
  s.event (fun s =>
    let x := s.ctx guest
    let size := s.cmdField guest 48 4
    if !x.valid then s
    else s.setCtx guest { x with throttled := size != 0 && decide (7 * size ≤ 8 * s.logUsed guest) })

/-! ## Service life (R20, R406, R424 to R428) -/

/-- R20: `sched` 0 to 3 names a scheduler of the core, 4 the matrix array of its cluster. -/
def execIssueSlotWithholding (core sched : Nat) (on : Bool) (s : State) : Host.Outcome State Fault Refusal :=
  s.event (fun s => s.modDev (fun d => { d with
    withheld := mset d.withheld (if sched < 4 then core * 4 + sched else arrayKey (clusterOf core)) on }))

/-- R424. -/
def execCorrectedError (cluster : Nat) (s : State) : Host.Outcome State Fault Refusal :=
  s.event (fun s => s.modCluster cluster (fun k => { k with ce := k.ce + 1 }))

/-- A workgroup has a group on a scheduler of a core. -/
def WGroup.onSched (w : WGroup) (core sched at_ : Nat) : Bool := at_ == core && w.groups.any (fun x => x.2 / 12 == sched)

/-- R425: the first failed lane is mapped out once the scheduler is empty, its units, gangs too, being pre-empted; a second one
fences the cluster. -/
def execLaneTestFail (core sched lane : Nat) (s : State) : Host.Outcome State Fault Refusal :=
  s.event (fun s =>
    let key := core * 4 + sched
    match mfind s.dev.laneFail key with
    | some l => if l = lane then s else s.fence (clusterOf core) true
    | none =>
      if 33 ≤ lane then s else
      s.whenVacant false [clusterOf core] (fun c w => w.onSched core sched c) (fun s =>
        ((s.modDev (fun d => { d with laneFail := mset d.laneFail key lane, laneMap := mset d.laneMap key (laneMapOf (some lane)) })).logHealth
          3 (clusterOf core)).restat))

/-- R426, R427: `last`: the bank has no spare row left. -/
def execDramSpare (bank : Nat) (last : Bool) (s : State) : Host.Outcome State Fault Refusal :=
  s.event (fun s => ((s.modDev (fun d => { d with
    spared := mset d.spared bank (mget d.spared bank 0 + 1), spareOut := d.spareOut || last })).logHealth 4 bank).restat)

/-- The cluster with the least margin at the voltage ceiling, by margins that no rule gives (R428; log 52); one whose fencing
is under way comes first. -/
def State.weakest (s : State) (cluster : Nat) : State × Nat :=
  let at_ := (List.range 144).filter (fun n => !(s.cluster n).fenced && decide (Config.voltCeiling ≤ (s.cluster n).volts))
  match at_.find? (fun n => s.dev.leaving.contains n) with
  | some n => (s, n)
  | none =>
    let r := at_.foldl (fun (acc : State × Nat × Option Nat) n =>
      let w := acc.1.freeWord
      if acc.2.2.all (fun m => decide (w.2.toNat < m)) then (w.1, n, some w.2.toNat) else (w.1, acc.2)) (s, cluster, none)
    (r.1, r.2.1)

/-- R428: the margin is low: one step up, or, at the ceiling, the weakest cluster is fenced. -/
def execPatinaCheck (cluster : Nat) (low : Bool) (s : State) : Host.Outcome State Fault Refusal :=
  s.event (fun s =>
    let k := s.cluster cluster
    if !low || k.fenced then s
    else if k.volts < Config.voltCeiling then (s.modCluster cluster (fun k => { k with volts := k.volts + 1 })).logHealth 1 cluster
    else let r := s.weakest cluster; r.1.fence r.2 true)

/-- R406: `agent` 1 is port A, 2 is port B. -/
def execUciePortTrained (agent : Nat) (s : State) : Host.Outcome State Fault Refusal :=
  s.event (fun s => s.modDev (fun d => { d with ucieA := d.ucieA || agent == 1, ucieB := d.ucieB || agent == 2 }))

end Sys2Proof.Machine
end

