-- ==== Sys2Proof/Machine/Link.lean ====
section
/-! DEFINITION. The Maelber link and the UCIe ports: flits, routes, lost ports, clock correction (R250, R362, R406, R420
to R422). -/

namespace Sys2Proof.Machine

/-! ## Flits received (R420) -/

/-- The write a request makes at its home; `none` for a load. -/
def linkWrite (r : Config.LinkRequest) (old : Nat) : Option (List Byte) :=
  match r.kind with
  | .load | .append => none
  | .store _ => some (leBytes r.size r.val.toNat)
  | .atomic op sgn => some (leBytes r.size (atomicNew (linkAtom op.val) r.size sgn old r.val.toNat r.cmp.toNat))

/-- The request is a synchronising access. -/
def linkSync (r : Config.LinkRequest) : Bool := match r.kind with | .load | .store false => false | _ => true

/-- A write at this home for another package is logged for every context that has the page in its partition (R418). -/
def State.logShared (s : State) (pa : Nat) : Option State :=
  (s.ctxs.filter (fun x => x.2.valid && s.inPartition x.1 pa)).foldlM (fun (s : State) x => s.logPage x.1 pa) s

/-- A write of another package takes its turn at a line of this one (R254). `none`: it has to wait. -/
def State.linkTurn (s : State) (line : Nat) : Option State :=
  if s.aq.any (fun e => e.addr / 128 == line) || s.lineBusy line then none
  else some { s with lastApply := mset s.lastApply line s.cc }

/-- A read of another package takes its turn, as a fill does (R254). `none`: it has to wait. -/
def State.linkRead (s : State) (line : Nat) : Option State :=
  if s.aq.any (fun e => e.addr / 128 == line) || mfind s.lastApply line = some s.cc then none
  else some { s with lastFill := mset s.lastFill line s.cc }

/-- A write of another package at its home here: it takes its turn at the line, recalls held copies and is logged (R254, R258,
R418); a synchronising one leaves its record on the line (R264). `none`: it has to wait. -/
def State.linkReady (s : State) (r : Config.LinkRequest) : Option State :=
  let line := r.addr / 128
  (((s.linkTurn line).bind (fun s => s.recall line)).bind (fun s => s.logShared r.addr)).map (fun s =>
    if linkSync r then s.putScope line ⟨.sys, 0x3FFF, s.dtime, r.guest⟩ else s)

/-- A request of another package applied at its home, and its answer, what stood there. A plain load takes its turn at the line
and M(h), and recalls nothing (R254, R258). `none`: it has to wait. -/
def State.linkApply (s : State) (r : Config.LinkRequest) : Option (State × BitVec 1024) :=
  let old (s : State) : Nat := rdLE s.mem r.addr r.size
  match r.kind with
  | .load => (s.linkRead (r.addr / 128)).map (fun s => (s, BitVec.ofNat 1024 (old s)))
  | .append => match (s.linkReady r).bind (fun s => match s.ringEntry r.guest r.addr with
      | some q => (s.recall (q / 128)).bind (fun s => s.logShared q)
      | none => some s) with
    | some s => let x := s.ringAppend r.guest r.addr (r.val.setWidth 32); some (x.1, x.2.setWidth 1024)
    | none => none
  | _ => (s.linkReady r).map (fun s =>
      ({ s with mem := wrBytes s.mem r.addr ((linkWrite r (old s)).getD []) }, BitVec.ofNat 1024 (old s)))

/-- The responses kept: the last 4,096 of each package. -/
def keepApplied (xs : List (BitVec 13 × BitVec 32 × BitVec 1024)) (pkg : BitVec 13) : List (BitVec 13 × BitVec 32 × BitVec 1024) :=
  (xs.foldl (fun (acc : Nat × List (BitVec 13 × BitVec 32 × BitVec 1024)) x =>
    if x.1 = pkg then (if acc.1 < 4096 then (acc.1 + 1, acc.2 ++ [x]) else acc) else (acc.1, acc.2 ++ [x])) (0, [])).2

/-- One request of a flit: applied once, and answered, again with the stored response (R420). `none`: it has to wait. -/
def State.linkRequest (s : State) (port : Nat) (r : Config.LinkRequest) : Option State :=
  let reply (s : State) (v : BitVec 1024) : State := s.sendFlit port 2 (Config.linkResponse r.pkg r.num v)
  match s.applied.find? (fun x => x.1 == r.pkg && x.2.1 == r.num) with
  | some x => some (reply s x.2.2)
  | none =>
    if !backed r.addr then some s else
    (s.linkApply r).map (fun y => reply { y.1 with applied := keepApplied ((r.pkg, r.num, y.2) :: y.1.applied) r.pkg } y.2)

/-- A response for an access of a unit (R241, R259, R420): a private line or a line of code has come, what another unit reads
stands ready for it, and a write has been applied. -/
def State.farAnswer (s : State) (f : Far) (bs : List Byte) : State :=
  let gone : State := { s with far := s.far.filter (fun y => y.num != f.num) }
  let kept : State := { s with far := s.far.map (fun y => if y.num = f.num then { y with answer := some bs } else y) }
  if !f.bytes.isEmpty then gone else
  match f.who with
  | .l1 core guest va => gone.privArrive core guest va (f.addr / 128) bs
  | .code core => gone.putCode core f.guest f.va (padTo 128 bs)
  | .host guest => kept.submitHeld guest
  | _ => kept

/-- A response for a request of this package: the bytes that stood at the home are taken, and the access is done (R420). -/
def State.linkAnswer (s : State) (num : Word) (bs : List Byte) : State :=
  if let some f := s.far.find? (fun f => f.num == num && f.answer.isNone) then s.farAnswer f bs else
  match s.sent.find? (fun x => x.num == num) with
  | none => s
  | some x =>
    let s := { s with sent := s.sent.filter (fun y => y.num != num) }
    let mine (e : AQEntry) : Bool := isRemote e.addr && e.op == x.op && e.lane == x.lane
    match (s.aq.findIdx? mine).bind (fun i => (s.aq[i]?).map (fun e => (i, e))) with
    | none => s
    | some (i, e) =>
      let gone (s : State) : State := { s with aq := s.aq.eraseIdx i }
      match e.act with
      | .fill t => { s with mem := wrBytes s.mem (e.addr / 128 * 128) (bs.take 128) }.serveFill i e t
      | .ringput _ => match mfind s.ops e.op with
        | some o => ((gone s).syncDone o e.lane [BitVec.ofNat 32 (leNat bs)]).returnGroup e.core e.slot
        | none => gone s
      | _ => ((gone { s with mem := wrBytes s.mem e.addr (bs.take (s.entrySize e)) }).applyHome e).returnGroup e.core e.slot

/-- A message of another package stored in its mailbox, where that has room (R290). -/
def State.linkMessage (s : State) (m : Config.LinkMessage) : State :=
  let x := s.ctx m.guest
  let box := mget x.mail m.die []
  if !x.valid || decide (64 ≤ box.length) then s
  else s.setCtx m.guest { x with mail := mset x.mail m.die (box ++ [⟨m.pkg, m.sdie, m.words, m.tok⟩]) }

/-- The flits of the buffer from a sequence number on, oldest first. -/
def Port.again (p : Port) (from_ : BitVec 16) : List (List Byte) :=
  p.replay.reverse.dropWhile (fun b => fieldLE b 0 2 != from_.toNat)

/-- The neighbour asks for the flits from a number on again: they are put on the lanes, and the requests for one flit in a row are
counted (R420). -/
def Port.replayed (p : Port) (from_ : BitVec 16) : Port :=
  { p with asks := if p.askSeq = from_ then p.asks + 1 else 1, askSeq := from_, out := p.out ++ p.again from_ }

/-- An accepted flit acted on, by its type; `none`: a request of it has to wait. A time flit that asks for it is answered with
DTIME at its arrival and at the reply, which leaves in the same cc (R422). -/
def State.flitAct (s : State) (port : Nat) (b : List Byte) : Option State :=
  let payload := (b.drop 4).take 248
  match (b.getD 2 0).toNat with
  | 1 => (Config.linkRequests payload).foldlM (fun (s : State) r => s.linkRequest port r) s
  | 2 => some ((Config.linkAnswers payload).foldl (fun (s : State) x => s.linkAnswer x.1 x.2) s)
  | 3 => match Config.linkMessage payload with
    | some m => some (s.linkMessage m)
    | none => some s
  | 4 => some (if Config.linkTimeAsks payload then s.sendFlit port 4 (Config.linkPackTimeReply s.dtime s.dtime) else s)
  | 5 => some (s.modPort port (fun p => p.replayed (Config.replayFrom payload)))
  | _ => some s

/-- R420: byte i of the flit is bits 8i + 7 to 8i. A flit that fails its CRC, or is not the next in sequence, is not acted
on; the first is asked for again. A flit with a request that has to wait is received later. -/
def execFlitReceive (port : Nat) (flit : BitVec 2048) (s : State) : Host.Outcome State Fault Refusal :=
  s.event (fun s =>
    let p := s.port port
    let b := leBytes 256 flit.toNat
    let s0 := s
    if !p.trained || p.down then s
    else if (crc32 (b.take 252)).toNat ≠ fieldLE b 252 4 then
      (s.modPort port (fun p => { p with bad := p.bad + 1 })).sendFlit port 5 (Config.linkPackReplay p.recvSeq)
    else if fieldLE b 0 2 ≠ p.recvSeq.toNat then s
    else
      let s := s.modPort port (fun p => { p with
        recvSeq := p.recvSeq + 1, credits := p.credits + (b.getD 3 0).toNat, bad := 0 })
      (s.flitAct port b).getD s0)

/-! ## Lost homes (R362, R420) -/

/-- A private line has been asked for and nothing has been written into it: it can be asked for again. -/
def State.pristine (s : State) (f : Far) : Bool :=
  match f.who with
  | .l1 core guest va => s.l1.any (fun x => x.isPriv core guest va && (match x.kind with | .priv _ d _ => !d | _ => false))
  | _ => true

/-- An access of a unit to a home that nothing reaches is given up: a read is made again, and then meets PATH_DOWN at its
translation (R362, R420), and a write has no one to report to but a chain, which stops at a record (R308). A private line that
holds bytes and a write-back wait for a route (log 77). -/
def State.farLost (s : State) (f : Far) : Bool :=
  !s.homeUp f.addr && f.answer.isNone && (if f.bytes.isEmpty then s.pristine f else (match f.who with
    | .chain id => s.chains.all (fun c => c.id != id)
    | .ring => true
    | _ => false))

/-- Accesses of units to homes that nothing reaches are given up. -/
def State.loseFar (s : State) : State :=
  let lost := s.far.filter s.farLost
  let line (x : L1Line) : Bool := lost.any (fun f => f.bytes.isEmpty && (match f.who with
    | .l1 core guest va => x.isPriv core guest va && x.line == f.addr / 128
    | _ => false))
  { s with far := s.far.filter (fun f => !s.farLost f), l1 := s.l1.filter (fun x => !line x) }

/-- Loads and plain stores under way to homes that nothing reaches fail; synchronising accesses wait (R420). -/
def State.loseHomes (s : State) : State :=
  let lost (e : AQEntry) : Bool := !s.homeUp e.addr && (match e.act with | .fill _ | .store _ => true | _ => false)
  ((s.aq.filter lost).foldl (fun (s : State) e => s.loseEntry e) s).loseFar

/-- A saved group ends inside its unit (R420): its error entry is written, CTXERR and ERRCNT count it, it leaves its barriers,
and what it had outstanding goes. -/
def State.endSaved (s : State) (unit : Nat) (u : Unit_) (i : Nat) (w : SavedWG) (x : SavedGroup) (va : Addr) (k : Cause) : State :=
  let g := x.g
  let s := s.storeErrors (fun r => r.core == x.ghost) g.launch w.core
  let s := ((s.errorEntry g.guest va g.wid k 0 w.core).countError g.guest).launchErr g.launch
  let left := w.groups.filter (fun y => y.ghost != x.ghost)
  let alone : Bool := left.isEmpty && (match w.wg.seq with | some q => !q.stopped | none => false)
  let ws := if left.isEmpty then u.saved.eraseIdx i else u.saved.set i { w with wg := w.wg.leave x.w1, groups := left }
  { s with
    units := if ws.isEmpty then mdel s.units unit else mset s.units unit { u with saved := ws }
    ops := s.ops.map (fun (y : Nat × Op) =>
      (y.1, if y.2.core = x.ghost then { y.2.drop with saved := false, ctr := none, area := none } else y.2))
    recs := s.recs.filter (fun r => r.core != x.ghost)
    launches := mmod s.launches g.launch (fun l => { l with groups := l.groups - 1, seqs := if alone then l.seqs - 1 else l.seqs }) }

/-- The saved group that a number names. -/
def State.savedOf (s : State) (ghost : Nat) : Option (Nat × Unit_ × Nat × SavedWG × SavedGroup) :=
  s.units.findSome? (fun u => u.2.saved.zipIdx.findSome? (fun w =>
    (w.1.groups.find? (fun x => x.ghost == ghost)).map (fun x => (u.1, u.2, w.2, w.1, x))))

/-- The group of a dispatched access ends with PATH_DOWN (R420): the one in the slot that released it, with an EXC packet, or a
saved one. The packet's split, which no rule gives an end at no header, is 0 (R394; log 83). -/
def State.endFor (s : State) (e : AQEntry) : State :=
  match (mfind s.ops e.op).bind (fun o => s.savedOf o.core) with
  | some (unit, u, i, w, x) => s.endSaved unit u i w x e.va cPathDown
  | none => if s.ownerHere e then s.killGroup e.core e.slot e.va cPathDown 0 (some 0) else s

/-- An address on a package that the route table no longer names. -/
def State.unrouted (s : State) (a : Nat) : Bool := isRemote a && (mfind s.dev.routes (a / physSpan - 1)).isNone

/-- Synchronising accesses whose destination has left the route table are abandoned, those still in a store queue too, and
their groups end with PATH_DOWN (R420). Private lines on their way from there and write-backs go too (log 77). -/
def State.abandon (s : State) : State :=
  let gone (e : AQEntry) : Bool := s.unrouted e.addr && (match e.act with | .stw _ | .atomic | .ringput _ => true | _ => false)
  let s := (s.aq.filter gone).foldl (fun (s : State) e => (s.unsent e).endFor e) { s with aq := s.aq.filter (fun e => !gone e) }
  let off (f : Far) : Bool := s.unrouted f.addr && f.answer.isNone && (match f.who with | .l1 _ _ _ => true | _ => false)
  let s := { s with far := s.far.filter (fun f => !off f), l1 := s.l1.filter (fun x => !(s.coming x && s.unrouted (x.line * 128))) }
  s.groups.foldl (fun (s : State) x => match x.2.sq.find? (fun e => e.pa.any s.unrouted) with
    | some e => s.killGroup (x.1 / 64) (x.1 % 64) e.va cPathDown 0 (some 0)
    | none => s) s

/-- R420: after 16 failed replays of one flit: the flit has failed its CRC, or been asked for, once more than that (log 53). What
was in flight on the port goes out again on another route, where one is left. -/
def execPortDown (port : Nat) (s : State) : Host.Outcome State Fault Refusal :=
  s.event (fun s =>
    let p := s.port port
    if !p.trained || (decide (p.bad < 17) && decide (p.asks < 17)) then s
    else ((s.modPort port (fun p => { p with down := true, dist := none })).resendPort port).loseHomes)

/-- R406, R362: a UCIe port is lost. -/
def execUciePortDown (agent : Nat) (s : State) : Host.Outcome State Fault Refusal :=
  s.event (fun s => (s.modDev (fun d => { d with ucieA := d.ucieA && agent != 1, ucieB := d.ucieB && agent != 2 })).loseHomes)

/-! ## Bringing the link up (R421) -/

/-- LINKUP is set once the link is enabled and every port that the route table names has trained. -/
def State.linkCheck (s : State) : State :=
  let all := s.dev.routes.all (fun x => (s.port x.2.port).trained)
  if s.dev.linkEnabled && all then s.modDev (fun d => { d with linkup := true }) else s

/-- R421: a package has sixteen ports (R17). What was in flight on the port is sent again (R420). -/
def execPortTrained (port : Nat) (s : State) : Host.Outcome State Fault Refusal :=
  s.event (fun s =>
    if 16 ≤ port then s
    else
      let s := (s.modPort port (fun _ => { Port.initial with trained := true })).linkCheck
      s.resendPort port)

/-- R421. -/
def execLinkEnable (agent : Nat) (s : State) : Host.Outcome State Fault Refusal :=
  s.event (fun s => s.command agent (isCmd 10) (fun s _ => ((s.modDev (fun d => { d with linkEnabled := true })).linkCheck).admEnd 0))

/-- The route table in 16,384 bytes (R409). -/
def routesOf (b : List Byte) : AMap Route :=
  (List.range 8192).filterMap (fun p =>
    let e := fieldLE b (2 * p) 2
    if nbits e 7 7 = 1 then some (p, ⟨nbits e 3 0, BitVec.ofNat 3 (nbits e 6 4)⟩) else none)

/-- R409, R421; an entry with a nonzero reserved byte refuses the table. An access whose home no route reached is sent again on
the new one (R420). -/
def execWriteRouteTable (agent : Nat) (s : State) : Host.Outcome State Fault Refusal :=
  s.event (fun s => s.command agent (isCmd 9) (fun s b =>
    let a := BitVec.ofNat 64 (blockField b 8 8)
    let t := s.hostBytes s.dev.admPort a 16384
    if !s.hostReached s.dev.admPort a || (List.range 8192).any (fun p => t.getD (2 * p + 1) 0 != 0) then s.admEnd 1
    else
      ((((s.modDev (fun d => { d with routes := routesOf t })).abandon.loseHomes).linkCheck).resend).admEnd 0))

/-! ## Time (R250, R422) -/

/-- The clocks' offset from four stamps: departure, arrival, reply, return. -/
def offsetOf (t0 t1 t2 t3 : DTime) : Int := (dtDiff t1 t0 + dtDiff t2 t3) / 2

/-- Trained ports that have measured a distance. -/
def State.neighbours (s : State) : List Port := (s.dev.ports.map (·.2)).filter (fun p => p.trained && !p.down && p.dist.isSome)

/-- The lowest package that can be reached is this one: it is the reference (R422). -/
def State.isReference (s : State) : Bool :=
  s.dev.routes.all (fun x => decide (s.dev.pkgid.toNat ≤ x.1) || !s.reaches x.1)

/-- Offsets from the time parents: the neighbours one hop nearer to the reference than any path of this package. -/
def State.parents (s : State) : List Int :=
  let ps := s.neighbours
  let near := ps.foldl (fun m p => min m (p.dist.getD 0)) (2 ^ 13)
  (ps.filter (fun p => p.dist == some near)).map (·.offset)

/-- The median of offsets: the middle one, or the lower of two. -/
def medianOf (xs : List Int) : Int := (xs.mergeSort (fun a b => decide (a ≤ b))).getD ((xs.length - 1) / 2) 0

/-- The steps of correction that are due: towards the median of the offsets; none for the reference (R422). They are taken as
time passes, one in 64 cc at most (R250). -/
def State.timeDue (s : State) : State :=
  s.modDev (fun d => { d with timeDue := if s.isReference || s.parents.isEmpty then 0 else medianOf s.parents })

/-- A clock too far from every parent is reported (R422, R427). -/
def State.timeCheck (s : State) : State :=
  let bad := !s.isReference && !s.parents.isEmpty && s.parents.all (fun x => decide (Config.skew / 2 < x.natAbs))
  let s' := s.modDev (fun d => { d with timeBad := bad })
  (if bad && !s.dev.timeBad then s'.logHealth 5 0 else s').restat

/-- R422: the stamps of an exchange and the neighbour's hop distance. -/
def execTimeExchange (port : Nat) (t0 t1 t2 t3 : DTime) (dist : Nat) (s : State) : Host.Outcome State Fault Refusal :=
  s.event (fun s =>
    if !(s.port port).trained || (s.port port).down then s
    else
      let s := s.sendFlit port 4 (Config.linkPackTime s.dtime)
      ((s.modPort port (fun p => { p with dist := some dist, offset := offsetOf t0 t1 t2 t3 })).timeCheck).timeDue)

end Sys2Proof.Machine
end

