-- ==== Sys2Proof/Machine/Table.lean ====
section
/-! DEFINITION. Activation tables (R187 to R191). -/

namespace Sys2Proof.Machine

/-- The f32 at byte `o` of a table image (R187). -/
def tabWord (image : List Byte) (o : Nat) : Nat := leNat ((image.drop o).take 4)

/-- The fused steps of R188 on a table image, with their flags. -/
def tabEval (image : List Byte) (x : Num) : Nat × BitVec 6 :=
  let f := Fl.f32
  let lo := tabWord image 0
  let sc := tabWord image 4
  let d := f.add .rn x (f.decode lo).neg
  let v := f.mul .rn (f.decode d.1) (f.decode sc)
  let nv := f.decode v.1
  let num : Num := if nv.isNan then .fin false 0 0 else nv
  let low : Num := if numCmp num (.fin false 0 0) == .lt then .fin false 0 0 else num
  let clamped : Num := if numCmp (.fin false 256 0) low == .lt then .fin false 256 0 else low
  let kt : Nat × Num := match clamped with
    | .fin _ m e =>
      if numCmp clamped (.fin false 256 0) == .eq then (255, .fin false 1 0)
      else
        let k := (roundAt .rz false m e false 0).1
        let r := f.add .rn (.fin false m e) (.fin true k 0)
        (k, f.decode r.1)
    | _ => (255, .fin false 1 0)
  let c (n : Nat) : Num := f.decode (tabWord image (16 + 12 * kt.1 + 4 * n))
  let r1 := f.fma .rn (c 2) kt.2 (c 1)
  let r2 := f.fma .rn (f.decode r1.1) kt.2 (c 0)
  (r2.1, d.2 ||| v.2 ||| r1.2 ||| r2.2)

/-- One lane of `tab`: widened operand, table, narrowed result (R188). -/
def tabLane (image : Option (List Byte)) (f : Fl) (w : Word) : Nat × BitVec 6 :=
  let x := f.decode (w.toNat % 2 ^ f.bits)
  match image with
  | none => (f.nan, fInv)
  | some img =>
    if x.isNan then (f.nan, x.sig)
    else
      let r := tabEval img x
      let n := f.ofNum .rn (Fl.f32.decode r.1)
      (n.1, r.2 ||| n.2)

/-- The image the group is bound to, as its binding stood before the run (R189). -/
def State.boundImage (s : State) (c : Cur) : Option (List Byte) :=
  match c.g.tab with
  | none => none
  | some b => (mfind s.banks (c.core * 2 + b)).map (·.image)

/-- R188. -/
def execTab (gd : Guard) (f : SFmt) (s : State) : Host.Outcome State Fault Refusal :=
  s.runInstr (fun c =>
    let fl := match f with | .f32 => Fl.f32 | .f16 => Fl.f16 | .bf16 => Fl.bf16
    .ok s (c.r.lanewise (c.on gd) 1 1 (fun _ ws => w32 (tabLane (s.boundImage c) fl (ws.getD 0 0)))) 8)

/-- R189: the address is checked as a load's of the whole image (R212); the bank is chosen and the load dispatched at the
trailer. With no lane guarded on only the counter rises (R91; log 20). -/
def execTload (gd : Guard) (s : State) : Host.Outcome State Fault Refusal :=
  s.runInstr (fun c =>
    let ps := c.r.popped 2
    let r := c.r.replace 2 []
    match c.acts gd with
    | none => .ok s (r.stage (.tload false 0 0)) 1
    | some l =>
      let va := item 64 (argsOf ps l) 0 &&& ~~~(15 : Addr)
      c.checkBlock s l 3088 va (fun _ => .ok s (r.stage (.tload true va l)) 1))

/-- R189: takes effect at the trailer. -/
def execTbind (gd : Guard) (s : State) : Host.Outcome State Fault Refusal :=
  s.runInstr (fun c => .ok s (if (c.acts gd).isSome then c.r.stage .tbind else c.r) 1)

end Sys2Proof.Machine
end

