-- ==== Sys2Proof/Machine/Witness.lean ====
section
/-! DEFINITION. The witness instructions (R230 to R237). -/

namespace Sys2Proof.Machine

/-- The merge of two witnesses (R235). -/
def mergeWit (a b : DWord) : DWord :=
  let sa := witScope a
  let sb := witScope b
  if sa = 0 then b else if sb = 0 then a else
  let ta := if sa = 3 ∧ sb ≠ 3 then witT a + BitVec.ofNat 48 Config.skew else witT a
  let tb := if sb = 3 ∧ sa ≠ 3 then witT b + BitVec.ofNat 48 Config.skew else witT b
  let t := if dtLater tb ta then tb else ta
  if sa = sb then
    if witDomain a = witDomain b then mkWit sa (witDomain a) t
    else if sa = 1 then mkWit 1 0x3FFF t
    else mkWit 3 0x3FFF t
  else if sa < sb then mkWit sa (witDomain a) t
  else mkWit sb (witDomain b) t

/-- R235. -/
def execWmax (gd : Guard) (s : State) : Host.Outcome State Fault Refusal :=
  s.laneInstr gd 4 2 2 (fun _ ws => (push (mergeWit (item 64 ws 0) (item 64 ws 2)), 0))

/-- R234. Guarded-off lanes push 0 (R90). -/
def execWnull (gd : Guard) (s : State) : Host.Outcome State Fault Refusal :=
  s.laneInstr gd 0 2 1 (fun _ _ => ([0, 0], 0))

/-- The value of `wexp` (R234). -/
def State.wexpBit (s : State) (w : DWord) : Bool := witScope w == 0 || (!isVoid w && s.witExpired w)

/-- One pushed entry in place of a witness; guarded-off lanes push 0 (R90). -/
def State.witTest (s : State) (gd : Guard) (f : Cur → DWord → Word) : Host.Outcome State Fault Refusal :=
  s.runInstr (fun c =>
    let on := c.on gd
    .ok s (c.r.lanewise c.r.mask 2 1 (fun l ws => ([if laneOn on l then f c (item 64 ws 0) else 0], 0))) 2)

/-- R234. -/
def execWexp (gd : Guard) (s : State) : Host.Outcome State Fault Refusal :=
  s.witTest gd (fun _ w => if s.wexpBit w then 1 else 0)

/-- R237. -/
def execWscp (gd : Guard) (s : State) : Host.Outcome State Fault Refusal :=
  s.witTest gd (fun c w => BitVec.ofNat 32 (witScope w + (if (s.consume c.core c.g w).isSome then 4 else 0)
    + (if s.wexpBit w then 8 else 0)))

/-- R236: the witnesses are consumed, the run holds 8 cc, and the trailer drops the older L1 lines. -/
def execWwait (gd : Guard) (s : State) : Host.Outcome State Fault Refusal :=
  s.runInstr (fun c =>
    let on := c.on gd
    let w (l : Nat) : DWord := item 64 (argsOf (c.r.popped 2) l) 0
    let bad := c.badWitness s on w
    if bad ≠ 0 then .fault s cScope bad [] else
    let eff := ((lanesOf on).map (fun l => (s.consume c.core c.g (w l)).getD 0)).filter (fun v => witScope v ≠ 0)
    .ok s ((c.r.replace 2 []).stage (.dropL1 (eff.map witBound) (eff.any (fun v => witScope v == 1)))) 9)

end Sys2Proof.Machine
end

