-- ==== Sys2Proof/Machine/Dispatch.lean ====
section
/-! DEFINITION. One arm per instruction and event: a direct call of its meaning. -/

namespace Sys2Proof.Machine

/-- The meaning of every instruction and event. -/
def exec (i : Instr) (s : State) : Host.Outcome State Fault Refusal :=
  match i with
  | .nop gd => Sys2Proof.Machine.execNop gd s
  | .dup gd => Sys2Proof.Machine.execDup gd s
  | .drop gd => Sys2Proof.Machine.execDrop gd s
  | .swap gd => Sys2Proof.Machine.execSwap gd s
  | .over gd => Sys2Proof.Machine.execOver gd s
  | .rot gd => Sys2Proof.Machine.execRot gd s
  | .nip gd => Sys2Proof.Machine.execNip gd s
  | .tuck gd => Sys2Proof.Machine.execTuck gd s
  | .dup2 gd => Sys2Proof.Machine.execDup2 gd s
  | .drop2 gd => Sys2Proof.Machine.execDrop2 gd s
  | .swap2 gd => Sys2Proof.Machine.execSwap2 gd s
  | .depth gd => Sys2Proof.Machine.execDepth gd s
  | .pick gd n => Sys2Proof.Machine.execPick gd n s
  | .roll gd n => Sys2Proof.Machine.execRoll gd n s
  | .ldi gd imm => Sys2Proof.Machine.execLdi gd imm s
  | .ldiLit gd lit => Sys2Proof.Machine.execLdiLit gd lit s
  | .ldk gd k => Sys2Proof.Machine.execLdk gd k s
  | .ldk2 gd k => Sys2Proof.Machine.execLdk2 gd k s
  | .ldu gd => Sys2Proof.Machine.execLdu gd s
  | .ldf gd f => Sys2Proof.Machine.execLdf gd f s
  | .stf gd f => Sys2Proof.Machine.execStf gd f s
  | .ldf2 gd f => Sys2Proof.Machine.execLdf2 gd f s
  | .stf2 gd f => Sys2Proof.Machine.execStf2 gd f s
  | .teef gd f => Sys2Proof.Machine.execTeef gd f s
  | .stu gd k => Sys2Proof.Machine.execStu gd k s
  | .ldx gd x => Sys2Proof.Machine.execLdx gd x s
  | .stx gd x => Sys2Proof.Machine.execStx gd x s
  | .ldp gd p => Sys2Proof.Machine.execLdp gd p s
  | .stp gd p => Sys2Proof.Machine.execStp gd p s
  | .wid gd => Sys2Proof.Machine.execWid gd s
  | .lane gd => Sys2Proof.Machine.execLane gd s
  | .segi gd => Sys2Proof.Machine.execSegi gd s
  | .lea gd sz => Sys2Proof.Machine.execLea gd sz s
  | .add gd t => Sys2Proof.Machine.execAdd gd t s
  | .sub gd t => Sys2Proof.Machine.execSub gd t s
  | .mul gd t => Sys2Proof.Machine.execMul gd t s
  | .mulh gd t => Sys2Proof.Machine.execMulh gd t s
  | .mad gd t => Sys2Proof.Machine.execMad gd t s
  | .div gd t => Sys2Proof.Machine.execDiv gd t s
  | .rem gd t => Sys2Proof.Machine.execRem gd t s
  | .neg gd t => Sys2Proof.Machine.execNeg gd t s
  | .abs gd w => Sys2Proof.Machine.execAbs gd w s
  | .min gd t => Sys2Proof.Machine.execMin gd t s
  | .max gd t => Sys2Proof.Machine.execMax gd t s
  | .and gd t => Sys2Proof.Machine.execAnd gd t s
  | .or gd t => Sys2Proof.Machine.execOr gd t s
  | .xor gd t => Sys2Proof.Machine.execXor gd t s
  | .not gd t => Sys2Proof.Machine.execNot gd t s
  | .shl gd t => Sys2Proof.Machine.execShl gd t s
  | .shr gd t => Sys2Proof.Machine.execShr gd t s
  | .sar gd t => Sys2Proof.Machine.execSar gd t s
  | .rotl gd t => Sys2Proof.Machine.execRotl gd t s
  | .clz gd t => Sys2Proof.Machine.execClz gd t s
  | .popc gd t => Sys2Proof.Machine.execPopc gd t s
  | .brev gd t => Sys2Proof.Machine.execBrev gd t s
  | .addc gd t => Sys2Proof.Machine.execAddc gd t s
  | .subb gd t => Sys2Proof.Machine.execSubb gd t s
  | .bfe gd t => Sys2Proof.Machine.execBfe gd t s
  | .bfi gd t => Sys2Proof.Machine.execBfi gd t s
  | .sext gd w => Sys2Proof.Machine.execSext gd w s
  | .setp gd c t p => Sys2Proof.Machine.execSetp gd c t p s
  | .sel gd w => Sys2Proof.Machine.execSel gd w s
  | .br gd off => Sys2Proof.Machine.execBr gd off s
  | .bz gd off => Sys2Proof.Machine.execBz gd off s
  | .bnz gd off => Sys2Proof.Machine.execBnz gd off s
  | .bpAny gd p off => Sys2Proof.Machine.execBpAny gd p off s
  | .bpAll gd p off => Sys2Proof.Machine.execBpAll gd p off s
  | .jmp gd off => Sys2Proof.Machine.execJmp gd off s
  | .call gd off => Sys2Proof.Machine.execCall gd off s
  | .ret gd => Sys2Proof.Machine.execRet gd s
  | .bx gd => Sys2Proof.Machine.execBx gd s
  | .exit gd => Sys2Proof.Machine.execExit gd s
  | .yield gd => Sys2Proof.Machine.execYield gd s
  | .wait gd lim => Sys2Proof.Machine.execWait gd lim s
  | .arrive gd b => Sys2Proof.Machine.execArrive gd b s
  | .bwait gd b => Sys2Proof.Machine.execBwait gd b s
  | .bsync gd b => Sys2Proof.Machine.execBsync gd b s
  | .fadd gd m => Sys2Proof.Machine.execFadd gd m s
  | .fsub gd m => Sys2Proof.Machine.execFsub gd m s
  | .fmul gd m => Sys2Proof.Machine.execFmul gd m s
  | .ffma gd m => Sys2Proof.Machine.execFfma gd m s
  | .fdiv gd m => Sys2Proof.Machine.execFdiv gd m s
  | .fsqrt gd m => Sys2Proof.Machine.execFsqrt gd m s
  | .frnd gd m => Sys2Proof.Machine.execFrnd gd m s
  | .fmin gd => Sys2Proof.Machine.execFmin gd s
  | .fmax gd => Sys2Proof.Machine.execFmax gd s
  | .fabs gd => Sys2Proof.Machine.execFabs gd s
  | .fneg gd => Sys2Proof.Machine.execFneg gd s
  | .fsgn gd => Sys2Proof.Machine.execFsgn gd s
  | .fcls gd => Sys2Proof.Machine.execFcls gd s
  | .frcp gd => Sys2Proof.Machine.execFrcp gd s
  | .frsq gd => Sys2Proof.Machine.execFrsq gd s
  | .fsetp gd c p => Sys2Proof.Machine.execFsetp gd c p s
  | .cvt gd cv => Sys2Proof.Machine.execCvt gd cv s
  | .hadd2 gd f => Sys2Proof.Machine.execHadd2 gd f s
  | .hmul2 gd f => Sys2Proof.Machine.execHmul2 gd f s
  | .hfma2 gd f => Sys2Proof.Machine.execHfma2 gd f s
  | .hmax2 gd f => Sys2Proof.Machine.execHmax2 gd f s
  | .dot4 gd f => Sys2Proof.Machine.execDot4 gd f s
  | .exp2 gd f => Sys2Proof.Machine.execExp2 gd f s
  | .log2 gd f => Sys2Proof.Machine.execLog2 gd f s
  | .sin gd f => Sys2Proof.Machine.execSin gd f s
  | .cos gd f => Sys2Proof.Machine.execCos gd f s
  | .tanh gd f => Sys2Proof.Machine.execTanh gd f s
  | .sigm gd f => Sys2Proof.Machine.execSigm gd f s
  | .erf gd f => Sys2Proof.Machine.execErf gd f s
  | .gelu gd f => Sys2Proof.Machine.execGelu gd f s
  | .lse2 gd f => Sys2Proof.Machine.execLse2 gd f s
  | .tab gd f => Sys2Proof.Machine.execTab gd f s
  | .tload gd => Sys2Proof.Machine.execTload gd s
  | .tbind gd => Sys2Proof.Machine.execTbind gd s
  | .qblk gd ty => Sys2Proof.Machine.execQblk gd ty s
  | .dqblk gd f => Sys2Proof.Machine.execDqblk gd f s
  | .pk4 gd => Sys2Proof.Machine.execPk4 gd s
  | .upk4 gd => Sys2Proof.Machine.execUpk4 gd s
  | .segw gd n => Sys2Proof.Machine.execSegw gd n s
  | .shfl gd m => Sys2Proof.Machine.execShfl gd m s
  | .vote gd m => Sys2Proof.Machine.execVote gd m s
  | .red gd op t => Sys2Proof.Machine.execRed gd op t s
  | .scan gd op t => Sys2Proof.Machine.execScan gd op t s
  | .argmax gd t => Sys2Proof.Machine.execArgmax gd t s
  | .argmin gd t => Sys2Proof.Machine.execArgmin gd t s
  | .draw gd k p => Sys2Proof.Machine.execDraw gd k p s
  | .drawm gd => Sys2Proof.Machine.execDrawm gd s
  | .coin gd => Sys2Proof.Machine.execCoin gd s
  | .dkey gd => Sys2Proof.Machine.execDkey gd s
  | .ld gd w => Sys2Proof.Machine.execLd gd w s
  | .ldq gd => Sys2Proof.Machine.execLdq gd s
  | .ldw gd w => Sys2Proof.Machine.execLdw gd w s
  | .ldF gd f w => Sys2Proof.Machine.execLdF gd f w s
  | .ldqF gd f => Sys2Proof.Machine.execLdqF gd f s
  | .ldwF gd f w => Sys2Proof.Machine.execLdwF gd f w s
  | .lds gd w => Sys2Proof.Machine.execLds gd w s
  | .sts gd w => Sys2Proof.Machine.execSts gd w s
  | .st gd w => Sys2Proof.Machine.execSt gd w s
  | .stq gd => Sys2Proof.Machine.execStq gd s
  | .stwWg gd w => Sys2Proof.Machine.execStwWg gd w s
  | .stwDev gd w => Sys2Proof.Machine.execStwDev gd w s
  | .stwSys gd w => Sys2Proof.Machine.execStwSys gd w s
  | .prf gd => Sys2Proof.Machine.execPrf gd s
  | .sdrain gd => Sys2Proof.Machine.execSdrain gd s
  | .aadd gd w at_ => Sys2Proof.Machine.execAadd gd w at_ s
  | .amin32 gd u at_ => Sys2Proof.Machine.execAmin32 gd u at_ s
  | .amin64 gd u at_ => Sys2Proof.Machine.execAmin64 gd u at_ s
  | .amax32 gd u at_ => Sys2Proof.Machine.execAmax32 gd u at_ s
  | .amax64 gd u at_ => Sys2Proof.Machine.execAmax64 gd u at_ s
  | .aand gd w at_ => Sys2Proof.Machine.execAand gd w at_ s
  | .aor gd w at_ => Sys2Proof.Machine.execAor gd w at_ s
  | .axor gd w at_ => Sys2Proof.Machine.execAxor gd w at_ s
  | .axch gd w at_ => Sys2Proof.Machine.execAxch gd w at_ s
  | .acas gd w at_ => Sys2Proof.Machine.execAcas gd w at_ s
  | .afadd gd at_ => Sys2Proof.Machine.execAfadd gd at_ s
  | .wwait gd => Sys2Proof.Machine.execWwait gd s
  | .wmax gd => Sys2Proof.Machine.execWmax gd s
  | .wnull gd => Sys2Proof.Machine.execWnull gd s
  | .wexp gd => Sys2Proof.Machine.execWexp gd s
  | .wscp gd => Sys2Proof.Machine.execWscp gd s
  | .grow gd n => Sys2Proof.Machine.execGrow gd n s
  | .shrink gd n => Sys2Proof.Machine.execShrink gd n s
  | .mfs gd r => Sys2Proof.Machine.execMfs gd r s
  | .mts gd r => Sys2Proof.Machine.execMts gd r s
  | .trap gd n => Sys2Proof.Machine.execTrap gd n s
  | .watch gd n => Sys2Proof.Machine.execWatch gd n s
  | .unwatch gd n => Sys2Proof.Machine.execUnwatch gd n s
  | .trcm gd n => Sys2Proof.Machine.execTrcm gd n s
  | .pmark gd n => Sys2Proof.Machine.execPmark gd n s
  | .sleep gd n => Sys2Proof.Machine.execSleep gd n s
  | .tret gd => Sys2Proof.Machine.execTret gd s
  | .replay gd => Sys2Proof.Machine.execReplay gd s
  | .kill gd => Sys2Proof.Machine.execKill gd s
  | .enq gd => Sys2Proof.Machine.execEnq gd s
  | .enqw gd => Sys2Proof.Machine.execEnqw gd s
  | .lsend gd => Sys2Proof.Machine.execLsend gd s
  | .mrecv gd => Sys2Proof.Machine.execMrecv gd s
  | .ringput gd => Sys2Proof.Machine.execRingput gd s
  | .pgmap gd => Sys2Proof.Machine.execPgmap gd s
  | .cflush gd => Sys2Proof.Machine.execCflush gd s
  | .cpy gd => Sys2Proof.Machine.execCpy gd s
  | .cpystat gd => Sys2Proof.Machine.execCpystat gd s
  | .mould gd => Sys2Proof.Machine.execMould gd s
  | .unveil gd => Sys2Proof.Machine.execUnveil gd s
  | .cpyscout gd n => Sys2Proof.Machine.execCpyscout gd n s
  | .mcatch gd f nm => Sys2Proof.Machine.execMcatch gd f nm s
  | .accld gd f nm => Sys2Proof.Machine.execAccld gd f nm s
  | .accst gd f nm => Sys2Proof.Machine.execAccst gd f nm s
  | .accpatch gd => Sys2Proof.Machine.execAccpatch gd s
  | .endrun safe idx pmask => Sys2Proof.Machine.execEndrun safe idx pmask s
  | .mWload fmt reg t ax o code scale => Sys2Proof.Machine.execMWload fmt reg t ax o code scale s
  | .mPass fmt reg t ax o gth code e0 nm z => Sys2Proof.Machine.execMPass fmt reg t ax o gth code e0 nm z s
  | .mDrain reg e0 nm z => Sys2Proof.Machine.execMDrain reg e0 nm z s
  | .mZero reg e0 nm => Sys2Proof.Machine.execMZero reg e0 nm s
  | .mSave reg o code e0 nm => Sys2Proof.Machine.execMSave reg o code e0 nm s
  | .mRestore reg o code e0 nm => Sys2Proof.Machine.execMRestore reg o code e0 nm s
  | .mBarArrive b => Sys2Proof.Machine.execMBarArrive b s
  | .mBarWait b => Sys2Proof.Machine.execMBarWait b s
  | .mBarSync b => Sys2Proof.Machine.execMBarSync b s
  | .mLoop c cm r stride off => Sys2Proof.Machine.execMLoop c cm r stride off s
  | .mJmp off => Sys2Proof.Machine.execMJmp off s
  | .mStop => Sys2Proof.Machine.execMStop s
  | .mFmt sel v => Sys2Proof.Machine.execMFmt sel v s
  | .mSlice w a => Sys2Proof.Machine.execMSlice w a s
  | .issueSelect core sched => Sys2Proof.Machine.execIssueSelect core sched s
  | .splitPassedOverExpiry core slot split => Sys2Proof.Machine.execSplitPassedOverExpiry core slot split s
  | .starvationPromotion core slot => Sys2Proof.Machine.execStarvationPromotion core slot s
  | .runDecode core slot split => Sys2Proof.Machine.execRunDecode core slot split s
  | .spillStart core slot => Sys2Proof.Machine.execSpillStart core slot s
  | .spillComplete core slot => Sys2Proof.Machine.execSpillComplete core slot s
  | .fillStart core slot => Sys2Proof.Machine.execFillStart core slot s
  | .fillComplete core slot => Sys2Proof.Machine.execFillComplete core slot s
  | .joinReleaseTimeout core slot split => Sys2Proof.Machine.execJoinReleaseTimeout core slot split s
  | .pendingEntryTimeout core slot idx => Sys2Proof.Machine.execPendingEntryTimeout core slot idx s
  | .operationComplete op => Sys2Proof.Machine.execOperationComplete op s
  | .yieldExpiry core slot => Sys2Proof.Machine.execYieldExpiry core slot s
  | .sleepExpiry core slot => Sys2Proof.Machine.execSleepExpiry core slot s
  | .spanPlacement launch cluster cores pbs => Sys2Proof.Machine.execSpanPlacement launch cluster cores pbs s
  | .preemptRequest unit => Sys2Proof.Machine.execPreemptRequest unit s
  | .groupSave core slot => Sys2Proof.Machine.execGroupSave core slot s
  | .saveComplete unit => Sys2Proof.Machine.execSaveComplete unit s
  | .resume unit cluster cores => Sys2Proof.Machine.execResume unit cluster cores s
  | .tableLoadComplete core bank => Sys2Proof.Machine.execTableLoadComplete core bank s
  | .storeAccept core slot idx => Sys2Proof.Machine.execStoreAccept core slot idx s
  | .homeApply line => Sys2Proof.Machine.execHomeApply line s
  | .heldLineTake core line => Sys2Proof.Machine.execHeldLineTake core line s
  | .heldLineLeaseRelease core line => Sys2Proof.Machine.execHeldLineLeaseRelease core line s
  | .fillServe line => Sys2Proof.Machine.execFillServe line s
  | .loadPerform op lane src => Sys2Proof.Machine.execLoadPerform op lane src s
  | .recordRetranslate op lane => Sys2Proof.Machine.execRecordRetranslate op lane s
  | .l1Evict core line => Sys2Proof.Machine.execL1Evict core line s
  | .kernelBoundary launch => Sys2Proof.Machine.execKernelBoundary launch s
  | .enqHeaderRead op => Sys2Proof.Machine.execEnqHeaderRead op s
  | .childLaunchEnd launch => Sys2Proof.Machine.execChildLaunchEnd launch s
  | .messageDelivery op => Sys2Proof.Machine.execMessageDelivery op s
  | .watchArmed op => Sys2Proof.Machine.execWatchArmed op s
  | .chainStart chain => Sys2Proof.Machine.execChainStart chain s
  | .elementFetch chain => Sys2Proof.Machine.execElementFetch chain s
  | .skipWordRead chain => Sys2Proof.Machine.execSkipWordRead chain s
  | .scoutTranslate chain => Sys2Proof.Machine.execScoutTranslate chain s
  | .elementComplete chain => Sys2Proof.Machine.execElementComplete chain s
  | .unveilReplace op => Sys2Proof.Machine.execUnveilReplace op s
  | .seqBlockFetch core wslot => Sys2Proof.Machine.execSeqBlockFetch core wslot s
  | .seqResume core wslot => Sys2Proof.Machine.execSeqResume core wslot s
  | .arbiterGrant cluster => Sys2Proof.Machine.execArbiterGrant cluster s
  | .arbiterAgePromotion cluster eop => Sys2Proof.Machine.execArbiterAgePromotion cluster eop s
  | .engineOpRetire cluster eop => Sys2Proof.Machine.execEngineOpRetire cluster eop s
  | .gatherComplete core wslot => Sys2Proof.Machine.execGatherComplete core wslot s
  | .drainWrite cluster eop k => Sys2Proof.Machine.execDrainWrite cluster eop k s
  | .runBoundaryDelivery core slot => Sys2Proof.Machine.execRunBoundaryDelivery core slot s
  | .fwResume gid => Sys2Proof.Machine.execFwResume gid s
  | .fwEnd gid => Sys2Proof.Machine.execFwEnd gid s
  | .fwRefer gid => Sys2Proof.Machine.execFwRefer gid s
  | .poolRefill guest base next end_ => Sys2Proof.Machine.execPoolRefill guest base next end_ s
  | .atomicEmulation gid => Sys2Proof.Machine.execAtomicEmulation gid s
  | .mcheck what => Sys2Proof.Machine.execMcheck what s
  | .correctedError cluster => Sys2Proof.Machine.execCorrectedError cluster s
  | .savedRecordReply op lane data => Sys2Proof.Machine.execSavedRecordReply op lane data s
  | .submitLaunch guest addr tag => Sys2Proof.Machine.execSubmitLaunch guest addr tag s
  | .submitPipeline guest addr tag => Sys2Proof.Machine.execSubmitPipeline guest addr tag s
  | .submitResume guest addr tag => Sys2Proof.Machine.execSubmitResume guest addr tag s
  | .submitEnd guest addr tag => Sys2Proof.Machine.execSubmitEnd guest addr tag s
  | .submitAbort guest tag => Sys2Proof.Machine.execSubmitAbort guest tag s
  | .stageGather pipe stage cluster => Sys2Proof.Machine.execStageGather pipe stage cluster s
  | .stageGatherTimeout pipe stage cluster => Sys2Proof.Machine.execStageGatherTimeout pipe stage cluster s
  | .stageBalance pipe stage cluster => Sys2Proof.Machine.execStageBalance pipe stage cluster s
  | .gangStopTimeout unit => Sys2Proof.Machine.execGangStopTimeout unit s
  | .sampleTick core => Sys2Proof.Machine.execSampleTick core s
  | .traceSyncTick guest => Sys2Proof.Machine.execTraceSyncTick guest s
  | .dbgcmdStop guest => Sys2Proof.Machine.execDbgcmdStop guest s
  | .dbgcmdResume guest => Sys2Proof.Machine.execDbgcmdResume guest s
  | .dbgcmdStepOn guest => Sys2Proof.Machine.execDbgcmdStepOn guest s
  | .dbgcmdStepOff guest => Sys2Proof.Machine.execDbgcmdStepOff guest s
  | .dbgcmdStopAll guest => Sys2Proof.Machine.execDbgcmdStopAll guest s
  | .dbgcmdResumeAll guest => Sys2Proof.Machine.execDbgcmdResumeAll guest s
  | .debugWindowWrite guest off v => Sys2Proof.Machine.execDebugWindowWrite guest off v s
  | .trctlWrite guest v => Sys2Proof.Machine.execTrctlWrite guest v s
  | .errclrWrite guest v => Sys2Proof.Machine.execErrclrWrite guest v s
  | .registerWrite off v => Sys2Proof.Machine.execRegisterWrite off v s
  | .semaAcquire n a b fw => Sys2Proof.Machine.execSemaAcquire n a b fw s
  | .semaRelease n agent => Sys2Proof.Machine.execSemaRelease n agent s
  | .setPartition agent => Sys2Proof.Machine.execSetPartition agent s
  | .assignTenant agent => Sys2Proof.Machine.execAssignTenant agent s
  | .setQuota agent => Sys2Proof.Machine.execSetQuota agent s
  | .fenceCluster agent => Sys2Proof.Machine.execFenceCluster agent s
  | .restoreCluster agent => Sys2Proof.Machine.execRestoreCluster agent s
  | .firmwareUpdate agent => Sys2Proof.Machine.execFirmwareUpdate agent s
  | .attest agent => Sys2Proof.Machine.execAttest agent s
  | .deviceReset agent => Sys2Proof.Machine.execDeviceReset agent s
  | .guestReset agent => Sys2Proof.Machine.execGuestReset agent s
  | .readHealthLog agent => Sys2Proof.Machine.execReadHealthLog agent s
  | .writeRouteTable agent => Sys2Proof.Machine.execWriteRouteTable agent s
  | .linkEnable agent => Sys2Proof.Machine.execLinkEnable agent s
  | .dirtyLogThrottleLift guest => Sys2Proof.Machine.execDirtyLogThrottleLift guest s
  | .flitReceive port flit => Sys2Proof.Machine.execFlitReceive port flit s
  | .portDown port => Sys2Proof.Machine.execPortDown port s
  | .portTrained port => Sys2Proof.Machine.execPortTrained port s
  | .timeExchange port t0 t1 t2 t3 dist => Sys2Proof.Machine.execTimeExchange port t0 t1 t2 t3 dist s
  | .powerOnReset => Sys2Proof.Machine.execPowerOnReset s
  | .laneTestFail core sched lane => Sys2Proof.Machine.execLaneTestFail core sched lane s
  | .dramSpare bank last => Sys2Proof.Machine.execDramSpare bank last s
  | .patinaCheck cluster low => Sys2Proof.Machine.execPatinaCheck cluster low s
  | .notify guest => Sys2Proof.Machine.execNotify guest s
  | .cqheadAdvance guest v => Sys2Proof.Machine.execCqheadAdvance guest v s
  | .issueSlotWithholding core sched on => Sys2Proof.Machine.execIssueSlotWithholding core sched on s
  | .uciePortTrained agent => Sys2Proof.Machine.execUciePortTrained agent s
  | .uciePortDown agent => Sys2Proof.Machine.execUciePortDown agent s

end Sys2Proof.Machine
end

