-- ==== Sys2Proof/Machine/Fetch.lean ====
section
/-! DEFINITION. What the next step performs: the agenda, the next instruction of a run, the next word of a sequencer; and
placing an instruction or a word for it (R77, R126, R140, R323, R343, R401; logs 1 and 8). -/

namespace Sys2Proof.Machine

/-- The group in focus stands stopped inside its run (R401). -/
def Cur.stopped (c : Cur) : Bool := match c.g.dbg with | .stopped _ => true | _ => false

/-- The next instruction of the run in focus, begun; one at which the run holds has begun, and its latency counts on from now
(log 31). Without a run, or with its group stopped for the debugger, one cc passes; halfwords that decode to nothing end the
group (R126, R127). -/
def State.fetchRun (s : State) : State × Option Instr :=
  match s.cur with
  | none => (s.pass 1, none)
  | some c =>
    if c.stopped then (s.pass 1, none) else
    match decode c.r.code with
    | .error _ => (s.preciseFault c cIllegal c.r.mask [], none)
    | .ok (i, rest) =>
      if c.r.holding then (s.putRun c { c.r with start := max c.r.start s.cc }, some i)
      else (s.latch c i (c.r.code.length - rest.length), some i)

/-- The next word of a sequencer, once it is available; a word that decodes to nothing stops it (R138, R343). -/
def State.fetchSeq (s : State) (core wslot : Nat) : State × Option Instr :=
  match s.seqOf core wslot with
  | none => (s.pass 1, none)
  | some c =>
    if c.q.busy || s.seqHalted core wslot then (s.pass 1, none) else
    match c.q.wordAt with
    | none => (s.pass 1, none)
    | some (w, t) => match decodeSeq w with
      | none => (((s.passTo t).stopSeq core wslot (some cSeqIllegal)).refresh, none)
      | some i => (s.passTo t, some i)

/-- An instruction of another agent: neither a run instruction nor a sequencer word. -/
def isEvent (i : Instr) : Bool := (encode i).isEmpty && (encodeSeq i).isNone

/-- LOCK of a watch unit set or cleared by the debugger or host software, for which the spec names no register (R272; log
72). -/
def State.lockWatch (s : State) (guest n : Nat) (on : Bool) : State :=
  s.modCtx guest (fun x => { x with watch := x.watch.modify n (fun w => { w with lock := on }) })

/-- `n` cc pass between two movers, with the clock's corrections that come due in them: one step for each 64 cc since the last
(R250, R422). -/
def State.lapse (s : State) (n : Nat) : State :=
  let k := min s.dev.timeDue.natAbs (min (s.cc + n - s.dev.lastFix) (n + 63) / 64)
  if n = 0 ∨ k = 0 then s.pass n else
  let d := BitVec.ofNat 48 k
  let s := s.pass n
  { s with dtime := if 0 < s.dev.timeDue then s.dtime + d else s.dtime - d
           dev := { s.dev with lastFix := s.cc, timeDue := if 0 < s.dev.timeDue then s.dev.timeDue - k else s.dev.timeDue + k } }

/-- The head of the agenda moves; with none, the run in focus goes on (log 1). -/
def State.fetch (s : State) : State × Option Instr :=
  match s.agenda with
  | [] => s.fetchRun
  | m :: rest =>
    let s := ({ s with agenda := rest }).lapse m.lapse
    match m.actor with
    | .group core slot => ({ s with focus := some (core, slot), seqFocus := none }).fetchRun
    | .seq core wslot => ({ s with focus := none, seqFocus := some (core, wslot) }).fetchSeq core wslot
    | .event i => (s, if isEvent i then some i else none)
    | .tlbFill guest va => (s.tlbFill guest va, none)
    | .tlbDrop guest va => (s.tlbDrop guest va, none)
    | .l2Drop line => (s.l2Drop line, none)
    | .codeDrop core va => (s.codeDrop core (BitVec.ofNat 64 va), none)
    | .watchLock guest n on => (s.lockWatch guest n on, none)
    | .fwTables guest ws => ((s.fwTables guest ws).refresh, none)

/-- The workgroup whose sequencer runs a placed word: 384 KiB of scratchpad, no group, the word at PC 0. -/
def placedWG (w : DWord) (now : Nat) : WGroup where
  wid := 0
  w2 := 0
  launch := 0
  guest := 0
  span := [0]
  sbase := 0
  sgran := 384
  bars := []
  bmask := []
  cpbar := 0
  sqbar := 0
  prod := 0
  groups := []
  felem := 0
  fcause := 0
  fail := false
  detach := false
  scout := 4
  alias_ := none
  token := 0
  freed := false
  seq := some { Seq.start 0 with block := some (0, w :: List.replicate 7 0, now) }

/-- A sequencer word placed as the next the machine executes. -/
def State.placeSeq (s : State) (w : DWord) : State :=
  { s with agenda := [⟨0, .seq 0 0⟩], wgroups := mset s.wgroups (wkey 0 0) (placedWG w s.cc) }

/-- An instruction of the table placed so that the next step fetches and runs it. -/
def State.place (s : State) (nbits w : Nat) : State :=
  if nbits = 64 then s.placeSeq (BitVec.ofNat 64 w)
  else s.placeRun [BitVec.ofNat 16 w, BitVec.ofNat 16 (w / 65536), BitVec.ofNat 16 (w / 4294967296)]

end Sys2Proof.Machine
end

