-- ==== Sys2Proof/Machine/Step.lean ====
section
/-! DEFINITION. One step of the machine (log 1), and placing an instruction for the next step (log 8). -/

namespace Sys2Proof.Machine

/-- One step: what comes next is fetched and, where it is an instruction or an event, executed. -/
def step (s : State) : Host.Outcome State Fault Refusal :=
  match s.fetch.2 with
  | some i => exec i s.fetch.1
  | none => .next s.fetch.1

/-- The state with an instruction placed so that the very next step fetches and runs it. -/
def State.withFetchWord (s : State) (nbits w : Nat) : State := s.place nbits w

end Sys2Proof.Machine
end

