-- ==== Sys2Proof/Certificates/Slice0/Obligations.lean ====
section
/-! DEFINITION. Statements for the provers, and the vocabulary they are said in. -/

namespace Sys2Proof.Claims

open Sys2Proof.Machine

/-! ## How the effect of one instruction of a run is said -/

/-- The state after an instruction of the run `c` that leaves the run `r'`: nothing but the group in focus differs from
`s` (`Obligations.ExecutionFrame`). -/
def done (s : State) (c : Cur) (r' : Run) : State := (s.putRun c r').stepStop c

/-- What lane `l` holds in the top `a` entries of a run, deepest first. -/
def args (r : Run) (a l : Nat) : List Word := ((r.stk.take a).map (fun (e : Entry) => laneAt e.v l)).reverse

/-- The run has moved past its instruction, and nothing else of it is different but the listed parts: the working stack,
the flags and the ready time of R140. -/
def Moved (r r' : Run) : Prop :=
  r' = { r with stk := r'.stk, aflags := r'.aflags, ready := r'.ready,
                code := r.code.drop r.ilen, pc := r.pc + BitVec.ofNat 64 (2 * r.ilen) }

/-- The `a` top entries are replaced by `b` new ones, none of them pending: in lane `l` they are `f l` of the popped
ones where the lane is guarded on; elsewhere result j is popped entry j, or 0 where fewer were popped (R90). -/
structure Replaces (r r' : Run) (on : Mask) (a b : Nat) (f : Nat → List Word → List Word) : Prop where
  below : r'.stk.drop b = r.stk.drop a
  size : r'.stk.length = b + (r.stk.length - a)
  settled : ∀ e ∈ r'.stk.take b, e.pend = none
  lane : ∀ l < 32, args r' b l =
    if laneOn on l then f l (args r a l) else (List.range b).map (fun j => (args r a l).getD j 0)

/-- The instruction `i` completes as a lane-wise one: it pops `a`, pushes `b` by `f`, raises the flags `fl`, and nothing
else of the run or of the machine changes. -/
def LaneWise (i : Instr) (s : State) (c : Cur) (on : Mask) (a b : Nat) (f : Nat → List Word → List Word)
    (fl : BitVec 6) : Prop :=
  ∃ r', exec i s = .next (done s c r') ∧ Moved c.r r' ∧ Replaces c.r r' on a b f ∧ r'.aflags = c.r.aflags ||| fl

/-- The flags that `p` raises in some guarded-on lane. -/
def anyLane (on : Mask) (p : Nat → BitVec 6) : BitVec 6 :=
  (List.range 32).foldl (fun x l => if laneOn on l then x ||| p l else x) 0

/-- A row of a table of lane-wise instructions without flags: instruction, pops, pushes, effect on one lane's entries. -/
abbrev Row := Instr × Nat × Nat × (List Word → List Word)

/-- Every row of a table completes as it says, wherever its operands stand on the working stack. -/
def Rows (rows : Guard → List Row) : Prop :=
  ∀ (s : State) (c : Cur) (gd : Guard), s.cur = some c → ∀ x ∈ rows gd, x.2.1 ≤ c.r.stk.length →
    LaneWise x.1 s c (c.on gd) x.2.1 x.2.2.1 (fun _ => x.2.2.2) 0

/-! ## Integers as the spec reads them (R97, R150) -/

/-- Entries of a value of a type. -/
def wordsOf : IntTy → Nat
  | .i32 | .z32 => 1
  | .i64 | .z64 => 2

/-- n: bits of a type. -/
def bitsOf (t : IntTy) : Nat := 32 * wordsOf t

/-- An i type. -/
def isI : IntTy → Bool
  | .i32 | .i64 => true
  | .z32 | .z64 => false

/-- The unsigned number held in entries, low word first. -/
def natOf : List Word → Nat
  | [] => 0
  | w :: ws => w.toNat + 2 ^ 32 * natOf ws

/-- Operand `k` of one-type operands, unsigned. -/
def uns (t : IntTy) (ws : List Word) (k : Nat) : Nat := natOf ((ws.drop (k * wordsOf t)).take (wordsOf t))

/-- The same read in the type: signed for i types. -/
def val (t : IntTy) (ws : List Word) (k : Nat) : Int :=
  if isI t && decide (2 ^ (bitsOf t - 1) ≤ uns t ws k) then (uns t ws k : Int) - 2 ^ bitsOf t else uns t ws k

/-- An integer pushed modulo 2^n, low word first (R97, R151). -/
def res (t : IntTy) (v : Int) : List Word :=
  (List.range (wordsOf t)).map (fun k => BitVec.ofInt 32 (v / 2 ^ (32 * k)))

end Sys2Proof.Claims

/-! ## Encoding -/

/-- Words written out from the encodings of R119 to R137 and R324 decode to the instructions they stand for. -/
def Obligations.DecodeWords : Prop :=
  let g := Sys2Proof.Guard.none
  Sys2Proof.decodeTableWord 16 0b0000000001000000 = some (.add g .i32) ∧
  Sys2Proof.decodeTableWord 16 0b1101110001011010 = some (.rem ⟨true, true, 7⟩ .i64) ∧
  Sys2Proof.decodeTableWord 32 0b11111111111111110000000110000000 = some (.ldi g 0xFFFF) ∧
  Sys2Proof.decodeTableWord 48 0b100000000000000000000000000000010000001100000000 = some (.ldiLit g 0x80000001) ∧
  Sys2Proof.decodeTableWord 64 (0b001000 * 2 ^ 58) = some .mStop

/-- Decode and encode agree: what `decode` reads from the halfwords of a well-formed instruction of a run, or of a trailer,
is that instruction, with every operand at every value, and nothing of what follows; what `decodeSeq` reads from the word
of a well-formed sequencer instruction is that instruction (R119 to R137, R324). -/
def Sys2Proof.Claims.EncodingRoundTrip : Prop :=
  (∀ (i : Sys2Proof.Instr) (rest : List Sys2Proof.Half), i.wf = true → Sys2Proof.encode i ≠ [] →
    Sys2Proof.decode (Sys2Proof.encode i ++ rest) = .ok (i, rest)) ∧
  (∀ (i : Sys2Proof.Instr) (w : BitVec 64), i.wf = true → Sys2Proof.encodeSeq i = some w → Sys2Proof.decodeSeq w = some i)

/-- Halfwords that decode, and a sequencer word that decodes, are the encoding of a well-formed instruction, so no two
encodings read as one instruction and no ill-formed instruction is ever read (R119, R121, R122, R125, R324). -/
def Sys2Proof.Claims.DecodeFaithful : Prop :=
  (∀ (hs rest : List Sys2Proof.Half) (i : Sys2Proof.Instr), Sys2Proof.decode hs = .ok (i, rest) →
    i.wf = true ∧ hs = Sys2Proof.encode i ++ rest) ∧
  (∀ (w : BitVec 64) (i : Sys2Proof.Instr), Sys2Proof.decodeSeq w = some i → i.wf = true ∧ Sys2Proof.encodeSeq i = some w)

/-- Decode and encode agree, in both directions: what `decode` or `decodeSeq` reads from the encoding of a well-formed
instruction is that instruction, with every operand; and what decodes is the encoding of a well-formed instruction (R119 to
R137, R324). -/
def Obligations.EncodingRoundTrip : Prop :=
  Sys2Proof.Claims.EncodingRoundTrip ∧ Sys2Proof.Claims.DecodeFaithful
/-! ## Steps -/

/-- A step with nothing on the agenda executes the instruction that the halfwords at the run's PC decode to, begun at its
start time, or, where the run holds at it, from now (log 31); so does a step whose agenda names the group, and a step whose
agenda names a sequencer executes the word at its PC once it is available; a step whose agenda names another agent performs
that agent's event (log 1). The cc that the agenda lets pass before are counted in `cc`, and in DTIME, which one step of
correction in 64 cc at most makes one more or one less (R250). -/
def Obligations.StepRunsDecoded : Prop :=
  let begun (s : Sys2Proof.Machine.State) (c : Sys2Proof.Machine.Cur) (i : Sys2Proof.Instr) (n : Nat) : Sys2Proof.Machine.State :=
    if c.r.holding then s.putRun c { c.r with start := max c.r.start s.cc } else s.latch c i n
  (∀ (s : Sys2Proof.Machine.State) (c : Sys2Proof.Machine.Cur) (i : Sys2Proof.Instr) (rest : List Sys2Proof.Half),
    s.agenda = [] → s.cur = some c → c.stopped = false → Sys2Proof.decode c.r.code = .ok (i, rest) →
      Sys2Proof.Machine.step s = Sys2Proof.Machine.exec i (begun s c i (c.r.code.length - rest.length))) ∧
  (∀ (s s1 : Sys2Proof.Machine.State) (c : Sys2Proof.Machine.Cur) (i : Sys2Proof.Instr) (rest : List Sys2Proof.Half)
      (n core slot : Nat) (more : List Sys2Proof.Machine.Move),
    s.agenda = ⟨n, .group core slot⟩ :: more →
    s1 = { ({ s with agenda := more }.lapse n) with focus := some (core, slot), seqFocus := none } →
    s1.cur = some c → c.stopped = false → Sys2Proof.decode c.r.code = .ok (i, rest) →
      Sys2Proof.Machine.step s = Sys2Proof.Machine.exec i (begun s1 c i (c.r.code.length - rest.length))) ∧
  (∀ (s s1 : Sys2Proof.Machine.State) (c : Sys2Proof.Machine.SeqCur) (i : Sys2Proof.Instr) (w : Sys2Proof.DWord)
      (n t core wslot : Nat) (more : List Sys2Proof.Machine.Move),
    s.agenda = ⟨n, .seq core wslot⟩ :: more →
    s1 = { ({ s with agenda := more }.lapse n) with focus := none, seqFocus := some (core, wslot) } →
    s1.seqOf core wslot = some c → c.q.busy = false → s1.seqHalted core wslot = false → c.q.wordAt = some (w, t) →
    Sys2Proof.decodeSeq w = some i →
      Sys2Proof.Machine.step s = Sys2Proof.Machine.exec i (s1.passTo t)) ∧
  (∀ (s : Sys2Proof.Machine.State) (i : Sys2Proof.Instr) (n : Nat) (more : List Sys2Proof.Machine.Move),
    s.agenda = ⟨n, .event i⟩ :: more → Sys2Proof.Machine.isEvent i = true →
      Sys2Proof.Machine.step s = Sys2Proof.Machine.exec i ({ s with agenda := more }.lapse n)) ∧
  (∀ (s : Sys2Proof.Machine.State) (n : Nat), (s.lapse n).cc = s.cc + n ∧
    (s.dev.timeDue = 0 → (s.lapse n).dtime = s.dtime + BitVec.ofNat 48 n) ∧
    ∃ k, k ≤ (n + 63) / 64 ∧ k ≤ n ∧ k ≤ s.dev.timeDue.natAbs ∧
      (s.lapse n).dtime = (if 0 < s.dev.timeDue then s.dtime + BitVec.ofNat 48 (n + k) else s.dtime + BitVec.ofNat 48 (n - k)) ∧
      (0 < k → (s.lapse n).dev.lastFix = s.cc + n ∧ (s.lapse n).dev.timeDue.natAbs = s.dev.timeDue.natAbs - k))

/-- The TLB. An entry of a context's current generation gives its page's translation whatever stands in the tables, as long as
the context's partition holds a local page (R416); where none covers an address, and after the entries of a page have been dropped, the tables are walked; entries of other
generations are not used. An agenda move fills it from a walk, after which the translation stands whatever is written, until
the generation advances, which leaves no entry that is used (R245; log 24). -/
def Obligations.TranslationCache : Prop :=
  ∀ (s : Sys2Proof.Machine.State) (guest va : Nat),
    (∀ x, s.tlb.find? (fun x => x.covers guest va (s.ctx guest).asgen) = some x → ∀ m,
      let out := Sys2Proof.Machine.nbits x.entry 5 4 = 0 ∧ s.inPartition guest (Sys2Proof.Machine.nbits x.entry 50 16 * 2 ^ 16) = false
      (¬out → ({ s with mem := m } : Sys2Proof.Machine.State).lookup guest va = .leaf x.entry x.level) ∧
      (out → ({ s with mem := m } : Sys2Proof.Machine.State).lookup guest va = .bad)) ∧
    ((∀ x ∈ s.tlb, x.covers guest va (s.ctx guest).asgen = false) → s.lookup guest va = s.walk guest va) ∧
    ((∀ x ∈ s.tlb, x.guest = guest → x.gen ≠ (s.ctx guest).asgen) → s.lookup guest va = s.walk guest va) ∧
    (s.tlbDrop guest va).lookup guest va = s.walk guest va ∧
    (∀ e level, s.lookup guest va = .leaf e level → ∀ m,
      ({ s.tlbFill guest va with mem := m } : Sys2Proof.Machine.State).lookup guest va = .leaf e level) ∧
    (∀ (c : Sys2Proof.Machine.Cur) (k : Nat), c.g.guest = guest →
      let t := s.perform c k .asgen
      (t.ctx guest).asgen = (s.ctx guest).asgen + 1 ∧ t.lookup guest va = t.walk guest va) ∧
    (∀ (n : Nat) (more : List Sys2Proof.Machine.Move),
      (s.agenda = ⟨n, .tlbFill guest va⟩ :: more →
        Sys2Proof.Machine.step s = .next (({ s with agenda := more }.lapse n).tlbFill guest va)) ∧
      (s.agenda = ⟨n, .tlbDrop guest va⟩ :: more →
        Sys2Proof.Machine.step s = .next (({ s with agenda := more }.lapse n).tlbDrop guest va)))

/-- The frame of everything that runs in a run. Beginning an instruction moves the clock and marks the run, of which only
its length, its start time and what R140 keeps for the next one change. An instruction that completes leaves memory, every
device and every other group as they were: `done` differs from the state before only in the group in focus, and in that
group only in its run and, in step mode, in that it now stands stopped with cause STEP, a stop that was asked for still due
(R77, R401, R402). -/
def Obligations.ExecutionFrame : Prop :=
  (∀ (s : Sys2Proof.Machine.State) (c : Sys2Proof.Machine.Cur) (i : Sys2Proof.Instr) (n : Nat), s.cur = some c →
    ∃ c', (s.latch c i n).cur = some c' ∧ c'.core = c.core ∧ c'.slot = c.slot ∧
      c'.g = { c.g with run := some c'.r } ∧
      c'.r = { c.r with ilen := n, start := c'.r.start, co := c'.r.co, first := false, wrote := c'.r.wrote,
                        lastOp := c'.r.lastOp, holding := false } ∧
      s.latch c i n = { s with groups := (s.latch c i n).groups, cc := (s.latch c i n).cc, dtime := (s.latch c i n).dtime } ∧
      s.cc ≤ (s.latch c i n).cc ∧ c'.r.start ≤ (s.latch c i n).cc ∧
      ∀ k, k ≠ Sys2Proof.Machine.gkey c.core c.slot →
        Sys2Proof.Machine.mfind (s.latch c i n).groups k = Sys2Proof.Machine.mfind s.groups k) ∧
  (∀ (s : Sys2Proof.Machine.State) (c : Sys2Proof.Machine.Cur) (r : Sys2Proof.Machine.Run), s.cur = some c →
    let t := Sys2Proof.Claims.done s c r
    t = { s with groups := t.groups } ∧
    Sys2Proof.Machine.mfind t.groups (Sys2Proof.Machine.gkey c.core c.slot) =
      some { c.g with run := some r,
                      dbg := if c.g.step then .stopped Sys2Proof.Machine.cStep else c.g.dbg,
                      stopAsk := c.g.stopAsk || (c.g.step && decide (c.g.dbg = .requested)) } ∧
    ∀ k, k ≠ Sys2Proof.Machine.gkey c.core c.slot →
      Sys2Proof.Machine.mfind t.groups k = Sys2Proof.Machine.mfind s.groups k)

/-- A lane is guarded on where it is active and E = 0, or predicate pG of the lane, as the run sees it, XOR S is 1 (R89). -/
def Obligations.GuardRule : Prop :=
  ∀ (c : Sys2Proof.Machine.Cur) (gd : Sys2Proof.Guard) (l : Nat), l < 32 →
    Sys2Proof.Machine.laneOn (c.on gd) l =
      (Sys2Proof.Machine.laneOn c.r.mask l && (!gd.e || (Sys2Proof.Machine.laneOn (c.pred gd.p.toNat) l ^^ gd.s)))

namespace Sys2Proof.Claims

open Sys2Proof.Machine

/-- The table of R143, and `nop`: each picture as it stands there. -/
def stackRows (gd : Guard) : List Row :=
  [(.nop gd, 0, 0, fun _ => []),
   (.dup gd, 1, 2, fun ws => match ws with | [x] => [x, x] | _ => []),
   (.drop gd, 1, 0, fun _ => []),
   (.swap gd, 2, 2, fun ws => match ws with | [x, y] => [y, x] | _ => []),
   (.over gd, 2, 3, fun ws => match ws with | [x, y] => [x, y, x] | _ => []),
   (.rot gd, 3, 3, fun ws => match ws with | [x, y, z] => [y, z, x] | _ => []),
   (.nip gd, 2, 1, fun ws => match ws with | [_, y] => [y] | _ => []),
   (.tuck gd, 2, 3, fun ws => match ws with | [x, y] => [y, x, y] | _ => []),
   (.dup2 gd, 2, 4, fun ws => match ws with | [x, y] => [x, y, x, y] | _ => []),
   (.drop2 gd, 2, 0, fun _ => []),
   (.swap2 gd, 4, 4, fun ws => match ws with | [w, x, y, z] => [y, z, w, x] | _ => [])]

end Sys2Proof.Claims

/-- `nop` and the stack instructions leave the entries that the pictures of R142 and R143 show, in every lane. -/
def Sys2Proof.Claims.StackPictures : Prop := Sys2Proof.Claims.Rows Sys2Proof.Claims.stackRows

/-- `pick n` copies the entry n below the top, `roll n` moves it to the top, for every n (R143, R144); `pick 0` has the
effect of `dup`, `roll 1` of `swap`, `roll 2` of `rot`; `depth` pushes the split's depth as it stands, in every lane, and
in the handler split the depth counted from the handler's entry. -/
def Sys2Proof.Claims.PickRollDepth : Prop :=
  ∀ (s : Sys2Proof.Machine.State) (c : Sys2Proof.Machine.Cur) (gd : Sys2Proof.Guard), s.cur = some c →
    (∀ n : BitVec 3, n.toNat + 1 ≤ c.r.stk.length →
      Sys2Proof.Claims.LaneWise (.pick gd n) s c (c.on gd) (n.toNat + 1) (n.toNat + 2)
        (fun _ ws => ws ++ ws.take 1) 0 ∧
      Sys2Proof.Claims.LaneWise (.roll gd n) s c (c.on gd) (n.toNat + 1) (n.toNat + 1)
        (fun _ ws => ws.drop 1 ++ ws.take 1) 0) ∧
    Sys2Proof.Machine.exec (.pick gd 0) s = Sys2Proof.Machine.exec (.dup gd) s ∧
    Sys2Proof.Machine.exec (.roll gd 1) s = Sys2Proof.Machine.exec (.swap gd) s ∧
    Sys2Proof.Machine.exec (.roll gd 2) s = Sys2Proof.Machine.exec (.rot gd) s ∧
    (c.g.parked = none → c.r.image.dmin ≤ c.r.depth0 →
      Sys2Proof.Claims.LaneWise (.depth gd) s c (c.on gd) 0 1
        (fun _ _ => [BitVec.ofNat 32 (c.r.depth0 - c.r.image.dmin + c.r.stk.length)]) 0) ∧
    (∀ k, c.g.parked = some k → k.base + c.r.image.dmin ≤ c.r.depth0 →
      Sys2Proof.Claims.LaneWise (.depth gd) s c (c.on gd) 0 1
        (fun _ _ => [BitVec.ofNat 32 (c.r.depth0 - k.base - c.r.image.dmin + c.r.stk.length)]) 0)

/-- Pushes of constants, uniform registers, run temporaries, predicates and lane identities (R145, R147, R148): `ldi` in
both forms, `ldk`, `ldk2`, `ldu` (an index of 64 or more pushes 0 and raises INV), `ldx`, `ldp`, `wid`, `lane`, `segi`; and `lea`, which pushes
base + idx * S modulo 2^64, idx sign-extended, for each of the element sizes 1, 2, 4 and 8 (R149). -/
def Obligations.LoadsOfRegisters : Prop :=
  ∀ (s : Sys2Proof.Machine.State) (c : Sys2Proof.Machine.Cur) (gd : Sys2Proof.Guard), s.cur = some c →
    (∀ imm, Sys2Proof.Claims.LaneWise (.ldi gd imm) s c (c.on gd) 0 1 (fun _ _ => [BitVec.ofInt 32 imm.toInt]) 0) ∧
    (∀ lit, Sys2Proof.Claims.LaneWise (.ldiLit gd lit) s c (c.on gd) 0 1 (fun _ _ => [lit]) 0) ∧
    (∀ k, Sys2Proof.Claims.LaneWise (.ldk gd k) s c (c.on gd) 0 1 (fun _ _ => [c.uniform k.toNat]) 0) ∧
    (∀ k, Sys2Proof.Claims.LaneWise (.ldk2 gd k) s c (c.on gd) 0 2
      (fun _ _ => [c.uniform k.toNat, c.uniform (k.toNat + 1)]) 0) ∧
    (1 ≤ c.r.stk.length → Sys2Proof.Claims.LaneWise (.ldu gd) s c (c.on gd) 1 1
      (fun _ ws => [if (ws.getD 0 0).toNat < 64 then c.uniform (ws.getD 0 0).toNat else 0])
      (Sys2Proof.Claims.anyLane (c.on gd)
        (fun l => if 64 ≤ ((Sys2Proof.Claims.args c.r 1 l).getD 0 0).toNat then 1 else 0))) ∧
    (∀ x, Sys2Proof.Claims.LaneWise (.ldx gd x) s c (c.on gd) 0 1
      (fun l _ => [Sys2Proof.Machine.laneAt (Sys2Proof.Machine.mget c.r.tmp x.toNat []) l]) 0) ∧
    (∀ p, Sys2Proof.Claims.LaneWise (.ldp gd p) s c (c.on gd) 0 1
      (fun l _ => [if (c.pred p.toNat).getLsbD l then 1 else 0]) 0) ∧
    Sys2Proof.Claims.LaneWise (.wid gd) s c (c.on gd) 0 2
      (fun l _ => [BitVec.ofNat 32 (c.g.wid.toNat + l), BitVec.ofNat 32 ((c.g.wid.toNat + l) / 2 ^ 32)]) 0 ∧
    Sys2Proof.Claims.LaneWise (.lane gd) s c (c.on gd) 0 1 (fun l _ => [BitVec.ofNat 32 l]) 0 ∧
    Sys2Proof.Claims.LaneWise (.segi gd) s c (c.on gd) 0 1
      (fun l _ => [BitVec.ofNat 32 (l % (32 / 2 ^ c.r.segw.toNat))]) 0 ∧
    (3 ≤ c.r.stk.length → ∀ x ∈ [(Sys2Proof.ESize.b8, 1), (.b16, 2), (.b32, 4), (.b64, 8)],
      Sys2Proof.Claims.LaneWise (.lea gd x.1) s c (c.on gd) 3 2
        (fun _ ws => Sys2Proof.Claims.res .i64
          (Sys2Proof.Claims.uns .z64 ws 0 + (ws.getD 2 0).toInt * (x.2 : Int))) 0)

/-- `ldf` and `ldf2` push frame registers that lie below 8g and are not pending; `stf`, `stf2` and `teef` write them in
the guarded-on lanes, where a later instruction of the run reads them; a register at or beyond 8g faults FRAME_RANGE in
every active lane, and a pending one rolls the run back to its header (R73, R80, R145, R146). -/
def Sys2Proof.Claims.FrameRegisters : Prop :=
  ∀ (s : Sys2Proof.Machine.State) (c : Sys2Proof.Machine.Cur) (gd : Sys2Proof.Guard) (f : BitVec 8), s.cur = some c →
    let idle (n : Nat) : Prop := f.toNat + n ≤ 8 * c.g.fgran ∧
      ∀ p ∈ c.g.pendFrm, ¬(f.toNat ≤ p.reg ∧ p.reg < f.toNat + n)
    let wrote (i : Sys2Proof.Instr) (a b n : Nat) : Prop := ∃ r',
      Sys2Proof.Machine.exec i s = .next (Sys2Proof.Claims.done s c r') ∧
      Sys2Proof.Claims.Moved c.r { r' with frm := c.r.frm } ∧ r'.aflags = c.r.aflags ∧
      r'.stk = c.r.stk.drop (a - b) ∧
      (∀ k l, l < 32 → Sys2Proof.Machine.laneAt ((Sys2Proof.Machine.Cur.mk c.core c.slot c.g r').frame k) l =
        if Sys2Proof.Machine.laneOn (c.on gd) l && decide (f.toNat ≤ k) && decide (k < f.toNat + n)
        then (Sys2Proof.Claims.args c.r a l).getD (k - f.toNat) 0 else Sys2Proof.Machine.laneAt (c.frame k) l)
    (idle 1 → Sys2Proof.Claims.LaneWise (.ldf gd f) s c (c.on gd) 0 1
      (fun l _ => [Sys2Proof.Machine.laneAt (c.frame f.toNat) l]) 0) ∧
    (idle 2 → Sys2Proof.Claims.LaneWise (.ldf2 gd f) s c (c.on gd) 0 2
      (fun l _ => [Sys2Proof.Machine.laneAt (c.frame f.toNat) l, Sys2Proof.Machine.laneAt (c.frame (f.toNat + 1)) l]) 0) ∧
    (idle 1 → 1 ≤ c.r.stk.length → wrote (.stf gd f) 1 0 1 ∧ wrote (.teef gd f) 1 1 1) ∧
    (idle 2 → 2 ≤ c.r.stk.length → wrote (.stf2 gd f) 2 0 2) ∧
    (8 * c.g.fgran < f.toNat + 1 → ∀ i ∈ [Sys2Proof.Instr.ldf gd f, .stf gd f, .ldf2 gd f, .stf2 gd f, .teef gd f],
      Sys2Proof.Machine.exec i s =
        .next (s.preciseFault c Sys2Proof.Machine.cFrameRange c.r.mask []).refresh) ∧
    (f.toNat + 1 ≤ 8 * c.g.fgran → (∃ p ∈ c.g.pendFrm, p.reg = f.toNat) →
      ∀ i ∈ [Sys2Proof.Instr.ldf gd f, .stf gd f, .teef gd f],
        Sys2Proof.Machine.exec i s = .next (s.rollback c.core c.slot c.r.split (.frame f.toNat 1)).refresh)

/-- `stu` writes a uniform register from the lowest guarded-on lane and nothing with none on; `stx` and `stp` write a run
temporary and a predicate in the guarded-on lanes; each pops its one entry (R90, R145, R146). -/
def Sys2Proof.Claims.RegisterWrites : Prop :=
  ∀ (s : Sys2Proof.Machine.State) (c : Sys2Proof.Machine.Cur) (gd : Sys2Proof.Guard), s.cur = some c →
    1 ≤ c.r.stk.length →
    (∀ k : BitVec 6, ∃ r', Sys2Proof.Machine.exec (.stu gd k) s = .next (Sys2Proof.Claims.done s c r') ∧
      Sys2Proof.Claims.Moved c.r { r' with uni := c.r.uni } ∧ r'.aflags = c.r.aflags ∧ r'.stk = c.r.stk.drop 1 ∧
      ∀ n, (Sys2Proof.Machine.Cur.mk c.core c.slot c.g r').uniform n =
        match Sys2Proof.Machine.lowLane (c.on gd) with
        | some l => if n = k.toNat then (Sys2Proof.Claims.args c.r 1 l).getD 0 0 else c.uniform n
        | none => c.uniform n) ∧
    (∀ x : BitVec 2, ∃ r', Sys2Proof.Machine.exec (.stx gd x) s = .next (Sys2Proof.Claims.done s c r') ∧
      Sys2Proof.Claims.Moved c.r { r' with tmp := c.r.tmp } ∧ r'.aflags = c.r.aflags ∧ r'.stk = c.r.stk.drop 1 ∧
      ∀ n l, l < 32 → Sys2Proof.Machine.laneAt (Sys2Proof.Machine.mget r'.tmp n []) l =
        if n = x.toNat ∧ Sys2Proof.Machine.laneOn (c.on gd) l then (Sys2Proof.Claims.args c.r 1 l).getD 0 0
        else Sys2Proof.Machine.laneAt (Sys2Proof.Machine.mget c.r.tmp n []) l) ∧
    (∀ p : BitVec 4, ∃ r', Sys2Proof.Machine.exec (.stp gd p) s = .next (Sys2Proof.Claims.done s c r') ∧
      Sys2Proof.Claims.Moved c.r { r' with prd := c.r.prd } ∧ r'.aflags = c.r.aflags ∧ r'.stk = c.r.stk.drop 1 ∧
      ∀ n l, l < 32 → ((Sys2Proof.Machine.Cur.mk c.core c.slot c.g r').pred n).getLsbD l =
        if n = p.toNat ∧ Sys2Proof.Machine.laneOn (c.on gd) l then (Sys2Proof.Claims.args c.r 1 l).getD 0 0 != 0
        else (c.pred n).getLsbD l)

/-- `nop` and the stack instructions: the pictures of R142 and R143, `pick` and `roll` at every depth, `depth` (R144). -/
def Obligations.StackInstructions : Prop :=
  Sys2Proof.Claims.StackPictures ∧ Sys2Proof.Claims.PickRollDepth

/-- Reads and writes of frame registers, and writes of uniform registers, temporaries and predicates (R73, R80, R145 to R148). -/
def Obligations.RegistersOfARun : Prop :=
  Sys2Proof.Claims.FrameRegisters ∧ Sys2Proof.Claims.RegisterWrites
namespace Sys2Proof.Claims

open Sys2Proof.Machine

/-- The operations of R151 without a flag, on exact integers, pushed modulo 2^n. -/
def arithRows (t : IntTy) (gd : Guard) : List Row :=
  let w := wordsOf t
  [(.add gd t, 2 * w, w, fun ws => res t (val t ws 0 + val t ws 1)),
   (.sub gd t, 2 * w, w, fun ws => res t (val t ws 0 - val t ws 1)),
   (.mul gd t, 2 * w, w, fun ws => res t (val t ws 0 * val t ws 1)),
   (.mulh gd t, 2 * w, w, fun ws => res t (val t ws 0 * val t ws 1 / 2 ^ bitsOf t)),
   (.mad gd t, 3 * w, w, fun ws => res t (val t ws 0 * val t ws 1 + val t ws 2)),
   (.neg gd t, w, w, fun ws => res t (-(val t ws 0))),
   (.min gd t, 2 * w, w, fun ws => res t (min (val t ws 0) (val t ws 1))),
   (.max gd t, 2 * w, w, fun ws => res t (max (val t ws 0) (val t ws 1))),
   (.and gd t, 2 * w, w, fun ws => (List.range w).map (fun k => ws.getD k 0 &&& ws.getD (w + k) 0)),
   (.or gd t, 2 * w, w, fun ws => (List.range w).map (fun k => ws.getD k 0 ||| ws.getD (w + k) 0)),
   (.xor gd t, 2 * w, w, fun ws => (List.range w).map (fun k => ws.getD k 0 ^^^ ws.getD (w + k) 0)),
   (.not gd t, w, w, fun ws => (List.range w).map (fun k => ~~~(ws.getD k 0)))]

/-- The shifts of R153: `s` unsigned, of any size. -/
def shiftRows (t : IntTy) (gd : Guard) : List Row :=
  let w := wordsOf t
  let n := bitsOf t
  let sh (ws : List Word) : Nat := (ws.getD w 0).toNat
  [(.shl gd t, w + 1, w, fun ws => res t (if sh ws < n then uns t ws 0 * 2 ^ sh ws else 0)),
   (.shr gd t, w + 1, w, fun ws => res t (if sh ws < n then uns t ws 0 / 2 ^ sh ws else 0)),
   (.sar gd t, w + 1, w, fun ws => res t (val (if w = 1 then .i32 else .i64) ws 0 / 2 ^ min (sh ws) (n - 1))),
   (.rotl gd t, w + 1, w, fun ws => res t (uns t ws 0 * 2 ^ (sh ws % n) + uns t ws 0 / 2 ^ (n - sh ws % n)))]

/-- Bit `i` of entries, low word first. -/
def bitAt (ws : List Word) (i : Nat) : Bool := (natOf ws).testBit i

/-- The counts and the reversal of R154. -/
def bitRows (t : IntTy) (gd : Guard) : List Row :=
  let w := wordsOf t
  let n := bitsOf t
  [(.clz gd t, w, 1, fun ws => [BitVec.ofNat 32 (n - (if natOf ws = 0 then 0 else Nat.log2 (natOf ws) + 1))]),
   (.popc gd t, w, 1, fun ws => [BitVec.ofNat 32 ((List.range n).countP (bitAt ws))]),
   (.brev gd t, w, w, fun ws => res t ((List.range n).foldl (fun acc k => if bitAt ws k then acc + 2 ^ (n - 1 - k) else acc) 0))]

/-- `addc` and `subb` of R155. -/
def carryRows (t : IntTy) (gd : Guard) : List Row :=
  let w := wordsOf t
  let cin (ws : List Word) : Nat := (ws.getD (2 * w) 0).toNat % 2
  [(.addc gd t, 2 * w + 1, w + 1, fun ws =>
      let v := uns t ws 0 + uns t ws 1 + cin ws
      res t v ++ [if 2 ^ bitsOf t ≤ v then 1 else 0]),
   (.subb gd t, 2 * w + 1, w + 1, fun ws =>
      let v : Int := (uns t ws 0 : Int) - uns t ws 1 - cin ws
      res t v ++ [if v < 0 then 1 else 0])]

/-- `bfe` and `bfi` of R156. -/
def fieldRows (t : IntTy) (gd : Guard) : List Row :=
  let w := wordsOf t
  let n := bitsOf t
  [(.bfe gd t, w + 2, w, fun ws =>
      let pos := (ws.getD w 0).toNat
      let len := min (ws.getD (w + 1) 0).toNat n
      let f := (val t ws 0 / 2 ^ pos) % 2 ^ len
      res t (if len = 0 then 0 else if isI t && decide (2 ^ (len - 1) ≤ f) then f - 2 ^ len else f)),
   (.bfi gd t, 2 * w + 2, w, fun ws =>
      let pos := (ws.getD (2 * w) 0).toNat
      let len := min (ws.getD (2 * w + 1) 0).toNat n
      res t ((List.range n).foldl (fun acc k =>
        if (if pos ≤ k ∧ k < pos + len then (uns t ws 1).testBit (k - pos) else (uns t ws 0).testBit k)
        then acc + 2 ^ k else acc) 0))]

/-- `abs` (R151), `sext` (R157) and `sel` (R159). -/
def chooseRows (gd : Guard) : List Row :=
  [(.abs gd .w32, 1, 1, fun ws => res .i32 (val .i32 ws 0).natAbs),
   (.abs gd .w64, 2, 2, fun ws => res .i64 (val .i64 ws 0).natAbs),
   (.sext gd .i8, 1, 1, fun ws => res .i32 (((ws.getD 0 0).toNat : Int).bmod 256)),
   (.sext gd .i16, 1, 1, fun ws => res .i32 (((ws.getD 0 0).toNat : Int).bmod 65536)),
   (.sext gd .i32, 1, 2, fun ws => res .i64 (val .i32 ws 0)),
   (.sel gd .w32, 3, 1, fun ws => match ws with | [x, y, c] => [if c ≠ 0 then x else y] | _ => []),
   (.sel gd .w64, 5, 2, fun ws => match ws with | [x, x', y, y', c] => if c ≠ 0 then [x, x'] else [y, y'] | _ => [])]

end Sys2Proof.Claims

/-- The arithmetic and logical operations of R151 push exactly the value the rule names, modulo 2^n, in every type, and
raise no flag; so do `abs`, `sext` and `sel` (R157, R159). -/
def Sys2Proof.Claims.IntegerArithmetic : Prop :=
  (∀ t, Sys2Proof.Claims.Rows (Sys2Proof.Claims.arithRows t)) ∧ Sys2Proof.Claims.Rows Sys2Proof.Claims.chooseRows

/-- The shifts and rotations of R153 for every shift amount; `clz`, `popc` and `brev` (R154); the multi-word chains of `addc`
and `subb` (R155); the bit fields of `bfe` and `bfi` (R156); in every type. -/
def Sys2Proof.Claims.ShiftsAndBits : Prop :=
  ∀ t, Sys2Proof.Claims.Rows (Sys2Proof.Claims.shiftRows t) ∧ Sys2Proof.Claims.Rows (Sys2Proof.Claims.bitRows t) ∧
    Sys2Proof.Claims.Rows (Sys2Proof.Claims.carryRows t) ∧ Sys2Proof.Claims.Rows (Sys2Proof.Claims.fieldRows t)

/-- `div` and `rem` truncate towards zero; by zero the quotient is 0, the remainder is x, and DZ is raised (R152). -/
def Obligations.Division : Prop :=
  ∀ (s : Sys2Proof.Machine.State) (c : Sys2Proof.Machine.Cur) (gd : Sys2Proof.Guard) (t : Sys2Proof.IntTy),
    s.cur = some c → 2 * Sys2Proof.Claims.wordsOf t ≤ c.r.stk.length →
    let w := Sys2Proof.Claims.wordsOf t
    let x (ws : List Sys2Proof.Word) := Sys2Proof.Claims.val t ws 0
    let y (ws : List Sys2Proof.Word) := Sys2Proof.Claims.val t ws 1
    let dz := Sys2Proof.Claims.anyLane (c.on gd) (fun l => if y (Sys2Proof.Claims.args c.r (2 * w) l) = 0 then 2 else 0)
    Sys2Proof.Claims.LaneWise (.div gd t) s c (c.on gd) (2 * w) w
      (fun _ ws => Sys2Proof.Claims.res t (if y ws = 0 then 0 else (x ws).tdiv (y ws))) dz ∧
    Sys2Proof.Claims.LaneWise (.rem gd t) s c (c.on gd) (2 * w) w
      (fun _ ws => Sys2Proof.Claims.res t (if y ws = 0 then x ws else x ws - y ws * (x ws).tdiv (y ws))) dz

/-- `setp` writes a predicate in the guarded-on lanes with the comparison of R158, in signed order for i types and unsigned
order for z types, and pops both operands. -/
def Sys2Proof.Claims.SetPredicate : Prop :=
  ∀ (s : Sys2Proof.Machine.State) (c : Sys2Proof.Machine.Cur) (gd : Sys2Proof.Guard) (t : Sys2Proof.IntTy) (p : BitVec 4),
    s.cur = some c → 2 * Sys2Proof.Claims.wordsOf t ≤ c.r.stk.length →
    ∀ q ∈ [(Sys2Proof.Cond.eq, fun x y : Int => decide (x = y)), (.ne, fun x y => decide (x ≠ y)),
           (.lt, fun x y => decide (x < y)), (.le, fun x y => decide (x ≤ y)),
           (.gt, fun x y => decide (y < x)), (.ge, fun x y => decide (y ≤ x))],
    let ws (l : Nat) := Sys2Proof.Claims.args c.r (2 * Sys2Proof.Claims.wordsOf t) l
    ∃ r', Sys2Proof.Machine.exec (.setp gd q.1 t p) s = .next (Sys2Proof.Claims.done s c r') ∧
      Sys2Proof.Claims.Moved c.r { r' with prd := c.r.prd } ∧ r'.aflags = c.r.aflags ∧
      r'.stk = c.r.stk.drop (2 * Sys2Proof.Claims.wordsOf t) ∧
      ∀ n l, l < 32 → ((Sys2Proof.Machine.Cur.mk c.core c.slot c.g r').pred n).getLsbD l =
        if n = p.toNat ∧ Sys2Proof.Machine.laneOn (c.on gd) l
        then q.2 (Sys2Proof.Claims.val t (ws l) 0) (Sys2Proof.Claims.val t (ws l) 1)
        else (c.pred n).getLsbD l

/-- Integer arithmetic, shifts, bit instructions and `setp`, in every form, at every operand. -/
def Obligations.IntegerAndBitRows : Prop :=
  Sys2Proof.Claims.IntegerArithmetic ∧ Sys2Proof.Claims.ShiftsAndBits ∧ Sys2Proof.Claims.SetPredicate
namespace Sys2Proof.Claims

open Sys2Proof.Machine

/-- Where a transfer sends lane `l`, if not to the fall-through: of the guarded-on lanes those that `taken` names go to
`dest`; in supervisor mode the whole split goes where its lowest guarded-on lane goes (R160, R281). -/
def goes (c : Cur) (on : Mask) (taken : Nat → Bool) (dest : Nat → Addr) (l : Nat) : Option (Option Addr) :=
  if c.g.sup then
    match (List.range 32).find? (fun k => laneOn on k) with
    | some k => if taken k && laneOn c.r.mask l then some (some (dest k)) else none
    | none => none
  else if laneOn on l && taken l then some (some (dest l)) else none

/-- The instruction `i` ends its run as a transfer: it pops `a` entries, and of its lanes those that leave the
fall-through are as said. -/
def Transfers (i : Instr) (s : State) (c : Cur) (a : Nat) (x : Xfer) (link : Mask) (to_ : Nat → Option (Option Addr)) : Prop :=
  ∃ r', exec i s = .next (done s c r') ∧ Moved c.r { r' with succ := c.r.succ, xfer := c.r.xfer, link := c.r.link } ∧
    r'.stk = c.r.stk.drop a ∧ r'.aflags = c.r.aflags ∧ r'.xfer = some x ∧ r'.link = link ∧
    ∀ l < 32, mfind r'.succ l = to_ l

/-- The address a branch names: the first halfword's address plus twice the offset (R123). -/
def target {n : Nat} (c : Cur) (off : BitVec n) : Addr := BitVec.ofInt 64 (c.r.pc.toNat + 2 * off.toInt)

/-- Popped entry `k` of lane `l`, of `a` popped. -/
def arg (c : Cur) (a k l : Nat) : Word := (args c.r a l).getD k 0

/-- The instruction `i` leaves `new` to the trailer, pops `a` entries and changes nothing else of the run, but that the
no-flashback flag is set when `fb` says so. -/
def Stages (i : Instr) (s : State) (c : Cur) (a : Nat) (new : List Staged) (fb : Bool) : Prop :=
  ∃ r', exec i s = .next (done s c r') ∧ Moved c.r { r' with staged := c.r.staged, nofb := c.r.nofb } ∧
    r'.stk = c.r.stk.drop a ∧ r'.aflags = c.r.aflags ∧ r'.staged = c.r.staged ++ new ∧ r'.nofb = (c.r.nofb || fb)

/-- One item, where some lane is guarded on (R91). -/
def ifOn (on : Mask) (x : Staged) : List Staged := if on = 0 then [] else [x]

end Sys2Proof.Claims

/-- Each control transfer sends its guarded-on lanes where R160, R162, R163 and R164 say, pops what it pops, and is the end
of its run (in supervisor mode as R281 says); `call` and `ret` name f0 and f1; `exit` gives its guarded-on lanes no successor. -/
def Obligations.ControlTransfers : Prop :=
  ∀ (s : Sys2Proof.Machine.State) (c : Sys2Proof.Machine.Cur) (gd : Sys2Proof.Guard) (off : BitVec 16) (far : BitVec 32)
    (p : BitVec 4), s.cur = some c →
    let on := c.on gd
    let go (a : Nat) (taken : Nat → Bool) (dest : Nat → Sys2Proof.Addr) (x : Sys2Proof.Machine.Xfer) (i : Sys2Proof.Instr) :=
      Sys2Proof.Claims.Transfers i s c a x c.r.link (Sys2Proof.Claims.goes c on taken dest)
    go 0 (fun _ => true) (fun _ => Sys2Proof.Claims.target c off) .direct (.br gd off) ∧
    (1 ≤ c.r.stk.length → go 1 (fun l => Sys2Proof.Claims.arg c 1 0 l = 0) (fun _ => Sys2Proof.Claims.target c off) .direct (.bz gd off)) ∧
    (1 ≤ c.r.stk.length → go 1 (fun l => Sys2Proof.Claims.arg c 1 0 l ≠ 0) (fun _ => Sys2Proof.Claims.target c off) .direct (.bnz gd off)) ∧
    go 0 (fun _ => (List.range 32).any (fun l => Sys2Proof.Machine.laneOn on l && (c.pred p.toNat).getLsbD l)) (fun _ => Sys2Proof.Claims.target c off)
      .direct (.bpAny gd p off) ∧
    go 0 (fun _ => (List.range 32).all (fun l => !Sys2Proof.Machine.laneOn on l || (c.pred p.toNat).getLsbD l)) (fun _ => Sys2Proof.Claims.target c off)
      .direct (.bpAll gd p off) ∧
    go 0 (fun _ => true) (fun _ => Sys2Proof.Claims.target c far) .direct (.jmp gd far) ∧
    (2 ≤ c.r.stk.length → go 2 (fun _ => true)
      (fun l => Sys2Proof.dword (Sys2Proof.Claims.arg c 2 0 l) (Sys2Proof.Claims.arg c 2 1 l)) .indirect (.bx gd)) ∧
    (0 < c.g.fgran → (∀ q ∈ c.g.pendFrm, 2 ≤ q.reg) →
      Sys2Proof.Claims.Transfers (.call gd far) s c 0 .direct on
        (Sys2Proof.Claims.goes c on (fun _ => true) (fun _ => Sys2Proof.Claims.target c far)) ∧
      go 0 (fun _ => true) (fun l => Sys2Proof.dword (Sys2Proof.Machine.laneAt (c.frame 0) l) (Sys2Proof.Machine.laneAt (c.frame 1) l))
        .indirect (.ret gd)) ∧
    (c.g.fgran = 0 → ∀ i ∈ [Sys2Proof.Instr.call gd far, .ret gd],
      Sys2Proof.Machine.exec i s = .next (s.preciseFault c Sys2Proof.Machine.cFrameRange c.r.mask []).refresh) ∧
    Sys2Proof.Claims.Transfers (.exit gd) s c 0 .exit c.r.link
      (fun l => if Sys2Proof.Machine.laneOn on l then some none else none)

/-- The group actions without operands on the stack leave their effect to the trailer where some lane is guarded on, and
nothing where none is (R91, R166, R169, R189, R279, R285, R287, R288, R318); that `arrive` and `bsync` set the
no-flashback flag only then is the model's reading of R85 (log 29). `trap` and `tret` leave what R279 and R280 check of their run's form
to the trailer whatever the guard (R91). `tret` and `replay` do so in supervisor mode and fault PRIV in user mode (R280, R283). -/
def Obligations.GroupActions : Prop :=
  ∀ (s : Sys2Proof.Machine.State) (c : Sys2Proof.Machine.Cur) (gd : Sys2Proof.Guard), s.cur = some c →
    let on := c.on gd
    let some_ := decide (on ≠ 0)
    Sys2Proof.Claims.Stages (.yield gd) s c 0 (Sys2Proof.Claims.ifOn on .yield) false ∧
    (∀ b : BitVec 4,
      Sys2Proof.Claims.Stages (.arrive gd b) s c 0 (Sys2Proof.Claims.ifOn on (.arrive b.toNat)) some_ ∧
      Sys2Proof.Claims.Stages (.bwait gd b) s c 0 (Sys2Proof.Claims.ifOn on (.bwait b.toNat)) false ∧
      Sys2Proof.Claims.Stages (.bsync gd b) s c 0 (Sys2Proof.Claims.ifOn on (.bsync b.toNat)) some_) ∧
    Sys2Proof.Claims.Stages (.tbind gd) s c 0 (Sys2Proof.Claims.ifOn on .tbind) false ∧
    (∀ n, Sys2Proof.Claims.Stages (.trap gd n) s c 0 [.trap n on] false) ∧
    Sys2Proof.Claims.Stages (.kill gd) s c 0 (Sys2Proof.Claims.ifOn on .kill) false ∧
    (∀ n, Sys2Proof.Claims.Stages (.trcm gd n) s c 0 (Sys2Proof.Claims.ifOn on (.trcm n)) false ∧
      Sys2Proof.Claims.Stages (.pmark gd n) s c 0 (Sys2Proof.Claims.ifOn on (.pmark n)) false ∧
      Sys2Proof.Claims.Stages (.sleep gd n) s c 0 (Sys2Proof.Claims.ifOn on (.sleep n.toNat)) false) ∧
    (∀ n, Sys2Proof.Claims.Stages (.cpyscout gd n) s c 0 (Sys2Proof.Claims.ifOn on (.cpyscout n.toNat)) false) ∧
    (∀ n, s.watchLocked c.g.guest n.toNat = false →
      Sys2Proof.Claims.Stages (.unwatch gd n) s c 0 (Sys2Proof.Claims.ifOn on (.unwatch n.toNat)) false) ∧
    (c.g.sup = true → Sys2Proof.Claims.Stages (.tret gd) s c 0 [.tret some_] false ∧
      Sys2Proof.Claims.Stages (.replay gd) s c 0 (Sys2Proof.Claims.ifOn on .replay) false) ∧
    (c.g.sup = false → ∀ i ∈ [Sys2Proof.Instr.tret gd, .replay gd, .pgmap gd],
      Sys2Proof.Machine.exec i s = .next (s.preciseFault c Sys2Proof.Machine.cPriv c.r.mask []).refresh) ∧
    (∀ n, s.watchLocked c.g.guest n.toNat = true → ∀ i ∈ [Sys2Proof.Instr.watch gd n, .unwatch gd n],
      Sys2Proof.Machine.exec i s = .next (s.preciseFault c Sys2Proof.Machine.cPriv c.r.mask []).refresh)

/-- `wait` completes once every counter is at or below its limit, 15 (or 7) waiting for nothing; `sdrain` once every store
released earlier is accepted, and no store record waits for delivery or for room; `cflush` once every store the group
released is applied, and then drops the context's lines from every instruction cache, the caches of every core that runs it, and what it was fetching
of other packages (log 77). With no lane guarded on each completes at once (R91, R167, R226, R293). Until then, with no record in the way, the run holds while a cc passes. -/
def Obligations.WaitingInstructions : Prop :=
  ∀ (s : Sys2Proof.Machine.State) (c : Sys2Proof.Machine.Cur) (gd : Sys2Proof.Guard) (lim : Sys2Proof.Limits),
    s.cur = some c →
    let low (v : BitVec 8) (n free : Nat) : Prop := n = free ∨ v.toNat ≤ n
    let met := low c.g.ld lim.ld.toNat 15 ∧ low c.g.st lim.st.toNat 15 ∧ low c.g.cp lim.cp.toNat 7 ∧ low c.g.tl lim.tl.toNat 7
    let noRecord := ∀ r ∈ s.recs, ¬(r.core = c.core ∧ r.slot = c.slot ∧ r.delivered = false)
    let noFault := ∀ x ∈ s.ops, x.2.core = c.core → x.2.slot = c.slot → x.2.kind = .store → ∀ y ∈ x.2.lanes, ∀ k, y.st ≠ .faulted k
    let completes (i : Sys2Proof.Instr) (s' : Sys2Proof.Machine.State) : Prop :=
      ∃ r', Sys2Proof.Machine.exec i s = .next (Sys2Proof.Claims.done s' c r') ∧
        Sys2Proof.Claims.Moved c.r { r' with start := c.r.start } ∧ r'.stk = c.r.stk ∧ r'.aflags = c.r.aflags
    let holds (i : Sys2Proof.Instr) : Prop :=
      Sys2Proof.Machine.exec i s = .next ((s.putRun c { c.r with holding := true }).pass 1)
    (c.on gd = 0 ∨ met → completes (.wait gd lim) s) ∧
    (c.on gd ≠ 0 → ¬met → noRecord → holds (.wait gd lim)) ∧
    (c.on gd = 0 ∨ (c.g.sq = [] ∧ noRecord ∧ noFault) → completes (.sdrain gd) s) ∧
    (c.on gd ≠ 0 → noRecord → (c.g.sq ≠ [] ∨ ¬noFault) → holds (.sdrain gd)) ∧
    (c.on gd = 0 → completes (.cflush gd) s) ∧
    (c.on gd ≠ 0 → c.g.sq = [] → (∀ e ∈ s.aq, e.core = c.core → e.slot = c.slot → ∃ t, e.act = .fill t) →
      completes (.cflush gd) { s with
        icache := s.icache.filter (fun x => !(x.guest == c.g.guest || s.groups.any (fun y => y.1 / 64 == x.core && y.2.guest == c.g.guest)))
        far := s.far.filter (fun f => !(f.guest == c.g.guest && f.isCode)) }) ∧
    (c.on gd ≠ 0 → c.g.sq ≠ [] → holds (.cflush gd))

namespace Sys2Proof.Claims

open Sys2Proof.Machine

/-- A row of a table of lane-wise instructions with flags. -/
abbrev FRow := Instr × Nat × Nat × (List Word → List Word × BitVec 6)

/-- Every row of a table completes as it says, with the flags of its guarded-on lanes raised (R90, R103). -/
def FRows (rows : Guard → List FRow) : Prop :=
  ∀ (s : State) (c : Cur) (gd : Guard), s.cur = some c → ∀ x ∈ rows gd, x.2.1 ≤ c.r.stk.length →
    LaneWise x.1 s c (c.on gd) x.2.1 x.2.2.1 (fun _ ws => (x.2.2.2 ws).1)
      (anyLane (c.on gd) (fun l => (x.2.2.2 (args c.r x.2.1 l)).2))

/-- One f32 code with its flags as pushed. -/
def one32 (x : Nat × BitVec 6) : List Word × BitVec 6 := ([BitVec.ofNat 32 x.1], x.2)

/-- The f32 value of an entry. -/
def f32 (ws : List Word) (k : Nat) : Machine.Num := Fl.f32.decode (ws.getD k 0).toNat

/-- The rounded operations of R175, R176 and `frcp` (R178), in every rounding mode. -/
def floatRows (m : RMode) (gd : Guard) : List FRow :=
  [(.fadd gd m, 2, 1, fun ws => one32 (Fl.f32.add m (f32 ws 0) (f32 ws 1))),
   (.fsub gd m, 2, 1, fun ws => one32 (Fl.f32.add m (f32 ws 0) (f32 ws 1).neg)),
   (.fmul gd m, 2, 1, fun ws => one32 (Fl.f32.mul m (f32 ws 0) (f32 ws 1))),
   (.ffma gd m, 3, 1, fun ws => one32 (Fl.f32.fma m (f32 ws 0) (f32 ws 1) (f32 ws 2))),
   (.fdiv gd m, 2, 1, fun ws => one32 (Fl.f32.div m (f32 ws 0) (f32 ws 1))),
   (.fsqrt gd m, 1, 1, fun ws => one32 (Fl.f32.sqrt m (f32 ws 0))),
   (.frnd gd m, 1, 1, fun ws => one32 (match f32 ws 0 with
      | .nan sig => (0x7FC00000, if sig then 1 else 0)
      | .inf neg => (if neg then 0xFF800000 else 0x7F800000, 0)
      | .fin neg k e => ((Fl.f32.round .rn neg (roundAt m neg k e false 0).1 0 false).1, 0))),
   (.frcp gd, 1, 1, fun ws => one32 (Fl.f32.div .rn (Fl.f32.decode 0x3F800000) (f32 ws 0)))]

/-- The operations of R177 and R179 without rounding. -/
def bitFloatRows (gd : Guard) : List FRow :=
  [(.fmin gd, 2, 1, fun ws => one32 (Fl.f32.minMax false (ws.getD 0 0).toNat (ws.getD 1 0).toNat)),
   (.fmax gd, 2, 1, fun ws => one32 (Fl.f32.minMax true (ws.getD 0 0).toNat (ws.getD 1 0).toNat)),
   (.fabs gd, 1, 1, fun ws => ([BitVec.ofNat 32 ((ws.getD 0 0).toNat % 2 ^ 31)], 0)),
   (.fneg gd, 1, 1, fun ws => ([ws.getD 0 0 + BitVec.ofNat 32 (2 ^ 31)], 0)),
   (.fsgn gd, 2, 1, fun ws => ([BitVec.ofNat 32 ((ws.getD 0 0).toNat % 2 ^ 31 + (ws.getD 1 0).toNat / 2 ^ 31 * 2 ^ 31)], 0)),
   (.fcls gd, 1, 1, fun ws =>
      let neg := 2 ^ 31 ≤ (ws.getD 0 0).toNat
      let ex := (ws.getD 0 0).toNat / 2 ^ 23 % 256
      let man := (ws.getD 0 0).toNat % 2 ^ 23
      ([if ex = 255 ∧ man ≠ 0 then (if man < 2 ^ 22 then 1 else 2)
        else if ex = 255 then (if neg then 4 else 512)
        else if ex = 0 ∧ man = 0 then (if neg then 32 else 64)
        else if ex = 0 then (if neg then 16 else 128)
        else (if neg then 8 else 256)], 0))]

/-- Element `e` of a packed pair, in a format. -/
def pairEl (f : Fl) (w : Word) (e : Nat) : Machine.Num := f.decode (w.toNat / 65536 ^ e % 65536)

/-- A packed pair of results. -/
def pair (a b : Nat × BitVec 6) : List Word × BitVec 6 := ([BitVec.ofNat 32 (a.1 + 65536 * b.1)], a.2 ||| b.2)

/-- The packed operations of R182 and `dot4` on integers (R183). -/
def packedRows (gd : Guard) : List FRow :=
  ([(HFmt.f16, Fl.f16), (.bf16, Fl.bf16)] : List (HFmt × Fl)).flatMap (fun q =>
    let el (ws : List Word) (k e : Nat) : Machine.Num := pairEl q.2 (ws.getD k 0) e
    ([(.hadd2 gd q.1, 2, 1, fun ws => pair (q.2.add .rn (el ws 0 0) (el ws 1 0)) (q.2.add .rn (el ws 0 1) (el ws 1 1))),
      (.hmul2 gd q.1, 2, 1, fun ws => pair (q.2.mul .rn (el ws 0 0) (el ws 1 0)) (q.2.mul .rn (el ws 0 1) (el ws 1 1))),
      (.hfma2 gd q.1, 3, 1, fun ws => pair (q.2.fma .rn (el ws 0 0) (el ws 1 0) (el ws 2 0))
        (q.2.fma .rn (el ws 0 1) (el ws 1 1) (el ws 2 1))),
      (.hmax2 gd q.1, 2, 1, fun ws =>
        pair (q.2.minMax true ((ws.getD 0 0).toNat % 65536) ((ws.getD 1 0).toNat % 65536))
          (q.2.minMax true ((ws.getD 0 0).toNat / 65536) ((ws.getD 1 0).toNat / 65536)))] : List FRow)) ++
  [(.dot4 gd .i8, 3, 1, fun ws => ([BitVec.ofInt 32 ((ws.getD 2 0).toInt + ((List.range 4).map (fun e =>
      (BitVec.ofNat 8 ((ws.getD 0 0).toNat / 256 ^ e)).toInt * (BitVec.ofNat 8 ((ws.getD 1 0).toNat / 256 ^ e)).toInt)).sum)], 0)),
   (.dot4 gd .z8, 3, 1, fun ws => ([BitVec.ofNat 32 ((ws.getD 2 0).toNat + ((List.range 4).map (fun e =>
      (ws.getD 0 0).toNat / 256 ^ e % 256 * ((ws.getD 1 0).toNat / 256 ^ e % 256))).sum)], 0)),
   (.dot4 gd .e4m3, 3, 1, fun ws => one32 (dotFloat .e4m3 (ws.getD 0 0) (ws.getD 1 0) (ws.getD 2 0))),
   (.dot4 gd .e5m2, 3, 1, fun ws => one32 (dotFloat .e5m2 (ws.getD 0 0) (ws.getD 1 0) (ws.getD 2 0)))]

/-- The special functions of R184 in their three formats, and `frsq` (R178). -/
def specialRows (gd : Guard) : List FRow :=
  ([(SFmt.f32, Fl.f32), (.f16, Fl.f16), (.bf16, Fl.bf16)] : List (SFmt × Fl)).flatMap (fun q =>
    let x (ws : List Word) : Nat := (ws.getD 0 0).toNat % 2 ^ (1 + q.2.eb + q.2.mb)
    let y (ws : List Word) : Nat := (ws.getD 1 0).toNat % 2 ^ (1 + q.2.eb + q.2.mb)
    ([(.exp2 gd q.1, 1, 1, fun ws => one32 (sfApply .exp2 q.2 (x ws))),
      (.log2 gd q.1, 1, 1, fun ws => one32 (sfApply .log2 q.2 (x ws))),
      (.sin gd q.1, 1, 1, fun ws => one32 (sfApply .sin q.2 (x ws))),
      (.cos gd q.1, 1, 1, fun ws => one32 (sfApply .cos q.2 (x ws))),
      (.tanh gd q.1, 1, 1, fun ws => one32 (sfApply .tanh q.2 (x ws))),
      (.sigm gd q.1, 1, 1, fun ws => one32 (sfApply .sigm q.2 (x ws))),
      (.erf gd q.1, 1, 1, fun ws => one32 (sfApply .erf q.2 (x ws))),
      (.gelu gd q.1, 1, 1, fun ws => one32 (sfApply .gelu q.2 (x ws))),
      (.lse2 gd q.1, 2, 1, fun ws => one32 (lse2Apply q.2 (x ws) (y ws)))] : List FRow)) ++
  [(.frsq gd, 1, 1, fun ws => one32 (frsqOf (ws.getD 0 0)))]

/-- The one-operand special functions with their instructions (R184). -/
def sfInstrs : List (Sf × (Guard → SFmt → Instr)) :=
  [(.exp2, .exp2), (.log2, .log2), (.sin, .sin), (.cos, .cos), (.tanh, .tanh), (.sigm, .sigm), (.erf, .erf), (.gelu, .gelu)]

/-- The formats of the special functions: the codes of 1.0, 0.5, +∞ and the canonical NaN, and the sign bit. -/
def sfFormats : List (SFmt × Fl × Nat × Nat × Nat × Nat × Nat) :=
  [(.f32, Fl.f32, 0x3F800000, 0x3F000000, 0x7F800000, 0x7FC00000, 2 ^ 31), (.f16, Fl.f16, 0x3C00, 0x3800, 0x7C00, 0x7E00, 2 ^ 15),
   (.bf16, Fl.bf16, 0x3F80, 0x3F00, 0x7F80, 0x7FC0, 2 ^ 15)]

/-- The special operands of R184 that are no NaN: operand, result, flags (INV is 1, DZ is 2). -/
def sfTable (one half inf nan sb : Nat) : List (Sf × Nat × Nat × BitVec 6) :=
  [(.exp2, 0, one, 0), (.exp2, sb, one, 0), (.exp2, sb + inf, 0, 0), (.exp2, inf, inf, 0),
   (.log2, 0, sb + inf, 2), (.log2, sb, sb + inf, 2), (.log2, sb + inf, nan, 1), (.log2, inf, inf, 0), (.log2, one, 0, 0),
   (.sin, 0, 0, 0), (.sin, sb, sb, 0), (.sin, inf, nan, 1), (.sin, sb + inf, nan, 1),
   (.cos, 0, one, 0), (.cos, sb, one, 0), (.cos, inf, nan, 1), (.cos, sb + inf, nan, 1),
   (.tanh, 0, 0, 0), (.tanh, sb, sb, 0), (.tanh, inf, one, 0), (.tanh, sb + inf, sb + one, 0),
   (.sigm, 0, half, 0), (.sigm, sb, half, 0), (.sigm, sb + inf, 0, 0), (.sigm, inf, one, 0),
   (.erf, 0, 0, 0), (.erf, sb, sb, 0), (.erf, inf, one, 0), (.erf, sb + inf, sb + one, 0),
   (.gelu, 0, 0, 0), (.gelu, sb, sb, 0), (.gelu, inf, inf, 0), (.gelu, sb + inf, sb, 0)]

/-- A code is a NaN; a signalling one raises INV (R101). -/
def nanCode (inf sb x : Nat) : Prop := inf < x % sb
def nanFlag (inf nan sb x : Nat) : BitVec 6 := if inf < x % sb ∧ x % sb < nan then 1 else 0

/-- The special functions at the operands that R184 and R178 name, in every format; the ranges of `tanh`, `erf` and `sigm`
(R185). -/
def SpecialOperands : Prop :=
  (∀ q ∈ sfFormats, let (_, f, one, half, inf, nan, sb) := q
    (∀ y ∈ sfTable one half inf nan sb, sfApply y.1 f y.2.1 = (y.2.2.1, y.2.2.2)) ∧
    (∀ p ∈ sfInstrs, ∀ x < 2 * sb,
      (nanCode inf sb x → sfApply p.1 f x = (nan, nanFlag inf nan sb x)) ∧
      (p.1 = .log2 → sb < x → x < sb + inf → sfApply p.1 f x = (nan, 1)) ∧
      (p.1 = .tanh ∨ p.1 = .erf → ¬nanCode inf sb x → (sfApply p.1 f x).1 % sb ≤ one) ∧
      (p.1 = .sigm → ¬nanCode inf sb x → (sfApply p.1 f x).1 ≤ one)) ∧
    ∀ x < 2 * sb, ∀ y < 2 * sb,
      (nanCode inf sb x ∨ nanCode inf sb y → lse2Apply f x y = (nan, nanFlag inf nan sb x ||| nanFlag inf nan sb y)) ∧
      (¬nanCode inf sb x → ¬nanCode inf sb y →
        (x = inf ∨ y = inf → lse2Apply f x y = (inf, 0)) ∧
        (x = sb + inf → lse2Apply f x y = (y, 0)) ∧ (y = sb + inf → lse2Apply f x y = (x, 0)))) ∧
  ∀ w : Word,
    (nanCode 0x7F800000 (2 ^ 31) w.toNat → frsqOf w = (0x7FC00000, nanFlag 0x7F800000 0x7FC00000 (2 ^ 31) w.toNat)) ∧
    (w = 0 → frsqOf w = (0x7F800000, 2)) ∧ (w = 0x80000000 → frsqOf w = (0xFF800000, 2)) ∧ (w = 0x7F800000 → frsqOf w = (0, 0)) ∧
    (0x80000000 < w.toNat → w.toNat ≤ 0xFF800000 → frsqOf w = (0x7FC00000, 1))

/-- The exact value of a finite code. -/
noncomputable def codeRat (f : Fl) (code : Nat) : ℚ :=
  match f.decode code with
  | .fin neg m e => (if neg then -1 else 1) * (m : ℚ) * (2 : ℚ) ^ e
  | _ => 0

/-- The error function. -/
noncomputable def erfReal (x : ℝ) : ℝ := 2 / Real.sqrt Real.pi * ∫ t in (0 : ℝ)..x, Real.exp (-t ^ 2)

/-- The exact values of R184. -/
noncomputable def sfReal : Sf → ℝ → ℝ
  | .exp2, x => (2 : ℝ) ^ x
  | .log2, x => Real.logb 2 x
  | .sin, x => Real.sin x
  | .cos, x => Real.cos x
  | .tanh, x => Real.tanh x
  | .sigm, x => 1 / (1 + Real.exp (-x))
  | .erf, x => erfReal x
  | .gelu, x => x * (1 + erfReal (x / Real.sqrt 2)) / 2

/-- A result is as accurate as R185 says: infinite with OVF beyond the largest finite value (R186); else a finite code that, for
f32, is the exact value where a code has it and else next to it, and for a 16-bit format is nearest to it, the even one of
two; with UNF where the value rounded with unbounded exponent lies below the smallest normal one and is not delivered
exactly (R100, R186), and no flag besides. -/
def Accurate (f : Fl) (v : ℝ) (r : Nat × BitVec 6) : Prop :=
  let val (code : Nat) : ℝ := (codeRat f code : ℝ)
  let fin (code : Nat) : Prop := code < 2 * f.sbit ∧ code % f.sbit ≤ f.maxCode
  let tiny : Prop := v ≠ 0 ∧ |v| < (2 : ℝ) ^ (f.emin + f.mb) * (1 - (2 : ℝ) ^ (-(f.mb : Int) - 2))
  (val f.maxCode < |v| → r = ((if v < 0 then f.sbit else 0) + f.infCode, 4)) ∧
  (|v| ≤ val f.maxCode → fin r.1 ∧
    (f.mb = 23 → ((∃ c, fin c ∧ val c = v) → val r.1 = v) ∧
      ∀ c, fin c → ¬(v < val c ∧ val c < val r.1) ∧ ¬(val r.1 < val c ∧ val c < v)) ∧
    (f.mb ≠ 23 → (∀ c, fin c → |val r.1 - v| ≤ |val c - v|) ∧
      ((∃ c, fin c ∧ val c ≠ val r.1 ∧ |val c - v| = |val r.1 - v|) → r.1 % 2 = 0)) ∧
    (tiny ∧ val r.1 ≠ v → r.2 = 8) ∧ (¬(tiny ∧ val r.1 ≠ v) → r.2 = 0))

/-- The special functions and `frsq` are as accurate as R178, R185 and R186 say at every finite operand that R184 and R178 do
not name. -/
def SpecialAccuracy : Prop :=
  (∀ q ∈ sfFormats, ∀ p ∈ sfInstrs, ∀ x < 2 * q.2.1.sbit, x % q.2.1.sbit ≤ q.2.1.maxCode → x % q.2.1.sbit ≠ 0 →
    (p.1 = .log2 → x < q.2.1.sbit) → Accurate q.2.1 (sfReal p.1 (codeRat q.2.1 x)) (sfApply p.1 q.2.1 x)) ∧
  (∀ q ∈ sfFormats, ∀ x < 2 * q.2.1.sbit, ∀ y < 2 * q.2.1.sbit, x % q.2.1.sbit ≤ q.2.1.maxCode → y % q.2.1.sbit ≤ q.2.1.maxCode →
    Accurate q.2.1 (Real.logb 2 ((2 : ℝ) ^ (codeRat q.2.1 x : ℝ) + (2 : ℝ) ^ (codeRat q.2.1 y : ℝ))) (lse2Apply q.2.1 x y)) ∧
  ∀ w : Word, w ≠ 0 → w.toNat < 0x7F800000 → Accurate .f32 (1 / Real.sqrt (codeRat .f32 w.toNat)) (frsqOf w)

end Sys2Proof.Claims

/-- The rounded f32 operations apply the exact operation and round it once in their mode (R175, R176, R178); `fmin` and
`fmax` follow R101, and `fabs`, `fneg`, `fsgn` and `fcls` the bits of the operand (R177, R179); the packed operations act on
each element by itself, and `dot4` adds four products and the addend (R182, R183). The special functions and `frsq` complete,
each one fixed function of its operand's bits in each format, alike in every lane, with the results that R178 and R184 name
for special operands and in the ranges of R185. -/
def Obligations.FloatResults : Prop :=
  (∀ m, Sys2Proof.Claims.FRows (Sys2Proof.Claims.floatRows m)) ∧ Sys2Proof.Claims.FRows Sys2Proof.Claims.bitFloatRows ∧
    Sys2Proof.Claims.FRows Sys2Proof.Claims.packedRows ∧ Sys2Proof.Claims.FRows Sys2Proof.Claims.specialRows ∧
    Sys2Proof.Claims.SpecialOperands

/-- The special functions and `frsq` complete and push their function of the operand's bits in the operand's format, in every
lane alike; that function is the exact one of R184, or 1/√x, correctly rounded in the 16-bit formats and faithful in f32,
infinite with OVF beyond the largest finite value, and with UNF where tiny and inexact (R100, R178, R184, R185, R186). -/
def Obligations.SpecialFunctions : Prop :=
  Sys2Proof.Claims.FRows Sys2Proof.Claims.specialRows ∧ Sys2Proof.Claims.SpecialAccuracy

/-- Rounding of an exact value of either sign whose magnitude does not exceed the largest finite one, in each of the five formats
and the four modes: the result is a finite code of the value's sign; downwards it is the largest code not above the value,
upwards the smallest one not below it, towards zero the largest in magnitude of those not beyond the value, and to nearest no code
is closer, and of two equally close ones it is the even one (R99). -/
def Sys2Proof.Claims.RoundingModes : Prop :=
  ∀ f ∈ [Sys2Proof.Machine.Fl.f32, .f16, .bf16, .e4m3, .e5m2], ∀ (neg : Bool) (m : Nat) (e : Int),
    let x : ℚ := (if neg then -1 else 1) * m * 2 ^ e
    let v (code : Nat) : ℚ := Sys2Proof.Claims.codeRat f code
    let r (mode : Sys2Proof.RMode) : Nat := (f.round mode neg m e false).1
    |x| ≤ v f.maxCode →
    (∀ mode, r mode / f.sbit = (if neg then 1 else 0) ∧ r mode % f.sbit ≤ f.maxCode) ∧
    v (r .rd) ≤ x ∧ x ≤ v (r .ru) ∧ |v (r .rz)| ≤ |x| ∧
    ∀ code < 2 * f.sbit, code % f.sbit ≤ f.maxCode →
      (v code ≤ x → v code ≤ v (r .rd)) ∧ (x ≤ v code → v (r .ru) ≤ v code) ∧ (|v code| ≤ |x| → |v code| ≤ |v (r .rz)|) ∧
      |v (r .rn) - x| ≤ |v code - x| ∧
      (v code ≠ v (r .rn) → |v code - x| = |v (r .rn) - x| → r .rn % 2 = 0)

/-- `fsetp` writes a predicate with the comparison of R180, unordered operands answering only `un` and `ne`, and a
signalling NaN raises INV. -/
def Sys2Proof.Claims.FloatCompare : Prop :=
  ∀ (s : Sys2Proof.Machine.State) (c : Sys2Proof.Machine.Cur) (gd : Sys2Proof.Guard) (p : BitVec 4),
    s.cur = some c → 2 ≤ c.r.stk.length →
    ∀ q ∈ [(Sys2Proof.FCond.eq, false, fun o : Ordering => o == .eq), (.ne, true, fun o => o != .eq),
           (.lt, false, fun o => o == .lt), (.le, false, fun o => o != .gt), (.gt, false, fun o => o == .gt),
           (.ge, false, fun o => o != .lt), (.un, true, fun _ => false), (.ord, false, fun _ => true)],
    let x (l : Nat) := Sys2Proof.Claims.f32 (Sys2Proof.Claims.args c.r 2 l) 0
    let y (l : Nat) := Sys2Proof.Claims.f32 (Sys2Proof.Claims.args c.r 2 l) 1
    ∃ r', Sys2Proof.Machine.exec (.fsetp gd q.1 p) s = .next (Sys2Proof.Claims.done s c r') ∧
      Sys2Proof.Claims.Moved c.r { r' with prd := c.r.prd } ∧ r'.stk = c.r.stk.drop 2 ∧
      r'.aflags = c.r.aflags ||| Sys2Proof.Claims.anyLane (c.on gd) (fun l => if x l = .nan true ∨ y l = .nan true then 1 else 0) ∧
      ∀ n l, l < 32 → ((Sys2Proof.Machine.Cur.mk c.core c.slot c.g r').pred n).getLsbD l =
        if n = p.toNat ∧ Sys2Proof.Machine.laneOn (c.on gd) l
        then (if (x l).isNan || (y l).isNan then q.2.1 else q.2.2 (Sys2Proof.Machine.numCmp (x l) (y l)))
        else (c.pred n).getLsbD l

/-- `cvt` completes for every pair of formats and mode. Between integer formats the result is the operand's value, clamped
to the destination's range with SAT where it lies outside; from an integer to a floating-point format it is the value
rounded once; from a floating-point format it is Convert of R104 (R104, R181). -/
def Obligations.Conversions : Prop :=
  ∀ (s : Sys2Proof.Machine.State) (c : Sys2Proof.Machine.Cur) (gd : Sys2Proof.Guard) (cv : Sys2Proof.CvtSpec),
    s.cur = some c →
    let a := match cv.src with | .i64 | .z64 => 2 | _ => 1
    let b := match cv.dst with | .i64 | .z64 => 2 | _ => 1
    let ints : List (Sys2Proof.Fmt × Int × Int) := [(.i8, -128, 127), (.z8, 0, 255), (.i16, -32768, 32767), (.z16, 0, 65535),
      (.i32, -2 ^ 31, 2 ^ 31 - 1), (.z32, 0, 2 ^ 32 - 1), (.i64, -2 ^ 63, 2 ^ 63 - 1), (.z64, 0, 2 ^ 64 - 1)]
    a ≤ c.r.stk.length →
    (∃ f : List Sys2Proof.Word → List Sys2Proof.Word × BitVec 6,
      Sys2Proof.Claims.LaneWise (.cvt gd cv) s c (c.on gd) a b (fun _ ws => (f ws).1)
        (Sys2Proof.Claims.anyLane (c.on gd) (fun l => (f (Sys2Proof.Claims.args c.r a l)).2)) ∧
      (∀ p ∈ ints, ∀ q ∈ ints, cv.src = p.1 → cv.dst = q.1 → ∀ ws, ws.length = a →
        ∃ v : Int, p.2.1 ≤ v ∧ v ≤ p.2.2 ∧ (∃ k : Int, v = Sys2Proof.Claims.natOf ws + k * (p.2.2 - p.2.1 + 1)) ∧
          f ws = (Sys2Proof.Claims.res (if b = 2 then .i64 else .i32) (max q.2.1 (min v q.2.2)),
                  if v < q.2.1 ∨ q.2.2 < v then 16 else 0)) ∧
      (∀ d ∈ [(Sys2Proof.Fmt.f32, Sys2Proof.Machine.Fl.f32), (.f16, .f16), (.bf16, .bf16), (.e4m3, .e4m3), (.e5m2, .e5m2)],
        cv.dst = d.1 →
        (∀ p ∈ ints, cv.src = p.1 → ∀ ws, ws.length = a →
          ∃ v : Int, p.2.1 ≤ v ∧ v ≤ p.2.2 ∧ (∃ k : Int, v = Sys2Proof.Claims.natOf ws + k * (p.2.2 - p.2.1 + 1)) ∧
            f ws = Sys2Proof.Claims.one32 (d.2.roundInt cv.mode v 0 false)) ∧
        (∀ q ∈ [(Sys2Proof.Fmt.f32, Sys2Proof.Machine.Fl.f32), (.f16, .f16), (.bf16, .bf16), (.e4m3, .e4m3), (.e5m2, .e5m2)],
          cv.src = q.1 → ∀ ws,
            f ws = Sys2Proof.Claims.one32 (d.2.ofNum cv.mode
              (q.2.decode ((ws.getD 0 0).toNat % 2 ^ (1 + q.2.eb + q.2.mb)))))) ∧
      (∀ q ∈ [(Sys2Proof.Fmt.f32, Sys2Proof.Machine.Fl.f32), (.f16, .f16), (.bf16, .bf16), (.e4m3, .e4m3), (.e5m2, .e5m2)],
        ∀ p ∈ ints, cv.src = q.1 → cv.dst = p.1 → ∀ ws,
          f ws = ((fun x : Int × BitVec 6 => (Sys2Proof.Claims.res (if b = 2 then .i64 else .i32) x.1, x.2))
            (Sys2Proof.Machine.toIntSat (q.2.decode ((ws.getD 0 0).toNat % 2 ^ (1 + q.2.eb + q.2.mb))) cv.mode p.2.1 p.2.2))))

/-- The rounding modes of float instructions, and float comparison. -/
def Obligations.RoundingAndComparison : Prop :=
  Sys2Proof.Claims.RoundingModes ∧ Sys2Proof.Claims.FloatCompare
namespace Sys2Proof.Claims

open Sys2Proof.Machine

/-- The segment width of a run (R65). -/
def segW (c : Cur) : Nat := 32 / 2 ^ c.r.segw.toNat

/-- The lanes of lane `l`'s segment in ascending order, and those of them that contribute (R65, R196). -/
def seg (c : Cur) (l : Nat) : List Nat := (List.range 32).filter (fun i => decide (i / segW c = l / segW c))
def contrib (c : Cur) (on : Mask) (l : Nat) : List Nat := (seg c l).filter (laneOn on)

/-- The source lane of `shfl` (R197), where there is one. -/
def source (m : ShflMode) (c : Cur) (on : Mask) (l : Nat) (b : Word) : Option Nat :=
  (contrib c on l).find? (fun i => match m with
    | .idx => decide (i % segW c = b.toNat)
    | .up => decide (i % segW c + b.toNat = l % segW c)
    | .down => decide (i % segW c = l % segW c + b.toNat)
    | .xor => decide (i % segW c = (l % segW c) ^^^ b.toNat))

/-- The integer operations of a reduction on exact values, the first three; the bitwise ones on entries. -/
def fold (op : RedOp) (t : IntTy) (vs : List (List Word)) : List Word :=
  match op with
  | .add => res t ((vs.map (fun ws => val t ws 0)).sum)
  | .min => match vs.map (fun ws => val t ws 0) with | x :: xs => res t (xs.foldl min x) | [] => []
  | .max => match vs.map (fun ws => val t ws 0) with | x :: xs => res t (xs.foldl max x) | [] => []
  | .and => (List.range (wordsOf t)).map (fun k => vs.foldl (fun a ws => a &&& ws.getD k 0) (BitVec.allOnes 32))
  | .or => (List.range (wordsOf t)).map (fun k => vs.foldl (fun a ws => a ||| ws.getD k 0) 0)
  | .xor => (List.range (wordsOf t)).map (fun k => vs.foldl (fun a ws => a ^^^ ws.getD k 0) 0)

/-- The integer types of a reduction. -/
def redTypes : List (RedTy × IntTy) := [(.i32, .i32), (.z32, .z32), (.i64, .i64), (.z64, .z64)]

end Sys2Proof.Claims

/-- `shfl` takes the operand of the source lane of its segment, or keeps its own where that lane lies outside the segment
or does not contribute; `vote` counts the contributing lanes of the segment; `segw` sets the segment width where some lane
is guarded on, and a code of 5 to 7 faults SEG_FORM whatever the guard. Integer `red` gives every contributing lane the
combination of the operands of its segment's contributing lanes, integer `scan` that of those up to the lane itself, in
every operation and type (R195 to R200). -/
def Obligations.SegmentInstructions : Prop :=
  ∀ (s : Sys2Proof.Machine.State) (c : Sys2Proof.Machine.Cur) (gd : Sys2Proof.Guard), s.cur = some c →
    c.r.segw.toNat ≤ 4 →
    let on := c.on gd
    let yes (l : Nat) : List Nat := (Sys2Proof.Claims.contrib c on l).filter (fun i => decide (Sys2Proof.Claims.arg c 1 0 i ≠ 0))
    (2 ≤ c.r.stk.length → ∀ m, Sys2Proof.Claims.LaneWise (.shfl gd m) s c on 2 1
      (fun l ws => [Sys2Proof.Claims.arg c 2 0 ((Sys2Proof.Claims.source m c on l (ws.getD 1 0)).getD l)]) 0) ∧
    (1 ≤ c.r.stk.length →
      Sys2Proof.Claims.LaneWise (.vote gd .any) s c on 1 1 (fun l _ => [if yes l = [] then 0 else 1]) 0 ∧
      Sys2Proof.Claims.LaneWise (.vote gd .all) s c on 1 1
        (fun l _ => [if yes l = Sys2Proof.Claims.contrib c on l then 1 else 0]) 0 ∧
      Sys2Proof.Claims.LaneWise (.vote gd .ballot) s c on 1 1
        (fun l _ => [BitVec.ofNat 32 (((yes l).map (fun i => 2 ^ (i % Sys2Proof.Claims.segW c))).sum)]) 0) ∧
    (∀ n : BitVec 3,
      (n.toNat ≤ 4 → ∃ r', Sys2Proof.Machine.exec (.segw gd n) s = .next (Sys2Proof.Claims.done s c r') ∧
        Sys2Proof.Claims.Moved c.r { r' with segw := c.r.segw } ∧ r'.stk = c.r.stk ∧ r'.aflags = c.r.aflags ∧
        r'.segw = if on = 0 then c.r.segw else n) ∧
      (5 ≤ n.toNat → Sys2Proof.Machine.exec (.segw gd n) s =
        .next (s.preciseFault c Sys2Proof.Machine.cSegForm c.r.mask []).refresh)) ∧
    (∀ t ∈ Sys2Proof.Claims.redTypes, ∀ op, Sys2Proof.Claims.wordsOf t.2 ≤ c.r.stk.length →
      let w := Sys2Proof.Claims.wordsOf t.2
      Sys2Proof.Claims.LaneWise (.red gd op t.1) s c on w w
        (fun l _ => Sys2Proof.Claims.fold op t.2 ((Sys2Proof.Claims.contrib c on l).map (Sys2Proof.Claims.args c.r w))) 0 ∧
      Sys2Proof.Claims.LaneWise (.scan gd op t.1) s c on w w
        (fun l _ => Sys2Proof.Claims.fold op t.2
          (((Sys2Proof.Claims.contrib c on l).filter (fun i => decide (i ≤ l))).map (Sys2Proof.Claims.args c.r w))) 0)

namespace Sys2Proof.Claims

open Sys2Proof.Machine

/-- One f32 combination: the rounded sum, or the lesser or greater under R101. -/
def combine (op : RedOp) (a b : Word) : Nat × BitVec 6 :=
  match op with
  | .min => Fl.f32.minMax false a.toNat b.toNat
  | .max => Fl.f32.minMax true a.toNat b.toNat
  | _ => Fl.f32.add .rn (Fl.f32.decode a.toNat) (Fl.f32.decode b.toNat)

/-- Node `i` of level `j` of the tree of R116, over the operands of a segment's lane offsets. -/
def node (op : RedOp) (x : Nat → Option Word) : Nat → Nat → Option Word
  | 0, i => x i
  | j + 1, i => match node op x j (2 * i), node op x j (2 * i + 1) with
    | some a, some b => some (BitVec.ofNat 32 (combine op a b).1)
    | some a, none => some a
    | none, b => b

/-- The flag events of the node and of all below it. -/
def nodeFlags (op : RedOp) (x : Nat → Option Word) : Nat → Nat → BitVec 6
  | 0, _ => 0
  | j + 1, i => nodeFlags op x j (2 * i) ||| nodeFlags op x j (2 * i + 1) |||
    (match node op x j (2 * i), node op x j (2 * i + 1) with | some a, some b => (combine op a b).2 | _, _ => 0)

/-- The sum of R117 at the last of a list of operands, and the flag events on the way. -/
def scanned (op : RedOp) : List Word → Word × BitVec 6
  | [] => (0, 0)
  | a :: rest => rest.foldl (fun p b => (BitVec.ofNat 32 (combine op p.1 b).1, p.2 ||| (combine op p.1 b).2)) (a, 0)

/-- A NaN made canonical, and the event of a signalling one. -/
def keep (w : Word) : Word := if 0x7F800000 < w.toNat % 2 ^ 31 then 0x7FC00000 else w
def sigOf (w : Word) : BitVec 6 := if 0x7F800000 < w.toNat % 2 ^ 31 ∧ w.toNat % 2 ^ 31 < 0x7FC00000 then 1 else 0

/-- `Better` of R201 on value, index and lane. -/
def Better (big : Bool) (t : ArgTy) (a b : Word × Word × Nat) : Prop :=
  let nan (w : Word) : Bool := decide (t = .f32 ∧ 0x7F800000 < w.toNat % 2 ^ 31)
  let above (v w : Word) : Bool := match t with
    | .i32 => decide (w.toInt < v.toInt)
    | .z32 => decide (w.toNat < v.toNat)
    | .f32 => decide (numCmp (Fl.f32.decode v.toNat) (Fl.f32.decode w.toNat) = .gt ∨ (v = 0 ∧ w = 0x80000000))
  if nan a.1 && nan b.1 then a.2.2 < b.2.2
  else if nan a.1 then False
  else if nan b.1 then True
  else if (if big then above a.1 b.1 else above b.1 a.1) then True
  else if (if big then above b.1 a.1 else above a.1 b.1) then False
  else a.2.1.toNat < b.2.1.toNat ∨ (a.2.1 = b.2.1 ∧ a.2.2 < b.2.2)

end Sys2Proof.Claims

/-- The f32 `red` and `scan` complete, in add, min and max. A reduction gives every contributing lane of a segment the root of
the binary tree of R116 over the segment's lane offsets, lanes that do not contribute holding no value; a scan gives each
contributing lane the combination, in ascending lane order, of the contributing lanes up to itself (R117); a NaN result is
canonical, and the flags are those of the combinations and of signalling operands. `argmax` and `argmin` give every
contributing lane of a segment the value and the index of the contributing lane that `Better` of R201 prefers to every other:
-0 below +0, the lower index and then the lower lane between equals, the lowest lane where every operand is a NaN (R199, R200,
R201). -/
def Obligations.FloatAndArgReductions : Prop :=
  (∀ (s : Sys2Proof.Machine.State) (c : Sys2Proof.Machine.Cur) (gd : Sys2Proof.Guard) (op : Sys2Proof.RedOp),
    s.cur = some c → c.r.segw.toNat ≤ 4 → 1 ≤ c.r.stk.length → op ∈ [Sys2Proof.RedOp.add, .min, .max] →
    let on := c.on gd
    let x (l : Nat) : Sys2Proof.Word := Sys2Proof.Claims.arg c 1 0 l
    let w := Sys2Proof.Claims.segW c
    let depth := 5 - c.r.segw.toNat
    let leaf (b i : Nat) : Option Sys2Proof.Word := if Sys2Proof.Machine.laneOn on (w * b + i) then some (x (w * b + i)) else none
    let upTo (l : Nat) : List Sys2Proof.Word := ((Sys2Proof.Claims.contrib c on l).filter (fun i => decide (i ≤ l))).map x
    let sig := Sys2Proof.Claims.anyLane on (fun l => Sys2Proof.Claims.sigOf (x l))
    Sys2Proof.Claims.LaneWise (.red gd op .f32) s c on 1 1
      (fun l _ => [Sys2Proof.Claims.keep ((Sys2Proof.Claims.node op (leaf (l / w)) depth 0).getD 0)])
      ((List.range (32 / w)).foldl (fun fl b => fl ||| Sys2Proof.Claims.nodeFlags op (leaf b) depth 0) sig) ∧
    Sys2Proof.Claims.LaneWise (.scan gd op .f32) s c on 1 1
      (fun l _ => [Sys2Proof.Claims.keep (Sys2Proof.Claims.scanned op (upTo l)).1])
      (sig ||| Sys2Proof.Claims.anyLane on (fun l => (Sys2Proof.Claims.scanned op (upTo l)).2))) ∧
  (∀ (s : Sys2Proof.Machine.State) (c : Sys2Proof.Machine.Cur) (gd : Sys2Proof.Guard) (t : Sys2Proof.ArgTy),
    s.cur = some c → c.r.segw.toNat ≤ 4 → 2 ≤ c.r.stk.length →
    ∀ big : Bool,
    let on := c.on gd
    let x (l : Nat) : Sys2Proof.Word × Sys2Proof.Word × Nat := (Sys2Proof.Claims.arg c 2 0 l, Sys2Proof.Claims.arg c 2 1 l, l)
    ∃ who : Nat → Nat, Sys2Proof.Claims.LaneWise (if big then .argmax gd t else .argmin gd t) s c on 2 2
        (fun l _ => [if t = .f32 then Sys2Proof.Claims.keep (x (who l)).1 else (x (who l)).1, (x (who l)).2.1])
        (if t = .f32 then Sys2Proof.Claims.anyLane on (fun l => Sys2Proof.Claims.sigOf (x l).1) else 0) ∧
      ∀ l < 32, Sys2Proof.Machine.laneOn on l →
        who l ∈ Sys2Proof.Claims.contrib c on l ∧
        ∀ i ∈ Sys2Proof.Claims.contrib c on l, i ≠ who l → Sys2Proof.Claims.Better big t (x (who l)) (x i))

/-- `qblk` pushes one scale byte and each lane's code of the block that all 32 lanes form, a lane that does not contribute
counting as +0; `dqblk` its product with a code; `pk4` and `upk4` move nibbles between the lanes (R192, R193, R194). -/
def Obligations.BlockQuantisation : Prop :=
  ∀ (s : Sys2Proof.Machine.State) (c : Sys2Proof.Machine.Cur) (gd : Sys2Proof.Guard), s.cur = some c →
    let on := c.on gd
    let types : List (Sys2Proof.BlkTy × Nat) := [(.ui, 0), (.e2m1, 1), (.pow2, 2), (.ilog, 3)]
    let block : List Sys2Proof.Machine.Num := (List.range 32).map (fun l => if Sys2Proof.Machine.laneOn on l
      then Sys2Proof.Machine.Fl.f32.decode (Sys2Proof.Claims.arg c 1 0 l).toNat else .fin false 0 0)
    let nib (l : Nat) : Nat := if Sys2Proof.Machine.laneOn on l then (Sys2Proof.Claims.arg c 1 0 l).toNat % 16 else 0
    (1 ≤ c.r.stk.length → ∀ ty ∈ types,
      let q := Sys2Proof.Machine.quantBlock block ty.2
      Sys2Proof.Claims.LaneWise (.qblk gd ty.1) s c on 1 2
        (fun l _ => [BitVec.ofNat 32 q.1, BitVec.ofNat 32 (q.2.1.getD l 0)]) (if on = 0 then 0 else q.2.2)) ∧
    (2 ≤ c.r.stk.length → ∀ f ∈ [(Sys2Proof.SFmt.f32, Sys2Proof.Machine.Fl.f32), (.f16, .f16), (.bf16, .bf16)],
      let v (ws : List Sys2Proof.Word) := Sys2Proof.Claims.one32 (f.2.ofNum .rn
        (Sys2Proof.Machine.blockElem ((ws.getD 0 0).toNat % 256) ((ws.getD 1 0).toNat % 16)))
      Sys2Proof.Claims.LaneWise (.dqblk gd f.1) s c on 2 1 (fun _ ws => (v ws).1)
        (Sys2Proof.Claims.anyLane on (fun l => (v (Sys2Proof.Claims.args c.r 2 l)).2))) ∧
    (1 ≤ c.r.stk.length →
      Sys2Proof.Claims.LaneWise (.pk4 gd) s c on 1 1
        (fun l _ => [BitVec.ofNat 32 (((List.range 8).map (fun i => nib (8 * (l % 4) + i) * 16 ^ i)).sum)]) 0 ∧
      Sys2Proof.Claims.LaneWise (.upk4 gd) s c on 1 1
        (fun l _ => [BitVec.ofNat 32 (if Sys2Proof.Machine.laneOn on (l / 8)
          then (Sys2Proof.Claims.arg c 1 0 (l / 8)).toNat / 16 ^ (l % 8) % 16 else 0)]) 0)

namespace Sys2Proof.Claims

open Sys2Proof.Machine

/-- Mix64 of R203. -/
def mix (z : Nat) : Nat :=
  let z := (z ^^^ z / 2 ^ 31) * 0xD6E8FEB86659FD93 % 2 ^ 64
  let z := (z ^^^ z / 2 ^ 29) * 0xA2B3C4D5E6F71839 % 2 ^ 64
  z ^^^ z / 2 ^ 32

/-- NextCoin of R203 on a value of DCOIN: the coin, and DCOIN after it. -/
def coinAt (c : Cur) (d : Word) (id : Nat) : Nat × Word :=
  let count := d.toNat / 2 ^ 6 % 64 + 1
  let pos := d.toNat / 2 ^ 12 % 64
  if d.toNat / 2 ^ 31 = 1 then
    ((c.uniform ((d.toNat % 64 + pos % count) % 64)).toNat % 2 ^ 24,
     BitVec.ofNat 32 (d.toNat - pos * 2 ^ 12 + (pos % count + 1) % count * 2 ^ 12))
  else (mix (mix ((c.r.drctr.toNat * 256 + id) % 2 ^ 64) ^^^ c.r.dkey.toNat) / 2 ^ 40, d)

/-- Coins drawn one after the other, with the numbers they are drawn for, and DCOIN after them. -/
def coinsOf (c : Cur) : Word → List Nat → List (Nat × Nat) × Word
  | d, [] => ([], d)
  | d, id :: ids => let u := coinAt c d id; let t := coinsOf c u.2 ids; ((id, u.1) :: t.1, t.2)

/-- The coin drawn for a number. -/
def coinFor (us : List (Nat × Nat)) (id : Nat) : Nat := match us.find? (fun x => x.1 == id) with | some x => x.2 | none => 0

/-- RoundNE of R204. -/
def roundNE (q : ℚ) : Int :=
  if q - ⌊q⌋ < 1 / 2 ∨ (q - ⌊q⌋ = 1 / 2 ∧ ⌊q⌋ % 2 = 0) then ⌊q⌋ else ⌊q⌋ + 1

/-- Exp2Fix of R204, of a number d ≤ 0 or -∞. -/
noncomputable def exp2At (code : Nat) : Int :=
  match Fl.f32.decode code with
  | .fin _ _ _ =>
    let d := codeRat .f32 code
    if d < -64 then 0 else
    let n := roundNE (|d| * 2 ^ 24)
    let z := n % 2 ^ 18
    let p := 2 ^ 30 - drawC1 * z / 2 ^ 24 + drawC2 * z ^ 2 / 2 ^ 48 - drawC3 * z ^ 3 / 2 ^ 72
    drawT (n % 2 ^ 24 / 2 ^ 18).toNat * p / 2 ^ 30 / 2 ^ (n / 2 ^ 24).toNat
  | _ => 0

/-- Lse2i of R204: an f32 code. -/
noncomputable def lseAt (code : Nat) : Nat :=
  let m := 2 ^ 30 + exp2At code
  if 2 ^ 31 ≤ m then 0x3F800000 else
  let j := ((m - 2 ^ 30) / 2 ^ 24).toNat
  let v := m * drawRc j / 2 ^ 30 - 2 ^ 30
  let q := drawK1 * v / 2 ^ 30 - drawK2 * v ^ 2 / 2 ^ 60 + drawK3 * v ^ 3 / 2 ^ 90 - drawK4 * v ^ 4 / 2 ^ 120
  (Fl.f32.roundInt .rn (drawLt j + q) (-30) false).1

/-- Merge of R205, of the lower or deeper pair, the upper one and a coin. -/
noncomputable def merge (a b : Nat × Word) (u : Nat) : Nat × Word :=
  let less (x y : Nat) : Bool := numCmp (Fl.f32.decode x) (Fl.f32.decode y) == .lt
  let minus (x y : Nat) : Nat := (Fl.f32.add .rn (Fl.f32.decode x) (Fl.f32.decode y).neg).1
  if a.1 = 0xFF800000 ∧ b.1 = 0xFF800000 then (0xFF800000, 0xFFFFFFFF)
  else if b.1 = 0xFF800000 then a else if a.1 = 0xFF800000 then b
  else if a.1 = 0x7F800000 ∧ b.1 = 0x7F800000 then (if b.2.toNat < a.2.toNat then b else a)
  else if a.1 = 0x7F800000 then a else if b.1 = 0x7F800000 then b
  else
    let hi := if less a.1 b.1 then b.1 else a.1
    let lo := if less a.1 b.1 then a.1 else b.1
    let lw := (Fl.f32.add .rn (Fl.f32.decode hi) (Fl.f32.decode (lseAt (minus lo hi)))).1
    (lw, if (u : Int) < min (2 ^ 24) (exp2At (minus b.1 lw) / 2 ^ 6) then b.2 else a.2)

/-- Leaf of R206, with the scale `s`; `top`: no contributing lane of the segment has a greater number. The pair, and its flags. -/
def leaf (s : Nat) (top : Bool) (x i : Word) : (Nat × Word) × BitVec 6 :=
  let n := Fl.f32.decode x.toNat
  let k := Fl.f32.decode s
  let none_ : Nat × Word := (0xFF800000, 0xFFFFFFFF)
  if n.isNan then (none_, 1)
  else if k.isNan || (2 ^ 31 < s) then (none_, 1)
  else if x = 0xFF800000 then (none_, 0)
  else if x = 0x7F800000 then ((0x7F800000, i), 0)
  else if s = 0x7F800000 then (if top then (0x7F800000, i) else none_, 0)
  else
    let y := Fl.f32.mul .rn n k
    (if y.1 = 0xFF800000 then none_ else (y.1, i), y.2)

/-- Node `i` of level `j` of the tree holds a value: a lane below it contributes (R116). -/
def holdsAt (on : Mask) : Nat → Nat → Bool
  | 0, i => laneOn on i
  | j + 1, i => holdsAt on j (2 * i) || holdsAt on j (2 * i + 1)

/-- The numbers of the nodes that take a coin, of levels 1 to `k` (R206). -/
def coinNodes (on : Mask) (k : Nat) : List Nat :=
  (List.range k).flatMap (fun j => ((List.range (32 / 2 ^ (j + 1))).filter (fun n =>
    holdsAt on j (2 * n) && holdsAt on j (2 * n + 1))).map (fun n => 32 * (j + 1) + 2 ^ (j + 1) * n))

/-- The pair of a node of the tree of R206. -/
noncomputable def drawNode (leaves : Nat → Option (Nat × Word)) (us : List (Nat × Nat)) : Nat → Nat → Option (Nat × Word)
  | 0, i => leaves i
  | j + 1, i => match drawNode leaves us j (2 * i), drawNode leaves us j (2 * i + 1) with
    | some a, some b => some (merge a b (coinFor us (32 * (j + 1) + 2 ^ (j + 1) * i)))
    | some a, none => some a
    | none, b => b

/-- A carried lw: a NaN counts as -∞ (R207). -/
def carried (w : Word) : Nat := if 0x7F800000 < w.toNat % 2 ^ 31 then 0xFF800000 else w.toNat

end Sys2Proof.Claims

/-- `draw` gives the contributing lanes of a segment the pair at the root of the tree whose leaves R206 says and whose nodes with
two values merge them by R205 with a coin of their number, or zero mass; pM tells which. `drawm` merges its two pairs in each lane
with coin 192 + l, a NaN counting as zero mass; `coin` pushes coin 224 + l. The coins are those of R203, from the uniform registers
with POS moving on or from the keyed generator, in the order of their numbers; the helpers of R204 stand over the model's constants
(`DrawConstants`). Each instruction counts once in DRCTR and raises the flags that R206 and R207 name. `dkey` sets key and counter
from the lowest guarded-on lane, and with none sets nothing (R116, R202 to R209). -/
def Obligations.Draws : Prop :=
  ∀ (s : Sys2Proof.Machine.State) (c : Sys2Proof.Machine.Cur) (gd : Sys2Proof.Guard), s.cur = some c →
    let on := c.on gd
    let counted (i : Sys2Proof.Instr) (a b : Nat) (f : Nat → List Sys2Proof.Word) (r' : Sys2Proof.Machine.Run) : Prop :=
      Sys2Proof.Machine.exec i s = .next (Sys2Proof.Claims.done s c r') ∧
      Sys2Proof.Claims.Moved c.r { r' with drctr := c.r.drctr, dcoin := c.r.dcoin, prd := c.r.prd } ∧
      Sys2Proof.Claims.Replaces c.r r' on a b (fun l _ => f l) ∧ r'.drctr = c.r.drctr + 1
    let lanes := (List.range 32).filter (Sys2Proof.Machine.laneOn on)
    let words (p : Nat × Sys2Proof.Word) : List Sys2Proof.Word := [BitVec.ofNat 32 p.1, p.2]
    let nan (w : Sys2Proof.Word) : Bool := (Sys2Proof.Machine.Fl.f32.decode w.toNat).isNan
    (2 ≤ c.r.stk.length → c.r.segw.toNat ≤ 4 → ∀ (k : BitVec 6) (p : BitVec 4),
      let x (l : Nat) : Sys2Proof.Word := Sys2Proof.Claims.arg c 2 0 l
      let top (l : Nat) : Bool := (Sys2Proof.Claims.contrib c on l).all (fun i => nan (x i) ||
        Sys2Proof.Machine.numCmp (Sys2Proof.Machine.Fl.f32.decode (x l).toNat) (Sys2Proof.Machine.Fl.f32.decode (x i).toNat) != .lt)
      let leaf (l : Nat) := Sys2Proof.Claims.leaf (c.uniform k.toNat).toNat (top l) (x l) (Sys2Proof.Claims.arg c 2 1 l)
      let depth := 5 - c.r.segw.toNat
      let u := Sys2Proof.Claims.coinsOf c c.r.dcoin (Sys2Proof.Claims.coinNodes on depth)
      let root (l : Nat) : Nat × Sys2Proof.Word := (Sys2Proof.Claims.drawNode
        (fun i => if Sys2Proof.Machine.laneOn on i then some (leaf i).1 else none) u.1 depth (l / Sys2Proof.Claims.segW c)).getD (0, 0)
      ∃ r', counted (.draw gd k p) 2 2 (fun l => words (root l)) r' ∧ r'.dcoin = u.2 ∧
        r'.aflags = c.r.aflags ||| Sys2Proof.Claims.anyLane on (fun l => (leaf l).2) ∧
        ∀ n l, l < 32 → ((Sys2Proof.Machine.Cur.mk c.core c.slot c.g r').pred n).getLsbD l =
          if n = p.toNat ∧ Sys2Proof.Machine.laneOn on l then decide ((root l).1 ≠ 0xFF800000) else (c.pred n).getLsbD l) ∧
    (4 ≤ c.r.stk.length →
      let u := Sys2Proof.Claims.coinsOf c c.r.dcoin (lanes.map (192 + ·))
      let a (k l : Nat) : Sys2Proof.Word := Sys2Proof.Claims.arg c 4 k l
      ∃ r', counted (.drawm gd) 4 2 (fun l => words (Sys2Proof.Claims.merge (Sys2Proof.Claims.carried (a 0 l), a 1 l)
          (Sys2Proof.Claims.carried (a 2 l), a 3 l) (Sys2Proof.Claims.coinFor u.1 (192 + l)))) r' ∧ r'.prd = c.r.prd ∧ r'.dcoin = u.2 ∧
        r'.aflags = c.r.aflags ||| Sys2Proof.Claims.anyLane on (fun l => if nan (a 0 l) || nan (a 2 l) then 1 else 0)) ∧
    (let u := Sys2Proof.Claims.coinsOf c c.r.dcoin (lanes.map (224 + ·))
      ∃ r', counted (.coin gd) 0 1 (fun l => [BitVec.ofNat 32 (Sys2Proof.Claims.coinFor u.1 (224 + l))]) r' ∧ r'.prd = c.r.prd ∧
        r'.dcoin = u.2 ∧ r'.aflags = c.r.aflags) ∧
    (4 ≤ c.r.stk.length → ∃ r', Sys2Proof.Machine.exec (.dkey gd) s = .next (Sys2Proof.Claims.done s c r') ∧
      Sys2Proof.Claims.Moved c.r { r' with drctr := c.r.drctr, dkey := c.r.dkey } ∧ r'.stk = c.r.stk.drop 4 ∧
      r'.aflags = c.r.aflags ∧
      match (List.range 32).find? (fun l => Sys2Proof.Machine.laneOn on l) with
      | none => r'.dkey = c.r.dkey ∧ r'.drctr = c.r.drctr
      | some l => r'.dkey = Sys2Proof.dword (Sys2Proof.Claims.arg c 4 0 l) (Sys2Proof.Claims.arg c 4 1 l) ∧
          r'.drctr = (Sys2Proof.dword (Sys2Proof.Claims.arg c 4 2 l) (Sys2Proof.Claims.arg c 4 3 l)).setWidth 56)

/-- The constants of R204 are the nearest integers to the numbers that define them. -/
def Obligations.DrawConstants : Prop :=
  let near (n : Int) (x : ℝ) : Prop := |(n : ℝ) - x| ≤ 1 / 2
  let ln2 := Real.log 2
  (∀ j < 64, near (Sys2Proof.Machine.drawT j) (2 ^ 30 * (2 : ℝ) ^ (-(j : ℝ) / 64)) ∧
    near (Sys2Proof.Machine.drawRc j) (2 ^ 36 / (64 + j)) ∧
    near (Sys2Proof.Machine.drawLt j) (-2 ^ 30 * Real.logb 2 (Sys2Proof.Machine.drawRc j / 2 ^ 30))) ∧
  near Sys2Proof.Machine.drawC1 (2 ^ 30 * ln2) ∧ near Sys2Proof.Machine.drawC2 (2 ^ 29 * ln2 ^ 2) ∧
  near Sys2Proof.Machine.drawC3 (2 ^ 30 * ln2 ^ 3 / 6) ∧
  near Sys2Proof.Machine.drawK1 (2 ^ 30 / ln2) ∧ near Sys2Proof.Machine.drawK2 (2 ^ 29 / ln2) ∧
  near Sys2Proof.Machine.drawK3 (2 ^ 30 / (3 * ln2)) ∧ near Sys2Proof.Machine.drawK4 (2 ^ 28 / ln2)

namespace Sys2Proof.Claims

open Sys2Proof.Machine

/-- The address of lane `l`: the deepest two of `a` popped entries, low word first. -/
def adr (c : Cur) (a l : Nat) : Addr := dword (arg c a 0 l) (arg c a 1 l)

/-- One request for each guarded-on lane, in ascending order. -/
def reqs (on : Mask) (f : Nat → LaneReq) : List LaneReq := ((List.range 32).filter (laneOn on)).map f

/-- The value in the popped entries from number `k` up, low word first. -/
def value (c : Cur) (a k l : Nat) : BitVec 128 := BitVec.ofNat 128 (natOf ((args c.r a l).drop k))

/-- Every guarded-on lane's address passes the checks of R212: its form, its alignment, the watch units, its allocation. -/
def AddrOk (s : State) (c : Cur) (on : Mask) (n : Nat) (acc : Accepts) (rd wr : Bool) (va : Nat → Addr) : Prop :=
  ∀ l < 32, laneOn on l → s.formOk c.g.guest acc (va l) n = true ∧ (va l).toNat % n = 0 ∧
    s.watchHits c.g.guest c.watchOff 0 rd wr (va l).toNat n = 0 ∧
    (aperture (va l) = .scratch → (s.scratchTarget c.core c.g.wslot (va l) n).isSome)

/-- Every guarded-on lane of a synchronising access translates, its path can carry the operation, and the scope checker
passes it (R229, R264, R265). -/
def SyncOk (s : State) (c : Cur) (on : Mask) (sc : Scope) (op : PathOp) (va : Nat → Addr) : Prop :=
  ∀ l < 32, laneOn on l → ∃ pa leaf, s.translate c.g.guest (va l).toNat .write = .ok (pa, leaf) ∧
    (sc = .sys → pathCan leaf op = true) ∧ (sc ≠ .sys → nbits leaf 5 4 = 0) ∧
    s.scopePass c.g.guest (pa / 128) sc (BitVec.ofNat 14 (s.domainOf c.core c.g.wslot sc)) = true

/-- Frame registers `f` to `f + n - 1` lie in the allotment and none is pending (R73, R80). -/
def FrameIdle (c : Cur) (f n : Nat) : Prop := f + n ≤ 8 * c.g.fgran ∧ ∀ p ∈ c.g.pendFrm, ¬(f ≤ p.reg ∧ p.reg < f + n)

/-- The instruction pops `a` entries, pushes `b` pending ones that wait for the item `x` it leaves to the trailer, and
changes nothing else of the run; the rest of the machine is as in `s'`. -/
def Dispatches (i : Instr) (s s' : State) (c : Cur) (a b : Nat) (x : Staged) (fb : Bool) : Prop :=
  ∃ r', exec i s = .next (done s' c r') ∧ Moved c.r { r' with staged := c.r.staged, nofb := c.r.nofb } ∧
    r'.aflags = c.r.aflags ∧ r'.staged = c.r.staged ++ [x] ∧ r'.nofb = (c.r.nofb || fb) ∧
    r'.stk = List.replicate b ⟨[], some c.r.staged.length⟩ ++ c.r.stk.drop a

/-- The scope records a synchronising access makes before commit, and nothing else (R264): one for the line of every
guarded-on lane. Where a slice is full of lines with records, one of its records goes for each that comes, which one the spec
leaves open (log 66). -/
def Recorded (s s' : State) (c : Cur) (on : Mask) (sc : Scope) (va : Nat → Addr) : Prop :=
  s' = { s with scopes := s'.scopes, fresh := s'.fresh } ∧
  ∀ line,
    let want : Option ScopeRec :=
      if (List.range 32).any (fun l => laneOn on l && (match s.translate c.g.guest (va l).toNat .write with
          | .ok p => decide (p.1 / 128 = line) | .error _ => false))
      then some ⟨sc, BitVec.ofNat 14 (s.domainOf c.core c.g.wslot sc), s.dtime, c.g.guest⟩
      else mfind s.scopes line
    (mfind s'.scopes line = want ∨ mfind s'.scopes line = none) ∧
    ((s.scopes.filter (fun x => homeSlice (x.1 * 128) == homeSlice (line * 128))).length + 32 ≤ sliceLines →
      mfind s'.scopes line = want)

/-- The widths of loads: bytes, how they extend, and result entries (R211). -/
def loadWidths : List (LdW × Nat × Ext × Nat) :=
  [(.i8, 1, .sign, 1), (.z8, 1, .zero, 1), (.i16, 2, .sign, 1), (.z16, 2, .zero, 1), (.i32, 4, .zero, 1), (.i64, 8, .zero, 2)]

/-- The widths of stores: bytes and value entries (R221). -/
def storeWidths : List (StW × Nat × Nat) := [(.i8, 1, 1), (.i16, 2, 1), (.i32, 4, 1), (.i64, 8, 2)]

/-- An integer of `n` little-endian bytes as result entries. -/
def loaded (n : Nat) (sign : Bool) (v : Nat) : List Word :=
  if n = 8 then [BitVec.ofNat 32 v, BitVec.ofNat 32 (v / 2 ^ 32)]
  else if sign && decide (2 ^ (8 * n - 1) ≤ v) then [BitVec.ofInt 32 ((v : Int) - 2 ^ (8 * n))] else [BitVec.ofNat 32 v]

end Sys2Proof.Claims

/-- A load of every width and form whose addresses pass leaves its access to the trailer and pushes pending entries, or, in
the `.f` form, leaves the named registers to be filled; the witness forms consume a witness first (R211, R214, R216, R217). -/
def Sys2Proof.Claims.Loads : Prop :=
  ∀ (s : Sys2Proof.Machine.State) (c : Sys2Proof.Machine.Cur) (gd : Sys2Proof.Guard) (f : BitVec 8), s.cur = some c →
    let on := c.on gd
    let va (a l : Nat) := Sys2Proof.Claims.adr c a l
    let ok (a n : Nat) := Sys2Proof.Claims.AddrOk s c on n ⟨true, true⟩ true false (va a)
    let plain (l : Nat) : Sys2Proof.Machine.LaneReq := ⟨l, va 2 l, 0, 0, 0⟩
    let wit (l : Nat) : Option Sys2Proof.DWord := s.consume c.core c.g
      (Sys2Proof.dword (Sys2Proof.Claims.arg c 4 2 l) (Sys2Proof.Claims.arg c 4 3 l))
    let witOk := ∀ l < 32, Sys2Proof.Machine.laneOn on l → (wit l).isSome
    let witReq (l : Nat) : Sys2Proof.Machine.LaneReq := ⟨l, va 4 l, 0, 0, (wit l).getD 0⟩
    (∀ w ∈ Sys2Proof.Claims.loadWidths,
      (2 ≤ c.r.stk.length → ok 2 w.2.1 →
        Sys2Proof.Claims.Dispatches (.ld gd w.1) s s c 2 w.2.2.2
          (.load w.2.1 w.2.2.1 false none (Sys2Proof.Claims.reqs on plain)) false ∧
        (Sys2Proof.Claims.FrameIdle c f.toNat w.2.2.2 → Sys2Proof.Claims.Stages (.ldF gd f w.1) s c 2
          [.load w.2.1 w.2.2.1 false (some f.toNat) (Sys2Proof.Claims.reqs on plain)] false)) ∧
      (4 ≤ c.r.stk.length → ok 4 w.2.1 → witOk →
        Sys2Proof.Claims.Dispatches (.ldw gd w.1) s s c 4 w.2.2.2
          (.load w.2.1 w.2.2.1 true none (Sys2Proof.Claims.reqs on witReq)) false ∧
        (Sys2Proof.Claims.FrameIdle c f.toNat w.2.2.2 → Sys2Proof.Claims.Stages (.ldwF gd f w.1) s c 4
          [.load w.2.1 w.2.2.1 true (some f.toNat) (Sys2Proof.Claims.reqs on witReq)] false))) ∧
    (2 ≤ c.r.stk.length → ok 2 16 →
      Sys2Proof.Claims.Dispatches (.ldq gd) s s c 2 4 (.load 16 .zero false none (Sys2Proof.Claims.reqs on plain)) false ∧
      (Sys2Proof.Claims.FrameIdle c f.toNat 4 → Sys2Proof.Claims.Stages (.ldqF gd f) s c 2
        [.load 16 .zero false (some f.toNat) (Sys2Proof.Claims.reqs on plain)] false))

/-- A plain store of every width leaves the lanes' bytes to the trailer; `stw` in each scope records the scope, and pushes
its witness pending; `prf` asks only for lanes whose address has a good form and never faults (R221, R222, R224, R225). -/
def Sys2Proof.Claims.Stores : Prop :=
  ∀ (s : Sys2Proof.Machine.State) (c : Sys2Proof.Machine.Cur) (gd : Sys2Proof.Guard), s.cur = some c →
    let on := c.on gd
    let req (a l : Nat) : Sys2Proof.Machine.LaneReq := ⟨l, Sys2Proof.Claims.adr c a l, Sys2Proof.Claims.value c a 2 l, 0, 0⟩
    (∀ w ∈ Sys2Proof.Claims.storeWidths, 2 + w.2.2 ≤ c.r.stk.length →
      let a := 2 + w.2.2
      (Sys2Proof.Claims.AddrOk s c on w.2.1 ⟨true, true⟩ false true (Sys2Proof.Claims.adr c a) →
        Sys2Proof.Claims.Stages (.st gd w.1) s c a [.store w.2.1 (Sys2Proof.Claims.reqs on (req a))] false) ∧
      (Sys2Proof.Claims.AddrOk s c on w.2.1 ⟨false, false⟩ false true (Sys2Proof.Claims.adr c a) →
        ∀ x ∈ [(Sys2Proof.Scope.wg, Sys2Proof.Instr.stwWg gd w.1), (.dev, .stwDev gd w.1), (.sys, .stwSys gd w.1)],
          Sys2Proof.Claims.SyncOk s c on x.1 .plain (Sys2Proof.Claims.adr c a) →
          ∃ s', Sys2Proof.Claims.Recorded s s' c on x.1 (Sys2Proof.Claims.adr c a) ∧
            Sys2Proof.Claims.Dispatches x.2 s s' c a 2 (.stw x.1 w.2.1 (Sys2Proof.Claims.reqs on (req a))) false)) ∧
    (6 ≤ c.r.stk.length → Sys2Proof.Claims.AddrOk s c on 16 ⟨true, true⟩ false true (Sys2Proof.Claims.adr c 6) →
      Sys2Proof.Claims.Stages (.stq gd) s c 6 [.store 16 (Sys2Proof.Claims.reqs on (req 6))] false) ∧
    (2 ≤ c.r.stk.length → Sys2Proof.Claims.Stages (.prf gd) s c 2
      [.prf (((List.range 32).filter (fun l => Sys2Proof.Machine.laneOn on l &&
          s.formOk c.g.guest ⟨true, true⟩ (Sys2Proof.Claims.adr c 2 l) 1)).map
        (fun l => ⟨l, Sys2Proof.Claims.adr c 2 l, 0, 0, 0⟩))] false)

/-- An address whose form passes and that is not a multiple of the access size faults ALIGN precisely: the lanes that are
misaligned are the fault's lanes, each with its address, and the run rolls back with nothing of it done (R81, R212, R365). -/
def Sys2Proof.Claims.AlignmentFaults : Prop :=
  ∀ (s : Sys2Proof.Machine.State) (c : Sys2Proof.Machine.Cur) (gd : Sys2Proof.Guard) (i : Sys2Proof.Instr) (a n : Nat),
    s.cur = some c →
    (i, a, n) ∈ [(Sys2Proof.Instr.ld gd .i16, 2, 2), (.ld gd .z16, 2, 2), (.ld gd .i32, 2, 4), (.ld gd .i64, 2, 8), (.ldq gd, 2, 16),
      (.st gd .i16, 3, 2), (.st gd .i32, 3, 4), (.st gd .i64, 4, 8), (.stq gd, 6, 16)] →
    let bad (l : Nat) : Bool := Sys2Proof.Machine.laneOn (c.on gd) l && decide ((Sys2Proof.Claims.adr c a l).toNat % n ≠ 0)
    (∀ l < 32, Sys2Proof.Machine.laneOn (c.on gd) l → s.formOk c.g.guest ⟨true, true⟩ (Sys2Proof.Claims.adr c a l) n = true) →
    (∃ l < 32, bad l = true) →
    ∃ m : Sys2Proof.Mask, (∀ l < 32, m.getLsbD l = bad l) ∧
      Sys2Proof.Machine.exec i s = .next (s.preciseFault c Sys2Proof.Machine.cAlign m
        (((List.range 32).filter bad).map (fun l => (l, Sys2Proof.Claims.adr c a l)))).refresh

/-- `lds` and `sts` on offsets that are aligned and inside the allocation, with no copy in flight over them: `lds` pushes
the scratchpad's bytes, sign- or zero-extended, in a run that has stored none of its own, and 0 in guarded-off lanes; `sts`
leaves its bytes to the trailer (R90, R218). -/
def Sys2Proof.Claims.ScratchpadAccess : Prop :=
  ∀ (s : Sys2Proof.Machine.State) (c : Sys2Proof.Machine.Cur) (gd : Sys2Proof.Guard), s.cur = some c →
    let on := c.on gd
    let base := (s.allocOf c).2
    let ok (a n : Nat) : Prop := ∀ l < 32, Sys2Proof.Machine.laneOn on l →
      let off := (Sys2Proof.Claims.arg c a 0 l).toNat
      off % n = 0 ∧ off + n ≤ (s.allocOf c).1 ∧ s.scoreHit c.core (base + off) n = false
    (∀ w ∈ Sys2Proof.Claims.loadWidths, 1 ≤ c.r.stk.length → ok 1 w.2.1 → (∀ n ls, Sys2Proof.Machine.Staged.sts n ls ∉ c.r.staged) →
      Sys2Proof.Claims.LaneWise (.lds gd w.1) s c 0xFFFFFFFF 1 w.2.2.2
        (fun l _ => if Sys2Proof.Machine.laneOn on l
          then Sys2Proof.Claims.loaded w.2.1 (decide (w.2.2.1 = .sign))
            (Sys2Proof.Machine.rdLE (s.scratchOf c.core) (base + (Sys2Proof.Claims.arg c 1 0 l).toNat) w.2.1)
          else List.replicate w.2.2.2 0) 0) ∧
    (∀ w ∈ Sys2Proof.Claims.storeWidths, 1 + w.2.2 ≤ c.r.stk.length → ok (1 + w.2.2) w.2.1 →
      Sys2Proof.Claims.Stages (.sts gd w.1) s c (1 + w.2.2) [.sts w.2.1 (Sys2Proof.Claims.reqs on (fun l =>
        ⟨l, (Sys2Proof.Claims.arg c (1 + w.2.2) 0 l).setWidth 64, Sys2Proof.Claims.value c (1 + w.2.2) 1 l, 0, 0⟩))] false)

namespace Sys2Proof.Claims

open Sys2Proof.Machine

/-- The atomics of R227 and R228: constructor, operation, entries of a value, whether min and max compare signed, and
operand entries above the address. -/
def atomics (gd : Guard) (x : AtOp) : List (Instr × AtomOp × Nat × Bool × Nat) :=
  ([(OpW.w32, 1), (.w64, 2)] : List (OpW × Nat)).flatMap (fun w =>
    ([(.aadd gd w.1 x, .add, w.2, true, w.2), (.aand gd w.1 x, .and, w.2, true, w.2), (.aor gd w.1 x, .or, w.2, true, w.2),
      (.axor gd w.1 x, .xor, w.2, true, w.2), (.axch gd w.1 x, .xch, w.2, true, w.2), (.acas gd w.1 x, .cas, w.2, true, 2 * w.2)]
      : List (Instr × AtomOp × Nat × Bool × Nat))) ++
  [(.amin32 gd false x, .min, 1, true, 1), (.amin32 gd true x, .min, 1, false, 1), (.amax32 gd false x, .max, 1, true, 1),
   (.amax32 gd true x, .max, 1, false, 1), (.amin64 gd false x, .min, 2, true, 2), (.amin64 gd true x, .min, 2, false, 2),
   (.amax64 gd false x, .max, 2, true, 2), (.amax64 gd true x, .max, 2, false, 2), (.afadd gd x, .fadd, 1, true, 1)]

/-- The class of an atomic in the path table (R265). -/
def pathClass : AtomOp → PathOp
  | .add | .xch | .cas => .exch
  | .fadd => .fadd
  | .min | .max | .and | .or | .xor => .other

end Sys2Proof.Claims

/-- Every atomic, in every type and scope, with or without a witness, whose addresses are global, aligned, translated and
passed by the scope checker, leaves its access to the trailer, pushes old (and the witness) pending, records its scope and
sets the no-flashback flag (R227, R229). -/
def Sys2Proof.Claims.Atomics : Prop :=
  ∀ (s : Sys2Proof.Machine.State) (c : Sys2Proof.Machine.Cur) (gd : Sys2Proof.Guard) (x : Sys2Proof.AtOp), s.cur = some c →
    ∀ q ∈ Sys2Proof.Claims.atomics gd x,
    let on := c.on gd
    let a := 2 + q.2.2.2.2
    let n := q.2.2.1
    let b := if x.w then n + 2 else n
    let cas := q.2.1 = .cas
    a ≤ c.r.stk.length →
    Sys2Proof.Claims.AddrOk s c on (4 * n) ⟨false, false⟩ true true (Sys2Proof.Claims.adr c a) →
    Sys2Proof.Claims.SyncOk s c on x.scope (Sys2Proof.Claims.pathClass q.2.1) (Sys2Proof.Claims.adr c a) →
    ∃ s', Sys2Proof.Claims.Recorded s s' c on x.scope (Sys2Proof.Claims.adr c a) ∧
      Sys2Proof.Claims.Dispatches q.1 s s' c a b (.atomic q.2.1 (4 * n) q.2.2.2.1 x.scope x.w (Sys2Proof.Claims.reqs on (fun l =>
        ⟨l, Sys2Proof.Claims.adr c a l,
         if cas then Sys2Proof.Claims.value c a (2 + n) l else Sys2Proof.Claims.value c a 2 l,
         if cas then BitVec.ofNat 64 (Sys2Proof.Claims.natOf (((Sys2Proof.Claims.args c.r a l).drop 2).take n)) else 0, 0⟩))) true

/-- The witness instructions: `wnull` pushes the null witness; `wmax` of a witness with the null one is that witness, and of
two of one scope and domain the later; `wexp` pushes 1 for the null witness and for an expired one that is not void, `wscp`
the scope with bits for consumable and expired, 0 in guarded-off lanes; `wwait` leaves its bounds to the trailer where
every witness is consumable, and faults SCOPE_MISMATCH in the lanes whose witness is not (R230 to R237). -/
def Sys2Proof.Claims.Witnesses : Prop :=
  ∀ (s : Sys2Proof.Machine.State) (c : Sys2Proof.Machine.Cur) (gd : Sys2Proof.Guard), s.cur = some c →
    let on := c.on gd
    let wit (a k l : Nat) : Sys2Proof.DWord := Sys2Proof.dword (Sys2Proof.Claims.arg c a k l) (Sys2Proof.Claims.arg c a (k + 1) l)
    let scope (w : Sys2Proof.DWord) : Nat := w.toNat / 2 ^ 62
    let dom (w : Sys2Proof.DWord) : Nat := w.toNat / 2 ^ 48 % 2 ^ 14
    let expired (w : Sys2Proof.DWord) : Bool := decide ((if scope w = 3 then 2112 else 2048) ≤ (s.dtime - w.setWidth 48).toInt)
    let one (w : Sys2Proof.DWord) : Bool := decide (scope w = 0) || (!(decide (scope w = 1) && decide (dom w = 0x3FFF)) && expired w)
    Sys2Proof.Claims.LaneWise (.wnull gd) s c on 0 2 (fun _ _ => [0, 0]) 0 ∧
    (4 ≤ c.r.stk.length → ∃ f : Nat → Sys2Proof.DWord,
      Sys2Proof.Claims.LaneWise (.wmax gd) s c on 4 2 (fun l _ => [Sys2Proof.loWord (f l), Sys2Proof.hiWord (f l)]) 0 ∧
      ∀ l < 32, (scope (wit 4 0 l) = 0 → f l = wit 4 2 l) ∧ (scope (wit 4 0 l) ≠ 0 → scope (wit 4 2 l) = 0 → f l = wit 4 0 l) ∧
        (scope (wit 4 0 l) ≠ 0 → scope (wit 4 0 l) = scope (wit 4 2 l) → dom (wit 4 0 l) = dom (wit 4 2 l) →
          f l = if 0 < ((wit 4 2 l).setWidth 48 - (wit 4 0 l).setWidth 48 : Sys2Proof.DTime).toInt then wit 4 2 l else wit 4 0 l)) ∧
    (2 ≤ c.r.stk.length →
      Sys2Proof.Claims.LaneWise (.wexp gd) s c c.r.mask 2 1
        (fun l _ => [if Sys2Proof.Machine.laneOn on l && one (wit 2 0 l) then 1 else 0]) 0 ∧
      Sys2Proof.Claims.LaneWise (.wscp gd) s c c.r.mask 2 1
        (fun l _ => [if Sys2Proof.Machine.laneOn on l then BitVec.ofNat 32 (scope (wit 2 0 l) +
            (if (s.consume c.core c.g (wit 2 0 l)).isSome then 4 else 0) + (if one (wit 2 0 l) then 8 else 0)) else 0]) 0 ∧
      ((∀ l < 32, Sys2Proof.Machine.laneOn on l → (s.consume c.core c.g (wit 2 0 l)).isSome) →
        let seen := (((List.range 32).filter (Sys2Proof.Machine.laneOn on)).map
          (fun l => (s.consume c.core c.g (wit 2 0 l)).getD 0)).filter (fun w => decide (scope w ≠ 0))
        Sys2Proof.Claims.Stages (.wwait gd) s c 2 [.dropL1
          (seen.map (fun w => if scope w = 3 then w.setWidth 48 + 64 else w.setWidth 48))
          (seen.any (fun w => decide (scope w = 1)))] false) ∧
      ((∃ l < 32, Sys2Proof.Machine.laneOn on l ∧ s.consume c.core c.g (wit 2 0 l) = none) → ∃ m : Sys2Proof.Mask,
        (∀ l < 32, m.getLsbD l = (Sys2Proof.Machine.laneOn on l && (s.consume c.core c.g (wit 2 0 l)).isNone)) ∧
        Sys2Proof.Machine.exec (.wwait gd) s = .next (s.preciseFault c Sys2Proof.Machine.cScope m []).refresh))

/-- The loads and stores of lanes: what they send off, and what they leave as it was. -/
def Obligations.LoadsAndStores : Prop :=
  Sys2Proof.Claims.Loads ∧ Sys2Proof.Claims.Stores

/-- Alignment faults of lane accesses, and accesses to the scratchpad. -/
def Obligations.LaneAccessFaultsAndScratchpad : Prop :=
  Sys2Proof.Claims.AlignmentFaults ∧ Sys2Proof.Claims.ScratchpadAccess

/-- Atomics, which leave their access to the trailer with a scope record made (R227, R229, R264), and the instructions on
witnesses: what they push, and what consumes a witness (R231 to R236). -/
def Obligations.AtomicsAndWitnesses : Prop :=
  Sys2Proof.Claims.Atomics ∧ Sys2Proof.Claims.Witnesses
namespace Sys2Proof.Claims

open Sys2Proof.Machine

/-- One bit as a number. -/
def b2n (b : Bool) : Nat := if b then 1 else 0

/-- The pages that earlier `pgmap`s of the run map at its trailer, seen by the run alone (R77, R284; log 30). -/
def ownPages (c : Cur) : List (Nat × Nat × Nat) :=
  c.r.staged.flatMap (fun x => match x with | .pgmap ps => ps | _ => [])

/-- The system registers of R267 to R273: number, whether a user-mode read faults PRIV, entries, and value in a lane. -/
def sysRegs (s : State) (c : Cur) : List (Nat × Bool × Nat × (Nat → Nat)) :=
  let x := s.ctx c.g.guest
  [(0x000, false, 1, fun _ => b2n c.g.sup + 2 * b2n c.g.step + 4 * b2n c.g.nofb
      + 8 * b2n (s.growq.any (fun q => decide (q.core = c.core) && decide (q.slot = c.slot) && !q.granted))
      + 16 * min c.g.runs 1023 + 65536 * c.slot + 2 ^ 22 * c.core),
   (0x001, false, 1, fun _ => c.r.aflags.toNat), (0x002, false, 1, fun _ => c.r.segw.toNat),
   (0x003, false, 2, fun _ => c.r.dkey.toNat), (0x004, false, 2, fun _ => c.r.drctr.toNat),
   (0x005, false, 1, fun _ => c.r.dcoin.toNat),
   (0x006, false, 1, fun _ => c.g.ld.toNat + 256 * c.g.st.toNat + 65536 * c.g.cp.toNat + 2 ^ 24 * c.g.tl.toNat),
   (0x007, false, 1, fun _ => c.g.fgran), (0x008, false, 2, fun _ => c.g.pb.toNat),
   (0x010, true, 1, fun _ => c.g.xcause.toNat), (0x011, true, 2, fun _ => c.r.xpc.toNat),
   (0x012, true, 1, fun _ => c.g.xmask.toNat), (0x013, true, 2, fun l => (mget c.g.xaddr l 0).toNat),
   (0x014, true, 2, fun _ => x.xvec.toNat), (0x020, false, 1, fun _ => x.asgen.toNat),
   (0x021, true, 2, fun _ => x.asroot.toNat), (0x022, false, 2, fun _ => x.ptmbase.toNat),
   (0x023, false, 2, fun _ => x.ptmsize.toNat), (0x024, true, 2, fun _ => x.poolbase.toNat),
   (0x025, true, 2, fun _ => (x.poolnext.toNat + 65536 * (ownPages c).length) % 2 ^ 64), (0x026, true, 2, fun _ => x.poolend.toNat),
   (0x027, false, 1, fun _ => 65536 * x.errcnt.toNat + b2n x.ctxerr), (0x028, false, 2, fun _ => s.dtime.toNat),
   (0x029, false, 2, fun _ => (s.lstartOf c.g).toNat), (0x02A, false, 1, fun _ => s.dev.pkgid.toNat)] ++
  (List.range 8).map (fun k => (0x030 + k, false, 1, fun _ => (s.dev.sema.getD k 0).toNat)) ++
  (List.range 4).map (fun k => (0x040 + k, false, 1, fun _ =>
    let w := x.watch.getD k Watch.off
    b2n w.armed + 2 * b2n w.lock + 4 * b2n w.hit))

/-- The registers a run writes at once (R274): number, entries, and the run with value `v` written. -/
def sysWrites : List (Nat × Bool × Nat × (Run → DWord → Run)) :=
  [(0x001, false, 1, fun r v => { r with aflags := r.aflags &&& ~~~(v.setWidth 6) }),
   (0x003, false, 2, fun r v => { r with dkey := v }), (0x004, false, 2, fun r v => { r with drctr := v.setWidth 56 }),
   (0x005, false, 1, fun r v => { r with dcoin := v.setWidth 32 &&& 0x8003FFFF }), (0x011, true, 2, fun r v => { r with xpc := v }),
   (0x009, false, 1, fun r v => { r with staged := r.staged ++ [.mxflags (v.setWidth 32)] })] ++
  (List.range 4).map (fun k => (0x040 + k, true, 1, fun r v => { r with staged := r.staged ++ [.wstat k (v.setWidth 32)] }))

/-- The lowest guarded-on lane. -/
def lowest (on : Mask) : Option Nat := (List.range 32).find? (fun l => laneOn on l)

end Sys2Proof.Claims

/-- `mfs` pushes, in every guarded-on lane, the value of each register of R267 to R273 that the mode may read, low word
first; a register of the supervisor faults PRIV in user mode, in every active lane (R266, R267, R268, R273). -/
def Sys2Proof.Claims.SystemRegisterReads : Prop :=
  ∀ (s : Sys2Proof.Machine.State) (c : Sys2Proof.Machine.Cur) (gd : Sys2Proof.Guard) (n : BitVec 12), s.cur = some c →
    (∀ q ∈ Sys2Proof.Claims.sysRegs s c, n.toNat = q.1 →
      if q.2.1 ∧ c.g.sup = false then
        Sys2Proof.Machine.exec (.mfs gd n) s = .next (s.preciseFault c Sys2Proof.Machine.cPriv c.r.mask []).refresh
      else Sys2Proof.Claims.LaneWise (.mfs gd n) s c (c.on gd) 0 q.2.2.1
        (fun l _ => (List.range q.2.2.1).map (fun k => BitVec.ofNat 32 (q.2.2.2 l / 2 ^ (32 * k)))) 0) ∧
    (n.toNat = 0x009 → ∃ v : Sys2Proof.Word, Sys2Proof.Claims.LaneWise (.mfs gd n) s c (c.on gd) 0 1 (fun _ _ => [v]) 0 ∧
      ∀ w q, s.wgroup c.core c.g.wslot = some w → w.seq = some q → v = q.mxflags.setWidth 32) ∧
    (Sys2Proof.isSysReg n = false → ∀ i ∈ [Sys2Proof.Instr.mfs gd n, .mts gd n],
      Sys2Proof.Machine.exec i s = .next (s.preciseFault c Sys2Proof.Machine.cIllegal c.r.mask []).refresh)

/-- `mts` writes each register that the mode may write, from the lowest guarded-on lane; with none it writes nothing; it
sets the no-flashback flag; a read-only register, or one of the supervisor in user mode, faults PRIV; SEGW refuses the
codes 5 to 7; ASGEN waits until no synchronising access of the context is in flight, nor any access that bears the new
generation, or one that an earlier `mts` of its run will have made it pass; DCOIN keeps its reserved bits 0 (R202, R245, R267,
R274). -/
def Sys2Proof.Claims.SystemRegisterWrites : Prop :=
  ∀ (s : Sys2Proof.Machine.State) (c : Sys2Proof.Machine.Cur) (gd : Sys2Proof.Guard) (n : BitVec 12), s.cur = some c →
    let on := c.on gd
    let v (w : Nat) : Sys2Proof.DWord := match Sys2Proof.Claims.lowest on with
      | some l => BitVec.ofNat 64 (Sys2Proof.Claims.natOf (Sys2Proof.Claims.args c.r w l))
      | none => 0
    let writes (w : Nat) (upd : Sys2Proof.Machine.Run → Sys2Proof.DWord → Sys2Proof.Machine.Run) : Prop :=
      ∃ r', Sys2Proof.Machine.exec (.mts gd n) s = .next (Sys2Proof.Claims.done s c r') ∧
        r' = { (if on = 0 then c.r else upd c.r (v w)) with
               stk := c.r.stk.drop w, nofb := true, start := r'.start, ready := r'.ready,
               code := c.r.code.drop c.r.ilen, pc := c.r.pc + BitVec.ofNat 64 (2 * c.r.ilen) }
    let faults (k : Sys2Proof.Machine.Cause) : Prop :=
      Sys2Proof.Machine.exec (.mts gd n) s = .next (s.preciseFault c k c.r.mask []).refresh
    let before := (c.r.staged.filter (fun x => match x with | .asgen => true | _ => false)).length
    let noNew : Prop := ∀ k ≤ before,
      let gen := (s.ctx c.g.guest).asgen + BitVec.ofNat 12 (k + 1)
      (∀ x ∈ s.ops, x.2.guest = c.g.guest → x.2.gen = gen → ∀ l ∈ x.2.lanes, l.st ≠ .todo ∧ l.st ≠ .queued) ∧
      (∀ e ∈ s.aq, e.guest = c.g.guest → e.gen ≠ gen) ∧
      ∀ x ∈ s.groups, x.2.guest = c.g.guest → ∀ e ∈ x.2.sq, e.gen ≠ gen
    (∀ q ∈ Sys2Proof.Claims.sysWrites, n.toNat = q.1 → q.2.2.1 ≤ c.r.stk.length →
      if q.2.1 ∧ c.g.sup = false then faults Sys2Proof.Machine.cPriv else writes q.2.2.1 q.2.2.2) ∧
    (n.toNat = 0x002 → 1 ≤ c.r.stk.length →
      if on ≠ 0 ∧ 5 ≤ (v 1).toNat % 8 then faults Sys2Proof.Machine.cSegForm
      else writes 1 (fun r v => { r with segw := v.setWidth 3 })) ∧
    (n.toNat = 0x020 → 1 ≤ c.r.stk.length →
      (c.g.sup = false → faults Sys2Proof.Machine.cPriv) ∧
      (c.g.sup = true → (∀ x ∈ s.ops, x.2.guest = c.g.guest → x.2.kind ∉ [.stw, .atomic, .ringput]) → noNew →
        writes 1 (fun r _ => { r with staged := r.staged ++ [.asgen] })) ∧
      (c.g.sup = true → on ≠ 0 → ((∃ x ∈ s.ops, x.2.guest = c.g.guest ∧ x.2.kind ∈ [.stw, .atomic, .ringput]) ∨ ¬noNew) →
        Sys2Proof.Machine.exec (.mts gd n) s = .next ((s.putRun c { c.r with holding := true }).pass 1))) ∧
    (n.toNat ∈ [0x000, 0x006, 0x007, 0x008, 0x010, 0x012, 0x013, 0x014, 0x021, 0x022, 0x023, 0x024, 0x025, 0x026, 0x027, 0x028,
        0x029, 0x02A, 0x030, 0x031, 0x032, 0x033, 0x034, 0x035, 0x036, 0x037] → faults Sys2Proof.Machine.cPriv)

/-- Whatever the guard, `grow` that would pass 32 granules and `shrink` of more than the group holds fault FRAME_RANGE (R91),
counting what earlier instructions of the run leave to the trailer. Within that limit, with no lane on, or n = 0 for `grow`,
each completes and does no more than set the no-flashback flag, as both do whatever the guard (log 29). A `grow` that the pool covers, with no request of the core before it, is granted at once and
committed at the trailer; one that it does not cover rolls the run back with the request queued. A `shrink` gives back
granules at the trailer; with a pending register among them it rolls the run back (R276, R277). -/
def Obligations.FrameAllotment : Prop :=
  ∀ (s : Sys2Proof.Machine.State) (c : Sys2Proof.Machine.Cur) (gd : Sys2Proof.Guard) (n : BitVec 6), s.cur = some c →
    let on := c.on gd
    let req (ok : Bool) : Sys2Proof.Machine.GrowReq := ⟨c.core, c.slot, c.r.hpc, c.r.mask, n.toNat, ok⟩
    let alone := (∀ q ∈ s.growq, q.core ≠ c.core) ∧ ∀ k, Sys2Proof.Machine.Staged.grow k ∉ c.r.staged
    let g := c.r.staged.foldl (fun n x => match x with | .grow k => n + k | .shrink k => n - k | _ => n) c.g.fgran
    let stages (i : Sys2Proof.Instr) (s' : Sys2Proof.Machine.State) (new : List Sys2Proof.Machine.Staged) : Prop :=
      ∃ r', Sys2Proof.Machine.exec i s = .next (Sys2Proof.Claims.done s' c r') ∧
        Sys2Proof.Claims.Moved c.r { r' with staged := c.r.staged, nofb := c.r.nofb } ∧ r'.stk = c.r.stk ∧
        r'.aflags = c.r.aflags ∧ r'.staged = c.r.staged ++ new ∧ r'.nofb = true
    let faults (i : Sys2Proof.Instr) : Prop :=
      Sys2Proof.Machine.exec i s = .next (s.preciseFault c Sys2Proof.Machine.cFrameRange c.r.mask []).refresh
    (32 < g + n.toNat → faults (.grow gd n)) ∧
    (g < n.toNat → faults (.shrink gd n)) ∧
    (g + n.toNat ≤ 32 → on = 0 ∨ n = 0 → stages (.grow gd n) s []) ∧
    (n.toNat ≤ g → on = 0 → stages (.shrink gd n) s []) ∧
    (on ≠ 0 → n ≠ 0 → alone → g + n.toNat ≤ 32 → n.toNat ≤ s.freeGranules c.core →
      stages (.grow gd n) { s with growq := s.growq ++ [req true] } [.grow n.toNat]) ∧
    (on ≠ 0 → n ≠ 0 → alone → g + n.toNat ≤ 32 → s.freeGranules c.core < n.toNat →
      Sys2Proof.Machine.exec (.grow gd n) s =
        .next (({ s with growq := s.growq ++ [req false] } : Sys2Proof.Machine.State).rollback c.core c.slot c.r.split .grow).refresh) ∧
    (on ≠ 0 → n.toNat ≤ g → (∀ p ∈ c.g.pendFrm, p.reg < 8 * (g - n.toNat) ∨ 8 * g ≤ p.reg) →
      stages (.shrink gd n) s [.shrink n.toNat]) ∧
    (on ≠ 0 → n.toNat ≤ g → (∃ p ∈ c.g.pendFrm, 8 * (g - n.toNat) ≤ p.reg ∧ p.reg < 8 * g) →
      Sys2Proof.Machine.exec (.shrink gd n) s =
        .next (s.rollback c.core c.slot c.r.split (.frame (8 * (g - n.toNat)) (8 * n.toNat))).refresh)

/-- Child launches, messages and rings: `enq` and `enqw` with an aligned header of which every byte is mapped, `lsend`, `mrecv` and
`ringput` leave their operation to the trailer and push its result pending; `ringput` makes its scope record as a system-scope
atomic does (R289 to R292). The form of a header's address, ADDR_FORM where it is not global and ALIGN where it is no multiple of
64, is log 19; that `ringput` needs a multiple of 4 is log 18; what these instructions do with no lane on is log 20; a header
that does not translate from its first byte to its last faults with that cause. -/
def Obligations.LaunchesMessagesRings : Prop :=
  ∀ (s : Sys2Proof.Machine.State) (c : Sys2Proof.Machine.Cur) (gd : Sys2Proof.Guard), s.cur = some c →
    let on := c.on gd
    let va (a l : Nat) := Sys2Proof.Claims.adr c a l
    (2 ≤ c.r.stk.length → ∀ x ∈ [(Sys2Proof.Instr.enq gd, false), (.enqw gd, true)],
      (on = 0 → Sys2Proof.Claims.Dispatches x.1 s s c 2 1 (.enq x.2 on 0) false) ∧
      (∀ l, Sys2Proof.Claims.lowest on = some l → Sys2Proof.Machine.aperture (va 2 l) = .global →
        let fault (k : Sys2Proof.Machine.Cause) : Prop := Sys2Proof.Machine.exec x.1 s =
          .next (s.preciseFault c k (BitVec.ofNat 32 (2 ^ l)) [(l, va 2 l)]).refresh
        let first := s.translate c.g.guest (va 2 l).toNat .load
        let last := s.translate c.g.guest ((va 2 l).toNat + 127) .load
        ((va 2 l).toNat % 64 = 0 → (∃ p, first = .ok p) → (∃ p, last = .ok p) →
          Sys2Proof.Claims.Dispatches x.1 s s c 2 1 (.enq x.2 on (va 2 l)) false) ∧
        ((va 2 l).toNat % 64 = 0 → ∀ k, first = .error k ∨ ((∃ p, first = .ok p) ∧ last = .error k) → fault k) ∧
        ((va 2 l).toNat % 64 ≠ 0 → fault Sys2Proof.Machine.cAlign)) ∧
      (∀ l, Sys2Proof.Claims.lowest on = some l → Sys2Proof.Machine.aperture (va 2 l) ≠ .global →
        Sys2Proof.Machine.exec x.1 s = .next (s.preciseFault c Sys2Proof.Machine.cAddrForm
          (BitVec.ofNat 32 (2 ^ l)) [(l, va 2 l)]).refresh)) ∧
    (2 ≤ c.r.stk.length → ∃ d words, Sys2Proof.Claims.Dispatches (.lsend gd) s s c 2 1 (.lsend on d words) false ∧
      (∀ l, Sys2Proof.Claims.lowest on = some l → d = Sys2Proof.Claims.arg c 2 0 l) ∧
      ∀ l < 32, Sys2Proof.Machine.laneAt words l = if Sys2Proof.Machine.laneOn on l then Sys2Proof.Claims.arg c 2 1 l else 0) ∧
    Sys2Proof.Claims.Dispatches (.mrecv gd) s s c 0 2 (.mrecv on) false ∧
    (3 ≤ c.r.stk.length → Sys2Proof.Claims.AddrOk s c on 4 ⟨false, false⟩ true true (va 3) →
      Sys2Proof.Claims.SyncOk s c on .sys .exch (va 3) →
      ∃ s', Sys2Proof.Claims.Recorded s s' c on .sys (va 3) ∧ Sys2Proof.Claims.Dispatches (.ringput gd) s s' c 3 1
        (.ringput (Sys2Proof.Claims.reqs on (fun l => ⟨l, va 3 l, (Sys2Proof.Claims.arg c 3 2 l).setWidth 128, 0, 0⟩))) false)

namespace Sys2Proof.Claims

open Sys2Proof.Machine

/-- MapPage of R284 for one address: the status, and where a page is to be mapped, the place of its entry, its frame and the
entry. That an address in no translated aperture has status 4 is log 88. -/
def pageFor (s : State) (guest : Nat) (va : Addr) (fl : Nat) : Nat × Option (Nat × Nat × Nat) :=
  let x := s.ctx guest
  let p := x.poolnext.toNat
  if 4 ≤ fl then (4, none) else
  match s.globalVa guest va 1 with
  | none => (4, none)
  | some g => match s.walk guest g with
    | .leaf _ _ => (2, none)
    | .hole 5 at_ =>
      if p < x.poolbase.toNat ∨ x.poolend.toNat < p + 65536 then (3, none)
      else (1, some (at_, p, p / 2 ^ 16 % 2 ^ 35 * 2 ^ 16 + fl / 2 * 8 + fl % 2 * 4 + 3))
    | .hole _ _ | .bad => (4, none)

/-- A page is mapped: it leaves the pool, holds zeros, and its entry is written (R284). -/
def mapsPage (s : State) (guest : Nat) (x : Nat × Nat × Nat) : State :=
  let y := s.ctx guest
  { s.setCtx guest { y with poolnext := y.poolnext + 65536 } with mem := wrLE (zeroBytes s.mem x.2.1 65536) x.1 8 x.2.2 }

end Sys2Proof.Claims

/-- `pgmap` faults PRIV in user mode. In supervisor mode, where no dirty log can fill up and no other run of the context holds
one, it completes with one status for all lanes of a page, and 0 in the other lanes; it reads the tables as its run's earlier
`pgmap`s leave them, `s1`, and maps at the trailer (R77; log 30). With one lane on, a page whose level 5 entry has V = 0 and a
pool that has room, it leaves the page at POOLNEXT to the trailer, which zeroes it and writes the entry, and answers 1; an
empty pool answers 3 and a mapped page 2, and neither changes anything; 4 where a reserved flag is set, where the address lies in
no translated aperture (a per-thread address beyond PTMSIZE among them: log 88), under a missing table above level 5 or under a
malformed entry. Several pages are mapped one after another, each once, in the order of its lowest lane, and each is judged
as those before it leave the tables and the pool; all lanes of a page have its status (R284). -/
def Obligations.PageMapping : Prop :=
  (∀ (s : Sys2Proof.Machine.State) (c : Sys2Proof.Machine.Cur) (gd : Sys2Proof.Guard), s.cur = some c → c.g.sup = false →
    Sys2Proof.Machine.exec (.pgmap gd) s = .next (s.preciseFault c Sys2Proof.Machine.cPriv c.r.mask []).refresh) ∧
  (∀ (s : Sys2Proof.Machine.State) (c : Sys2Proof.Machine.Cur) (k at_ p e : Nat), Sys2Proof.Machine.Memory.wf s.mem = true →
    s.cmdField c.g.guest 48 4 = 0 → e < 2 ^ 64 →
    let x := s.ctx c.g.guest
    let s' := s.perform c k (.pgmap [(at_, p, e)])
    s' = { s.setCtx c.g.guest { x with poolnext := x.poolnext + 65536 } with mem := s'.mem } ∧
    Sys2Proof.Machine.rdLE s'.mem at_ 8 = e ∧
    ∀ a, ¬(at_ ≤ a ∧ a < at_ + 8) → Sys2Proof.Machine.rdByte s'.mem a =
      if p ≤ a ∧ a < p + 65536 then 0 else Sys2Proof.Machine.rdByte s.mem a) ∧
  ∀ (s s1 : Sys2Proof.Machine.State) (c : Sys2Proof.Machine.Cur) (gd : Sys2Proof.Guard), s.cur = some c → c.g.sup = true →
    3 ≤ c.r.stk.length → s.withMapped c = some s1 → s1.cmdField c.g.guest 48 4 = 0 →
    (∀ y ∈ s.groups, y.1 ≠ Sys2Proof.Machine.gkey c.core c.slot → y.2.guest = c.g.guest → ∀ r, y.2.run = some r →
      ∀ ps, Sys2Proof.Machine.Staged.pgmap ps ∉ r.staged) →
    let on := c.on gd
    let va (l : Nat) := Sys2Proof.Claims.adr c 3 l
    let fl (l : Nat) : Nat := (Sys2Proof.Claims.arg c 3 2 l).toNat
    let same (k l : Nat) : Bool := Sys2Proof.Machine.laneOn on k && decide ((va k).toNat / 65536 = (va l).toNat / 65536)
    let firstOf (l : Nat) : Nat := ((List.range 32).find? (fun k => same k l)).getD 0
    let first (l : Nat) : Bool := Sys2Proof.Machine.laneOn on l && decide (firstOf l = l)
    let x := s1.ctx c.g.guest
    let p := x.poolnext.toNat
    let gives (st : Nat → Sys2Proof.Word) (pages : List (Nat × Nat × Nat)) : Prop := ∃ r',
      Sys2Proof.Machine.exec (.pgmap gd) s = .next (Sys2Proof.Claims.done s c r') ∧
      Sys2Proof.Claims.Moved c.r { r' with staged := c.r.staged } ∧ r'.staged = c.r.staged ++ [.pgmap pages] ∧
      Sys2Proof.Claims.Replaces c.r r' 0xFFFFFFFF 3 1 (fun l _ => [st l]) ∧ r'.aflags = c.r.aflags
    (x.valid = false ∨ (∀ l l', l < 32 → l' < 32 → Sys2Proof.Machine.laneOn on l → Sys2Proof.Machine.laneOn on l' →
        (va l).toNat / 65536 = (va l').toNat / 65536) →
      ∃ st pages, gives st pages ∧ (∀ l < 32, Sys2Proof.Machine.laneOn on l = false → st l = 0) ∧
      (∀ l < 32, Sys2Proof.Machine.laneOn on l → st l ∈ ([1, 2, 3, 4] : List Sys2Proof.Word)) ∧
      ∀ l l', l < 32 → l' < 32 → Sys2Proof.Machine.laneOn on l → Sys2Proof.Machine.laneOn on l' →
        (va l).toNat / 65536 = (va l').toNat / 65536 → st l = st l') ∧
    (∀ f : Nat → Sys2Proof.Machine.State, f 0 = s1 → (∀ l ≤ 32, (f l).cmdField c.g.guest 48 4 = 0) →
      let page (l : Nat) := Sys2Proof.Claims.pageFor (f l) c.g.guest (va l) (fl l)
      (∀ l < 32, f (l + 1) = if first l then (match (page l).2 with
        | some y => Sys2Proof.Claims.mapsPage (f l) c.g.guest y | none => f l) else f l) →
      gives (fun l => if Sys2Proof.Machine.laneOn on l then BitVec.ofNat 32 (page (firstOf l)).1 else 0)
        (((List.range 32).filter first).filterMap (fun l => (page l).2))) ∧
    (∀ l, on = BitVec.ofNat 32 (2 ^ l) → l < 32 →
      (4 ≤ fl l ∨ s1.globalVa c.g.guest (va l) 1 = none ∨ (∃ g, s1.globalVa c.g.guest (va l) 1 = some g ∧
        (s1.walk c.g.guest g = .bad ∨ ∃ lv at_, lv ≠ 5 ∧ s1.walk c.g.guest g = .hole lv at_))) →
      gives (fun k => if k = l then 4 else 0) []) ∧
    ∀ l g, on = BitVec.ofNat 32 (2 ^ l) → l < 32 → s1.globalVa c.g.guest (va l) 1 = some g → fl l < 4 →
      (∀ e lv, s1.walk c.g.guest g = .leaf e lv → gives (fun k => if k = l then 2 else 0) []) ∧
      (∀ at_, s1.walk c.g.guest g = .hole 5 at_ →
        (p < x.poolbase.toNat ∨ x.poolend.toNat < p + 65536 → gives (fun k => if k = l then 3 else 0) []) ∧
        (x.poolbase.toNat ≤ p → p + 65536 ≤ x.poolend.toNat → gives (fun k => if k = l then 1 else 0)
          [(at_, p, p / 2 ^ 16 % 2 ^ 35 * 2 ^ 16 + fl l / 2 * 8 + fl l % 2 * 4 + 3)]))

/-- Reads and writes of system registers. That `mfs` of ASGEN after an `mts` of the same run gives the old value is log 17; that
POOLNEXT counts the pages which the run's own `pgmap`s will map at the trailer is log 30. -/
def Obligations.SystemRegisters : Prop :=
  Sys2Proof.Claims.SystemRegisterReads ∧ Sys2Proof.Claims.SystemRegisterWrites
namespace Sys2Proof.Claims

open Sys2Proof.Machine

/-- Every guarded-on lane names `n` accumulator entries of its cluster's tenant, and no watch unit covers them (R338, R399). -/
def AccOk (s : State) (c : Cur) (on : Mask) (n : Nat) (wr : Bool) (ad : Nat → Word) : Prop :=
  ∀ l < 32, laneOn on l →
    (ad l).toNat < 2 ^ 17 ∧ (s.tenantRows c.core).1 ≤ (ad l).toNat % 128 ∧ (ad l).toNat % 128 < (s.tenantRows c.core).2 ∧
    (ad l).toNat / 256 % 512 + n ≤ 512 ∧
    s.watchHits c.g.guest c.watchOff 1 (!wr) wr (accWindow (clusterOf c.core) (adKey (ad l))) (4 * n) = 0

end Sys2Proof.Claims

/-- The transfer unit's instructions: `cpy` by the producer group is left to the trailer while a scoreboard entry is free,
by another group it faults STREAM_RIGHTS; `cpystat` pushes the workgroup's status and clears a failure it read; `unveil`
pushes its witness pending (R301, R314, R315, R317). -/
def Obligations.TransferUnitInstructions : Prop :=
  ∀ (s : Sys2Proof.Machine.State) (c : Sys2Proof.Machine.Cur) (gd : Sys2Proof.Guard) (w : Sys2Proof.Machine.WGroup),
    s.cur = some c → s.wgroup c.core c.g.wslot = some w →
    let on := c.on gd
    let live := (s.chains.filter (fun x => decide (x.core = c.core) && decide (x.wslot = c.g.wslot))).length
    let status := 65536 * min w.felem.toNat 65535 + 1024 * w.fcause.toNat + 512 * Sys2Proof.Claims.b2n w.fail
      + 256 * Sys2Proof.Claims.b2n w.detach + live
    (2 ≤ c.r.stk.length → s.w1Of c.g = w.prod →
      (on = 0 → Sys2Proof.Claims.Stages (.cpy gd) s c 2 [.cpy false 0 0] true) ∧
      (∀ l, Sys2Proof.Claims.lowest on = some l → (∀ a b, Sys2Proof.Machine.Staged.cpy true a b ∉ c.r.staged) →
        ((s.chains.filter (fun x => decide (x.core = c.core))).length < 8 →
          Sys2Proof.Claims.Stages (.cpy gd) s c 2 [.cpy true (Sys2Proof.Claims.adr c 2 l) l] true) ∧
        (8 ≤ (s.chains.filter (fun x => decide (x.core = c.core))).length →
          Sys2Proof.Machine.exec (.cpy gd) s = .next (s.rollback c.core c.slot c.r.split .score).refresh))) ∧
    (s.w1Of c.g ≠ w.prod → Sys2Proof.Machine.exec (.cpy gd) s =
      .next (s.preciseFault c Sys2Proof.Machine.cStreamRights c.r.mask []).refresh) ∧
    (live < 256 → ∃ r', Sys2Proof.Machine.exec (.cpystat gd) s = .next (Sys2Proof.Claims.done s c r') ∧
      Sys2Proof.Claims.Moved c.r { r' with staged := c.r.staged } ∧ r'.aflags = c.r.aflags ∧
      Sys2Proof.Claims.Replaces c.r r' on 0 1 (fun _ _ => [BitVec.ofNat 32 status]) ∧
      r'.staged = c.r.staged ++ if on ≠ 0 ∧ w.fail then [.cpystat] else []) ∧
    (1 ≤ c.r.stk.length → ∃ h, (∀ l, Sys2Proof.Claims.lowest on = some l → h = Sys2Proof.Claims.arg c 1 0 l) ∧
      Sys2Proof.Claims.Dispatches (.unveil gd) s s c 1 2 (.unveil on h) false)

/-- `mould` of a well-formed buffer whose pages are all mapped, writable and local, that meets no bound mould, leaves the
binding of the lowest free handle h to the trailer, which copies the buffer's contents, and pushes 0x10 + h; bound before,
its handle; overlapping, 2; with no handle free, 1; ill-formed, 3; nothing but the context's moulds changes. It counts what
earlier `mould`s of its run bind (R77; log 30). With no lane on it pushes 0 (R90, R310, R311, R316). -/
def Obligations.MouldBinding : Prop :=
  (∀ (s : Sys2Proof.Machine.State) (c : Sys2Proof.Machine.Cur) (gd : Sys2Proof.Guard), s.cur = some c → 3 ≤ c.r.stk.length →
    c.on gd = 0 → Sys2Proof.Claims.LaneWise (.mould gd) s c 0xFFFFFFFF 3 1 (fun _ _ => [0]) 0) ∧
  (∀ (s : Sys2Proof.Machine.State) (c : Sys2Proof.Machine.Cur) (k h : Nat) (base : Sys2Proof.Addr) (len : Sys2Proof.Word)
    (fr : List Nat), h < (s.ctx c.g.guest).moulds.length →
    let x := s.ctx c.g.guest
    ∃ m', s.perform c k (.mould h base len fr) = s.setCtx c.g.guest { x with moulds := x.moulds.set h m' } ∧
      m'.bound = true ∧ m'.base = base ∧ m'.len = len.setWidth 64 ∧ m'.frames = fr ∧
      m'.shadow = Sys2Proof.Machine.mouldImage s.mem base.toNat len.toNat fr) ∧
  ∀ (s s1 : Sys2Proof.Machine.State) (c : Sys2Proof.Machine.Cur) (gd : Sys2Proof.Guard) (l : Nat), s.cur = some c →
    3 ≤ c.r.stk.length → Sys2Proof.Claims.lowest (c.on gd) = some l → s1 = s.withMoulds c →
    (∀ y ∈ s.groups, y.1 ≠ Sys2Proof.Machine.gkey c.core c.slot → y.2.guest = c.g.guest → ∀ r, y.2.run = some r →
      ∀ a b d e, Sys2Proof.Machine.Staged.mould a b d e ∉ r.staged) →
    let base := Sys2Proof.Claims.adr c 3 l
    let len := (Sys2Proof.Claims.arg c 3 2 l).toNat
    let x := s1.ctx c.g.guest
    let leaves (new : List Sys2Proof.Machine.Staged) (v : Nat) : Prop := ∃ r',
      Sys2Proof.Machine.exec (.mould gd) s = .next (Sys2Proof.Claims.done s c r') ∧
      Sys2Proof.Claims.Moved c.r { r' with staged := c.r.staged } ∧ r'.staged = c.r.staged ++ new ∧
      Sys2Proof.Claims.Replaces c.r r' 0xFFFFFFFF 3 1
        (fun k _ => [if Sys2Proof.Machine.laneOn (c.on gd) k then BitVec.ofNat 32 v else 0]) ∧ r'.aflags = c.r.aflags
    let gives (v : Nat) : Prop := leaves [] v
    let formed := base.toNat < 2 ^ 57 ∧ base.toNat % 128 = 0 ∧ len % 128 = 0 ∧ 0 < len ∧ len ≤ 2 ^ 28 ∧ base.toNat + len ≤ 2 ^ 57
    (¬formed → gives 3) ∧
    (formed → s1.mouldFrames c.g.guest base.toNat len = none → gives 3) ∧
    (formed → ∀ fr, s1.mouldFrames c.g.guest base.toNat len = some fr →
      (∀ h, x.moulds.findIdx? (fun m => m.bound && m.base == base && m.len.toNat == len) = some h → gives (16 + h)) ∧
      (x.moulds.findIdx? (fun m => m.bound && m.base == base && m.len.toNat == len) = none →
        (∃ m ∈ x.moulds, m.bound = true ∧ m.base.toNat < base.toNat + len ∧ base.toNat < m.base.toNat + m.len.toNat) → gives 2) ∧
      ((∀ m ∈ x.moulds, m.bound = true → m.base.toNat + m.len.toNat ≤ base.toNat ∨ base.toNat + len ≤ m.base.toNat) →
        ((∀ m ∈ x.moulds, m.bound = true) → gives 1) ∧
        (∀ h, x.moulds.findIdx? (fun m => !m.bound) = some h →
          leaves [.mould h base (BitVec.ofNat 32 len) fr] (16 + h))))

/-- The three bf16 slices of an f32 code: of an infinity or a NaN one slice and two zeros; else `h` its high half, `m` the high
half of the exact remainder, `l` the bf16 value nearest to what then remains, each +0 where nothing remains (R114). -/
def Sys2Proof.Claims.Slices : Prop :=
  ∀ x < 2 ^ 32,
    let h := Sys2Proof.Machine.sliceOf .h x
    let m := Sys2Proof.Machine.sliceOf .m x
    let l := Sys2Proof.Machine.sliceOf .l x
    let v (code : Nat) : ℚ := Sys2Proof.Claims.codeRat .bf16 code
    let r1 := Sys2Proof.Claims.codeRat .f32 x - v h
    let r2 := r1 - v m
    (x % 2 ^ 31 = 0x7F800000 → h = x / 65536 ∧ m = 0 ∧ l = 0) ∧
    (0x7F800000 < x % 2 ^ 31 → h = 0x7FC0 ∧ m = 0 ∧ l = 0) ∧
    (x % 2 ^ 31 < 0x7F800000 → h = x / 65536 ∧ (∃ y < 65536, Sys2Proof.Claims.codeRat .f32 (m * 65536 + y) = r1) ∧
      (r1 = 0 → m = 0) ∧ (r2 = 0 → l = 0) ∧ ∀ c < 65536, |v l - r2| ≤ |v c - r2|)

/-- Tables: `tab` pushes in each lane the table's value at its operand, by the image the group is bound to, or NaN with INV
where it is bound to none. `tload` and `watch` leave the load of the lowest guarded-on lane to the trailer where its address
has a good form, lies under no armed watch unit and inside the scratchpad allocation, and fault ADDR_FORM on a bad form; with
no lane on only the ld counter is to rise (R91; log 20). A locked unit faults PRIV whatever the guard. The slices of f32
operands follow R114 (R187, R188, R189, R212, R272, R286). -/
def Obligations.TableAndWatchLoads : Prop :=
  Sys2Proof.Claims.Slices ∧
  ∀ (s : Sys2Proof.Machine.State) (c : Sys2Proof.Machine.Cur) (gd : Sys2Proof.Guard), s.cur = some c →
    let on := c.on gd
    (1 ≤ c.r.stk.length → ∀ f ∈ [(Sys2Proof.SFmt.f32, Sys2Proof.Machine.Fl.f32), (.f16, .f16), (.bf16, .bf16)],
      let v (ws : List Sys2Proof.Word) : Nat × BitVec 6 := match s.boundImage c with
        | some img => Sys2Proof.Machine.tabLane (some img) f.2 (ws.getD 0 0)
        | none => (f.2.nan, 1)
      Sys2Proof.Claims.LaneWise (.tab gd f.1) s c on 1 1 (fun _ ws => [BitVec.ofNat 32 (v ws).1])
        (Sys2Proof.Claims.anyLane on (fun l => (v (Sys2Proof.Claims.args c.r 1 l)).2))) ∧
    (2 ≤ c.r.stk.length → on = 0 → Sys2Proof.Claims.Stages (.tload gd) s c 2 [.tload false 0 0] false) ∧
    (2 ≤ c.r.stk.length → ∀ n : BitVec 2,
      (s.watchLocked c.g.guest n.toNat = true →
        Sys2Proof.Machine.exec (.watch gd n) s = .next (s.preciseFault c Sys2Proof.Machine.cPriv c.r.mask []).refresh) ∧
      (s.watchLocked c.g.guest n.toNat = false → on = 0 → Sys2Proof.Claims.Stages (.watch gd n) s c 2 [.idle .ld] false)) ∧
    (2 ≤ c.r.stk.length → ∀ l, Sys2Proof.Claims.lowest on = some l →
      let at_ (k : Nat) : Sys2Proof.Addr := BitVec.ofNat 64 ((Sys2Proof.Claims.adr c 2 l).toNat / k * k)
      let fault (i : Sys2Proof.Instr) (k : Nat) : Prop := Sys2Proof.Machine.exec i s =
        .next (s.preciseFault c Sys2Proof.Machine.cAddrForm (BitVec.ofNat 32 (2 ^ l)) [(l, at_ k)]).refresh
      let good (k n : Nat) : Prop := s.formOk c.g.guest ⟨true, true⟩ (at_ k) n = true ∧
        s.watchHits c.g.guest c.watchOff 0 true false (at_ k).toNat n = 0 ∧
        (Sys2Proof.Machine.aperture (at_ k) = .scratch → (s.scratchTarget c.core c.g.wslot (at_ k) n).isSome)
      (good 16 3088 → Sys2Proof.Claims.Stages (.tload gd) s c 2 [.tload true (at_ 16) l] false) ∧
      (s.formOk c.g.guest ⟨true, true⟩ (at_ 16) 3088 = false → fault (.tload gd) 16) ∧
      ∀ n : BitVec 2, s.watchLocked c.g.guest n.toNat = false →
        (good 128 128 →
          Sys2Proof.Claims.Stages (.watch gd n) s c 2 [.watch n.toNat (at_ 128) l] false) ∧
        (s.formOk c.g.guest ⟨true, true⟩ (at_ 128) 128 = false → fault (.watch gd n) 128))

/-- The accumulator instructions: `mcatch` arms the edge port whatever the guard, while it has room for it; `accld` reads
and `accst` and `accpatch` write entries of the tenant's rows at the trailer, `accst` with the registers' values as they
stand. Where some lane's address word has a bit above the entry number, names a row outside the tenant, or runs beyond entry 511,
they fault ACC_RANGE with just those lanes in XMASK (R337, R338, R339); that XADDR is then 0 is log 21. -/
def Obligations.AccumulatorAccess : Prop :=
  ∀ (s : Sys2Proof.Machine.State) (c : Sys2Proof.Machine.Cur) (gd : Sys2Proof.Guard) (f : BitVec 8) (nm : BitVec 4),
    s.cur = some c →
    let on := c.on gd
    let n := nm.toNat + 1
    let ad (a l : Nat) : Sys2Proof.Word := Sys2Proof.Claims.arg c a 0 l
    let cells (k a : Nat) (v : Nat → Nat → Sys2Proof.Word) : List Sys2Proof.Machine.LaneReq :=
      ((List.range 32).filter (Sys2Proof.Machine.laneOn on)).flatMap (fun l => (List.range k).map (fun j =>
        ⟨l, BitVec.ofNat 64 (Sys2Proof.Machine.adKey (ad a l) + j), (v l j).setWidth 128, 0, 0⟩))
    let room := (s.armings.filter (fun a => decide (a.core = c.core))).length < 4
    let bad (a n l : Nat) : Bool := Sys2Proof.Machine.laneOn on l && (decide (2 ^ 17 ≤ (ad a l).toNat)
      || decide ((ad a l).toNat % 128 < (s.tenantRows c.core).1) || decide ((s.tenantRows c.core).2 ≤ (ad a l).toNat % 128)
      || decide (512 < (ad a l).toNat / 256 % 512 + n))
    let outside (i : Sys2Proof.Instr) (a n : Nat) : Prop := (∃ l < 32, bad a n l = true) → ∃ m : Sys2Proof.Mask,
      (∀ l < 32, m.getLsbD l = bad a n l) ∧
      Sys2Proof.Machine.exec i s = .next (s.preciseFault c Sys2Proof.Machine.cAccRange m []).refresh
    (Sys2Proof.Claims.FrameIdle c f.toNat n → (∀ x y z, Sys2Proof.Machine.Staged.mcatch x y z ∉ c.r.staged) → room →
      Sys2Proof.Claims.Stages (.mcatch gd f nm) s c 0 [.mcatch f.toNat n on] true) ∧
    (Sys2Proof.Claims.FrameIdle c f.toNat n → ¬room → Sys2Proof.Machine.exec (.mcatch gd f nm) s =
      .next (s.rollback c.core c.slot c.r.split .port).refresh) ∧
    (1 ≤ c.r.stk.length → Sys2Proof.Claims.FrameIdle c f.toNat n →
      (Sys2Proof.Claims.AccOk s c on n false (ad 1) →
        Sys2Proof.Claims.Stages (.accld gd f nm) s c 1 [.accld f.toNat n (cells n 1 (fun _ _ => 0))] false) ∧
      (Sys2Proof.Claims.AccOk s c on n true (ad 1) →
        Sys2Proof.Claims.Stages (.accst gd f nm) s c 1
          [.accWrite (cells n 1 (fun l j => Sys2Proof.Machine.laneAt (c.frame (f.toNat + j)) l))] true) ∧
      outside (.accld gd f nm) 1 n ∧ outside (.accst gd f nm) 1 n) ∧
    (2 ≤ c.r.stk.length → outside (.accpatch gd) 2 1) ∧
    (2 ≤ c.r.stk.length → Sys2Proof.Claims.AccOk s c on 1 true (ad 2) →
      Sys2Proof.Claims.Stages (.accpatch gd) s c 2 [.accWrite (cells 1 2 (fun l _ => Sys2Proof.Claims.arg c 2 1 l))] true)

namespace Sys2Proof.Claims

open Sys2Proof.Machine

/-- A run of a group with one part, without a control transfer, of a context that writes no trace and a group that no
command of the debugger concerns. -/
structure Plain (s : State) (c : Cur) (p : Part) : Prop where
  cur : s.cur = some c
  one : c.g.splits = [some p, none, none, none]
  rest : c.g.pend = [] ∧ c.g.ovf = []
  split : c.r.split = 0
  straight : c.r.xfer = none ∧ c.r.succ = [] ∧ c.r.link = 0
  lanes : c.r.mask ≠ 0 ∧ c.g.live ≠ 0
  still : c.g.step = false ∧ c.g.stepAsk = none ∧ c.g.sync = false ∧ c.g.maq = none
  noTrace : (s.ctx c.g.guest).trctl.getLsbD 31 = false
  depth : c.r.image.dmin ≤ c.r.depth0 ∧ c.r.stk.length ≤ 8
  once : (c.r.frm.map (·.1)).Nodup ∧ (c.r.uni.map (·.1)).Nodup ∧ (c.r.prd.map (·.1)).Nodup

/-- The registers and the stack of a group are as the run saw them at its end (R77, R78). -/
structure Committed (c : Cur) (g' : Group) : Prop where
  frame : ∀ n l, l < 32 → laneAt (mget g'.frame n []) l = laneAt (c.frame n) l
  uniform : ∀ n, mget g'.uni n 0 = c.uniform n
  pred : ∀ n, mget g'.prd n 0 = c.pred n
  stack : ∀ k e l, l < 32 → laneOn c.r.mask l → c.r.stk[k]? = some e →
    laneAt (mget g'.win ((c.exitDepth - 1 - k) % 8) []) l = laneAt e.v l
  rest : g'.segw = c.r.segw ∧ g'.dkey = c.r.dkey ∧ g'.drctr = c.r.drctr ∧ g'.dcoin = c.r.dcoin ∧ g'.aflags = c.r.aflags
  ended : g'.run = none

end Sys2Proof.Claims

/-- A trailer that has nothing staged commits the run as one step: the registers, predicates and stack entries become the
group's, memory is as before, and the split stands at the next header, 4-byte-aligned after the trailer, with the run's
lanes and its exit depth. A SAFE trailer sets the safe record and the run count to 0, another adds one to the count; it waits
while its table entry comes from another package. A pending mask that is not the run's faults RUN_FORM (R78, R79, R83, R84,
R125). -/
def Sys2Proof.Claims.PlainTrailer : Prop :=
  ∀ (s : Sys2Proof.Machine.State) (c : Sys2Proof.Machine.Cur) (p : Sys2Proof.Machine.Part) (safe : Bool) (idx : BitVec 11)
    (pmask : BitVec 8), Sys2Proof.Claims.Plain s c p → c.g.sup = false → c.g.parked = none → c.r.staged = [] →
    let who := Sys2Proof.Machine.FarUser.group (Sys2Proof.Machine.gkey c.core c.slot)
    (∀ bs, c.r.pendMask = pmask →
      (safe = true → c.exitDepth = 0 ∧ ∃ l pa leaf, s.launchOf c.g = some l ∧ idx.toNat < l.hdr.nsafe ∧
        s.translate c.g.guest (l.hdr.safetab + BitVec.ofNat 64 (64 * idx.toNat)).toNat .load = .ok (pa, leaf) ∧
        s.farBytes who pa 64 = some bs) →
      ∃ t g' q, Sys2Proof.Machine.exec (.endrun safe idx pmask) s = .next t ∧ t.mem = s.mem ∧
        t.group c.core c.slot = some g' ∧ Sys2Proof.Claims.Committed c g' ∧ g'.splits = [some q, none, none, none] ∧
        q.pc = BitVec.ofNat 64 ((c.r.pc.toNat + 9) / 4 * 4) ∧ q.mask = c.r.mask ∧
        q.depth = c.r.depth0 - c.r.image.dmin + c.r.stk.length ∧ q.res = p.res - c.r.image.dmin + c.r.stk.length ∧
        (safe = true → g'.runs = 0 ∧ g'.safe.entry = some idx.toNat ∧ g'.safe.bytes = bs) ∧
        (safe = false → g'.runs = c.g.runs + 1 ∧ g'.safe = c.g.safe)) ∧
    (∀ l pa leaf, c.r.pendMask = pmask → safe = true → c.exitDepth = 0 → s.launchOf c.g = some l → idx.toNat < l.hdr.nsafe →
      let va := l.hdr.safetab + BitVec.ofNat 64 (64 * idx.toNat)
      s.translate c.g.guest va.toNat .load = .ok (pa, leaf) → s.farBytes who pa 64 = none →
      Sys2Proof.Machine.exec (.endrun safe idx pmask) s =
        .next (((s.farWant who c.g.guest va pa 64).putRun c { c.r with holding := true }).pass 1)) ∧
    (c.r.pendMask ≠ pmask → Sys2Proof.Machine.exec (.endrun safe idx pmask) s =
      .next (s.preciseFault c Sys2Proof.Machine.cRunForm c.r.mask []).refresh)

namespace Sys2Proof.Claims

open Sys2Proof.Machine

/-- The items a trailer performs as they stand, the rest being the exits of a run (R279, R280, R283, R285). -/
def ordinary : Staged → Prop
  | .trap _ _ | .tret _ | .replay | .kill => False
  | _ => True

/-- What later steps of a trailer leave of a group as the staged items made it. -/
def SameRest (g g' : Group) : Prop :=
  g'.ld = g.ld ∧ g'.st = g.st ∧ g'.cp = g.cp ∧ g'.tl = g.tl ∧ g'.sq = g.sq ∧ g'.pendEnt = g.pendEnt ∧ g'.pendFrm = g.pendFrm ∧
  g'.fgran = g.fgran ∧ g'.frame = g.frame ∧ g'.uni = g.uni ∧ g'.prd = g.prd ∧ g'.bwait = g.bwait ∧ g'.pmark = g.pmark ∧
  g'.tab = g.tab ∧ g'.yieldAt = g.yieldAt ∧ g'.sleepAt = g.sleepAt ∧ g'.sup = g.sup

/-- A trailer performs what its run has staged, each item once and in program order, on the state with the run's registers and
stack committed; besides, it changes its group's parts and run count, and what follows from them (R78). -/
def StagedInOrder : Prop :=
  ∀ (s : State) (c : Cur) (p : Part) (idx : BitVec 11) (pmask : BitVec 8), Plain s c p → c.g.parked = none →
    (∀ x ∈ c.r.staged, ordinary x) → s.beforeCommit c false idx.toNat pmask = .ok [] →
    let s0 := (s.trailed c.core c.slot).modGroup c.core c.slot (fun g => (g.passOver s.cc).commit c)
    let u := (c.r.staged.zip (List.range c.r.staged.length)).foldl (fun s x => s.perform c x.2 x.1) s0
    ∃ t g0 gu g', exec (.endrun false idx pmask) s = .next t ∧ s0.group c.core c.slot = some g0 ∧ Committed c g0 ∧
      u.group c.core c.slot = some gu ∧ t.group c.core c.slot = some g' ∧ SameRest gu g' ∧
      t = { u with groups := t.groups, wgroups := t.wgroups, growq := t.growq, lastTrace := t.lastTrace }

/-- What dispatching an operation does: it is recorded under the next number, its counter rises by one, the pending entries and
pending frame bits stand, and its lanes join the tail of the store queue; nothing else changes (R75, R76, R78). -/
structure Sent (s s' : State) (c : Cur) (g : Group) (o : Op) (pe : List PendEnt) (pf : List PendFrm) (q : List SQEntry) : Prop where
  op : mfind s'.ops s.nextId = some o
  others : ∀ k, k ≠ s.nextId → mfind s'.ops k = mfind s.ops k
  group : s'.group c.core c.slot = some { g with
    ld := if o.ctr = some .ld then g.ld + 1 else g.ld, st := if o.ctr = some .st then g.st + 1 else g.st
    cp := if o.ctr = some .cp then g.cp + 1 else g.cp, tl := if o.ctr = some .tl then g.tl + 1 else g.tl
    pendEnt := g.pendEnt ++ pe, pendFrm := g.pendFrm ++ pf, sq := g.sq ++ q }
  elsewhere : ∀ k, k ≠ gkey c.core c.slot → mfind s'.groups k = mfind s.groups k
  rest : s' = { s with nextId := s.nextId + 1, ops := s'.ops, groups := s'.groups }

/-- Stores, `stw`, atomics and ring appends are released to the store queue in lane order, loads, prefetches, launches,
messages, tables, and the operations of the copy and matrix engines are dispatched, each with its counter and its pending
results: `n` entries of the exit stack from the `i`-th below the top, or frame registers. Loads see their workgroup's held lines
from the trailer of a `wwait` on a witness of workgroup scope on (R75, R76, R78, R80, R189, R222, R236, R253). -/
def Dispatching : Prop :=
  ∀ (s : State) (c : Cur) (g : Group) (k i n : Nat), s.group c.core c.slot = some g →
    i + n ≤ c.r.stk.length → c.r.stk.length ≤ c.exitDepth →
    (∀ j e, c.r.stk[j]? = some e → (e.pend = some k ↔ i ≤ j ∧ j < i + n)) →
    let gen := (s.ctx c.g.guest).asgen
    let dest : Dest := if n = 0 then .none else .stack (c.exitDepth - i - n) n
    let pe : List PendEnt := (List.range n).map (fun j => ⟨c.exitDepth - i - n + j, c.r.mask, s.nextId⟩)
    let pf (f m : Nat) : List PendFrm := (List.range m).map (fun j => ⟨f + j, s.nextId⟩)
    let words (size : Nat) : Nat := if size = 16 then 4 else if size = 8 then 2 else 1
    let op (kind : OpKind) (ctr : Option Ctr) (mask : Mask) (lanes : List OpLane) : Op :=
      { c.newOp kind gen s.cc with id := s.nextId, ctr := ctr, mask := mask, lanes := lanes }
    let todo (ls : List LaneReq) : List OpLane := ls.map (fun q => ⟨q, .todo⟩)
    let sees : Scope := if g.wgSeen || c.r.staged.any (fun x => match x with | .dropL1 _ wg => wg | _ => false) then .wg else .dev
    let que (size : Nat) (sync : Bool) (ls : List LaneReq) : List SQEntry := ls.map (fun q => ⟨s.nextId, q.lane, q.va, size, q.val, gen, c.r.hpc,
      if sync then s.placed c.g.guest q.va else none⟩)
    (∀ size ls, Sent s (s.perform c k (.store size ls)) c g { op .store (some .st) (reqMask ls) (todo ls) with size := size } [] []
      (que size false ls)) ∧
    (∀ sc size ls, Sent s (s.perform c k (.stw sc size ls)) c g
      { op .stw (some .st) (reqMask ls) (todo ls) with size := size, scope := sc, wit := true, dest := dest } pe [] (que size true ls)) ∧
    (∀ a size sgn sc wit ls, Sent s (s.perform c k (.atomic a size sgn sc wit ls)) c g
      { op .atomic (some .ld) (reqMask ls) (todo ls) with
        size := size, atom := a, sgn := sgn, scope := sc, wit := wit, dest := dest } pe [] (que size true ls)) ∧
    (∀ ls, Sent s (s.perform c k (.ringput ls)) c g
      { op .ringput (some .ld) (reqMask ls) (todo ls) with size := 4, scope := .sys, dest := dest } pe [] (que 4 true ls)) ∧
    (∀ size ext wit ls,
      let o : Op := { op .load (some .ld) (reqMask ls) (todo ls) with
        size := size, ext := ext, wit := wit, scope := sees }
      Sent s (s.perform c k (.load size ext wit none ls)) c g { o with dest := dest } pe [] [] ∧
      ∀ f, Sent s (s.perform c k (.load size ext wit (some f) ls)) c g { o with dest := .frame f (words size) } [] (pf f (words size)) []) ∧
    (∀ ls, Sent s (s.perform c k (.prf ls)) c g { op .prf none (reqMask ls) (todo ls) with size := 1 } [] [] []) ∧
    (∀ x, Sent s (s.perform c k (.idle x)) c g (op .timer (some x) c.r.mask []) [] [] []) ∧
    (∀ u va l, Sent s (s.perform c k (.watch u va l)) c g
      { op (.watch u) (some .ld) c.r.mask (todo [⟨l, va, 0, 0, 0⟩]) with size := 128, scope := sees } [] [] []) ∧
    (∀ va l b, s.bankFree c.core c.slot = some b → g.tab ≠ some b → ∃ s', Sent s s' c g
      { op (.tload b) (some .ld) c.r.mask (todo [⟨l, va, 0, 0, 0⟩]) with size := 3088, scope := sees } [] [] [] ∧
      s.perform c k (.tload true va l) = { s' with banks := mset s.banks (c.core * 2 + b) ⟨.loading, va, c.g.guest, [], 0, s.nextId⟩ }) ∧
    (∀ w m va, Sent s (s.perform c k (.enq w m va)) c g
      { op (if w then .enqw else .enq) (some .ld) m [⟨⟨0, va, 0, 0, 0⟩, .done⟩] with
        dest := dest, status := if m = 0 then some 0 else none } pe [] []) ∧
    (∀ m h, Sent s (s.perform c k (.unveil m h)) c g
      { op (.unveil h.toNat) (some .cp) m [] with dest := dest, status := if m = 0 then some 0 else none } pe [] []) ∧
    (∀ f m ls, Sent s (s.perform c k (.accld f m ls)) c g { op .accld (some .tl) (reqMask ls) (todo ls) with dest := .frame f m } [] (pf f m) []) ∧
    (∀ ls, Sent s (s.perform c k (.accWrite ls)) c g (op .accWrite (some .tl) (reqMask ls) (todo ls)) [] [] []) ∧
    (∀ f m on, ∃ s', Sent s s' c g { op .arming (some .tl) on [] with dest := .frame f m } [] (pf f m) [] ∧
      s.perform c k (.mcatch f m on) =
        { s' with armings := s.armings ++ [⟨s.nextId, s.nextId, c.core, c.slot, c.g.guest, f, m, on⟩] }) ∧
    (∀ va l, ∃ s' x, Sent s s' c g (op (.chain s.nextId) (some .cp) c.r.mask []) [] [] [] ∧
      s.perform c k (.cpy true va l) = { s' with chains := s.chains ++ [x] } ∧ x.id = s.nextId ∧ x.op = s.nextId ∧ x.core = c.core ∧
      x.wslot = c.g.wslot ∧ x.elem = va ∧ x.index = 0 ∧ x.phase = .waiting) ∧
    (∀ va l, Sent s (s.perform c k (.cpy false va l)) c g (op .timer (some .cp) c.r.mask []) [] [] []) ∧
    ∀ va l, Sent s (s.perform c k (.tload false va l)) c g (op .timer (some .ld) c.r.mask []) [] [] []

/-- Items that act on the group, workgroup or context (R166, R169, R202, R218, R245, R272, R276, R277, R286 to R288,
R318, R332): scratchpad bytes, arrivals and waits at barriers, `yield`, `sleep`, `grow`, `shrink`, `pmark`, `unwatch`, ASGEN,
WSTAT and MXFLAGS, the scout limit and the copy status. -/
def GroupItems : Prop :=
  (∀ (s : State) (c : Cur) (g : Group) (k : Nat), s.group c.core c.slot = some g →
    let now (x : Staged) (g' : Group) : Prop := s.perform c k x = s.setGroup c.core c.slot g'
    now .yield { g with yieldAt := some (s.cc + 16), inE := none } ∧
    (∀ n, 0 < n → now (.sleep n) { g with sleepAt := some (max (g.sleepAt.getD 0) (s.cc + n)), inE := none }) ∧
    s.perform c k (.sleep 0) = s ∧
    (∀ n, now (.pmark n) { g with pmark := n }) ∧
    (∀ n q, s.growFor c 0 n = some q → ∃ g', (s.perform c k (.grow n)).group c.core c.slot = some g' ∧ g'.fgran = g.fgran + n ∧
      (∀ f, f < 8 * g.fgran → mget g'.frame f [] = mget g.frame f []) ∧ (∀ f, 8 * g.fgran ≤ f → mget g'.frame f [] = []) ∧
      (s.perform c k (.grow n)).growq = s.growq.erase q) ∧
    ∀ n ≤ g.fgran, ∃ g', (s.perform c k (.shrink n)).group c.core c.slot = some g' ∧ g'.fgran = g.fgran - n ∧
      (∀ f, f < 8 * (g.fgran - n) → mget g'.frame f [] = mget g.frame f []) ∧
      ∀ f, 8 * (g.fgran - n) ≤ f → mget g'.frame f [] = []) ∧
  (∀ (s : State) (c : Cur) (k size : Nat) (ls : List LaneReq) (q : LaneReq), Memory.wf (s.scratchOf c.core) = true →
    let at_ := (s.allocOf c).2 + q.va.toNat
    let m := (s.perform c k (.sts size (ls ++ [q]))).scratchOf c.core
    rdLE m at_ size = q.val.toNat % 256 ^ size ∧
    (∀ a, ¬(at_ ≤ a ∧ a < at_ + size) → rdByte m a = rdByte ((s.perform c k (.sts size ls)).scratchOf c.core) a) ∧
    s.perform c k (.sts size []) = s.setScratch c.core (s.scratchOf c.core)) ∧
  (∀ (s : State) (c : Cur) (g : Group) (w : WGroup) (b : Bar) (k n : Nat), s.group c.core c.slot = some g →
    s.wgroup c.core c.g.wslot = some w → mfind w.bars n = some b →
    let j := s.w1Of c.g
    let s' := s.perform c k (.arrive n)
    (w.member n j = false ∨ mfind b.arr j = some b.pn → (s'.wgroup c.core c.g.wslot).map (fun w => mfind w.bars n) = some (some b)) ∧
    (w.member n j = true → mfind b.arr j ≠ some b.pn → ∃ w' b', s'.wgroup c.core c.g.wslot = some w' ∧ mfind w'.bars n = some b' ∧
      (b.an + 1 ≠ b.en → b'.an = b.an + 1 ∧ b'.pn = b.pn ∧ mfind b'.arr j = some b.pn) ∧
      (b.an + 1 = b.en → b.held = 0 → b'.an = 0 ∧ b'.pn = b.pn + 1)) ∧
    (w.member n j = true → mfind b.arr j = some b.pn → 0 < b.en →
      ∃ g', (s.perform c k (.bwait n)).group c.core c.slot = some g' ∧ (n, b.pn) ∈ g'.bwait) ∧
    (w.member n j = false ∨ mfind b.arr j ≠ some b.pn → s.perform c k (.bwait n) = s) ∧
    s.perform c k (.bsync n) = (s.perform c k (.arrive n)).perform c k (.bwait n)) ∧
  ∀ (s : State) (c : Cur) (w : WGroup) (k : Nat), s.wgroup c.core c.g.wslot = some w →
    let x := s.ctx c.g.guest
    (∀ n y, x.watch[n]? = some y →
      (∃ z, s.perform c k (.unwatch n) = s.setCtx c.g.guest { x with watch := x.watch.set n z } ∧ z = { y with armed := false }) ∧
      ∀ v : Word, s.perform c k (.wstat n v) =
        s.setCtx c.g.guest { x with watch := x.watch.set n { y with hit := y.hit && !v.getLsbD 2 } }) ∧
    (let t := s.perform c k .asgen
     t = { s.setCtx c.g.guest { x with asgen := x.asgen + 1 } with l1 := t.l1, tlb := t.tlb } ∧
      (∀ y ∈ t.tlb, ¬(y.guest = c.g.guest ∧ y.gen = x.asgen + 1)) ∧
      ∀ y ∈ t.l1, ∀ a, y.kind ≠ .clean a (x.asgen + 1) c.g.guest) ∧
    (∀ q, w.seq = some q → ∀ v : Word, (s.perform c k (.mxflags v)).wgroup c.core c.g.wslot =
      some { w with seq := some { q with mxflags := q.mxflags &&& ~~~(v.setWidth 3) ||| (if q.mxAt = s.cc then q.mxNew else 0) } }) ∧
    (∀ n, (s.perform c k (.cpyscout n)).wgroup c.core c.g.wslot = some { w with scout := n }) ∧
    (s.perform c k .cpystat).wgroup c.core c.g.wslot = some { w with felem := 0, fcause := 0, fail := false }

/-- Where a lane of the run goes: nowhere where it exits (R92, R160). -/
def headsFor (c : Cur) (l : Nat) : Option Addr := match mfind c.r.succ l with | some a => a | none => some c.r.fall

/-- A part's PC, lanes and depth. -/
def stand (p : Part) : Addr × Mask × Nat := (p.pc, p.mask, p.depth)

/-- The successors of a run are divided into parts in ascending PC order, each with its lanes and the exit depth. -/
def Divided (c : Cur) (ps : List (Addr × Mask × Nat)) : Prop :=
  ps.Pairwise (fun x y => x.1.toNat < y.1.toNat) ∧
  (∀ x ∈ ps, x.2.2 = c.exitDepth ∧ (∃ l < 32, laneOn x.2.1 l = true) ∧
    ∀ l < 32, laneOn x.2.1 l = (laneOn c.r.mask l && decide (headsFor c l = some x.1))) ∧
  ∀ l < 32, laneOn c.r.mask l = true → ∀ a, headsFor c l = some a → ∃ x ∈ ps, x.1 = a

/-- Divergence at a trailer (R58 to R60, R64, R163, R165). The lanes are divided by successor; the part with the lowest PC keeps
the slot, the next take the free slots in ascending order, and the rest join the tail of the pending list, of which the
hardware holds the eight oldest. A slot that every lane has left is taken by the pending entry at the lowest PC, the oldest of
equals. A `call` leaves its link in f0 and f1 of its lanes. Lanes that exit are live no more, and with the last the group
ends. Where a pending entry is due, it takes the slot of the split at the highest PC, the highest slot of equals, which goes to
the tail. -/
def Divergence : Prop :=
  ∀ (s : State) (c : Cur) (p : Part) (idx : BitVec 11), s.cur = some c → c.r.staged = [] → c.r.pendMask = 0 → c.g.parked = none →
    c.g.sup = false → c.g.maq = none → c.g.step = false → c.g.stepAsk = none → c.g.sync = false →
    (s.ctx c.g.guest).trctl.getLsbD 31 = false → c.g.splits.length = 4 → c.g.splits[c.r.split]? = some (some p) →
    (∀ q ∈ c.g.splits, ∀ x, q = some x → x.held = none) → (c.r.frm.map (·.1)).Nodup →
    let free := (List.range 4).filter (fun n => c.g.splits[n]? == some none)
    let all := c.g.pend ++ c.g.ovf
    let stays := maskOf (fun l => laneOn c.g.live l && !(laneOn c.r.mask l && decide (headsFor c l = none)))
    (c.g.pend.length ≤ 8) → (c.g.ovf ≠ [] → c.g.pend.length = 8) → (all = [] ∨ free = []) →
    ∃ t, exec (.endrun false idx 0) s = .next t ∧
      (stays = 0 → ∀ g', t.group c.core c.slot = some g' → g'.ended = true) ∧
      (stays ≠ 0 → ∃ g' ps, t.group c.core c.slot = some g' ∧ Divided c ps ∧ g'.live = stays ∧ g'.run = none ∧
        (∀ n l, l < 32 → laneAt (mget g'.frame n []) l =
          if laneOn c.r.link l ∧ n = 0 then loWord c.r.fall else if laneOn c.r.link l ∧ n = 1 then hiWord c.r.fall
          else laneAt (c.frame n) l) ∧
        ((∀ x ∈ c.g.pend, x.due = false) → ps ≠ [] →
          (∀ k < ps.length, k ≤ free.length → (g'.splits[(c.r.split :: free).getD k 0]?).map (Option.map stand) = some ps[k]?) ∧
          (∀ n < 4, n ≠ c.r.split → n ∉ free.take (ps.length - 1) →
            (g'.splits[n]?).map (Option.map stand) = (c.g.splits[n]?).map (Option.map stand)) ∧
          (g'.pend ++ g'.ovf).map stand = all.map stand ++ ps.drop (1 + free.length) ∧
          g'.pend.length = min 8 (g'.pend.length + g'.ovf.length)) ∧
        ((∀ x ∈ c.g.pend, x.due = false) → ps = [] →
          (all = [] → g'.splits[c.r.split]? = some none) ∧
          (∀ i x, c.g.pend[i]? = some x →
            (∀ j y, c.g.pend[j]? = some y → x.pc.toNat ≤ y.pc.toNat ∧ (y.pc = x.pc → i ≤ j)) →
            (g'.splits[c.r.split]?).map (Option.map stand) = some (some (stand x)) ∧
            (g'.pend ++ g'.ovf).map stand = (all.eraseIdx i).map stand)) ∧
        (∀ i x a n y, c.g.pend[i]? = some x → x.due = true → (∀ j < i, ∀ z, c.g.pend[j]? = some z → z.due = false) →
          ps = [(a, c.r.mask, c.exitDepth)] →
          let after : List (Option (Addr × Mask × Nat)) := (c.g.splits.map (Option.map stand)).set c.r.split (some (a, c.r.mask, c.exitDepth))
          after[n]? = some (some y) → (∀ k z, after[k]? = some (some z) → z.1.toNat < y.1.toNat ∨ (z.1 = y.1 ∧ k ≤ n)) →
          g'.splits.map (Option.map stand) = after.set n (some (stand x)) ∧
          (g'.pend ++ g'.ovf).map stand = (all.eraseIdx i).map stand ++ [y]))

end Sys2Proof.Claims

/-- What a trailer commits and releases, and where its lanes go. -/
def Obligations.TrailerCommits : Prop :=
  Sys2Proof.Claims.PlainTrailer ∧ Sys2Proof.Claims.StagedInOrder ∧ Sys2Proof.Claims.Dispatching ∧ Sys2Proof.Claims.GroupItems ∧
    Sys2Proof.Claims.Divergence

/-- A precise fault rolls the run back and is delivered by its disposition. In user mode, with a handler and the spill of
every part done, the group enters its handler: XCAUSE, XPC (the header), XMASK and XADDR are written, the mode is
supervisor, every part is parked as it stood, and one split with the fault's lanes starts at XVEC above the deepest part;
the registers of the run are as before it. Where a spill faults the entry stops with the registers written, and the group
escalates with the spill's cause. In supervisor mode, or without a handler, the group is stopped in its slot for its firmware (log
13), with its save block at a multiple of 128 in the save area beyond the slots of records, and one is written where it fits behind
them (log 26). An ILLEGAL, RUN_FORM or RUN_HAZARD fault ends the group, with CTXERR set (R81, R278, R282, R362 to R365, R372, R373, R379). -/
def Obligations.TakingAnException : Prop :=
  ∀ (s : Sys2Proof.Machine.State) (c : Sys2Proof.Machine.Cur) (cause : Sys2Proof.Machine.Cause) (m : Sys2Proof.Mask)
    (xa : Sys2Proof.AMap Sys2Proof.DWord), s.cur = some c →
    let x := s.ctx c.g.guest
    let s1 := s.rollback c.core c.slot c.r.split .nothing
    let t := s.preciseFault c cause m xa
    (Sys2Proof.Machine.dispositionOf cause = .handler → c.g.sup = false → x.xvec ≠ 0 →
      ∀ g1 s2 ps, s1.group c.core c.slot = some g1 →
      s1.spillParts c.core g1 (g1.splits ++ (g1.pend ++ g1.ovf).map some) = (s2, ps, none) →
      ∃ g' h k, t.group c.core c.slot = some g' ∧ g'.sup = true ∧ g'.run = none ∧
        g'.xcause = cause.setWidth 32 ∧ g'.xpc = c.r.hpc ∧ g'.xmask = m ∧
        (∀ l, Sys2Proof.Machine.mfind g'.xaddr l = if Sys2Proof.Machine.laneOn m l then Sys2Proof.Machine.mfind xa l else none) ∧
        g'.splits = [some h, none, none, none] ∧ g'.pend = [] ∧ g'.ovf = [] ∧
        h.pc = x.xvec ∧ h.mask = m ∧ h.res = 0 ∧ (∀ p ∈ g1.parts, p.depth ≤ h.depth) ∧
        g'.parked = some k ∧ k.deliv = .slot c.r.split ∧ k.base = h.depth ∧
        k.splits.map (Option.map (fun p => (p.pc, p.mask, p.depth))) =
          g1.splits.map (Option.map (fun p => (p.pc, p.mask, p.depth))) ∧
        g'.frame = c.g.frame ∧ g'.uni = c.g.uni ∧ g'.prd = c.g.prd ∧ g'.win = c.g.win ∧ g'.aflags = c.g.aflags) ∧
    (Sys2Proof.Machine.dispositionOf cause = .handler → c.g.sup = false → x.xvec ≠ 0 →
      ∀ g1 s2 ps k, s1.group c.core c.slot = some g1 →
      s1.spillParts c.core g1 (g1.splits ++ (g1.pend ++ g1.ovf).map some) = (s2, ps, some k) →
      ∃ g' e, t.group c.core c.slot = some g' ∧ g'.esc = some e ∧ e.cause = k ∧ g'.run = none ∧ g'.sup = false ∧
        g'.xcause = cause.setWidth 32 ∧ g'.xpc = c.r.hpc ∧ g'.xmask = m) ∧
    (Sys2Proof.Machine.dispositionOf cause = .handler → (c.g.sup = true ∨ x.xvec = 0) →
      ∃ g' e, t.group c.core c.slot = some g' ∧ g'.esc = some e ∧ e.cause = cause ∧ g'.run = none ∧ g'.sup = c.g.sup ∧
        (s.recs = [] → s.ops = [] →
          let lo := s1.slotAddr c.g.guest (s1.slots c.g.guest)
          (e.len = 0 → t.mem = s1.mem) ∧
          (s1.blockFits c.g.guest (Sys2Proof.Machine.lineUp lo) (g'.blockLen true) = true → e.len ≠ 0) ∧
          (e.len ≠ 0 → e.len = g'.blockLen true ∧ ∃ a, e.addr = BitVec.ofNat 64 a ∧ a % 128 = 0 ∧ lo ≤ a ∧
            a + e.len ≤ (s1.ctx c.g.guest).saveBase.toNat + (s1.ctx c.g.guest).saveSize.toNat ∧
            t.mem = Sys2Proof.Machine.putImage s1.mem a e.len (g'.image true)))) ∧
    (cause ∈ [Sys2Proof.Machine.cIllegal, Sys2Proof.Machine.cRunForm, Sys2Proof.Machine.cRunHazard] →
      (t.ctx c.g.guest).ctxerr = true ∧ ∀ g', t.group c.core c.slot = some g' → g'.ended = true ∧ g'.live = 0)

/-- A run of the handler that executed `replay` reissues at its trailer the record that XCAUSE names. Of a load-class record the
lanes of UNF go out again under the context's generation; of a store record they join the tail of the store queue in
ascending order; the chain of a copy's record goes on from the stopped page. The record stands empty, and no counter rises
again (R283, R308, R371). -/
def Sys2Proof.Claims.ReplayAtTrailer : Prop :=
  ∀ (s : Sys2Proof.Machine.State) (c : Sys2Proof.Machine.Cur) (h : Sys2Proof.Machine.Part) (k : Sys2Proof.Machine.Parked)
    (idx : BitVec 11) (i : Nat) (r : Sys2Proof.Machine.Rec), Sys2Proof.Claims.Plain s c h → c.g.sup = true →
    c.r.staged = [.replay] → c.r.pendMask = 0 → c.g.parked = some k →
    let cls := c.g.xcause.toNat / 64 % 4
    cls = 1 ∨ cls = 2 →
    s.recs.findIdx? (fun x => x.core == c.core && x.guest == c.g.guest && x.slot == c.slot && x.pinned &&
      x.store == decide (cls = 2) && x.hw == some (c.g.xcause.toNat / 65536 % 32)) = some i →
    s.recs[i]? = some r → r.unf ≠ 0 → r.rslv = 0 →
    let gen := (s.ctx r.guest).asgen
    ∃ t g', Sys2Proof.Machine.exec (.endrun false idx 0) s = .next t ∧ t.group c.core c.slot = some g' ∧
      g'.ld = c.g.ld ∧ g'.st = c.g.st ∧ g'.cp = c.g.cp ∧ g'.tl = c.g.tl ∧
      (r.store = true → ∃ id, g'.sq = c.g.sq ++ ((List.range 32).filter (Sys2Proof.Machine.laneOn r.unf)).map (fun l =>
          ⟨id, l, Sys2Proof.Machine.mget r.addr l 0, 2 ^ (r.size.toNat % 8), Sys2Proof.Machine.mget r.data l 0, gen, r.pc, none⟩) ∧
        t.recs[i]? = some { r with unf := 0, rslv := 0 }) ∧
      (r.store = false → r.kind ≠ 3 → r.kind ≠ 4 → ∀ o, Sys2Proof.Machine.mfind s.ops r.op = some o →
        (∃ x ∈ o.lanes, Sys2Proof.Machine.laneOn r.unf x.req.lane = true ∧ x.st ≠ .done) →
        t.recs[i]? = some { r with unf := 0, rslv := 0 } ∧
        Sys2Proof.Machine.mfind t.ops r.op = some { o with gen := gen, lanes := o.lanes.map (fun x =>
          if Sys2Proof.Machine.laneOn r.unf x.req.lane && x.st != .done then { x with st := .todo } else x) }) ∧
      (r.store = false → r.kind = 3 → t.chains = s.chains.map (fun x => if x.id = r.op
        then { x with scoutOff := false, phase := if x.phase = .stopped then x.after else x.phase } else x))

/-- A run of the handler that executed `tret` ends the handler at its trailer: the group is in user mode, nothing is parked,
and the part to which the exception was delivered stands at XPC as the handler left it, with its lanes and depth; the
registers the handler wrote stay (R280, R281). One that executed `replay` reissues the record that XCAUSE names (R283). -/
def Obligations.ReturnFromHandler : Prop :=
  Sys2Proof.Claims.ReplayAtTrailer ∧
  ∀ (s : Sys2Proof.Machine.State) (c : Sys2Proof.Machine.Cur) (h q : Sys2Proof.Machine.Part) (k : Sys2Proof.Machine.Parked)
    (idx : BitVec 11), Sys2Proof.Claims.Plain s c h → c.g.sup = true → c.r.staged = [.tret true] → c.r.pendMask = 0 →
    c.g.parked = some k → c.exitDepth = k.base → k.splits = [some q, none, none, none] → k.pend = [] → k.ovf = [] →
    k.deliv = .slot 0 → q.mask ≠ 0 → q.held = none → (∀ r ∈ s.recs, r.pinned = false) →
    ∃ t g' q', Sys2Proof.Machine.exec (.endrun false idx 0) s = .next t ∧ t.mem = s.mem ∧
      t.group c.core c.slot = some g' ∧ g'.sup = false ∧ g'.parked = none ∧ Sys2Proof.Claims.Committed c g' ∧
      g'.splits = [some q', none, none, none] ∧ q'.pc = c.r.xpc ∧ q'.mask = q.mask ∧ q'.depth = q.depth

/-- The pending marks of the stack entries from the header's dmin entries on, after a list of instructions. -/
def Sys2Proof.Claims.shape (is : List Sys2Proof.Instr) (st : List Bool) : List Bool :=
  is.foldl (fun st i => List.replicate (Sys2Proof.Machine.stackUse i).pushes (Sys2Proof.Machine.stackUse i).pend ++
    st.drop (Sys2Proof.Machine.stackUse i).pops) st

/-- The checks of a run's instructions (R79, R125, R126): the first that pops or reaches an entry pushed pending earlier in the run
is RUN_HAZARD; the first that reaches below entry depth - dmin, or rises above entry depth + dmax, is RUN_FORM; so are a
pending mask in the trailer that is not the run's, and a fifth `mcatch` (R335). A header with dmin + dmax > 8 is RUN_FORM. -/
def Sys2Proof.Claims.RunChecks : Prop :=
  (∀ (dmin dmax pmask : Nat) (is : List Sys2Proof.Instr),
    let st (k : Nat) : List Bool := Sys2Proof.Claims.shape (is.take k) (List.replicate dmin false)
    let hazard (k : Nat) (i : Sys2Proof.Instr) : Prop := true ∈ (st k).take (Sys2Proof.Machine.stackUse i).pops
    let reach (k : Nat) (i : Sys2Proof.Instr) : Prop := (st k).length < (Sys2Proof.Machine.stackUse i).pops ∨ dmin + dmax < (st (k + 1)).length
    let good (n : Nat) : Prop := ∀ k i, k < n → is[k]? = some i → ¬hazard k i ∧ ¬reach k i
    (∀ n i, good n → is[n]? = some i →
      (hazard n i → Sys2Proof.Machine.checkDepths dmin dmax pmask is = some Sys2Proof.Machine.cRunHazard) ∧
      (¬hazard n i → reach n i → Sys2Proof.Machine.checkDepths dmin dmax pmask is = some Sys2Proof.Machine.cRunForm)) ∧
    (good is.length → dmin + dmax ≤ 8 →
      let marks := ((List.range 8).map (fun k => if (st is.length).getD k false then 2 ^ k else 0)).sum
      let catches := (is.filter (fun i => match i with | .mcatch _ _ _ => true | _ => false)).length
      (pmask ≠ marks ∨ 4 < catches → Sys2Proof.Machine.checkDepths dmin dmax pmask is = some Sys2Proof.Machine.cRunForm) ∧
      (pmask = marks → catches ≤ 4 → Sys2Proof.Machine.checkDepths dmin dmax pmask is = none))) ∧
  ∀ (s : Sys2Proof.Machine.State) (core guest nsafe : Nat) (pc : Sys2Proof.Addr) (w : Sys2Proof.Half) (p : Sys2Proof.Word),
    Sys2Proof.Machine.headerAddress pc = true → s.fetchHalf core guest pc.toNat = .ok w → w = 0x03C0 →
    s.fetchLit core guest (pc.toNat + 2) = .ok p → p.toNat % 8 = 0 →
    (23 < p.toNat / 2 ^ 27 ∨ 8 < p.toNat / 2 ^ 23 % 16 + p.toNat / 2 ^ 19 % 16) →
    s.decodeRun core guest nsafe pc = .error Sys2Proof.Machine.cRunForm

/-- A decoded run stands at its split's header; what decoding refuses stands there as the fault due for delivery, and code on
another package is asked for; RUN_HAZARD and RUN_FORM are found as the run's entries and depths show. At a JOIN the split is held
from its arrival on while some part stands below, 1,024 cc at most; else all parts there are released: where their depths are equal
they merge in the lowest slot of theirs, with the lanes of all and the fewest resident entries of any, and where they are not,
STACK_SKEW is due at that header (R62, R63, R79, R126). -/
def Obligations.RunDecoding : Prop :=
  Sys2Proof.Claims.RunChecks ∧
  ∀ (s : Sys2Proof.Machine.State) (core slot n : Nat) (g : Sys2Proof.Machine.Group) (p : Sys2Proof.Machine.Part),
    s.group core slot = some g → g.idleSplit n = some p → n < g.splits.length → p.image = none → p.fault = none → g.tabAddr = none →
    (∀ x ∈ s.ops, x.2.kind ≠ .tload Sys2Proof.Machine.noBank) →
    (∀ m, s.decodeRun core g.guest (s.nsafeOf g) p.pc = .ok m → m.join = false →
      ∃ t g' q, Sys2Proof.Machine.exec (.runDecode core slot n) s = .next t ∧ t.group core slot = some g' ∧
        g'.splits.getD n none = some q ∧ q.image = some m ∧ q.held = none ∧ q.pc = p.pc ∧ q.mask = p.mask ∧ q.fault = none) ∧
    (∀ m, s.decodeRun core g.guest (s.nsafeOf g) p.pc = .ok m → m.join = true → n < 4 →
      let g1 := g.modSplit n (fun p => { p with image := some m, held := none })
      let ps := g1.partsAt p.pc
      let below := ∃ q ∈ g.parts, q.pc.toNat < p.pc.toNat
      let held := below ∧ p.clear = false ∧ s.cc < p.queued + 1024
      ∃ t g', Sys2Proof.Machine.exec (.runDecode core slot n) s = .next t ∧ t.group core slot = some g' ∧
        (held → ∃ q, g'.splits.getD n none = some q ∧ q.image = some m ∧ q.held = some p.queued ∧ q.pc = p.pc ∧ q.mask = p.mask) ∧
        (¬held → (∀ x ∈ ps, x.depth = p.depth) → ∃ k q, k < 4 ∧ g'.partsAt p.pc = [q] ∧ g'.splits.getD k none = some q ∧
          (∀ j < 4, ∀ x, g1.idleSplit j = some x → x.pc = p.pc → k ≤ j) ∧ q.held = none ∧ q.image.isSome ∧ q.depth = p.depth ∧
          (∀ l < 32, Sys2Proof.Machine.laneOn q.mask l = true ↔ ∃ x ∈ ps, Sys2Proof.Machine.laneOn x.mask l = true) ∧
          (∀ x ∈ ps, q.res ≤ x.res) ∧ ∃ x ∈ ps, q.res = x.res) ∧
        (¬held → (∃ x ∈ ps, x.depth ≠ p.depth) → p.pc ∈ g'.skew ∧ ∃ q, g'.splits.getD n none = some q ∧ q.held = none ∧
          q.image = some m ∧ q.mask = p.mask)) ∧
    (s.decodeRun core g.guest (s.nsafeOf g) p.pc = .error Sys2Proof.Machine.cFarCode →
      Sys2Proof.Machine.exec (.runDecode core slot n) s = .next (s.askCode core g.guest p.pc.toNat 64).refresh) ∧
    (∀ k, s.decodeRun core g.guest (s.nsafeOf g) p.pc = .error k → k ≠ Sys2Proof.Machine.cFarCode →
      ∃ t g' q, Sys2Proof.Machine.exec (.runDecode core slot n) s = .next t ∧ t.group core slot = some g' ∧
        g'.splits.getD n none = some q ∧ q.image = none ∧ q.fault = some (k, p.mask, []))

/-- A scheduler whose port is idle issues the best of its groups in E: a promoted one before one that is not, then the
higher priority, then the longer wait, then the lower slot; and of that group the split that ranks first: its run begins
at the header with the split's lanes and its top dmin entries (R61, R77, R360). -/
def Obligations.IssueSelection : Prop :=
  ∀ (s : Sys2Proof.Machine.State) (core sched : Nat) (b : Sys2Proof.Machine.Cand) (g : Sys2Proof.Machine.Group)
    (n : Nat) (p : Sys2Proof.Machine.Part) (m : Sys2Proof.Machine.RunImage),
    s.schedIdle core sched = true → b ∈ s.candidates core sched →
    (∀ y ∈ s.candidates core sched, y ≠ b →
      (b.starved = true ∧ y.starved = false) ∨ (b.starved = y.starved ∧
        ((b.starved = false ∧ y.prio < b.prio) ∨
         ((b.starved = true ∨ b.prio = y.prio) ∧ (y.waited < b.waited ∨ (b.waited = y.waited ∧ b.slot < y.slot)))))) →
    s.group core b.slot = some g → s.boundary core b.slot = none →
    g.splits.getD n none = some p → n < 4 → p.readyAt.isSome → p.image = some m → p.overdue = false →
    (∀ k q, k < 4 → k ≠ n → g.splits.getD k none = some q → q.readyAt.isSome →
      q.overdue = false ∧ (p.pc.toNat < q.pc.toNat ∨ (p.pc = q.pc ∧ n < k))) →
    ∃ t c, Sys2Proof.Machine.exec (.issueSelect core sched) s = .next t ∧ t.focus = some (core, b.slot) ∧ t.cur = some c ∧
      c.core = core ∧ c.slot = b.slot ∧ c.r.split = n ∧ c.r.image = m ∧ c.r.code = m.code ∧ c.r.hpc = p.pc ∧ c.r.pc = p.pc + 6 ∧
      c.r.mask = p.mask ∧ c.r.depth0 = p.depth ∧ c.r.stk.length = m.dmin ∧ c.r.staged = [] ∧
      ∀ k l, k < m.dmin → (c.r.stk.getD k ⟨[], none⟩).v.getD l 0 =
        (Sys2Proof.Machine.mget g.win ((p.depth - 1 - k) % 8) []).getD l 0

/-- The time limits: a split passed over for 1,024 cc and a hardware pending entry after 1,024 cc become due; a group in E
for 256 cc is promoted; `yield` ends after 16 cc and `sleep` at its time; a part held at a JOIN for 1,024 cc is released
with the parts that stand there, where their depths agree (R61, R62, R64, R166, R288, R360). -/
def Obligations.SchedulingTimers : Prop :=
  ∀ (s : Sys2Proof.Machine.State) (core slot n : Nat) (g : Sys2Proof.Machine.Group), s.group core slot = some g →
    (∀ p, g.pend[n]? = some p → p.queued + 1024 ≤ s.cc →
      ∃ t g', Sys2Proof.Machine.exec (.pendingEntryTimeout core slot n) s = .next t ∧ t.group core slot = some g' ∧
        g'.pend = g.pend.set n { p with due := true }) ∧
    (∀ u, g.yieldAt = some u → u ≤ s.cc →
      ∃ t g', Sys2Proof.Machine.exec (.yieldExpiry core slot) s = .next t ∧ t.group core slot = some g' ∧ g'.yieldAt = none) ∧
    (∀ u, g.sleepAt = some u → u ≤ s.cc →
      ∃ t g', Sys2Proof.Machine.exec (.sleepExpiry core slot) s = .next t ∧ t.group core slot = some g' ∧ g'.sleepAt = none) ∧
    (∀ u, s.touchGroup (Sys2Proof.Machine.gkey core slot) g = g → slot < 64 → g.inE = some u → u + 256 ≤ s.cc →
      ∃ t g', Sys2Proof.Machine.exec (.starvationPromotion core slot) s = .next t ∧ t.group core slot = some g' ∧
        g'.starved = true) ∧
    (∀ p r u, g.idleSplit n = some p → n < 4 → slot < 64 → g.run = some r → p.readyAt = some u → s.ready core slot g n p = true →
      1024 ≤ p.passed + (s.cc + 1 - max u r.chosen) → n < g.splits.length →
      ∃ t g' q, Sys2Proof.Machine.exec (.splitPassedOverExpiry core slot n) s = .next t ∧ t.group core slot = some g' ∧
        g'.splits.getD n none = some q ∧ q.due = true ∧ q.overdue = true) ∧
    (∀ p u, g.idleSplit n = some p → n < 4 → g.splits.length = 4 → p.held = some u → u + 1024 ≤ s.cc →
      (∀ q ∈ g.parts, q.pc = p.pc → q.depth = p.depth) →
      (∀ r q, g.run = some r → g.splits.getD r.split none = some q → q.pc ≠ p.pc) →
      ∃ t g' k q, Sys2Proof.Machine.exec (.joinReleaseTimeout core slot n) s = .next t ∧ t.group core slot = some g' ∧
        g'.splits.getD k none = some q ∧ q.pc = p.pc ∧ q.held = none ∧
        q.mask = ((g.parts.filter (fun x => x.pc == p.pc)).map (·.mask)).foldl (· ||| ·) 0 ∧
        ∀ x ∈ g'.parts, x.pc = p.pc → x = q)

/-- Preparation: a spill or a fill of the split to be served takes the window port; after 4 cc a spill has moved its entries
to the plinth, those in excess of a merged split first, one part's at a time (log 61), after 28 cc a fill has moved its entries into the window, where
no run of the group was in progress in its last 4 cc (R68, R69, R434). -/
def Obligations.Preparation : Prop :=
  ∀ (s : Sys2Proof.Machine.State) (core slot : Nat) (g : Sys2Proof.Machine.Group), s.group core slot = some g →
    g.ended = false → g.saved = none → g.esc = none →
    (∀ n p k lo, g.port = none → g.served = some (n, p) →
      (g.transferOf p = some (false, k, lo) → g.run = none →
        ∃ t g', Sys2Proof.Machine.exec (.spillStart core slot) s = .next t ∧ t.group core slot = some g' ∧
          g'.port = some ⟨false, n, k, s.cc, p.pc, p.mask, true⟩) ∧
      (g.transferOf p = some (true, k, lo) →
        ∃ t g', Sys2Proof.Machine.exec (.fillStart core slot) s = .next t ∧ t.group core slot = some g' ∧
          g'.port = some ⟨true, n, k, s.cc, p.pc, p.mask, s.fillHits core g lo k⟩)) ∧
    (∀ x p, g.port = some x → g.splits.getD x.split none = some p → x.split < g.splits.length → p.pc = x.pc → p.mask = x.mask →
      (x.fill = false → x.at_ + 4 ≤ s.cc → ∀ s1, s.spillWords core g p x.n = .ok s1 →
        ∃ t g' q, Sys2Proof.Machine.exec (.spillComplete core slot) s = .next t ∧ t.group core slot = some g' ∧
          g'.port = none ∧ g'.splits.getD x.split none = some q ∧ q.depth = p.depth ∧
          (p.excess = [] → q.res = p.res - x.n) ∧
          (∀ y ys, p.excess = y :: ys → q.res = p.res ∧
            q.excess = if y.n ≤ x.n then ys else { y with lo := y.lo + x.n, n := y.n - x.n } :: ys)) ∧
      (x.fill = true → x.at_ + 28 ≤ s.cc → g.run = none →
        (Sys2Proof.Machine.mget s.trailAt (Sys2Proof.Machine.gkey core slot) 0 + 5 ≤ s.cc ∨
          (x.hit = true ∧ Sys2Proof.Machine.mget s.trailAt (Sys2Proof.Machine.gkey core slot) 0 < x.at_ + 24)) →
        ∀ s1, s.fillWords core slot g p x.n = .ok s1 →
        ∃ t g' q, Sys2Proof.Machine.exec (.fillComplete core slot) s = .next t ∧ t.group core slot = some g' ∧
          g'.port = none ∧ g'.splits.getD x.split none = some q ∧ q.res = p.res + x.n ∧ q.depth = p.depth))

/-- At a run boundary a group that the debugger asked to stop stops; otherwise the oldest store record, then, with no store
record due, the oldest record of a copy or a sequencer, then, with neither due, what stands at the header of the part to run
next, a fault or the oldest record that it awaits, is delivered, with XPC that part's PC; in user mode with a handler the
group enters it, in supervisor mode it escalates (R282, R364, R365, R366, R401). STACK_SKEW at a header where parts of unequal
depths were released is delivered there, with the lanes of them all (R63), before what stands at the next part's header (log 76).
-/
def Obligations.BoundaryDelivery : Prop :=
  ∀ (s : Sys2Proof.Machine.State) (core slot : Nat) (g : Sys2Proof.Machine.Group), s.group core slot = some g →
    g.ended = false → g.run = none → g.saved = none → g.esc = none →
    (g.dbg = .requested →
      ∃ t g', Sys2Proof.Machine.exec (.runBoundaryDelivery core slot) s = .next t ∧ t.group core slot = some g' ∧
        g'.dbg = .stopped Sys2Proof.Machine.cDebugStop ∧ g'.xpc = g.xpc ∧ g'.sup = g.sup) ∧
    (∀ n p f, g.dbg = .running → g.preempt = false → g.sup = true → s.nextPart core slot g = some (n, p) → n < g.splits.length →
      p.fault = some f → Sys2Proof.Machine.dispositionOf f.1 = .handler →
      ∃ t g' e, Sys2Proof.Machine.exec (.runBoundaryDelivery core slot) s = .next t ∧ t.group core slot = some g' ∧
        g'.esc = some e ∧ e.cause = f.1 ∧ g'.sup = true) ∧
    (∀ n p f, g.dbg = .running → g.preempt = false → g.sup = false → (s.ctx g.guest).xvec ≠ 0 → n < 4 →
      s.nextPart core slot g = some (n, p) →
      g.splits = (List.replicate 4 none).set n (some p) → g.pend = [] → g.ovf = [] → p.res = 0 → p.excess = [] → g.skew = [] →
      p.fault = some f → Sys2Proof.Machine.dispositionOf f.1 = .handler →
      (∀ r ∈ s.recs, ¬(r.core = core ∧ r.slot = slot)) →
      ∃ t g' h, Sys2Proof.Machine.exec (.runBoundaryDelivery core slot) s = .next t ∧ t.group core slot = some g' ∧
        g'.sup = true ∧ g'.xpc = p.pc ∧ g'.xmask = f.2.1 ∧ g'.xcause = f.1.setWidth 32 ∧
        g'.splits = [some h, none, none, none] ∧ h.pc = (s.ctx g.guest).xvec ∧ h.mask = f.2.1) ∧
    (∀ pc more p q, g.dbg = .running → g.preempt = false → g.sup = false → (s.ctx g.guest).xvec ≠ 0 →
      (s.nextPart core slot g).isSome → (∀ x ∈ g.parts, x.res = 0 ∧ x.excess = []) → g.skew = pc :: more →
      p ∈ g.partsAt pc → q ∈ g.partsAt pc → p.depth ≠ q.depth → (∀ r ∈ s.recs, ¬(r.core = core ∧ r.slot = slot)) →
      ∃ t g' h, Sys2Proof.Machine.exec (.runBoundaryDelivery core slot) s = .next t ∧ t.group core slot = some g' ∧
        g'.sup = true ∧ g'.xpc = pc ∧ g'.xcause = Sys2Proof.Machine.cStackSkew.setWidth 32 ∧
        (∀ l < 32, Sys2Proof.Machine.laneOn g'.xmask l = true ↔ ∃ x ∈ g.partsAt pc, Sys2Proof.Machine.laneOn x.mask l = true) ∧
        g'.splits = [some h, none, none, none] ∧ h.pc = (s.ctx g.guest).xvec ∧ h.mask = g'.xmask) ∧
    let due (x : Sys2Proof.Machine.Rec) : Prop := x.core = core ∧ x.slot = slot ∧ x.delivered = false ∧ x.pinned = false ∧ x.unf ≠ 0
    let engine (x : Sys2Proof.Machine.Rec) : Prop := x.kind = 3 ∨ x.kind = 4
    ∀ (n : Nat) (p : Sys2Proof.Machine.Part) (i : Nat) (r : Sys2Proof.Machine.Rec) (k : Nat), g.dbg = .running →
      g.preempt = false → g.sup = false → (s.ctx g.guest).xvec ≠ 0 → n < 4 → s.nextPart core slot g = some (n, p) →
      g.splits = (List.replicate 4 none).set n (some p) → g.pend = [] → g.ovf = [] → p.res = 0 → p.excess = [] →
      s.recs[i]? = some r → due r → r.hw = some k → k < 32 → Sys2Proof.Machine.dispositionOf r.cause = .handler →
      let first (q : Sys2Proof.Machine.Rec → Prop) : Prop :=
        q r ∧ ∀ (j : Nat) (x : Sys2Proof.Machine.Rec), j < i → s.recs[j]? = some x → due x → ¬q x
      let delivers (cls : Nat) (m : Sys2Proof.Mask) : Prop :=
        ∃ (t : Sys2Proof.Machine.State) (g' : Sys2Proof.Machine.Group),
          Sys2Proof.Machine.exec (.runBoundaryDelivery core slot) s = .next t ∧ t.group core slot = some g' ∧
          t.recs[i]? = some { r with pinned := true, delivered := true } ∧
          g'.sup = true ∧ g'.xpc = p.pc ∧ g'.xmask = m ∧ g'.xcause = BitVec.ofNat 32 (r.cause.toNat + 64 * cls + 65536 * k)
      (first (fun x => x.store = true) → r.kind ≠ 4 → delivers 2 r.unf) ∧
      ((∀ x ∈ s.recs, due x → x.store = false) → first engine → delivers 1 (if r.kind = 4 then p.mask else r.unf)) ∧
      ((∀ x ∈ s.recs, due x → x.store = false ∧ ¬engine x) → g.skew = [] → p.fault = none → p.held = none →
        g.prepFault p = none → first (fun x => Sys2Proof.Machine.isFrq x = true ∧ s.awaits core slot g p x = true) → delivers 1 r.unf)


namespace Sys2Proof.Claims

open Sys2Proof.Machine

/-- The event `i` happens in `s` and leaves a state with the property `p`. -/
def Leads (i : Instr) (s : State) (p : State → Prop) : Prop := ∃ t, exec i s = .next t ∧ p t

/-- The group in a slot after an event, with the property `p`. -/
def GroupIs (t : State) (core slot : Nat) (p : Group → Prop) : Prop := ∃ g, t.group core slot = some g ∧ p g

/-- The words `ws` stand in lane `l` of the operation's destination, where the lane lives and the operation's result is
wanted: in the window for resident stack entries, or in frame registers (R75, R215). -/
def Delivered (s t : State) (o : Op) (l : Nat) (ws : List Word) : Prop :=
  ∀ g, s.group o.core o.slot = some g → laneOn g.live l → o.dropped = false → l < 32 →
    (∀ (j n : Nat) (p : Part), o.dest = .stack j n → n ≤ 8 → g.partWith l = some p → p.depth - p.res ≤ j →
      GroupIs t o.core o.slot (fun g' => ∀ k < n, laneAt (mget g'.win ((j + k) % 8) []) l = ws.getD k 0)) ∧
    (∀ f n : Nat, o.dest = .frame f n →
      GroupIs t o.core o.slot (fun g' => ∀ k < n, laneAt (mget g'.frame (f + k) []) l = ws.getD k 0))

/-- The operation has completed: it is gone, its counter is one lower, and nothing of its group waits for it (R75, R215). -/
def Completed (s t : State) (o : Op) : Prop :=
  mfind t.ops o.id = none ∧ ∀ g, s.group o.core o.slot = some g → GroupIs t o.core o.slot (fun g' =>
    g'.ld = (g.lower o.ctr).ld ∧ g'.st = (g.lower o.ctr).st ∧ g'.cp = (g.lower o.ctr).cp ∧ g'.tl = (g.lower o.ctr).tl ∧
    (∀ p ∈ g'.pendEnt, p.op ≠ o.id) ∧ (∀ p ∈ g'.pendFrm, p.op ≠ o.id))

/-- The group of an operation, if it is in its slot, has not ended. -/
def Lives (s : State) (core slot : Nat) : Prop := ∀ g, s.group core slot = some g → g.ended = false

/-- No core holds the line for its workgroup. -/
def NoHeld (s : State) (line : Nat) : Prop := ∀ x ∈ s.l1, x.line = line → ∀ w t g, x.kind ≠ .held w t g

/-- The context keeps no dirty log. -/
def Unlogged (s : State) (guest : Nat) : Prop := (s.ctx guest).valid = false ∨ s.cmdField guest 48 4 = 0

/-- The bytes of memory from `a` on are `bs` and all others are as in `m`. -/
def Written (m m' : Memory) (a : Nat) (bs : List Byte) : Prop :=
  ∀ x, rdByte m' x = if a ≤ x ∧ x < a + bs.length then bs.getD (x - a) 0 else rdByte m x

/-- The words of an old value of `n` bytes, low word first. -/
def valueWords (n v : Nat) : List Word := (List.range (sizeWords n)).map (fun k => BitVec.ofNat 32 (v / 2 ^ (32 * k)))

/-- A witness's words where the operation answers one. -/
def witWords (o : Op) (w : DWord) : List Word := if o.wit then [loWord w, hiWord w] else []

/-! ### Stores, homes, loads -/

/-- A plain store to a global address is accepted into its home's queue in the order of the queue, once no load of its lane to the
same bytes, and no store of its lane that waits to be sent again under a new generation, stands before it; one whose page does not
translate, the operation's only lane, leaves a store record, whatever stands before it (R222, R223, R245, R253, R370). -/
def StoreAccepts (s : State) : Prop :=
  ∀ (core slot i : Nat) (g : Group) (e : SQEntry) (o : Op), s.group core slot = some g → g.ended = false →
    g.sq[i]? = some e → mfind s.ops e.op = some o → o.kind = .store → o.core = core → o.slot = slot → o.id = e.op →
    (∀ x ∈ g.sq.take i, s.sameLine core g x.va x.size e.va e.size = false) → s.staleAhead core slot g e = false →
    aperture e.va = .global → e.pa = none →
    (∀ pa leaf, s.loadAhead core slot g e = false → s.translate g.guest e.va.toNat .write = .ok (pa, leaf) → (∀ x ∈ o.lanes, ∀ k, x.st ≠ .faulted k) →
      Leads (.storeAccept core slot i) s (fun t => t.mem = s.mem ∧ (∃ a, t.aq = s.aq ++ [a] ∧ a.addr = pa ∧ a.va = e.va ∧
        a.act = .store (leBytes e.size e.val.toNat) ∧ a.op = e.op ∧ a.lane = e.lane ∧ a.guest = g.guest ∧
        a.gen = (s.ctx g.guest).asgen) ∧ GroupIs t core slot (fun g' => g'.sq = g.sq.eraseIdx i) ∧
        ((∀ x ∈ o.lanes, x.req.lane ≠ e.lane → x.st = .done) → Completed s t o))) ∧
    (∀ k q, s.translate g.guest e.va.toNat .write = .error k → o.lanes = [⟨q, .todo⟩] → q.lane = e.lane → q.lane < 32 →
      o.dropped = false → laneOn g.live q.lane → s.recs = [] →
      Leads (.storeAccept core slot i) s (fun t => t.mem = s.mem ∧ t.aq = s.aq ∧ Completed s t o ∧ ∃ r, t.recs = [r] ∧
        r.cause = k ∧ r.store = true ∧ r.kind = 2 ∧ r.core = core ∧ r.slot = slot ∧ r.pc = o.pc ∧ r.owner = g.wid ∧
        (∀ l < 32, laneOn r.unf l = decide (l = q.lane)) ∧ mfind r.addr q.lane = some q.va ∧ mfind r.data q.lane = some q.val))

/-- The oldest entry of a line is applied at its home: a plain store writes its bytes; an atomic writes its new value and
answers the old one, with the witness of the apply where it asks for one; a ring append writes its entry, P and status 1
(R224, R228, R230, R254, R292). -/
def HomeApplies (s : State) : Prop :=
  ∀ (line i : Nat) (e : AQEntry), s.oldest line = some (i, e) → s.lineBusy line = false → s.homeUp e.addr = true →
    isRemote e.addr = false → NoHeld s line → Unlogged s e.guest → Lives s e.core e.slot → Memory.wf s.mem = true →
    (∀ bs, e.act = .store bs → e.gen = (s.ctx e.guest).asgen → (∀ o, mfind s.ops e.op = some o → o.kind = .store) →
      Leads (.homeApply line) s (fun t => Written s.mem t.mem e.addr bs ∧ t.aq = s.aq.eraseIdx i)) ∧
    (∀ o bs, e.act = .stw bs → mfind s.ops e.op = some o → o.id = e.op → o.kind = .stw → o.scope ≠ .wg → o.saved = false →
      o.core = e.core → o.slot = e.slot →
      Leads (.homeApply line) s (fun t => Written s.mem t.mem e.addr bs ∧ t.aq = s.aq.eraseIdx i ∧ ∀ g, s.group e.core e.slot = some g →
        Delivered s t o e.lane (witWords o (mkWit (scopeCode o.scope) (s.domainOf e.core g.wslot o.scope) s.dtime)))) ∧
    (∀ o q, e.act = .atomic → mfind s.ops e.op = some o → o.id = e.op → o.kind = .atomic → o.scope ≠ .wg → o.saved = false →
      o.core = e.core → o.slot = e.slot → o.lanes.find? (fun x => x.req.lane == e.lane) = some q →
      Leads (.homeApply line) s (fun t =>
        Written s.mem t.mem e.addr (leBytes o.size
          (atomicNew o.atom o.size o.sgn (rdLE s.mem e.addr o.size) q.req.val.toNat q.req.cmp.toNat)) ∧
        t.aq = s.aq.eraseIdx i ∧ ∀ g, s.group e.core e.slot = some g →
          Delivered s t o e.lane (valueWords o.size (rdLE s.mem e.addr o.size) ++
            witWords o (mkWit (scopeCode o.scope) (s.domainOf e.core g.wslot o.scope) s.dtime)))) ∧
    (∀ o v p leaf, e.act = .ringput v → mfind s.ops e.op = some o → o.id = e.op → o.kind = .ringput → o.saved = false →
      o.core = e.core → o.slot = e.slot → s.pipes = [] →
      let f (k n : Nat) := rdLE s.mem (e.addr + k) n
      powerIn (f 8 4) 1 (2 ^ 24) = true → f 20 12 = 0 → (f 12 4 + 2 ^ 32 - f 16 4) % 2 ^ 32 < f 8 4 →
      s.translate e.guest (f 0 8 + 4 * (f 12 4 % f 8 4)) .write = .ok (p, leaf) → isRemote p = false → NoHeld s (p / 128) →
      (p + 4 ≤ e.addr ∨ e.addr + 32 ≤ p) →
      Leads (.homeApply line) s (fun t => rdLE t.mem p 4 = v.toNat ∧ rdLE t.mem (e.addr + 12) 4 = (f 12 4 + 1) % 2 ^ 32 ∧
        rdLE t.mem (e.addr + 16) 4 = f 16 4 ∧ Delivered s t o e.lane [1]))

/-- A workgroup-scope access takes its line into the core's L1, where dirty per-thread lines stay, and is applied there, not in
memory (R258, R263). -/
def LinesHeld (s : State) : Prop :=
  ∀ (line i : Nat) (e : AQEntry) (o : Op) (g : Group), s.oldest line = some (i, e) → mfind s.ops e.op = some o →
    s.group e.core e.slot = some g → g.ended = false → o.id = e.op → o.core = e.core → o.slot = e.slot → o.scope = .wg → o.kind = .stw →
    (NoHeld s line → (s.l1.filter (fun x => x.core == e.core)).length < l1Lines →
      Leads (.heldLineTake e.core line) s (fun t => t.mem = s.mem ∧ t.aq = s.aq ∧
        ∃ x rest, t.l1 = x :: rest ∧ x.core = e.core ∧ x.line = line ∧ x.data = s.homeLine line ∧ x.kind = .held g.wslot s.cc e.guest ∧
          (∀ y ∈ rest, y ∈ s.l1 ∧ ∀ u gen c, y.kind = .clean u gen c → ¬(y.core = e.core ∧ y.line = line)) ∧
          ∀ y ∈ s.l1, ∀ c d va, y.kind = .priv c d va → y ∈ rest)) ∧
    (∀ x bs, s.heldLine e.core g.wslot line = some x → e.act = .stw bs → o.saved = false → s.homeUp e.addr = true →
      isRemote e.addr = false → s.lineBusy line = false →
      Leads (.homeApply line) s (fun t => t.mem = s.mem ∧ t.aq = s.aq.eraseIdx i ∧
        (∃ y ∈ t.l1, y.core = e.core ∧ y.line = line ∧ y.kind = .held g.wslot s.cc e.guest ∧
          (s.laneKey e.core e.slot e.lane, e.addr % 128, bs.length) ∈ y.own ∧
          ∀ k < 128, y.data.getD k 0 = if e.addr % 128 ≤ k ∧ k < e.addr % 128 + bs.length then bs.getD (k - e.addr % 128) 0
            else x.data.getD k 0) ∧
        Delivered s t o e.lane (witWords o (mkWit 1 (e.core * 16 + g.wslot) s.dtime))))

/-- A line leaves a core's L1: a dirty per-thread line at any time and a held one after its lease with its bytes written
back to its frame, on another package by requests that carry them (R420; log 77), a clean one with memory as it was (R241, R257,
R258). -/
def LinesLeave (s : State) : Prop :=
  ∀ (x : L1Line), (∀ y ∈ s.l1, y.core = x.core → y.line = x.line → y = x) → x ∈ s.l1 → x.data.length = 128 →
    Memory.wf s.mem = true →
    (∀ w u g, x.kind = .held w u g → u + Config.lease ≤ s.cc → Unlogged s g →
      Leads (.heldLineLeaseRelease x.core x.line) s (fun t => x ∉ t.l1 ∧ Written s.mem t.mem (x.line * 128) x.data)) ∧
    (∀ g va, x.kind = .priv g true va → Unlogged s g → s.coming x = false →
      Leads (.l1Evict x.core x.line) s (fun t => x ∉ t.l1 ∧
        (isRemote (x.line * 128) = false → Written s.mem t.mem (x.line * 128) x.data) ∧
        (isRemote (x.line * 128) = true → t.mem = s.mem ∧ ∀ k < 8, ∃ f ∈ t.far, f.who = .l1 x.core g va ∧ f.guest = g ∧
          f.addr = x.line * 128 + 16 * k ∧ f.bytes = (x.data.drop (16 * k)).take 16))) ∧
    (∀ u gen g, x.kind = .clean u gen g → Leads (.l1Evict x.core x.line) s (fun t => x ∉ t.l1 ∧ t.mem = s.mem))

/-- One lane of a load performed, once no access of its lane to the same bytes stands before it: from a live clean line of the
core's L1, from the workgroup's held line where it bears a witness of workgroup scope, is itself of that scope or meets bytes that
its own lane has written there, from its per-thread line or from its scratchpad; where no held line is one that it observes, a fill
request may go to the home; a page that does not translate faults the lane, whatever stands before it (R215, R216, R223, R236,
R241, R251, R256). -/
def LoadsPerform (s : State) : Prop :=
  ∀ (op : Nat) (o : Op) (q : LaneReq), mfind s.ops op = some o → o.id = op → o.kind = .load → o.saved = false →
    o.lanes.find? (fun x => x.req.lane == q.lane && x.st == .todo) = some ⟨q, .todo⟩ → Lives s o.core o.slot →
    (∀ g pa leaf, s.storeAhead o q = false → aperture q.va = .global → s.group o.core o.slot = some g → s.translate o.guest q.va.toNat .load = .ok (pa, leaf) →
      (∀ x, s.l1Hit o.core o.guest (pa / 128) q.wit = some x → Leads (.loadPerform op q.lane .l1) s (fun t =>
        t.mem = s.mem ∧ t.aq = s.aq ∧ Delivered s t o q.lane (loadWords o.size o.ext ((x.data.drop (pa % 128)).take o.size)))) ∧
      (∀ x, s.heldLine o.core g.wslot (pa / 128) = some x → (witScope q.wit = 1 ∨ o.scope = .wg ∨
          ∃ w ∈ x.own, w.1 = s.laneKey o.core o.slot q.lane ∧ rangesMeet w.2.1 w.2.2 (pa % 128) o.size = true) →
        Leads (.loadPerform op q.lane .held) s (fun t =>
        t.mem = s.mem ∧ t.aq = s.aq ∧ Delivered s t o q.lane (loadWords o.size o.ext ((x.data.drop (pa % 128)).take o.size)))) ∧
      ((∀ x, s.heldLine o.core g.wslot (pa / 128) = some x → witScope q.wit ≠ 1 ∧ o.scope ≠ .wg ∧
          ∀ w ∈ x.own, w.1 = s.laneKey o.core o.slot q.lane → rangesMeet w.2.1 w.2.2 (pa % 128) o.size = false) →
        Leads (.loadPerform op q.lane .fill) s (fun t => t.mem = s.mem ∧
        ∃ e, t.aq = s.aq ++ [e] ∧ e.addr = pa ∧ e.act = .fill s.dtime ∧ e.op = op ∧ e.lane = q.lane))) ∧
    (∀ s' src, s.storeAhead o q = false → aperture q.va = .thread →
      s.privFill o.core o.guest (q.va &&& ~~~(127 : Addr)) .load = .ok s' →
      s'.privHere o.core o.guest (q.va &&& ~~~(127 : Addr)) = true → Leads (.loadPerform op q.lane src) s (fun t =>
        t.mem = s'.mem ∧ t.aq = s.aq ∧ Delivered s t o q.lane (loadWords o.size o.ext
          (((s'.privData o.core o.guest (q.va &&& ~~~(127 : Addr))).drop (q.va.toNat % 128)).take o.size)))) ∧
    (∀ g k a, s.storeAhead o q = false → aperture q.va = .scratch → s.group o.core o.slot = some g → s.scratchTarget o.core g.wslot q.va o.size = some (k, a) →
      s.scoreHit k a o.size = false → ∀ src, Leads (.loadPerform op q.lane src) s (fun t =>
        t.mem = s.mem ∧ t.aq = s.aq ∧ Delivered s t o q.lane (loadWords o.size o.ext (rdBytes (s.scratchOf k) a o.size)))) ∧
    (∀ g k src, aperture q.va = .global → s.translate o.guest q.va.toNat .load = .error k → o.lanes = [⟨q, .todo⟩] → q.lane < 32 →
      o.dropped = false → s.group o.core o.slot = some g → laneOn g.live q.lane → s.recs = [] → Leads (.loadPerform op q.lane src) s (fun t => ∃ r, t.recs = [r] ∧ r.cause = k ∧
        r.store = false ∧ r.pc = o.pc ∧ (∀ l < 32, laneOn r.unf l = decide (l = q.lane)) ∧ mfind r.addr q.lane = some q.va))

/-- A fill request at the head of its line is served, in a cc in which nothing is applied to the line, and then nothing is
applied to it in that cc (R245, R254, R255); that other fills of the line may be served in it is log 89. -/
def FillsServe (s : State) : Prop :=
  ∀ (line i : Nat) (e : AQEntry) (o : Op) (u : DTime), s.oldest line = some (i, e) → e.act = .fill u → s.homeUp e.addr = true →
    isRemote e.addr = false → (s.l1.filter (fun x => x.core == e.core)).length < l1Lines → mfind s.ops e.op = some o → o.id = e.op → o.kind = .load → o.saved = false → e.gen = (s.ctx e.guest).asgen →
    o.core = e.core → o.slot = e.slot → Lives s e.core e.slot →
    (∀ x ∈ s.l1, x.core = e.core → x.line = line → ∃ v g c, x.kind = .clean v g c) →
    (mfind s.lastApply line = some s.cc → exec (.fillServe line) s = .next s.refresh) ∧
    (mfind s.lastApply line ≠ some s.cc → Leads (.fillServe line) s (fun t => t.mem = s.mem ∧ t.aq = s.aq.eraseIdx i ∧
      t.lineBusy line = true ∧ t.lastApply = s.lastApply ∧ (∃ x ∈ t.l1, x.core = e.core ∧ x.line = line ∧ x.data = s.homeLine line ∧ x.kind = .clean u e.gen e.guest) ∧
      Delivered s t o e.lane (loadWords o.size o.ext (((s.homeLine line).drop (e.addr % 128)).take o.size))))

/-- A faulted lane of a load for whose record there was no room goes out again once its page translates (R366). -/
def Retranslates (s : State) : Prop :=
  ∀ (op va : Nat) (o : Op) (x : OpLane) (k : Cause) (r : Nat × Nat), mfind s.ops op = some o → o.id = op → o.saved = false →
    o.kind = .load → laneOn (s.recorded op) x.req.lane = false → x.st = .faulted k →
    o.lanes.find? (fun y => y.req.lane == x.req.lane && (match y.st with | .faulted _ => true | _ => false)) = some x →
    s.globalVa o.guest x.req.va o.size = some va → s.translate o.guest va .load = .ok r →
    Leads (.recordRetranslate op x.req.lane) s (fun t => t.mem = s.mem ∧ t.recs = s.recs ∧
      mfind t.ops op = some (o.setLane x.req.lane .todo))

/-! ### Completion -/

/-- Operations that complete no earlier than 1 cc after dispatch: one whose status is known answers it in its guarded-on
lanes, `accld` reads and `accst` and `accpatch` write the accumulators, a lane-less one just ends (R75, R215, R339). -/
def OperationsComplete (s : State) : Prop :=
  ∀ (op : Nat) (o : Op), mfind s.ops op = some o → o.id = op → o.at_ < s.cc → o.saved = false → Lives s o.core o.slot →
    (∀ st, (o.kind = .enq ∨ o.kind = .enqw ∨ o.kind = .lsend) → o.status = some st →
      Leads (.operationComplete op) s (fun t => t.mem = s.mem ∧ Completed s t o ∧
        ∀ l, laneOn o.mask l → Delivered s t o l [st])) ∧
    (∀ st, o.kind = .mrecv → o.status = some st →
      Leads (.operationComplete op) s (fun t => t.mem = s.mem ∧ Completed s t o ∧
        ∀ l q, laneOn o.mask l → o.lanes.find? (fun x => x.req.lane == l) = some q →
          Delivered s t o l [q.req.val.setWidth 32, st])) ∧
    (o.kind = .timer → Leads (.operationComplete op) s (fun t => t.mem = s.mem ∧ Completed s t o)) ∧
    (o.kind = .accWrite → (∀ x ∈ o.lanes, ∃ h < 2, (s.cluster (clusterOf o.core)).user.getD h none = some o.guest ∧
        x.req.va.toNat / 65536 = h) → (o.lanes.map (fun x => x.req.va.toNat)).Nodup →
      Leads (.operationComplete op) s (fun t => t.mem = s.mem ∧ Completed s t o ∧
        (∀ x ∈ o.lanes, mget (t.cluster (clusterOf o.core)).acc x.req.va.toNat 0 = x.req.val.setWidth 32) ∧
        ∀ a, (∀ x ∈ o.lanes, x.req.va.toNat ≠ a) →
          mget (t.cluster (clusterOf o.core)).acc a 0 = mget (s.cluster (clusterOf o.core)).acc a 0)) ∧
    (o.kind = .accld → (∀ x ∈ o.lanes, ∃ h < 2, (s.cluster (clusterOf o.core)).user.getD h none = some o.guest ∧
        x.req.va.toNat / 65536 = h) →
      Leads (.operationComplete op) s (fun t => t.mem = s.mem ∧ Completed s t o ∧ ∀ l, laneOn o.mask l →
        Delivered s t o l ((o.lanes.filter (fun x => x.req.lane == l)).map
          (fun x => mget (s.cluster (clusterOf o.core)).acc x.req.va.toNat 0))))

/-- A bank being loaded takes its 3,088-byte image and becomes the core's current one; a watch unit takes its descriptor
and is armed, where that is valid. What they read is read as the lane's load reads it, and while it cannot be had they wait; a
page that does not translate leaves a record of kind 5 (R189, R286, R367, R398). -/
def ImagesArrive (s : State) : Prop :=
  ∀ (op : Nat) (o : Op) (q : LaneReq) (g : Group), mfind s.ops op = some o → o.id = op → o.saved = false →
    o.lanes = [⟨q, .todo⟩] → s.storeAhead o q = false → s.group o.core o.slot = some g → g.ended = false →
    (∀ bank b s' bs, bank < 2 → mfind s.banks (o.core * 2 + bank) = some b → b.st = .loading → b.op = op →
      s.bankBefore o.core bank op = false → s.readVa o q g.wslot b.addr 3088 = .ok (s', some bs) →
      Leads (.tableLoadComplete o.core bank) s (fun t => t.mem = s'.mem ∧ mfind t.curBank o.core = some bank ∧
        Completed s t o ∧ ∃ b', mfind t.banks (o.core * 2 + bank) = some b' ∧ b'.st = .ready ∧ b'.image = bs ∧ b'.addr = b.addr)) ∧
    (∀ bank b s', bank < 2 → mfind s.banks (o.core * 2 + bank) = some b → b.st = .loading → b.op = op →
      s.bankBefore o.core bank op = false → s.readVa o q g.wslot b.addr 3088 = .ok (s', none) →
      exec (.tableLoadComplete o.core bank) s = .next s'.refresh) ∧
    (∀ bank b k, bank < 2 → mfind s.banks (o.core * 2 + bank) = some b → b.st = .loading → b.op = op →
      s.bankBefore o.core bank op = false → s.readVa o q g.wslot b.addr 3088 = .error k → o.kind = .tload bank → o.dropped = false →
      q.lane < 32 → laneOn g.live q.lane → s.recs = [] →
      Leads (.tableLoadComplete o.core bank) s (fun t => ∃ r, t.recs = [r] ∧ r.cause = k ∧ r.kind = 5 ∧ r.store = false ∧
        r.pc = o.pc ∧ (∀ l < 32, laneOn r.unf l = decide (l = q.lane)) ∧ mfind r.addr q.lane = some q.va)) ∧
    (∀ n s' bs, n < 4 → o.kind = .watch n → (s.ctx o.guest).watch.length = 4 → s.readVa o q g.wslot q.va 128 = .ok (s', some bs) →
      Leads (.watchArmed op) s (fun t => t.mem = s'.mem ∧ Completed s t o ∧
        ∃ w, (t.ctx o.guest).watch[n]? = some w ∧ w.armed = watchValid bs ∧ w.desc = bs ∧
          w.lock = ((s.ctx o.guest).watch.getD n Watch.off).lock))

end Sys2Proof.Claims

/-- How stores become visible: acceptance, the apply at the home, lines held for a workgroup, and lines that leave an L1. -/
def Obligations.StoresReachTheirHomes : Prop :=
  ∀ s, Sys2Proof.Claims.StoreAccepts s ∧ Sys2Proof.Claims.HomeApplies s ∧ Sys2Proof.Claims.LinesHeld s ∧
    Sys2Proof.Claims.LinesLeave s

/-- How loads get their bytes, and what a lane does whose page does not translate. -/
def Obligations.LoadsGetTheirBytes : Prop :=
  ∀ s, Sys2Proof.Claims.LoadsPerform s ∧ Sys2Proof.Claims.FillsServe s ∧ Sys2Proof.Claims.Retranslates s

/-- How operations complete: statuses, accumulator accesses, table images, watch descriptors. -/
def Obligations.OperationsComplete : Prop :=
  ∀ s, Sys2Proof.Claims.OperationsComplete s ∧ Sys2Proof.Claims.ImagesArrive s

namespace Sys2Proof.Claims

open Sys2Proof.Machine

/-- The sequencer `c` is in focus and may execute its word (R323, R333, R346). -/
def AtWord (s : State) (c : SeqCur) : Prop :=
  s.seqFocus = some (c.core, c.wslot) ∧ s.seqOf c.core c.wslot = some c ∧ c.q.busy = false ∧ s.seqHalted c.core c.wslot = false

/-- The sequencer of a workgroup slot, with a property. -/
def SeqIs (t : State) (core wslot : Nat) (p : Seq → Prop) : Prop := ∃ c, t.seqOf core wslot = some c ∧ p c.q

/-- The word took 1 cc and left the sequencer as `p` says, with memory, scratchpads and accumulators as they were (R344). -/
def WordDone (s t : State) (c : SeqCur) (p : Seq → Prop) : Prop :=
  t.cc = s.cc + 1 ∧ t.mem = s.mem ∧ t.scratch = s.scratch ∧ t.clusters = s.clusters ∧ t.eops = s.eops ∧ SeqIs t c.core c.wslot p

/-- The sequencer has stopped, and none of its operations waits for a grant; with a cause CTXERR is set, and cause and word
address stand in the tenant's fault domain (R343). -/
def SeqStops (i : Instr) (s : State) (c : SeqCur) (err : Bool) : Prop :=
  Leads i s (fun t => SeqIs t c.core c.wslot (fun q => q.stopped = true) ∧ t.scratch = s.scratch ∧
    (∀ e ∈ t.eops, e ∈ s.eops ∧ (e.core = c.core → e.wslot = c.wslot → e.granted.isSome)) ∧
    (t.ctx c.w.guest).ctxerr = ((s.ctx c.w.guest).ctxerr || err) ∧
    (err = true → ∃ k, mget (t.cluster (clusterOf c.core)).faults (s.tenantOf c.core) [] =
      (k, c.q.pc) :: mget (s.cluster (clusterOf c.core)).faults (s.tenantOf c.core) []))

/-- Loops, jumps, stops and register words (R323, R343, R344). -/
def ControlWords (s : State) (c : SeqCur) : Prop :=
  (∀ (k : BitVec 2) (cm : BitVec 16) (r : BitVec 2) (stride off : BitVec 16), c.q.lc.length = 4 → c.q.o.length = 4 →
    (off = 0 → SeqStops (.mLoop k cm r stride off) s c true) ∧
    (off ≠ 0 →
      let old := (c.q.lc.getD k.toNat 0).toNat
      let lc := (if old = 0 then cm.toNat + 1 else old) - 1
      Leads (.mLoop k cm r stride off) s (fun t => WordDone s t c (fun q =>
        q.pc = (if lc = 0 then c.q.pc + 8 else c.q.pc + off.signExtend 64 * 8) ∧
        (lc ≠ 0 → q.block = none) ∧ q.lc = c.q.lc.set k.toNat (BitVec.ofNat 16 lc) ∧
        q.o = c.q.o.set r.toNat (BitVec.ofInt 19 ((c.q.o.getD r.toNat 0).toNat + 16 * stride.toInt)))))) ∧
  (∀ off : BitVec 16, (off = 0 → SeqStops (.mJmp off) s c true) ∧
    (off ≠ 0 → Leads (.mJmp off) s (fun t => WordDone s t c (fun q =>
      q = { c.q with pc := c.q.pc + off.signExtend 64 * 8, block := none, waived := 0 })))) ∧
  SeqStops .mStop s c false ∧
  (∀ v : BitVec 19,
    let gives (sel : BitVec 3) (f : Seq → Seq → Prop) : Prop :=
      Leads (.mFmt sel v) s (fun t => WordDone s t c (fun q => q.pc = c.q.pc + 8 ∧ f c.q q))
    gives 0 (fun q q' => q'.wpitch = v ∧ q'.apitch = q.apitch ∧ q'.ascale = q.ascale ∧ q'.gindex = q.gindex ∧ q'.o = q.o) ∧
    gives 1 (fun q q' => q'.apitch = v ∧ q'.wpitch = q.wpitch ∧ q'.ascale = q.ascale ∧ q'.gindex = q.gindex ∧ q'.o = q.o) ∧
    gives 2 (fun q q' => q'.ascale = v ∧ q'.wpitch = q.wpitch ∧ q'.apitch = q.apitch ∧ q'.gindex = q.gindex ∧ q'.o = q.o) ∧
    gives 3 (fun q q' => q'.gindex = v ∧ q'.wpitch = q.wpitch ∧ q'.apitch = q.apitch ∧ q'.ascale = q.ascale ∧ q'.o = q.o) ∧
    ∀ n : BitVec 2, gives (n.setWidth 3 + 4) (fun q q' => q'.o = q.o.set n.toNat v ∧ q'.wpitch = q.wpitch ∧ q'.apitch = q.apitch ∧
      q'.ascale = q.ascale ∧ q'.gindex = q.gindex)) ∧
  (∀ w a : Slice, Leads (.mSlice w a) s (fun t => WordDone s t c (fun q => q.pc = c.q.pc + 8 ∧ q.wsl = w ∧ q.asl = a ∧
    q.o = c.q.o ∧ q.lc = c.q.lc ∧ q.mxflags = c.q.mxflags)))

/-- Barrier words: without a registration no effect; an arrival takes effect at once where no operation of the sequencer is
left, and is held while a granted one is, `m.bar.arrive` going on and `m.bar.sync` staying; a wait ends when the phase the
sequencer arrived in is over and earlier accumulator writes of its groups are done (R169, R302, R340). -/
def BarrierWords (s : State) (c : SeqCur) : Prop :=
  ∀ n : BitVec 4, c.q.bwait = none → c.q.mark = none → c.q.held = [] → c.q.arrived = false →
    (c.w.member n.toNat memSeq = false → ∀ i ∈ [Instr.mBarArrive n, .mBarWait n, .mBarSync n],
      Leads i s (fun t => WordDone s t c (fun q => q.pc = c.q.pc + 8) ∧ ∀ b, (t.wgroup c.core c.wslot).map (fun w => mfind w.bars b) =
        some (mfind c.w.bars b))) ∧
    (∀ b, c.w.member n.toNat memSeq = true → mfind c.w.bars n.toNat = some b →
      ((∃ e ∈ s.eops, e.core = c.core ∧ e.wslot = c.wslot ∧ e.granted.isSome ∧ e.id < s.nextId) →
        ∀ i ∈ [Instr.mBarArrive n, .mBarSync n], Leads i s (fun t => WordDone s t c (fun q => q.held = [(n.toNat, s.nextId)] ∧
            q.pc = if i = .mBarArrive n then c.q.pc + 8 else c.q.pc) ∧
          (t.wgroup c.core c.wslot).map (fun w => mfind w.bars n.toNat) = some (some b))) ∧
      ((∀ e ∈ s.eops, ¬(e.core = c.core ∧ e.wslot = c.wslot)) → mfind b.arr memSeq ≠ some b.pn → b.an + 1 < b.en →
        Leads (.mBarArrive n) s (fun t => WordDone s t c (fun q => q.pc = c.q.pc + 8) ∧ ∃ w b', t.wgroup c.core c.wslot = some w ∧
          mfind w.bars n.toNat = some b' ∧ b'.an = b.an + 1 ∧ b'.pn = b.pn ∧ mfind b'.arr memSeq = some b.pn) ∧
        Leads (.mBarSync n) s (fun t => WordDone s t c (fun q => q.pc = c.q.pc ∧ q.bwait = some (n.toNat, b.pn)))) ∧
      (mfind b.arr memSeq = some b.pn → 0 < b.en → Leads (.mBarWait n) s (fun t => WordDone s t c (fun q =>
        q.pc = c.q.pc ∧ q.bwait = some (n.toNat, b.pn)))) ∧
      ((mfind b.arr memSeq ≠ some b.pn ∨ b.en = 0) → (∀ x ∈ s.ops, x.2.kind ≠ .accWrite) →
        Leads (.mBarWait n) s (fun t => WordDone s t c (fun q => q.pc = c.q.pc + 8))))

/-- Operations of the sequencer's tenant that stand in its reservation queue (R322, R333). -/
def InQueue (s : State) (c : SeqCur) : Nat :=
  (s.eops.filter (fun e => e.cluster == clusterOf c.core && e.granted.isNone && s.tenantOf e.core == s.tenantOf c.core)).length

/-- A word whose checks pass and for which the tenant's queue has room is posted; with the queue full, or under a throttle, it
waits 1 cc (R333, R342, R419). -/
def Posts (i : Instr) (s : State) (c : SeqCur) : Prop :=
  (InQueue s c < 16 → (s.ctx c.w.guest).throttled = false →
    Leads i s (fun t => t.mem = s.mem ∧ t.scratch = s.scratch ∧ t.cc = s.cc ∧ ∃ e, t.eops = s.eops ++ [e] ∧ e.word = i ∧
      e.cluster = clusterOf c.core ∧ e.core = c.core ∧ e.wslot = c.wslot ∧ e.guest = c.w.guest ∧ e.posted = s.cc ∧
      e.granted = none ∧ e.seq = c.q ∧ SeqIs t c.core c.wslot (fun q => q.pc = c.q.pc ∧ q.posted = some e.id))) ∧
  (16 ≤ InQueue s c ∨ (s.ctx c.w.guest).throttled = true →
    Leads i s (fun t => WordDone s t c (fun q => q = c.q)))

/-- The rows of a region belong to the sequencer's tenant, its entries exist, and no watch unit covers them (R342). -/
def EntriesOk (s : State) (c : SeqCur) (r : Region) (e0 nm : BitVec 9) (rd wr : Bool) : Prop :=
  s.regionOk c r = true ∧ e0.toNat + nm.toNat ≤ 511 ∧
    ∀ i < r.count, s.watchHits c.w.guest c.q.waived 1 rd wr
      (accWindow (clusterOf c.core) (accKey (r.rows.1 + i) r.side e0.toNat)) (4 * (nm.toNat + 1)) = 0

/-- The engine words (R326, R328, R330, R331, R333, R342). -/
def EngineWords (s : State) (c : SeqCur) : Prop :=
  (∀ (r : Region) (e0 nm : BitVec 9) (n4 : BitVec 4) (z : Bool) (o : BitVec 2) (code : BitVec 19),
    let at_ := (code + c.q.o.getD o.toNat 0).toNat
    let size := 4 * (nm.toNat + 1) * r.count
    (EntriesOk s c r e0 (n4.setWidth 9) true z → Posts (.mDrain r e0 n4 z) s c) ∧
    (EntriesOk s c r e0 nm false true → Posts (.mZero r e0 nm) s c) ∧
    (at_ + size ≤ 1024 * c.w.sgran → EntriesOk s c r e0 nm true false →
      s.watchHits c.w.guest c.q.waived 0 false true (0xFF00000000000000 + at_) size = 0 → Posts (.mSave r o code e0 nm) s c) ∧
    (at_ + size ≤ 1024 * c.w.sgran → EntriesOk s c r e0 nm false true →
      s.watchHits c.w.guest c.q.waived 0 true false (0xFF00000000000000 + at_) size = 0 → Posts (.mRestore r o code e0 nm) s c) ∧
    (511 < e0.toNat + nm.toNat → ∀ i ∈ [Instr.mZero r e0 nm, .mSave r o code e0 nm, .mRestore r o code e0 nm], SeqStops i s c true) ∧
    (s.regionOk c r = true → e0.toNat + nm.toNat ≤ 511 → 1024 * c.w.sgran < at_ + size →
      ∀ i ∈ [Instr.mSave r o code e0 nm, .mRestore r o code e0 nm], SeqStops i s c true)) ∧
  (∀ (f : MFmt) (r : Region) (t ax : Bool) (o : BitVec 2) (code scale : BitVec 19),
    let i := Instr.mWload f r t ax o code scale
    let at_ := (code + c.q.o.getD o.toNat 0).toNat
    (s.checkWload c f r t ax o code scale = .ok → Posts i s c) ∧
    ((at_ % 16 ≠ 0 ∨ c.q.wpitch.toNat % 16 ≠ 0 ∨ (f = .f32 ∧ c.q.wsl = .none) ∨ s.regionOk c r = false) → SeqStops i s c true) ∧
    (f = .b4 → ax ≠ t → SeqStops i s c true)) ∧
  (∀ (f : MFmt) (r : Region) (t ax : Bool) (o : BitVec 2) (g : Bool) (code : BitVec 19) (e0 nm : BitVec 9) (z : Bool),
    let i := Instr.mPass f r t ax o g code e0 nm z
    (s.checkPass c f r t ax o g code e0.toNat (nm.toNat + 1) z = .ok → (g = false → Posts i s c) ∧
      (g = true → Leads i s (fun t => t.mem = s.mem ∧ t.eops = s.eops ∧
        SeqIs t c.core c.wslot (fun q => q = { c.q with gathering := some s.cc })))) ∧
    ((s.latchOf (clusterOf c.core) c.w.guest r = none ∨ (g = true ∧ t = true) ∨ 511 < e0.toNat + nm.toNat) → SeqStops i s c true))

/-- The stream: a sequencer that needs a word it does not have requests the word's block, whose eight words are read then, those of
a block on another package once they have come (R420; log 77); a word address that is no multiple of 8 stops it; a resolved record
lets it go on (R323, R343). -/
def StreamFetch (s : State) : Prop :=
  ∀ (core wslot : Nat) (c : SeqCur), s.seqOf core wslot = some c → s.seqHalted core wslot = false →
    (∀ pa leaf, c.q.busy = false → c.q.wordAt = none → c.q.pc.toNat % 8 = 0 → c.q.pc.toNat < 2 ^ 57 →
      s.translate c.w.guest (c.q.pc.toNat / 64 * 64) .load = .ok (pa, leaf) →
      let who := FarUser.seq (wkey core wslot)
      let at_ : Addr := BitVec.ofNat 64 (c.q.pc.toNat / 64 * 64)
      (∀ bs, s.farBytes who pa 64 = some bs → (isRemote pa = false → bs = rdBytes s.mem pa 64) ∧
        Leads (.seqBlockFetch core wslot) s (fun t => t.mem = s.mem ∧ t.cc = s.cc ∧ SeqIs t core wslot (fun q =>
          q.pc = c.q.pc ∧ ∃ ws, q.block = some (at_, ws, s.cc) ∧ ws.length = 8 ∧
            ∀ k < 8, (ws.getD k 0).toNat = leNat ((bs.drop (8 * k)).take 8)))) ∧
      (s.farBytes who pa 64 = none → exec (.seqBlockFetch core wslot) s = .next (s.farWant who c.w.guest at_ pa 64))) ∧
    (c.q.busy = false → c.q.wordAt = none → c.q.pc.toNat % 8 ≠ 0 → SeqStops (.seqBlockFetch core wslot) s c true) ∧
    (∀ m, c.q.heldRec = true → c.q.resolved = some m → (∀ x ∈ s.ops, x.2.kind ≠ .accWrite) →
      Leads (.seqResume core wslot) s (fun t => t.mem = s.mem ∧ SeqIs t core wslot (fun q =>
        q = { c.q with heldRec := false, resolved := none })))

/-! ### The engine -/

/-- The only operation of a cluster, with nothing withheld, is granted when its own conditions hold, and its sequencer
moves to the next word (R333, R334, R335). -/
def Grants (s : State) : Prop :=
  ∀ (e : EOp) (c : SeqCur), (s.eops.filter (fun x => x.cluster == e.cluster)) = [e] → e.granted = none →
    (∀ x ∈ s.eops, x.id = e.id → x = e) →
    e.cluster = clusterOf e.core → s.seqOf e.core e.wslot = some c → s.armed e = true → c.w.guest = e.guest →
    mget s.dev.withheld (arrayKey e.cluster) false = false → (s.ctx e.guest).throttled = false →
    (∀ h < 2, (s.cluster e.cluster).user.getD h none = some e.guest) →
    let ok (p : State → EOp → Prop) : Prop := Leads (.arbiterGrant e.cluster) s (fun t => t.mem = s.mem ∧ t.scratch = s.scratch ∧
      (∃ e', t.eops = s.eops.map (fun x => if x.id = e.id then e' else x) ∧ e'.granted = some s.cc ∧ e'.word = e.word ∧ p t e') ∧
      SeqIs t e.core e.wslot (fun q => q.posted = none ∧ q.pc = c.q.pc + 8))
    (∀ f r tr ax o code scale, e.word = .mWload f r tr ax o code scale →
      let op := e.seq.weightOp f r tr o code scale
      ok (fun t _ => (t.cluster e.cluster).acc = (s.cluster e.cluster).acc ∧
        (∀ q ∈ r.quads, mfind (t.cluster e.cluster).latches q = some ⟨f.eff, r, e.seq.wsl, e.guest⟩) ∧
        ∀ i p, i < r.count → p < kpOf r f → ((t.cluster e.cluster).weight r f (r.rows.1 + i) p).1 =
          op.code (s.scratchOf e.core) (1024 * c.w.sbase) (if tr then p else i) (if tr then i else p))) ∧
    (∀ f r tr ax o g code e0 nm z, e.word = .mPass f r tr ax o g code e0 nm z → s.latchOf e.cluster e.guest r = some e.wf →
      ok (fun t e' => (t.cluster e.cluster).acc = (s.cluster e.cluster).acc ∧
        (e'.sums, e'.flags) = (s.cluster e.cluster).passSums r e.wf (e.seq.actOp f e.wf r tr o code (nm.toNat + 1))
          (s.scratchOf e.core) (1024 * c.w.sbase) e0.toNat (nm.toNat + 1) e.vecs)) ∧
    (∀ r e0 nm z, e.word = .mDrain r e0 nm z → ok (fun t e' =>
      (∀ k ∈ portCores r, ∃ a ∈ e'.taken, s.headArming (4 * e.cluster + k) = some a ∧ a ∉ t.armings) ∧
      ∀ a ∈ s.armings, a ∉ t.armings → ∃ b ∈ e'.taken, b.id = a.id)) ∧
    ((∃ r o code e0 nm, e.word = .mZero r e0 nm ∨ e.word = .mSave r o code e0 nm ∨ e.word = .mRestore r o code e0 nm) →
      ok (fun t _ => (t.cluster e.cluster).acc = (s.cluster e.cluster).acc))

/-- A pass whose region's latches no longer match stops its sequencer at the grant (R328, R343). -/
def MismatchStops (s : State) : Prop :=
  ∀ (e : EOp) (c : SeqCur) (f : MFmt) (r : Region) (tr ax : Bool) (o : BitVec 2) (g : Bool) (code : BitVec 19) (e0 nm : BitVec 9) (z : Bool),
    (s.eops.filter (fun x => x.cluster == e.cluster)) = [e] → e.granted = none → e.cluster = clusterOf e.core →
    s.seqOf e.core e.wslot = some c → c.q.stopped = false → mget s.dev.withheld (arrayKey e.cluster) false = false →
    (s.ctx e.guest).throttled = false →
    e.word = .mPass f r tr ax o g code e0 nm z → s.latchOf e.cluster e.guest r ≠ some e.wf →
    SeqStops (.arbiterGrant e.cluster) s c true

/-- A granted drain writes entry k of its rows into the registers of its armings, and clears it with Z (R336). -/
def Drains (s : State) : Prop :=
  ∀ (e : EOp) (k g : Nat) (r : Region) (e0 : BitVec 9) (nm : BitVec 4) (z : Bool),
    s.eops.find? (fun x => x.id == e.id && x.cluster == e.cluster) = some e → e.word = .mDrain r e0 nm z → e.granted = some g →
    k = e.done → k ≤ nm.toNat → g + (if r.side = 1 then 12 else 14) + k ≤ s.cc → (e.taken.map (fun a => (a.core, a.slot))).Nodup →
    (∀ b ∈ e.taken, Lives s b.core b.slot ∧ ∀ x, mfind s.ops b.op = some x → x.core = b.core ∧ x.slot = b.slot) →
    Leads (.drainWrite e.cluster e.id k) s (fun t => t.mem = s.mem ∧
      (∀ a ∈ e.taken, ∀ l < 32, ∀ gr o, s.group a.core a.slot = some gr → mfind s.ops a.op = some o → o.dropped = false →
        GroupIs t a.core a.slot (fun g' => laneAt (mget g'.frame (a.reg + k) []) l =
          if k < a.n ∧ laneOn a.m l ∧ laneOn gr.live l then
            mget (s.cluster e.cluster).acc (accKey (32 * (a.core % 4) + l) r.side (e0.toNat + k)) 0
          else laneAt (mget gr.frame (a.reg + k) []) l)) ∧
      ∀ i < r.count, mget (t.cluster e.cluster).acc (accKey (r.rows.1 + i) r.side (e0.toNat + k)) 0 =
        if z then 0 else mget (s.cluster e.cluster).acc (accKey (r.rows.1 + i) r.side (e0.toNat + k)) 0)

/-- An operation whose hold is over retires: a pass adds its sums into the accumulators (modulo 2^32, or as f32 to nearest
even), `m.zero` clears its entries, `m.save` writes them row by row to scratchpad and `m.restore` reads them back (R111,
R113, R330, R333, R345). -/
def Retires (s : State) : Prop :=
  ∀ (e : EOp) (c : SeqCur), s.eops.find? (fun x => x.id == e.id && x.cluster == e.cluster) = some e → s.mayRetire e = true →
    s.seqOf e.core e.wslot = some c → c.w.groups ≠ [] → Memory.wf (s.scratchOf e.core) = true →
    let ok (p : State → Prop) : Prop := Leads (.engineOpRetire e.cluster e.id) s (fun t => t.mem = s.mem ∧
      (∀ x ∈ t.eops, x.id ≠ e.id) ∧ p t)
    let acc (s : State) (a : Nat) : Word := mget (s.cluster e.cluster).acc a 0
    (∀ f r tr ax o g code e0 nm z, e.word = .mPass f r tr ax o g code e0 nm z → (e.sums.map (·.1)).Nodup →
      ok (fun t => t.scratch = s.scratch ∧ (∀ x ∈ e.sums,
          let old : Word := if z then 0 else acc s x.1
          acc t x.1 = if e.wf.isInt then old + x.2
            else BitVec.ofNat 32 (Fl.f32.add .rn (Fl.f32.decode old.toNat) (Fl.f32.decode x.2.toNat)).1) ∧
        ∀ a, (∀ x ∈ e.sums, x.1 ≠ a) → acc t a = acc s a)) ∧
    (∀ r e0 nm, e.word = .mZero r e0 nm → ok (fun t => t.scratch = s.scratch ∧
      (∀ i j, i < r.count → j ≤ nm.toNat → acc t (accKey (r.rows.1 + i) r.side (e0.toNat + j)) = 0) ∧
      ∀ a, (∀ i j, i < r.count → j ≤ nm.toNat → a ≠ accKey (r.rows.1 + i) r.side (e0.toNat + j)) → acc t a = acc s a)) ∧
    (∀ r o code e0 nm, e.word = .mSave r o code e0 nm → ok (fun t => t.clusters = s.clusters ∧ ∀ i j, i < r.count → j ≤ nm.toNat →
      rdLE (t.scratchOf e.core) (1024 * c.w.sbase + e.seq.off o code + 4 * (i * (nm.toNat + 1) + j)) 4 =
        (acc s (accKey (r.rows.1 + i) r.side (e0.toNat + j))).toNat)) ∧
    (∀ r o code e0 nm, e.word = .mRestore r o code e0 nm → e0.toNat + nm.toNat < 512 → ok (fun t => t.scratch = s.scratch ∧
      ∀ i j, i < r.count → j ≤ nm.toNat → (acc t (accKey (r.rows.1 + i) r.side (e0.toNat + j))).toNat =
        rdLE (s.scratchOf e.core) (1024 * c.w.sbase + e.seq.off o code + 4 * (i * (nm.toNat + 1) + j)) 4))

/-- With the last operation that a barrier arrival waits for, the arrival takes effect (R340). -/
def HeldArrivals (s : State) : Prop :=
  ∀ (e : EOp) (c : SeqCur) (n m : Nat) (b : Bar), s.eops.find? (fun x => x.id == e.id && x.cluster == e.cluster) = some e →
    s.mayRetire e = true → s.seqOf e.core e.wslot = some c → c.w.groups ≠ [] → c.q.held = [(n, m)] → n < 16 →
    (∀ x ∈ s.eops, x.core = e.core → x.wslot = e.wslot → x.id ≠ e.id → x.granted.isSome → m ≤ x.id) →
    c.w.member n memSeq = true → mfind c.w.bars n = some b → mfind b.arr memSeq ≠ some b.pn → b.an + 1 < b.en →
    Leads (.engineOpRetire e.cluster e.id) s (fun t => t.mem = s.mem ∧ SeqIs t e.core e.wslot (fun q => q.held = []) ∧
      ∃ w b', t.wgroup e.core e.wslot = some w ∧ mfind w.bars n = some b' ∧ b'.an = b.an + 1 ∧ b'.pn = b.pn ∧
        mfind b'.arr memSeq = some b.pn)

/-- A posted operation that has waited 4,096 cc ranks above the others; a gather that has taken N + 8 cc posts its pass
with the vectors it has collected from the rows its index vector names, or stops at a pair that the latches as they now
stand do not permit, or at a row that leaves the allocation, whatever a watch unit covers (R329, R331, R334, R342). -/
def EngineTimers (s : State) : Prop :=
  (∀ e ∈ s.eops, e.granted = none → e.posted + 4096 ≤ s.cc → Leads (.arbiterAgePromotion e.cluster e.id) s (fun t =>
    t.mem = s.mem ∧ { e with aged := true } ∈ t.eops)) ∧
  (∀ (core wslot t0 av : Nat) (c : SeqCur) (w : DWord) (wf : MFmt) (f : MFmt) (r : Region) (tr ax : Bool) (o : BitVec 2) (g : Bool) (code : BitVec 19) (e0 nm : BitVec 9)
      (z : Bool), s.seqOf core wslot = some c → s.seqHalted core wslot = false → c.q.gathering = some t0 →
    c.q.wordAt = some (w, av) → decodeSeq w = some (.mPass f r tr ax o g code e0 nm z) → t0 + nm.toNat + 9 ≤ s.cc →
    s.latchOf (clusterOf core) c.w.guest r = some wf → c.q.stopped = false →
    (pairOk wf f.eff = false → SeqStops (.gatherComplete core wslot) s c true) ∧
    let rows := gatherRows (s.scratchOf core) (1024 * c.w.sbase + c.q.off o c.q.gindex) (nm.toNat + 1)
    let op := c.q.actOp f wf r tr o code (nm.toNat + 1)
    let spans := c.q.indexSpan o (nm.toNat + 1) :: op.gatherSpans rows
    (pairOk wf f.eff = true → c.outside spans = true → SeqStops (.gatherComplete core wslot) s c true) ∧
    (pairOk wf f.eff = true → s.rangeWatch { c with q := { c.q with gathering := none } } spans
        (accSpans (clusterOf core) r e0.toNat (nm.toNat + 1)) (!z) true false = .ok →
    InQueue s c < 16 → (s.ctx c.w.guest).throttled = false →
    Leads (.gatherComplete core wslot) s (fun t => t.mem = s.mem ∧ ∃ e vs, t.eops = s.eops ++ [e] ∧ e.vecs = some vs ∧ e.wf = wf ∧
      (∀ v p, v ≤ nm.toNat → p < kpOf r wf → (vs.getD v []).getD p (0, 0) = match rows.getD v none with
        | some x => (if f = .b4 then op.scaleByte (s.scratchOf core) (1024 * c.w.sbase) x p else 0,
            op.code (s.scratchOf core) (1024 * c.w.sbase) x p)
        | none => (0, 0)) ∧
      e.word = .mPass f r tr ax o g code e0 nm z ∧ SeqIs t core wslot (fun q => q.gathering = none ∧ q.posted = some e.id))))

end Sys2Proof.Claims

/-- The words of a sequencer's stream: control, registers, barriers, and engine words that are checked and posted. That the
sequencer goes on after `m.bar.arrive` with its arrival held, and what `m.bar.wait` looks at, is log 62; a queue of 16 operations
for each tenant is log 34, and that only those not yet granted stand in it is log 73. -/
def Obligations.SequencerWords : Prop :=
  ∀ s c, Sys2Proof.Claims.AtWord s c →
    Sys2Proof.Claims.ControlWords s c ∧ Sys2Proof.Claims.BarrierWords s c ∧ Sys2Proof.Claims.EngineWords s c

/-- The sequencer's fetches and the engine's own steps: grants, drains, retirement, ageing, gathers. That a block is fetched from
a page of any kind that a load may read is log 33; the sequencer's held arrival is log 62. -/
def Obligations.EngineSteps : Prop :=
  ∀ s, Sys2Proof.Claims.StreamFetch s ∧ Sys2Proof.Claims.Grants s ∧ Sys2Proof.Claims.MismatchStops s ∧
    Sys2Proof.Claims.Drains s ∧ Sys2Proof.Claims.Retires s ∧ Sys2Proof.Claims.HeldArrivals s ∧ Sys2Proof.Claims.EngineTimers s

namespace Sys2Proof.Claims

open Sys2Proof.Machine

/-- A chain of the transfer unit whose operation's group lives. -/
def ChainAt (s : State) (c : Chain) : Prop :=
  s.chain c.id = some c ∧ ∀ o, mfind s.ops c.op = some o → o.id = c.op ∧ Lives s o.core o.slot

/-- The chain fails with a cause (R305). -/
def ChainFails (i : Instr) (s : State) (c : Chain) (k : Cause) : Prop :=
  Leads i s (fun t => t.chain c.id = none ∧ t.scratch = s.scratch ∧ (t.ctx c.guest).ctxerr = true ∧
    (∀ o, mfind s.ops c.op = some o → Completed s t o) ∧
    ∀ w, s.wgroup c.core c.wslot = some w → ∃ w', t.wgroup c.core c.wslot = some w' ∧ w'.fail = true ∧ w'.fcause = k ∧
      w'.felem = BitVec.ofNat 20 (min c.index 65535) ∧ w'.detach = true)

/-- A copy record of the chain is placed in the producer group's queue (R308, R367). -/
def CopyRecord (t : State) (c : Chain) (k : Cause) (va : Nat) : Prop :=
  ∃ r, t.recs = [r] ∧ r.core = c.core ∧ r.slot = c.slot ∧ r.kind = 3 ∧ r.store = false ∧ r.cause = k ∧ r.pc = c.elem ∧
    r.unf = BitVec.ofNat 32 (2 ^ c.lane) ∧ mfind r.addr c.lane = some (BitVec.ofNat 64 va)

/-- The element is complete: its arrival is made; the chain waits for its next element, or has retired (R300, R303). -/
def ElementEnds (s t : State) (c : Chain) (e : Elem) : Prop :=
  (e.next = 0 → t.chain c.id = none ∧ ∀ o, mfind s.ops c.op = some o → Completed s t o) ∧
  (e.next ≠ 0 → ∃ c', t.chain c.id = some c' ∧ c'.phase = .waiting ∧ c'.elem = BitVec.ofNat 64 e.next ∧ c'.index = c.index + 1 ∧
    c'.range = [] ∧ c'.op = c.op) ∧
  (e.bv = true → ∀ w b, s.wgroup c.core c.wslot = some w → mfind w.bars e.bar = some b → w.member e.bar memTU = true →
    mfind b.arr memTU ≠ some b.pn → b.an + 1 < b.en → ∃ w' b', t.wgroup c.core c.wslot = some w' ∧
      mfind w'.bars e.bar = some b' ∧ b'.an = b.an + 1 ∧ b'.pn = b.pn)

/-- No more held arrivals wait than the element's barrier can count. -/
def ArrivalFits (s : State) (c : Chain) (e : Elem) : Prop :=
  ∀ w b, s.wgroup c.core c.wslot = some w → mfind w.bars e.bar = some b → b.held < 65535

/-- Checks 5 to 8 of R299 pass, with the ranges of the scratchpad sides. -/
def Passes58 (s : State) (c : Chain) (e : Elem) (rs : List (Nat × Nat × Nat)) : Prop :=
  (∃ x, s.scratchSides c e = some x ∧ rs = x.1.toList ++ x.2.toList ∧ e.overlaps x = false) ∧ s.mouldOk c.guest e = true ∧
    (s.elemWatch c e).1 = 0 ∧ s.unveilWaits c e = false

/-- A chain is taken up when no older one may be and fewer than four are in work (R300, R314). -/
def ChainsStart (s : State) : Prop :=
  ∀ (c : Chain) (w : WGroup), s.chain c.id = some c → c.phase = .waiting → s.startable c = true →
    (∀ x ∈ s.chains, x.cluster = c.cluster → x.id < c.id → s.startable x = false) →
    (s.chains.filter (fun x => x.cluster == c.cluster && x.phase != .waiting)).length < 4 →
    s.wgroup c.core c.wslot = some w →
    Leads (.chainStart c.id) s (fun t => t.mem = s.mem ∧ ∃ c', t.chain c.id = some c' ∧ c'.phase = .fetch ∧ c'.elem = c.elem ∧
      c'.index = c.index ∧ c'.moved = 0 ∧ c'.scout = w.scout ∧ c'.scoutOff = false)

/-- The element is read at its home, on another package by requests whose answers it waits for (R420), and checked in order; what
fails ends the chain, what passes moves or reads its skip word; a page that does not translate leaves a copy record (R298, R299,
R305, R308). -/
def ElementsFetched (s : State) : Prop :=
  ∀ (c : Chain), ChainAt s c → c.phase = .fetch →
    ((c.elem.toNat % 128 ≠ 0 ∨ 2 ^ 20 ≤ c.index) → ChainFails (.elementFetch c.id) s c cCopyForm) ∧
    (c.elem.toNat % 128 = 0 → c.index < 2 ^ 20 → 2 ^ 57 ≤ c.elem.toNat → ChainFails (.elementFetch c.id) s c cAddrForm) ∧
    (c.elem.toNat % 128 = 0 → c.index < 2 ^ 20 → c.elem.toNat < 2 ^ 57 →
      (∀ k, s.translate c.guest c.elem.toNat .load = .error k → s.producerLives c = true → s.recs = [] →
        Leads (.elementFetch c.id) s (fun t => t.mem = s.mem ∧ CopyRecord t c k c.elem.toNat ∧
          ∃ c', t.chain c.id = some c' ∧ c'.phase = .stopped ∧ c'.after = .fetch)) ∧
      (∀ pa leaf, s.translate c.guest c.elem.toNat .load = .ok (pa, leaf) → s.farBytes (.chain c.id) pa 128 = none →
        exec (.elementFetch c.id) s = .next (s.farWant (.chain c.id) c.guest c.elem pa 128).refresh) ∧
      (∀ pa leaf bs, s.translate c.guest c.elem.toNat .load = .ok (pa, leaf) → s.farBytes (.chain c.id) pa 128 = some bs →
        let e := Elem.ofBytes bs
        (isRemote pa = false → bs = rdBytes s.mem pa 128) ∧
        (∀ k, e.check24 c.sup = some k → ChainFails (.elementFetch c.id) s c k) ∧
        (e.check24 c.sup = none → e.sken = true → Leads (.elementFetch c.id) s (fun t => t.mem = s.mem ∧
          ∃ c', t.chain c.id = some c' ∧ c'.phase = .skip ∧ c'.bytes = bs)) ∧
        (e.check24 c.sup = none → e.sken = false → s.scratchSides { c with bytes := bs, phase := .check } e = none →
          ChainFails (.elementFetch c.id) s c cScratchBounds) ∧
        (e.check24 c.sup = none → e.sken = false → ∀ rs, Passes58 s { c with bytes := bs, phase := .check } e rs →
          Leads (.elementFetch c.id) s (fun t => t.mem = s.mem ∧ ∃ c', t.chain c.id = some c' ∧ c'.phase = .moving ∧
            c'.bytes = bs ∧ c'.range = rs))))

/-- The skip word, read at its home as the element is, decides: with SENSE 0 a zero word skips the element and with SENSE 1 another
does; a skipped element moves nothing, and one that is not goes on to its remaining checks (R298, R420). -/
def SkipWords (s : State) : Prop :=
  ∀ (c : Chain) (pa leaf : Nat), ChainAt s c → c.phase = .skip →
    let e := Elem.ofBytes c.bytes
    s.translate c.guest e.skaddr .load = .ok (pa, leaf) →
    (s.farBytes (.chain c.id) pa 4 = none →
      exec (.skipWordRead c.id) s = .next (s.farWant (.chain c.id) c.guest (BitVec.ofNat 64 e.skaddr) pa 4).refresh) ∧
    ∀ bs, s.farBytes (.chain c.id) pa 4 = some bs →
    let skips := (leNat bs = 0 ↔ e.sense = 0)
    (isRemote pa = false → leNat bs = rdLE s.mem pa 4) ∧
    (skips → ArrivalFits s c e → Leads (.skipWordRead c.id) s (fun t => t.mem = s.mem ∧ t.scratch = s.scratch ∧ ElementEnds s t c e)) ∧
    (¬skips → ∀ rs, Passes58 s { c with phase := .check } e rs → Leads (.skipWordRead c.id) s (fun t => t.mem = s.mem ∧
      ∃ c', t.chain c.id = some c' ∧ c'.phase = .moving ∧ c'.range = rs))

/-- The scout takes the next page that the data engine has not reached, or leaves a copy record at a page that does not
translate and stops there (R307). -/
def Scouts (s : State) : Prop :=
  ∀ (c : Chain) (page : Nat), ChainAt s c → c.phase = .moving → c.scoutOff = false →
    let e := Elem.ofBytes c.bytes
    let reached := (e.pages (e.units.take c.moved)).length
    let next := max reached c.scoutAt
    next < reached + c.scout → (e.pages e.units)[next]? = some page →
    (s.pageFault c.guest e page = none → Leads (.scoutTranslate c.id) s (fun t => t.mem = s.mem ∧
      t.chain c.id = some { c with scoutAt := next + 1 })) ∧
    (∀ k va, s.pageFault c.guest e page = some (k, va) → s.producerLives c = true → s.recs = [] →
      Leads (.scoutTranslate c.id) s (fun t => t.mem = s.mem ∧ CopyRecord t c k va ∧
        t.chain c.id = some { c with scoutAt := next, scoutOff := true, cause := k }))

/-- Bytes of memory that differ from those of `s` leave translation and the dirty log of a guest as they are, as long as
they lie in `D`. -/
def Apart (s : State) (guest : Nat) (D : Nat → Prop) : Prop :=
  ∀ m : Memory, (∀ x, ¬D x → rdByte m x = rdByte s.mem x) →
    (∀ va acc, ({ s with mem := m } : State).translate guest va acc = s.translate guest va acc) ∧ Unlogged { s with mem := m } guest

/-- Every unit of an element is copied from its source to its destination, and nothing else changes: global memory to the
workgroup's scratchpad, and global to global where no unit is both source and destination and no access stands before them at
the homes of their lines (R254, R259, R297, R300). A unit whose destination lies on another package goes there in a request that
carries its bytes, and the element is complete once such writes have been applied there (R259, R304, R420). -/
def ElementsMove (s : State) : Prop :=
  ∀ (c : Chain), ChainAt s c → c.phase = .moving → c.moved = 0 → c.scoutOff = false →
    let e := Elem.ofBytes c.bytes
    let n := e.units.length
    let src (i : Nat) : Nat := plusOff e.src (e.units.getD i (0, 0)).1
    ArrivalFits s c e → e.srcSide = .glob → Memory.wf s.mem = true → ∀ sp : Nat → Nat,
    (∀ i < n, isRemote (sp i) = false ∧ ∃ leaf, s.translate c.guest (src i) .load = .ok (sp i, leaf)) →
    (∀ f ∈ s.far, f.who = .chain c.id → f.bytes = []) →
    (∀ dp leaf, e.dstSide = .glob → n = 1 → (∀ m ∈ (s.ctx c.guest).moulds, m.bound = false) → isRemote dp = true → s.homeUp dp = true →
      s.translate c.guest (plusOff e.dst (e.units.getD 0 (0, 0)).2) .write = .ok (dp, leaf) →
      Leads (.elementComplete c.id) s (fun t => t.mem = s.mem ∧ (∃ f ∈ t.far, f.who = .chain c.id ∧ f.guest = c.guest ∧ f.addr = dp ∧
        f.bytes = rdBytes s.mem (sp 0) e.unit) ∧ ∃ c', t.chain c.id = some c' ∧ c'.phase = .moving ∧ c'.moved = 1)) ∧
    Leads (.elementComplete c.id) { s with chains := s.chains.map (fun x => if x.id = c.id then { x with moved := n } else x) }
      (fun t => t.mem = s.mem ∧ t.scratch = s.scratch ∧ ElementEnds s t c e) ∧
    (∀ (core : Nat) (dp : Nat → Nat), e.dstSide = .scr → Memory.wf (s.scratchOf core) = true →
      (∀ i < n, s.scratchTarget c.core c.wslot (BitVec.ofNat 64 (sideAddr .scr e.dst (e.units.getD i (0, 0)).2)) e.unit = some (core, dp i)) →
      (∀ i j, i < n → j < n → i ≠ j → dp i + e.unit ≤ dp j ∨ dp j + e.unit ≤ dp i) →
      Leads (.elementComplete c.id) s (fun t => t.mem = s.mem ∧ ElementEnds s t c e ∧
        (∀ i k, i < n → k < e.unit → rdByte (t.scratchOf core) (dp i + k) = rdByte s.mem (sp i + k)) ∧
        ∀ a, (∀ i < n, a < dp i ∨ dp i + e.unit ≤ a) → rdByte (t.scratchOf core) a = rdByte (s.scratchOf core) a)) ∧
    (∀ dp : Nat → Nat, e.dstSide = .glob →
      (∀ i < n, isRemote (dp i) = false ∧
        ∃ leaf, s.translate c.guest (plusOff e.dst (e.units.getD i (0, 0)).2) .write = .ok (dp i, leaf)) →
      (∀ m ∈ (s.ctx c.guest).moulds, m.bound = false) → (∀ line, NoHeld s line) →
      (∀ i < n, (∀ x ∈ s.aq, x.addr / 128 ≠ dp i / 128) ∧ s.lineBusy (dp i / 128) = false) →
      Apart s c.guest (fun x => ∃ i < n, dp i ≤ x ∧ x < dp i + e.unit) →
      (∀ i j, i < n → j < n → (sp i + e.unit ≤ dp j ∨ dp j + e.unit ≤ sp i) ∧
        (i ≠ j → dp i + e.unit ≤ dp j ∨ dp j + e.unit ≤ dp i)) →
      Leads (.elementComplete c.id) s (fun t => t.scratch = s.scratch ∧ ElementEnds s t c e ∧
        (∀ i k, i < n → k < e.unit → rdByte t.mem (dp i + k) = rdByte s.mem (sp i + k)) ∧
        ∀ a, (∀ i < n, a < dp i ∨ dp i + e.unit ≤ a) → rdByte t.mem a = rdByte s.mem a))

/-- `unveil` of a bound mould that no element in progress touches replaces the buffer's bytes by the shadow's in one step;
the mould is free, and its witness, device scope at the cc of the replacement, is answered and kept. Of an unbound handle
it answers the last witness, and with no lane on it ends (R260, R312, R317). -/
def Unveils (s : State) : Prop :=
  ∀ (op h : Nat) (o : Op), mfind s.ops op = some o → o.id = op → o.kind = .unveil h → o.at_ < s.cc → Lives s o.core o.slot →
    (o.mask = 0 → Leads (.unveilReplace op) s (fun t => t.mem = s.mem ∧ Completed s t o)) ∧
    (∀ m, o.mask ≠ 0 → (s.ctx o.guest).moulds[h]? = some m →
      (m.bound = false → Leads (.unveilReplace op) s (fun t => t.mem = s.mem ∧ Completed s t o ∧
        ∀ l, laneOn o.mask l → Delivered s t o l [loWord m.lastw, hiWord m.lastw])) ∧
      (m.bound = true → s.mouldBusy o m = false → Memory.wf s.mem = true → Memory.wf m.shadow = true → (∀ line, NoHeld s line) →
        Unlogged s o.guest → m.frames.Nodup → (∀ f ∈ m.frames, f % 65536 = 0) → 0 < m.len.toNat →
        m.frames.length = (m.base.toNat + m.len.toNat - 1) / 65536 - m.base.toNat / 65536 + 1 →
        (∀ f ∈ m.frames, (s.ctx o.guest).cmdPage.toNat + 52 ≤ f ∨ f + 65536 ≤ (s.ctx o.guest).cmdPage.toNat + 48) →
        let w := mkWit 2 s.dev.pkgid.toNat s.dtime
        Leads (.unveilReplace op) s (fun t => Completed s t o ∧ (∀ l, laneOn o.mask l → Delivered s t o l [loWord w, hiWord w]) ∧
          (∃ m', (t.ctx o.guest).moulds[h]? = some m' ∧ m'.bound = false ∧ m'.lastw = w) ∧
          (∀ k < m.len.toNat, rdByte t.mem (mouldAddr m.base.toNat m.frames k) = rdByte m.shadow k) ∧
          ∀ a, (∀ k < m.len.toNat, a ≠ mouldAddr m.base.toNat m.frames k) → rdByte t.mem a = rdByte s.mem a)))

end Sys2Proof.Claims

/-- The steps of the transfer unit: a chain's start, its elements' reading, checks, scouting, moving and failure, and the
replacement that `unveil` asks for. -/
def Obligations.TransferUnitSteps : Prop :=
  ∀ s, Sys2Proof.Claims.ChainsStart s ∧ Sys2Proof.Claims.ElementsFetched s ∧ Sys2Proof.Claims.SkipWords s ∧
    Sys2Proof.Claims.Scouts s ∧ Sys2Proof.Claims.ElementsMove s ∧ Sys2Proof.Claims.Unveils s

namespace Sys2Proof.Claims

open Sys2Proof.Machine

/-- The completion ring of a guest has room, nothing waits for it, and it lies apart from the command page (R411). -/
def CqRoom (s : State) (guest : Nat) : Prop :=
  (s.ctx guest).cqWait = [] ∧ Memory.wf s.mem = true ∧
  (s.cmdField guest 32 4 + 2 ^ 32 - s.cmdField guest 36 4) % 2 ^ 32 < s.cmdField guest 28 4 ∧
  (s.cmdField guest 20 8 + 32 * s.cmdField guest 28 4 ≤ (s.ctx guest).cmdPage.toNat ∨
    (s.ctx guest).cmdPage.toNat + 4096 ≤ s.cmdField guest 20 8)

/-- An entry of a kind with a tag stands in the completion ring, with DTIME and CTXERR, and CQTAIL counts it (R411). -/
def CqEntry (s t : State) (guest kind : Nat) (tag : DWord) : Prop :=
  let a := s.cmdField guest 20 8 + 32 * (s.cmdField guest 32 4 % s.cmdField guest 28 4)
  (rdByte t.mem a).toNat = kind ∧ rdLE t.mem (a + 8) 8 = tag.toNat ∧ rdLE t.mem (a + 24) 6 = s.dtime.toNat ∧
    (rdByte t.mem (a + 30)).toNat = b2n (t.ctx guest).ctxerr ∧ t.cmdField guest 32 4 = (s.cmdField guest 32 4 + 1) % 2 ^ 32 ∧
    (t.ctx guest).cqWait = []

/-- A launch stands queued behind its guest's submissions, with its header and tag (R350). -/
def Queued (s t : State) (guest : Nat) (h : Hdr) (tag : DWord) : Prop :=
  ∃ n l, (t.ctx guest).queue = (s.ctx guest).queue ++ [n] ∧ mfind t.launches n = some l ∧ l.guest = guest ∧ l.hdr = h ∧
    l.phase = .queued ∧ l.host = true ∧ l.root = n ∧ l.parent = none ∧ l.tag = tag ∧ l.prio = h.prio

/-! ### Submissions -/

/-- A submitted header in order is queued; one that is refused, not 64-byte aligned or not mapped gives a refusal entry; while its
bytes are on their way from another package it waits (R348, R349, R350, R411, R420; log 85). -/
def SubmitsLaunch (s : State) : Prop :=
  ∀ (guest : Nat) (addr : Addr) (tag : DWord), (s.ctx guest).valid = true →
    (∀ s', addr.toNat % 64 = 0 → s.homeWait (.host guest) guest addr.toNat 128 = some s' →
      Leads (.submitLaunch guest addr tag) s (fun t => t.mem = s.mem ∧ t.launches = s.launches ∧ t.far = s'.far ∧
        (t.ctx guest).held = (s.ctx guest).held ++ [(1, addr, tag)])) ∧
    (addr.toNat % 64 = 0 → s.homePlaces guest addr.toNat 128 = none → CqRoom s guest → Leads (.submitLaunch guest addr tag) s (fun t =>
      t.launches = s.launches ∧ CqEntry s t guest 2 tag)) ∧
    (∀ b, addr.toNat % 64 = 0 → s.homeBytes (.host guest) guest addr.toNat 128 = some b →
      (s.refused guest (Hdr.ofBytes b) = false → Leads (.submitLaunch guest addr tag) s (fun t => t.mem = s.mem ∧
        Queued s t guest (Hdr.ofBytes b) tag)) ∧
      (s.refused guest (Hdr.ofBytes b) = true → CqRoom s guest → Leads (.submitLaunch guest addr tag) s (fun t =>
        t.launches = s.launches ∧ CqEntry s t guest 2 tag))) ∧
    (addr.toNat % 64 ≠ 0 → CqRoom s guest → Leads (.submitLaunch guest addr tag) s (fun t =>
      t.launches = s.launches ∧ CqEntry s t guest 2 tag))

/-- A pipeline descriptor in order, with every stage's header, makes one launch for each stage, that of stage 0 in the
queue; another gives a refusal entry (R352). -/
def SubmitsPipeline (s : State) : Prop :=
  ∀ (guest : Nat) (addr : Addr) (tag : DWord) (b : List Byte), (s.ctx guest).valid = true →
    s.homeBytes (.host guest) guest addr.toNat 320 = some b →
    let p0 : Pipe := ⟨guest, b, [], tag, [], [], false⟩
    (∀ hs, p0.wellFormed = true → (List.range p0.nst).mapM (s.stageHeader p0) = some hs →
      Leads (.submitPipeline guest addr tag) s (fun t => t.mem = s.mem ∧ ∃ n p, mfind t.pipes n = some p ∧ p.guest = guest ∧
        p.desc = b ∧ p.live = false ∧ p.launches.length = p0.nst ∧
        (t.ctx guest).queue = (s.ctx guest).queue ++ [p.launches.getD 0 0] ∧
        ∀ k < p0.nst, ∃ l, mfind t.launches (p.launches.getD k 0) = some l ∧ hs[k]? = some l.hdr ∧ l.stage = some (n, k) ∧
          l.phase = .queued ∧ l.root = p.launches.getD 0 0 ∧ l.host = decide (k = 0))) ∧
    (p0.wellFormed = false → CqRoom s guest → Leads (.submitPipeline guest addr tag) s (fun t =>
      t.pipes = s.pipes ∧ t.launches = s.launches ∧ CqEntry s t guest 2 tag))

/-- An abort ends every group of the guest and discards its moulds and mailboxes; where no launch runs it is refused (R411,
R431). -/
def SubmitsAbort (s : State) : Prop :=
  ∀ (guest : Nat) (tag : DWord), (s.ctx guest).valid = true → (s.ctx guest).queue = [] → (s.ctx guest).held = [] →
    ((s.ctx guest).current = none → (∀ x ∈ s.launches, x.2.guest ≠ guest) → CqRoom s guest →
      (∀ x ∈ s.pipes, x.2.guest ≠ guest) →
      Leads (.submitAbort guest tag) s (fun t => CqEntry s t guest 2 tag ∧ (t.ctx guest).mail = [] ∧
        ∀ m ∈ (t.ctx guest).moulds, m.bound = false)) ∧
    ((∀ x ∈ s.groups, x.2.guest = guest → ∃ l, mfind s.launches x.2.launch = some l ∧ l.guest = guest) →
      Leads (.submitAbort guest tag) s (fun t => (∀ core slot g, t.group core slot = some g → g.guest = guest → g.ended = true) ∧
        (t.ctx guest).mail = [] ∧ ∀ m ∈ (t.ctx guest).moulds, m.bound = false))

/-- NOTIFY makes firmware read the guest table's entry, then the submissions from SQHEAD to SQTAIL (R410, R411, R412). -/
def Notifies (s : State) : Prop :=
  ∀ (guest : Nat), guest < 64 → s.dev.ready = true → (s.dev.admBusy && isReset 1 s.dev.admBlock) = false →
    let e := rdBytes s.mem (s.dev.guesttab.toNat + 64 * guest) 64
    let s1 := s.setCmd guest 16 4 ((s.cmdField guest 16 4 + 1) % 2 ^ 32)
    (∀ x, s.ctx guest = x → x.valid = true → x.held = [] → (e.getD 57 0).getLsbD 0 = true →
      (s.cmdField guest 16 4 = s.cmdField guest 12 4 → Leads (.notify guest) s (fun t => t.mem = s.mem ∧ t.ctx guest = x ∧
        t.launches = s.launches)) ∧
      (∀ b, let q := s.cmdField guest 0 8 + 64 * (s.cmdField guest 16 4 % s.cmdField guest 8 4)
        let addr := BitVec.ofNat 64 (rdLE s.mem (q + 8) 8)
        s.cmdField guest 8 4 ≠ 0 → s.cmdField guest 12 4 = (s.cmdField guest 16 4 + 1) % 2 ^ 32 → Memory.wf s.mem = true →
        (rdByte s.mem q).toNat = 1 → addr.toNat % 64 = 0 → s1.homeBytes (.host guest) guest addr.toNat 128 = some b →
        s1.refused guest (Hdr.ofBytes b) = false →
        Leads (.notify guest) s (fun t => Queued s t guest (Hdr.ofBytes b) (BitVec.ofNat 64 (rdLE s.mem (q + 16) 8)) ∧
          t.cmdField guest 16 4 = s.cmdField guest 12 4))) ∧
    ((s.ctx guest).valid = false → (e.getD 57 0).getLsbD 0 = true →
      rdLE s.mem (fieldLE e 0 8 + 16) 4 = rdLE s.mem (fieldLE e 0 8 + 12) 4 →
      Leads (.notify guest) s (fun t => t.mem = s.mem ∧ (t.ctx guest).valid = true ∧ (t.ctx guest).cmdPage.toNat = fieldLE e 0 8 ∧
        (t.ctx guest).saveBase.toNat = fieldLE e 8 8 ∧ (t.ctx guest).saveSize.toNat = fieldLE e 16 8 ∧
        (t.ctx guest).asroot.toNat = fieldLE e 24 8 ∧ (t.ctx guest).ptmbase.toNat = fieldLE e 32 8 ∧
        (t.ctx guest).ptmsize.toNat = fieldLE e 40 8 ∧ (t.ctx guest).xvec.toNat = fieldLE e 48 8 ∧
        (t.ctx guest).partition = fieldLE e 56 1 ∧ (t.ctx guest).cqWait = (s.ctx guest).cqWait ∧
        ∀ n h, (t.cluster n).user.getD h none ≠ some guest))

/-- A waiting entry is written once CQHEAD has advanced, that of a context that has ended too (R411). -/
def CqMoves (s : State) : Prop :=
  ∀ (guest : Nat) (v : Word), Memory.wf s.mem = true →
    ((s.ctx guest).valid = true → (s.ctx guest).cqWait = [] → Leads (.cqheadAdvance guest v) s (fun t => t.cmdField guest 36 4 = v.toNat ∧
      t.cmdField guest 32 4 = s.cmdField guest 32 4)) ∧
    (∀ e, (s.ctx guest).cqWait = [e] → e.length = 24 →
      (s.cmdField guest 32 4 + 2 ^ 32 - v.toNat) % 2 ^ 32 < s.cmdField guest 28 4 →
      (s.cmdField guest 20 8 + 32 * s.cmdField guest 28 4 ≤ (s.ctx guest).cmdPage.toNat ∨
        (s.ctx guest).cmdPage.toNat + 4096 ≤ s.cmdField guest 20 8) →
      Leads (.cqheadAdvance guest v) s (fun t => t.cmdField guest 36 4 = v.toNat ∧ (t.ctx guest).cqWait = [] ∧
        t.cmdField guest 32 4 = (s.cmdField guest 32 4 + 1) % 2 ^ 32 ∧
        rdBytes t.mem (s.cmdField guest 20 8 + 32 * (s.cmdField guest 32 4 % s.cmdField guest 28 4)) 24 = e))

/-! ### Kernel boundaries and placement -/

/-- The kernel boundary at a launch's start and at its end: every line of the context has left the L1s, with held lines and
dirty per-thread lines written back; no clean line and no instruction line at all, and no scope record of the context, is left; at a
start LSTART is taken after these, at an end the completion entry is written. Where a line goes back to another package the boundary
waits until it has been written there (R128, R262, R350, R420). -/
def KernelBoundaries (s : State) : Prop :=
  ∀ (n : Nat) (l : Launch), mfind s.launches n = some l → l.host = true → s.writesApplied l.guest = true → Unlogged s l.guest →
    Memory.wf s.mem = true → (∀ x ∈ s.l1, x.data.length = 128) → (s.l1.map (·.line)).Nodup → l.stage = none →
    (∀ x ∈ s.l1, x.line * 128 + 128 ≤ (s.ctx l.guest).cmdPage.toNat ∨ (s.ctx l.guest).cmdPage.toNat + 4096 ≤ x.line * 128) →
    let swept (t : State) : Prop := (∀ x ∈ t.l1, x ∈ s.l1 ∧ (∀ u g c, x.kind ≠ .clean u g c) ∧ x.kind.guest ≠ l.guest) ∧
      t.icache = [] ∧ ∀ x ∈ t.scopes, x.2.guest ≠ l.guest
    let away := ∃ x ∈ s.l1, ∃ va, x.kind = .priv l.guest true va ∧ isRemote (x.line * 128) = true
    (away → (l.phase = .queued ∧ (s.ctx l.guest).valid = true ∧ (s.ctx l.guest).current = none ∧
        (s.ctx l.guest).queue.head? = some n) ∨ s.launchOver n l = true →
      Leads (.kernelBoundary n) s (fun t => swept t ∧ t.launches = s.launches ∧ (t.ctx l.guest).current = (s.ctx l.guest).current ∧
        ∃ f ∈ t.far, f.guest = l.guest ∧ f.bytes ≠ [])) ∧
    (l.phase = .queued → (s.ctx l.guest).valid = true → (s.ctx l.guest).current = none → (s.ctx l.guest).queue.head? = some n →
      l.root = n → ¬away → Leads (.kernelBoundary n) s (fun t => swept t ∧ (t.ctx l.guest).current = some n ∧
        (t.ctx l.guest).queue = (s.ctx l.guest).queue.drop 1 ∧
        mfind t.launches n = some { l with phase := .running, lstart := s.dtime } ∧
        ∀ x ∈ s.l1, x.kind.guest = l.guest → (∀ u g c, x.kind ≠ .clean u g c) → (∀ g va, x.kind ≠ .priv g false va) →
          rdBytes t.mem (x.line * 128) 128 = x.data)) ∧
    (s.launchOver n l = true → CqRoom s l.guest → (∀ x ∈ s.l1, x.kind.guest = l.guest → ∃ u g c, x.kind = .clean u g c) →
      Leads (.kernelBoundary n) s (fun t => swept t ∧ (t.ctx l.guest).current = none ∧ CqEntry s t l.guest 1 l.tag ∧
        ∀ x ∈ t.launches, x.2.root ≠ n))

/-- A span of one workgroup of one group is placed on a core with room: the group starts as R57 and R72 lay down. -/
def Places (s : State) : Prop :=
  ∀ (n core cluster ws slot base : Nat) (l : Launch) (pb : Addr), mfind s.launches n = some l → s.stageOf l = none →
    l.hdr.ext 1 = 1 → l.hdr.ext 2 = 1 → l.hdr.coop = false → s.mayPlace n l cluster = true → clusterOf core = cluster →
    s.clusterOk l.guest l.hdr.half cluster = true → core % 4 ∈ halfCores l.hdr.half → (s.ctx l.guest).trctl.getLsbD 31 = false →
    s.pickWslot core = some ws → s.pickSlot core = some slot → slot < 64 → ws < 16 → s.pickScratch core l.hdr.sgran = some base →
    l.hdr.fgran ≤ s.freeGranules core → s.blockFree l.guest pb l.hdr.plinth = true →
    Leads (.spanPlacement n cluster [core] [pb]) s (fun t => t.mem = s.mem ∧
      (∃ l', mfind t.launches n = some l' ∧ l'.nextSpan = l.nextSpan + 1 ∧ l'.groups = l.groups + 1 ∧
        l'.seqs = l.seqs + (if l.hdr.seq = 0 then 0 else 1)) ∧
      (∃ w, t.wgroup core ws = some w ∧ w.launch = n ∧ w.guest = l.guest ∧ w.sbase = base ∧ w.sgran = l.hdr.sgran ∧ w.scout = 4 ∧
        w.fail = false ∧ w.detach = false ∧ w.span = [wkey core ws] ∧ mfind w.groups 0 = some slot ∧
        (∀ q, w.seq = some q → q.pc = l.hdr.seq ∧ q.stopped = false) ∧ (w.seq = none ↔ l.hdr.seq = 0)) ∧
      (∀ a, 1024 * base ≤ a → a < 1024 * (base + l.hdr.sgran) → rdByte (t.scratchOf core) a = 0) ∧
      GroupIs t core slot (fun g => g.wid = l.hdr.widOf (l.hdr.fields l.nextSpan 0 0) ∧ g.launch = n ∧ g.guest = l.guest ∧
        g.wslot = ws ∧ g.live = lowLanes (2 ^ l.hdr.width 0) ∧ g.start = g.live ∧ g.fgran = l.hdr.fgran ∧ g.plinth = l.hdr.plinth ∧ g.pb = pb ∧
        g.sup = false ∧ g.pend = [] ∧ g.ovf = [] ∧ g.frame = [] ∧ g.uni = [] ∧ g.prd = [] ∧ g.win = [] ∧ g.aflags = 0 ∧
        g.ld = 0 ∧ g.st = 0 ∧ g.cp = 0 ∧ g.tl = 0 ∧ g.runs = 0 ∧ g.safe.entry = none ∧
        ∃ p, g.splits = [some p, none, none, none] ∧ p.pc = l.hdr.code ∧ p.mask = g.live ∧ p.depth = 0 ∧ p.res = 0))

/-! ### Child launches and messages -/

/-- `enq` and `enqw` read the header once the group's earlier stores are applied: 3 when it is refused; 1 for `enq` when it
is queued, with one unit of its class; 2 when the quota is spent and, for `enqw`, the credit in use; `enqw` with the credit
free launches on it. A child has the lower priority of the two and its root's LSTART (R289, R357). -/
def ChildLaunches (s : State) : Prop :=
  ∀ (op : Nat) (o : Op) (g : Group) (p r : Launch) (b : List Byte), mfind s.ops op = some o → o.id = op → o.status = none →
    mfind s.launches op = none → s.storesApplied o.core o.slot op = true → s.group o.core o.slot = some g →
    mfind s.launches g.launch = some p → mfind s.launches p.root = some r → s.homeBytes (.op op) o.guest (o.req 0).va.toNat 128 = some b →
    (s.ctx o.guest).quota.length = 4 →
    let h := Hdr.ofBytes b
    let q := (s.ctx o.guest).quota.getD h.quotaClass (0, 0)
    let status (t : State) (v : Option Word) : Prop := ∃ o', mfind t.ops op = some o' ∧ o'.status = v
    let child (t : State) : Prop := ∃ l, mfind t.launches op = some l ∧ l.hdr = h ∧ l.guest = o.guest ∧ l.parent = some g.launch ∧
      l.root = p.root ∧ l.prio = min h.prio p.prio ∧ l.lstart = r.lstart ∧ l.phase = .running ∧ l.host = false ∧
      (l.waiter.isSome ↔ o.kind = .enqw)
    ((o.kind = .enq ∨ o.kind = .enqw) → s.refused o.guest h = true → Leads (.enqHeaderRead op) s (fun t =>
      t.launches = s.launches ∧ status t (some 3))) ∧
    ((o.kind = .enq ∨ o.kind = .enqw) → s.refused o.guest h = false → q.2 < q.1 → Leads (.enqHeaderRead op) s (fun t =>
      child t ∧ (t.ctx o.guest).quota.getD h.quotaClass (0, 0) = (q.1, q.2 + 1) ∧
      status t (if o.kind = .enq then some 1 else none))) ∧
    (s.refused o.guest h = false → q.1 ≤ q.2 →
      (o.kind = .enq → Leads (.enqHeaderRead op) s (fun t => t.launches = s.launches ∧ status t (some 2))) ∧
      (o.kind = .enqw → g.credit = true → Leads (.enqHeaderRead op) s (fun t => t.launches = s.launches ∧ status t (some 2))) ∧
      (o.kind = .enqw → g.credit = false → Leads (.enqHeaderRead op) s (fun t => child t ∧ status t none ∧
        GroupIs t o.core o.slot (fun g' => g'.credit = true))))

/-- A child launch that is over gives back its unit or the credit, and answers its `enqw` once its stores are applied: 4
where a group of it set CTXERR, else 1 (R289, R357). -/
def ChildLaunchesEnd (s : State) : Prop :=
  ∀ (n : Nat) (l : Launch), mfind s.launches n = some l → l.parent.isSome → s.launchOver n l = true →
    (∀ e ∈ s.aq, e.launch = n → ∃ u, e.act = .fill u) → (∀ w o, l.waiter = some w → mfind s.ops w = some o → o.area = none) →
    Leads (.childLaunchEnd n) s (fun t => t.mem = s.mem ∧ mfind t.launches n = none ∧
      (∀ w o, l.waiter = some w → mfind s.ops w = some o → ∃ o', mfind t.ops w = some o' ∧
        o'.status = some (if l.err then 4 else 1)) ∧
      (∀ k q, l.quota = .unit k → (s.ctx l.guest).quota[k]? = some q → (t.ctx l.guest).quota[k]? = some (q.1, q.2 - 1)) ∧
      ∀ core slot g, l.quota = .credit core slot → s.group core slot = some g → GroupIs t core slot (fun g' => g'.credit = false))

/-- A message is stored in the mailbox that the destination names, behind those of the same group sent before; a full box
gives 2, a malformed or unreachable destination 3 (R290). -/
def MessagesArrive (s : State) : Prop :=
  ∀ (op : Nat) (o : Op), mfind s.ops op = some o → o.id = op → o.kind = .lsend → o.status = none → o.area = none →
    let d := (o.req 0).va.toNat
    let x := s.ctx o.guest
    let box := mget x.mail (d / 2 ^ 13 % 4) []
    let status (t : State) (v : Word) : Prop := ∃ o', mfind t.ops op = some o' ∧ o'.status = some v
    d < 2 ^ 32 → (∀ y ∈ s.ops, y.2.kind = .lsend → y.2.core = o.core → y.2.slot = o.slot → y.2.id < op → y.2.status.isSome) →
    (2 ^ 15 ≤ d → Leads (.messageDelivery op) s (fun t => t.ctxs = s.ctxs ∧ status t 3)) ∧
    (d < 2 ^ 15 → d % 2 ^ 13 = s.dev.pkgid.toNat →
      (box.length < 64 → Leads (.messageDelivery op) s (fun t => t.mem = s.mem ∧ status t 1 ∧ ∃ m,
        mget (t.ctx o.guest).mail (d / 2 ^ 13 % 4) [] = box ++ [m] ∧ m.words = o.lanes.map (fun y => y.req.val.setWidth 32) ∧
          m.pkg = s.dev.pkgid)) ∧
      (64 ≤ box.length → Leads (.messageDelivery op) s (fun t => t.ctxs = s.ctxs ∧ status t 2))) ∧
    (d < 2 ^ 15 → d % 2 ^ 13 ≠ s.dev.pkgid.toNat →
      (s.reaches (d % 2 ^ 13) = false → Leads (.messageDelivery op) s (fun t => t.ctxs = s.ctxs ∧ status t 3)) ∧
      (s.reaches (d % 2 ^ 13) = true → Leads (.messageDelivery op) s (fun t => t.ctxs = s.ctxs ∧ (status t 1 ∨ status t 2) ∧
        ∃ r, mfind s.dev.routes (d % 2 ^ 13) = some r ∧ (t.port r.port).out.length = (s.port r.port).out.length + 1)))

/-! ### Stage pipelines -/

/-- The oldest records of a stage's ring become one gathered group: 32 of them as soon as they are there, or what there is
when the timer has lapsed; C advances by as many (R354). -/
def StagesGather (s : State) : Prop :=
  ∀ (pipe stage cluster : Nat) (p : Pipe) (r : InRing), s.stageAt pipe stage cluster = some (p, r) → Memory.wf s.mem = true →
    let took (n : Nat) (ws : List Word) (t : State) : Prop := rdLE t.mem (r.pa + 16) 4 = (r.cons + n) % 2 ^ 32 ∧
      ∃ p', mfind t.pipes pipe = some p' ∧ p'.gathered stage cluster = p.gathered stage cluster ++ [ws]
    (∀ ws, 32 ≤ r.used → s.ringOldest p.guest r 32 = some ws → Leads (.stageGather pipe stage cluster) s (took 32 ws)) ∧
    (∀ u ws, mfind p.timer (stageKey stage cluster) = some u → u + p.stage stage 16 2 ≤ s.cc → 0 < r.used →
      s.ringOldest p.guest r (min r.used 32) = some ws →
      Leads (.stageGatherTimeout pipe stage cluster) s (took (min r.used 32) ws))

/-- Neighbouring clusters even out a stage's rings: the deeper one, if it is deeper by more than THRESH, gives half the
difference, at most 32 records and at most the room of the other, from its oldest to the other's tail (R356). -/
def StagesBalance (s : State) : Prop :=
  ∀ (pipe stage cluster : Nat) (p : Pipe) (a b : InRing) (ws : List Word) (dp : Nat → Nat),
    s.stageAt pipe stage cluster = some (p, a) →
    s.stageAt pipe stage (if cluster % 36 = 35 then cluster - 35 else cluster + 1) = some (p, b) → s.dtime.toNat % 4096 = 0 →
    s.clusterOk p.guest 0 cluster = true → s.clusterOk p.guest 0 (if cluster % 36 = 35 then cluster - 35 else cluster + 1) = true →
    Memory.wf s.mem = true → b.used + p.thresh < a.used →
    let m := min (min ((a.used - b.used) / 2) 32) b.free
    s.ringOldest p.guest a m = some ws → (∀ i < m, s.ringPlace p.guest b (b.prod + i) = some (dp i)) →
    Apart s p.guest (fun x => a.pa + 16 ≤ x ∧ x < a.pa + 20) → (a.pa + 32 ≤ b.pa ∨ b.pa + 32 ≤ a.pa) →
    (∀ i j, i < m → j < m → i ≠ j → dp i + 4 ≤ dp j ∨ dp j + 4 ≤ dp i) →
    (∀ i < m, (dp i + 4 ≤ a.pa ∨ a.pa + 32 ≤ dp i) ∧ (dp i + 4 ≤ b.pa ∨ b.pa + 32 ≤ dp i)) →
    Leads (.stageBalance pipe stage cluster) s (fun t => rdLE t.mem (a.pa + 16) 4 = (a.cons + m) % 2 ^ 32 ∧
      rdLE t.mem (b.pa + 12) 4 = (b.prod + m) % 2 ^ 32 ∧ ∀ i < m, rdLE t.mem (dp i) 4 = (ws.getD i 0).toNat)

end Sys2Proof.Claims

/-- How work reaches the package: submissions, notifications, the completion ring. The command page and the rings stand at
untranslated physical addresses (log 9); the refusal entry of an abort that finds no launch, which still discards moulds and mail,
is log 42; the order and the end of submissions that wait are log 85. These are the model's readings, not rules. -/
def Obligations.Submissions : Prop :=
  ∀ s, Sys2Proof.Claims.SubmitsLaunch s ∧ Sys2Proof.Claims.SubmitsPipeline s ∧ Sys2Proof.Claims.SubmitsAbort s ∧
    Sys2Proof.Claims.Notifies s ∧ Sys2Proof.Claims.CqMoves s

/-- How launches begin, are placed and end: kernel boundaries, spans, children, messages. -/
def Sys2Proof.Claims.LaunchesRun : Prop :=
  ∀ s, Sys2Proof.Claims.KernelBoundaries s ∧ Sys2Proof.Claims.Places s ∧ Sys2Proof.Claims.ChildLaunches s ∧
    Sys2Proof.Claims.ChildLaunchesEnd s ∧ Sys2Proof.Claims.MessagesArrive s

/-- How stage pipelines gather and balance their records. -/
def Sys2Proof.Claims.StageRings : Prop :=
  ∀ s, Sys2Proof.Claims.StagesGather s ∧ Sys2Proof.Claims.StagesBalance s

/-- How launches begin, are placed and end, and how stage pipelines gather and balance their records. Model's readings, not rules:
every context's instruction lines go at a boundary (log 39), `enq` answers 3 before it looks at the quota (log 40), placement takes
the lowest slots (log 12), and a completion entry stands at an untranslated physical address (log 9). -/
def Obligations.LaunchesAndStages : Prop :=
  Sys2Proof.Claims.LaunchesRun ∧ Sys2Proof.Claims.StageRings

namespace Sys2Proof.Claims

open Sys2Proof.Machine

/-- What a part stands on: PC, lanes, depth. -/
def stands (p : Part) : Addr × Mask × Nat := (p.pc, p.mask, p.depth)

/-- The registers, stack and parts of a group are those of another. -/
def SameState (g g' : Group) : Prop :=
  g'.frame = g.frame ∧ g'.uni = g.uni ∧ g'.prd = g.prd ∧ g'.win = g.win ∧ g'.segw = g.segw ∧ g'.aflags = g.aflags ∧
    g'.safe = g.safe ∧ g'.live = g.live ∧ g'.sup = g.sup ∧ g'.pendEnt = g.pendEnt ∧ g'.pendFrm = g.pendFrm ∧
    (g'.ld, g'.st, g'.cp, g'.tl) = (g.ld, g.st, g.cp, g.tl) ∧ (g'.xpc, g'.xmask, g'.xcause) = (g.xpc, g.xmask, g.xcause) ∧
    (g.splits.length = 4 → g'.splits.map (Option.map stands) = g.splits.map (Option.map stands)) ∧
    g'.pend.map stands = g.pend.map stands ∧ g'.ovf.map stands = g.ovf.map stands

/-- The group in the slot has ended, and CTXERR is set (R285, R377). -/
def EndsWithError (t : State) (core slot guest : Nat) : Prop :=
  (t.ctx guest).ctxerr = true ∧ ∀ g, t.group core slot = some g → g.ended = true ∧ g.live = 0

/-! ### Pre-emption -/

/-- A request to stop reaches every live group of the unit; for a shrink, once 2^20 cc have passed (R359, R378). -/
def Requests (s : State) : Prop :=
  ∀ (n k j slot : Nat) (u : Unit_) (w : WGroup) (g : Group), mfind s.units n = some u → k ∈ u.wgs → mfind s.wgroups k = some w →
    (j, slot) ∈ w.groups → s.group (k / 16) slot = some g → g.ended = false →
    Leads (.preemptRequest n) s (fun t => t.mem = s.mem ∧ GroupIs t (k / 16) slot (fun g' => g'.preempt = true ∧ SameState g g') ∧
      ∃ u', mfind t.units n = some u' ∧ u'.asked = true) ∧
    (∀ u0, u.shrink = some u0 → u0 + 2 ^ 20 ≤ s.cc → g.gangStop.isSome = true → Leads (.gangStopTimeout n) s (fun t => t.mem = s.mem ∧
      GroupIs t (k / 16) slot (fun g' => g'.preempt = true ∧ SameState g g')))

/-- A stopped group is saved by flashback where every condition of R86 holds, once no live register is pending, and then
its outstanding results are discarded; otherwise it is saved whole (R86, R88). -/
def Saves (s : State) : Prop :=
  ∀ (core slot n : Nat) (g : Group) (u : Unit_), s.group core slot = some g → g.preempt = true → g.saved = none → g.ended = false →
    g.run = none → s.quiet core slot g = true → s.unitOf (wkey core g.wslot) = some (n, u) → u.shrink = none →
    let flash := g.nofb = false ∧ g.runs ≤ 512 ∧ (∀ r ∈ s.recs, ¬(r.core = core ∧ r.slot = slot)) ∧ g.sup = false ∧
      g.dbg = .running ∧ g.step = false ∧ g.esc = none
    (flash → (∀ p ∈ g.pendFrm, g.safe.frameLive p.reg = false) → Leads (.groupSave core slot) s (fun t => t.mem = s.mem ∧
      GroupIs t core slot (fun g' => g'.saved = some false ∧ SameState g g') ∧
      ∀ x ∈ t.ops, x.2.core = core → x.2.slot = slot → x.2.dropped = true)) ∧
    (flash → (∃ p ∈ g.pendFrm, g.safe.frameLive p.reg = true) → Leads (.groupSave core slot) s (fun t =>
      GroupIs t core slot (fun g' => g'.saved = none ∧ SameState g g') ∧ t.ops = s.ops)) ∧
    (¬flash → Leads (.groupSave core slot) s (fun t => t.mem = s.mem ∧ GroupIs t core slot (fun g' => g'.saved = some true ∧ SameState g g') ∧
      t.ops = s.ops))

/-- A unit of one workgroup of one group, without records or operations in flight, leaves its core when everything it waits
for has come about: slot and workgroup slot are free, and the saved unit holds the group as it stood, the scratchpad and the
DTIME of the save. Where the first place after the record area has room for its save block, the block stands in the save area
beyond the record area, and no other byte of memory changes; the bytes to which the spec gives no layout are free (R233, R378,
R379; log 26). -/
def SaveCompletes (s : State) : Prop :=
  ∀ (n k j slot : Nat) (u : Unit_) (w : WGroup) (g : Group) (whole : Bool), mfind s.units n = some u → u.wgs = [k] → u.asked = true →
    s.unitStill u = true → mfind s.wgroups k = some w → w.groups = [(j, slot)] → s.group (k / 16) slot = some g →
    g.saved = some whole → g.esc = none → (∀ x ∈ s.l1, u.ownLine x = false) → s.farOut u.ownFar = false → Memory.wf (s.scratchOf (k / 16)) = true →
    (∀ x ∈ s.ops, x.2.core ≠ ghostOf s.nextId ∧ ¬(x.2.core = k / 16 ∧ x.2.slot = slot)) →
    (∀ r ∈ s.recs, r.core ≠ ghostOf s.nextId ∧ ¬(r.core = k / 16 ∧ r.slot = slot)) →
    let lo := s.slotAddr u.guest (s.slots u.guest)
    Leads (.saveComplete n) s (fun t => t.group (k / 16) slot = none ∧ mfind t.wgroups k = none ∧
      ∃ u' x v, mfind t.units n = some u' ∧ u'.wgs = [] ∧ u'.saved = [x] ∧ x.core = k / 16 ∧ x.wslot = k % 16 ∧ x.tsave = s.dtime ∧
        x.groups = [v] ∧ v.w1 = j ∧ v.whole = whole ∧ SameState g v.g ∧ v.g.pb = g.pb ∧ v.g.wid = g.wid ∧
        (x.block = none → t.mem = s.mem) ∧ (s.blockFits u.guest (lineUp lo) x.len = true → x.block.isSome = true) ∧
        (∀ a len l, x.block = some (a, len) → mfind s.launches w.launch = some l → len = x.len ∧ a % 128 = 0 ∧ lo ≤ a ∧
          a + len ≤ (s.ctx u.guest).saveBase.toNat + (s.ctx u.guest).saveSize.toNat ∧
          ∃ free, free.length = x.openLen ∧ t.mem = putImage s.mem a len (x.image l.hdr.half free)) ∧
        ∀ a < 1024 * w.sgran, rdByte x.scratch a = rdByte (s.scratchOf (k / 16)) (1024 * w.sbase + a))

/-- A reply for a saved operation's lane is written into the DATA of its record, and the lane's RSLV bit is set; no byte
outside the record's slot changes (R383). -/
def RepliesKept (s : State) : Prop :=
  ∀ (op : Nat) (o : Op) (x : OpLane), mfind s.ops op = some o → o.saved = true → x ∈ o.lanes → x.st = .replied →
    (o.lanes.map (fun y => y.req.lane)).Nodup → (∀ y ∈ o.lanes, y.req.lane < 32) → Memory.wf s.mem = true →
    Leads (.savedRecordReply op x.req.lane x.req.val) s (fun t =>
      mfind t.ops op = some (o.setLane x.req.lane .resolved) ∧ (o.area = none → t.mem = s.mem) ∧
      ∀ k, o.area = some k → k < s.slots o.guest →
        rdLE t.mem (s.slotAddr o.guest k + 320 + 16 * x.req.lane) 16 = x.req.val.toNat ∧
        laneOn (BitVec.ofNat 32 (rdLE t.mem (s.slotAddr o.guest k + 12) 4)) x.req.lane = true ∧
        ∀ a, (a < s.slotAddr o.guest k ∨ s.slotAddr o.guest k + 832 ≤ a) → rdByte t.mem a = rdByte s.mem a)

/-- A saved unit of one workgroup of one group, with nothing outstanding, stands on a core again: saved whole, the group
goes on exactly as it stood; saved by flashback, it has only its live registers, its counters are 0, and its one split
holds all live lanes at the maquette, or without one at the resume PC (R87, R88, R233, R384). -/
def Resumes (s : State) : Prop :=
  ∀ (n core ws slot base : Nat) (u : Unit_) (x : SavedWG) (v : SavedGroup), mfind s.units n = some u → u.wgs = [] → u.saved = [x] →
    x.groups = [v] → x.wg.groups = [] → x.arms = [] → x.chains = [] → x.eop = none → s.coresSuit u [core] = true → s.owed v.ghost = false →
    (∀ y ∈ s.ops, y.2.core ≠ v.ghost ∧ ¬(y.2.core = core ∧ y.2.slot = slot)) →
    (∀ r ∈ s.recs, r.core ≠ v.ghost ∧ ¬(r.core = core ∧ r.slot = slot)) → v.g.tabAddr = none →
    (s.ctx v.g.guest).trctl.getLsbD 31 = false → s.pickWslot core = some ws → ws < 16 → s.pickSlot core = some slot → slot < 64 →
    s.pickScratch core x.wg.sgran = some base → v.g.fgran ≤ s.freeGranules core → s.scoreHeld core ≤ 8 → s.portHeld core ≤ 4 →
    Memory.wf x.scratch = true → Memory.wf (s.scratchOf core) = true → (∀ c ∈ x.scratch, c.1 < 1024 * x.wg.sgran) →
    Leads (.resume n (clusterOf core) [core]) s (fun t => t.mem = s.mem ∧
      (∃ u', mfind t.units n = some u' ∧ u'.saved = [] ∧ u'.wgs = [wkey core ws]) ∧
      (∃ w, t.wgroup core ws = some w ∧ w.wid = x.wg.wid ∧ w.bars = x.wg.bars ∧ w.sbase = base ∧ w.seq = x.wg.seq ∧
        w.alias_ = if wkey core ws = wkey x.core x.wslot then none else some (BitVec.ofNat 14 (x.core * 16 + x.wslot), x.tsave)) ∧
      (∀ a < 1024 * x.wg.sgran, rdByte (t.scratchOf core) (1024 * base + a) = rdByte x.scratch a) ∧
      (v.whole = true → GroupIs t core slot (fun g => SameState v.g g ∧ g.pb = v.g.pb ∧ g.run = none)) ∧
      (∀ i, v.whole = false → v.g.safe.entry = some i → GroupIs t core slot (fun g =>
        (∀ k, mfind g.frame k = if v.g.safe.frameLive k then mfind v.g.frame k else none) ∧
        (∀ k, mfind g.uni k = if v.g.safe.uniLive k then mfind v.g.uni k else none) ∧
        (∀ k, mfind g.prd k = if v.g.safe.prdLive k then mfind v.g.prd k else none) ∧ g.win = [] ∧
        g.segw = v.g.safe.segw ∧ g.drctr = v.g.safe.drctr ∧ g.ld = 0 ∧ g.st = 0 ∧ g.cp = 0 ∧ g.tl = 0 ∧ g.live = v.g.live ∧
        g.pend = [] ∧ g.ovf = [] ∧ g.safe = v.g.safe ∧ g.runs = v.g.runs ∧
        let maq := fieldLE v.g.safe.bytes 56 8
        let pc := fieldLE v.g.safe.bytes 48 8
        (g.maq = if maq = 0 then none else some (BitVec.ofNat 64 pc)) ∧
        ∃ p, g.splits = [some p, none, none, none] ∧ p.pc = BitVec.ofNat 64 (if maq = 0 then pc else maq) ∧ p.mask = v.g.live ∧
          p.maq = decide (maq ≠ 0) ∧ p.depth = 0 ∧ p.res = 0)))

/-! ### Escalated groups in firmware's hands -/

/-- An escalated group without records or operations in flight, whose context writes no trace. -/
def Held (s : State) (core slot : Nat) (g : Group) (e : Escal) : Prop :=
  s.group core slot = some g ∧ g.esc = some e ∧
    (∀ r ∈ s.recs, ¬(r.core = core ∧ r.slot = slot) ∧ r.core ≠ ghostOf e.id) ∧ (∀ x ∈ s.ops, x.2.core ≠ ghostOf e.id) ∧
    g.tabAddr = none ∧ (s.ctx g.guest).trctl.getLsbD 31 = false

/-- ERRCNT of a context is one higher, up to 65,535 (R270, R285). -/
def ErrorCounted (s t : State) (guest : Nat) : Prop :=
  (t.ctx guest).errcnt = if (s.ctx guest).errcnt = 0xFFFF then 0xFFFF else (s.ctx guest).errcnt + 1

/-- Firmware resumes a group as saved, ends it with CTXERR set and ERRCNT raised, or refers it to host software with an entry
of kind 3 that names its save block; host software's answer does the same. A `trap` it resumes only where that is the
pool-empty request and the pool has been refilled; of another number it can only refer it. A referred group stays until host software
answers, and an order to resume it that had to wait is then carried out (R373, R374, R411, R412). -/
def Firmware (s : State) : Prop :=
  ∀ (gid core slot : Nat) (g : Group) (e : Escal), s.escGroup gid = some (core, slot, g, e) → Held s core slot g e →
    (e.entry = none → e.referred = false → (e.cause ≠ cTrap ∨ (e.info = 1 ∧ e.pool = true)) → Leads (.fwResume gid) s (fun t =>
      t.mem = s.mem ∧ GroupIs t core slot (fun g' => g'.esc = none ∧ SameState g g'))) ∧
    (((e.referred = true ∧ ∀ x ∈ (s.ctx g.guest).held, ¬(x.1 = 3 ∧ x.2.1 = e.addr)) ∨
        (e.referred = false ∧ e.cause = cTrap ∧ ¬(e.info = 1 ∧ e.pool = true))) → Leads (.fwResume gid) s (fun t =>
      t.mem = s.mem ∧ GroupIs t core slot (fun g' => g'.esc = some e ∧ SameState g g'))) ∧
    (∀ tag, e.referred = true → e.entry = none → (s.ctx g.guest).held = [(3, e.addr, tag)] → CqRoom s g.guest →
      s.referredAt g.guest e.addr = some (core, slot, g, e) → Leads (.fwResume gid) s (fun t => CqEntry s t g.guest 1 tag ∧
        (t.ctx g.guest).held = [] ∧ GroupIs t core slot (fun g' => g'.esc = none ∧ SameState g g'))) ∧
    (e.referred = false → (e.cause ≠ cTrap ∨ e.info = 1) → Leads (.fwEnd gid) s (fun t =>
      EndsWithError t core slot g.guest ∧ ErrorCounted s t g.guest)) ∧
    (e.referred = false → CqRoom s g.guest → Leads (.fwRefer gid) s (fun t => CqEntry s t g.guest 3 (s.tagOf g.launch) ∧
      rdLE t.mem (s.cmdField g.guest 20 8 + 32 * (s.cmdField g.guest 32 4 % s.cmdField g.guest 28 4) + 16) 8 = e.addr.toNat ∧
      GroupIs t core slot (fun g' => (∃ e', g'.esc = some e' ∧ e'.referred = true ∧ e'.addr = e.addr) ∧ SameState g g'))) ∧
    (∀ (base next end_ : Addr), s.mapping g.guest = false → Leads (.poolRefill g.guest base next end_) s (fun t => t.mem = s.mem ∧
      (t.ctx g.guest).poolbase = base ∧ (t.ctx g.guest).poolnext = next ∧ (t.ctx g.guest).poolend = end_ ∧
      GroupIs t core slot (fun g' => SameState g g' ∧
        g'.esc = some (if e.cause = cTrap ∧ e.info = 1 then { e with pool := true } else e)))) ∧
    (∀ (addr : Addr) (tag : DWord), (s.ctx g.guest).valid = true → s.referredAt g.guest addr = some (core, slot, g, e) →
      (e.entry = none → CqRoom s g.guest → Leads (.submitResume g.guest addr tag) s (fun t => CqEntry s t g.guest 1 tag ∧
        GroupIs t core slot (fun g' => g'.esc = none ∧ SameState g g'))) ∧
      Leads (.submitEnd g.guest addr tag) s (fun t => EndsWithError t core slot g.guest ∧ ErrorCounted s t g.guest))

/-- An order to resume a referred group that comes while its resumption has to wait for replies is kept: it is neither refused nor
lost (R384, R411, R412). -/
def OrdersWait (s : State) : Prop :=
  ∀ (guest core slot : Nat) (addr : Addr) (tag : DWord) (g : Group) (e : Escal), (s.ctx guest).valid = true →
    s.referredAt guest addr = some (core, slot, g, e) → s.mayResume core g e = false → Leads (.submitResume guest addr tag) s (fun t =>
      t.mem = s.mem ∧ (t.ctx guest).held = (s.ctx guest).held ++ [(3, addr, tag)] ∧ (s.group core slot = some g →
        GroupIs t core slot (fun g' => g'.esc = some e ∧ SameState g g')))

/-- Firmware that holds a group of a context changes the context's tables: the 8-byte entries it writes stand there, ASGEN is one
higher, and no other entry, group or register changes with it (R373, R245; log 79). -/
def TablesChanged (s : State) : Prop :=
  ∀ (guest core slot a : Nat) (v : DWord) (g : Group), s.group core slot = some g → g.guest = guest → g.esc.isSome = true →
    s.mapping guest = false → s.asgenWaits guest 1 = false → a % 8 = 0 → backed a = true → Memory.wf s.mem = true →
    let t := s.fwTables guest [(a, v)]
    rdLE t.mem a 8 = v.toNat ∧ (∀ x, x < a ∨ a + 8 ≤ x → rdByte t.mem x = rdByte s.mem x) ∧
      (t.ctx guest).asgen = (s.ctx guest).asgen + 1 ∧ t.groups = s.groups ∧ t.recs = s.recs ∧ (∀ x, x ≠ guest → t.ctx x = s.ctx x) ∧
      ∀ n more s0, s0.agenda = ⟨n, .fwTables guest [(a, v)]⟩ :: more → s = { s0 with agenda := more }.lapse n → step s0 = .next t.refresh

/-- A direction that names no referred group is refused (R411). -/
def Misdirected (s : State) : Prop :=
  ∀ (guest : Nat) (addr : Addr) (tag : DWord), (s.ctx guest).valid = true → s.referredAt guest addr = none → CqRoom s guest →
    ∀ i ∈ [Instr.submitResume guest addr tag, .submitEnd guest addr tag],
      Leads i s (fun t => t.launches = s.launches ∧ t.recs = s.recs ∧ CqEntry s t guest 2 tag)

/-- An atomic that faulted ATOMIC_PATH as the single instruction of its run, one lane of it on: it is performed at the home;
its old value and its witness stand in the window, the part has the depth and the PC it would have after the run, and the
group goes on. In another run the group ends, with CTXERR set and ERRCNT as it was (R270, R375). -/
def Emulates (s : State) : Prop :=
  ∀ (gid core slot n : Nat) (g : Group) (e : Escal) (x : Exc) (p : Part), s.escGroup gid = some (core, slot, g, e) →
    Held s core slot g e → e.cause = cAtomicPath → e.referred = false → e.entry = some (.slot n, x) → g.splits.length = 4 → n < 4 →
    g.splits.getD n none = some p →
    (∀ m, s.decodeRun core g.guest (s.nsafeOf g) p.pc = .ok m → m.onlyAtomic = none →
      Leads (.atomicEmulation gid) s (fun t => EndsWithError t core slot g.guest ∧ (t.ctx g.guest).errcnt = (s.ctx g.guest).errcnt)) ∧
    (∀ m q len r pa leaf, s.decodeRun core g.guest (s.nsafeOf g) p.pc = .ok m → m.onlyAtomic = some (q, len) →
      q.lanes ⟨core, slot, g, Run.fresh g n p m s.cc⟩ = [r] → s.translate g.guest r.va.toNat .write = .ok (pa, leaf) →
      isRemote pa = false → NoHeld s (pa / 128) → Unlogged s g.guest → Memory.wf s.mem = true → laneOn p.mask r.lane → r.lane < 32 →
      let size := 4 * wordsOf (match q.w with | .w32 => .i32 | .w64 => .i64)
      let old := rdLE s.mem pa size
      let w := mkWit (scopeCode q.x.scope) (s.domainOf core g.wslot q.x.scope) s.dtime
      let words := valueWords size old ++ if q.x.w then [loWord w, hiWord w] else []
      Leads (.atomicEmulation gid) s (fun t =>
        Written s.mem t.mem pa (leBytes size (atomicNew q.op size q.sgn old r.val.toNat r.cmp.toNat)) ∧
        GroupIs t core slot (fun g' => g'.esc = none ∧ (∃ p', g'.splits.getD n none = some p' ∧ p'.mask = p.mask ∧
            p'.depth = p.depth - q.pops + q.pushes ∧ p'.pc = BitVec.ofNat 64 ((p.pc.toNat + 12 + 2 * len + 3) / 4 * 4)) ∧
          ∀ k < words.length, laneAt (mget g'.win ((p.depth - q.pops + k) % 8) []) r.lane = words.getD k 0)))

/-! ### Machine checks -/

/-- An uncorrectable error takes effect on the owner of the storage: a clean line is filled again; a group, every group of a
workgroup, or a held line's workgroup ends with CTXERR set; the sequencers of a row half stop; a context's current launch
ends; a saved unit is discarded; where nothing ends, the guest that owns the storage is told with an entry of kind 6 (R376, R424; its
tag is log 86). -/
def MachineChecks (s : State) : Prop :=
  (∀ (x : L1Line) u gen g, x ∈ s.l1 → x.kind = .clean u gen g → Leads (.mcheck (.cleanLine x.core x.line)) s (fun t => t.mem = s.mem ∧
    { x with data := s.homeLine x.line } ∈ t.l1 ∧ t.ctxs = s.ctxs)) ∧
  (∀ core slot g, s.group core slot = some g → g.ended = false →
    Leads (.mcheck (.groupStore core slot)) s (fun t => EndsWithError t core slot g.guest)) ∧
  (∀ core ws w, s.wgroup core ws = some w → ws < 16 →
    (Leads (.mcheck (.scratch core ws)) s (fun t => ∀ j slot g, (j, slot) ∈ w.groups → s.group core slot = some g →
      g.ended = false → EndsWithError t core slot g.guest)) ∧
    ∀ x u gd, s.l1.find? (fun y => y.core == core && y.line == x.line && (match y.kind with | .held _ _ _ => true | _ => false)) = some x →
      x.kind = .held ws u gd → Leads (.mcheck (.heldLine core x.line)) s (fun t => x ∉ t.l1 ∧ ∀ j slot g, (j, slot) ∈ w.groups →
        s.group core slot = some g → g.ended = false → EndsWithError t core slot g.guest)) ∧
  (∀ (c : SeqCur), s.seqOf c.core c.wslot = some c → c.wslot < 16 → c.q.stopped = false →
    Leads (.mcheck (.accum (clusterOf c.core) (s.tenantOf c.core))) s (fun t =>
      SeqIs t c.core c.wslot (fun q => q.stopped = true) ∧ (t.ctx c.w.guest).ctxerr = true)) ∧
  (∀ guest n, (s.ctx guest).current = some n → Leads (.mcheck (.ctxMemory guest)) s (fun t => (t.ctx guest).ctxerr = true ∧
    ∀ core slot g l, t.group core slot = some g → mfind s.launches g.launch = some l → l.root = n → g.ended = true)) ∧
  (∀ n u x r, mfind s.units n = some u → u.saved = x :: r → Leads (.mcheck (.saveArea n)) s (fun t => mfind t.units n = none ∧
    (t.ctx u.guest).ctxerr = true ∧ ∀ l, mfind s.launches u.launch = some l → ∃ l', mfind t.launches u.launch = some l' ∧ l'.err = true)) ∧
  (∀ guest, CqRoom s guest →
    let tag : DWord := match (s.ctx guest).current with | some l => s.tagOf l | none => 0
    ((s.ctx guest).current = none → Leads (.mcheck (.ctxMemory guest)) s (fun t => CqEntry s t guest 6 0)) ∧
    (∀ core ws w, s.wgroup core ws = some w → ws < 16 → w.guest = guest → s.groupsOver core w = true →
      Leads (.mcheck (.scratch core ws)) s (fun t => t.launches = s.launches ∧ CqEntry s t guest 6 tag)) ∧
    ∀ cluster half, (s.cluster cluster).user.getD half none = some guest →
      (∀ x ∈ s.wgroups, clusterOf (x.1 / 16) = cluster → ∀ q, x.2.seq = some q → q.stopped = true) →
      Leads (.mcheck (.accum cluster half)) s (fun t => t.launches = s.launches ∧ CqEntry s t guest 6 tag))

/-! ### The save area's layout -/

/-- The image of a record holds its fields where R367 lays them out, the reserved bytes are 0, and no byte outside its 832
changes. -/
def RecordLayout : Prop :=
  ∀ (m : Memory) (a hw : Nat) (r : Rec), Memory.wf m = true → hw < 2 ^ 16 →
    let m' := putImage m a 832 (r.image hw)
    rdLE m' a 8 = r.pc.toNat ∧ rdLE m' (a + 8) 4 = r.unf.toNat ∧ rdLE m' (a + 12) 4 = r.rslv.toNat ∧
    rdLE m' (a + 16) 1 = r.cause.toNat ∧ rdByte m' (a + 17) = r.kind ∧ rdByte m' (a + 18) = r.size ∧ rdByte m' (a + 19) = 0 ∧
    rdLE m' (a + 20) 4 = r.dest.toNat ∧ rdLE m' (a + 24) 8 = r.owner.toNat ∧ rdLE m' (a + 32) 2 = r.gen.toNat ∧
    rdLE m' (a + 34) 2 = r.seqno.toNat ∧ rdLE m' (a + 36) 2 = hw ∧ (∀ i, 38 ≤ i → i < 64 → rdByte m' (a + i) = 0) ∧
    (∀ l < 32, rdLE m' (a + 64 + 8 * l) 8 = if laneOn r.unf l then (mget r.addr l 0).toNat else 0) ∧
    (∀ l < 32, rdLE m' (a + 320 + 16 * l) 16 =
      if laneOn (if r.store then r.unf else r.rslv) l then (mget r.data l 0).toNat else 0) ∧
    ∀ x, (x < a ∨ a + 832 ≤ x) → rdByte m' x = rdByte m x

/-- The image of a group holds its fields where R380 and R381 lay them out: the header's for both kinds of block, those of a
whole block alone, and the frame registers; no byte outside the block changes. -/
def GroupLayout : Prop :=
  ∀ (m : Memory) (a : Nat) (g : Group) (whole : Bool), Memory.wf m = true → g.fgran < 2 ^ 8 → g.runs < 2 ^ 16 →
    (∀ e, g.safe.entry = some e → e < 2 ^ 16) →
    let m' := putImage m a (g.blockLen whole) (g.image whole)
    rdByte m' a = (if whole then 2 else 1) ∧
    rdLE m' (a + 1) 1 = g.sup.toNat + 2 * g.step.toNat + 4 * g.nofb.toNat ∧ rdLE m' (a + 2) 1 = g.fgran ∧
    rdLE m' (a + 3) 1 = (if whole then g.segw else g.safe.segw).toNat ∧ rdLE m' (a + 4) 4 = g.live.toNat ∧
    rdLE m' (a + 8) 8 = g.wid.toNat ∧ rdLE m' (a + 16) 8 = g.pb.toNat ∧ rdLE m' (a + 24) 8 = (g.tabAddr.getD 0).toNat ∧
    rdLE m' (a + 32) 8 = (if whole then g.dkey else g.safe.dkey).toNat ∧
    rdLE m' (a + 40) 8 = (if whole then g.drctr else g.safe.drctr).toNat ∧
    rdLE m' (a + 48) 4 = (if whole then g.dcoin else g.safe.dcoin).toNat ∧ rdLE m' (a + 52) 4 = g.aflags.toNat ∧
    rdLE m' (a + 56) 2 = g.safe.entry.getD 0xFFFF ∧ rdLE m' (a + 58) 2 = g.runs ∧
    (whole = false → ∀ i, 60 ≤ i → i < 512 → rdByte m' (a + i) = 0) ∧
    (whole = true → rdLE m' (a + 64) 1 = g.ld.toNat ∧ rdLE m' (a + 65) 1 = g.st.toNat ∧ rdLE m' (a + 66) 1 = g.cp.toNat ∧
      rdLE m' (a + 67) 1 = g.tl.toNat ∧ rdLE m' (a + 68) 4 = g.xcause.toNat ∧ rdLE m' (a + 72) 4 = g.xmask.toNat ∧
      rdLE m' (a + 80) 8 = g.xpc.toNat ∧
      (∀ k < 4, rdLE m' (a + 96 + 16 * k) 4 = match g.splits.getD k none with | some p => p.mask.toNat | none => 0) ∧
      (∀ k p, k < 4 → g.splits.getD k none = some p → rdLE m' (a + 88 + 16 * k) 8 = p.pc.toNat) ∧
      (∀ k p, k < 8 → g.pend[k]? = some p → rdLE m' (a + 152 + 16 * k) 8 = p.pc.toNat ∧
        rdLE m' (a + 160 + 16 * k) 4 = p.mask.toNat) ∧
      ((g.frame.map (·.1)).Nodup → ∀ k < 8 * g.fgran, ∀ l < 32,
        rdLE m' (a + 512 + 128 * k + 4 * l) 4 = (laneAt (mget g.frame k []) l).toNat)) ∧
    ∀ x, (x < a ∨ a + g.blockLen whole ≤ x) → rdByte m' x = rdByte m x

end Sys2Proof.Claims

/-- Pre-emption: requests, the two kinds of save, what a saved unit holds, replies to it, and its return. Model's readings, not
rules: the slots that a return takes (log 12), the corners of a save (log 43), that a return by flashback keeps RUNS (log 46), the
bytes of a save block to which the spec gives no layout (log 26), and where a write-back goes to another package (log 77). -/
def Obligations.PreemptionAndResumption : Prop :=
  ∀ s, Sys2Proof.Claims.Requests s ∧ Sys2Proof.Claims.Saves s ∧ Sys2Proof.Claims.SaveCompletes s ∧
    Sys2Proof.Claims.RepliesKept s ∧ Sys2Proof.Claims.Resumes s

/-- What stands in the context save area: the bytes of a record and of a group save block (R367, R380, R381). -/
def Obligations.SaveAreaLayout : Prop := Sys2Proof.Claims.RecordLayout ∧ Sys2Proof.Claims.GroupLayout

/-- What firmware does with an escalated group, and what an uncorrectable error ends. Model's readings, not rules: completion
entries of kind 1 for a direction carried out and 2 for a misdirected one (log 42), their untranslated physical addresses (log 9), the
escalated group that stays in its slot (log 13), how firmware writes tables (log 79), and the tag of the entry of kind 6 where nothing
ends (log 86). The ADDR field of an FW_END entry, which is log 45, no clause states. -/
def Obligations.FirmwareAndMachineChecks : Prop :=
  ∀ s, Sys2Proof.Claims.Firmware s ∧ Sys2Proof.Claims.OrdersWait s ∧ Sys2Proof.Claims.TablesChanged s ∧ Sys2Proof.Claims.Misdirected s ∧
    Sys2Proof.Claims.Emulates s ∧ Sys2Proof.Claims.MachineChecks s

namespace Sys2Proof.Claims

open Sys2Proof.Machine

/-! ### Samples and the trace's clock -/

/-- The group is the only live one of its context on its core. -/
def Alone (s : State) (core slot : Nat) (g : Group) : Prop :=
  ∀ n x, n < 48 → s.group core n = some x → x.guest = g.guest → x.ended = false → n = slot

/-- An interval register is active in this cc: EN, an exponent of 6 to 20, and DTIME a multiple of its power of two (R386). -/
def Ticks (s : State) (ctl : Word) : Prop :=
  ctl.getLsbD 31 = true ∧ 6 ≤ ctl.toNat % 32 ∧ ctl.toNat % 32 ≤ 20 ∧ s.dtime.toNat % 2 ^ (ctl.toNat % 32) = 0

/-- At a tick of SMPCTL a scheduler writes 16 bytes on its group to the core's sample ring and then advances WR: the PC of
the observed part, the slot and whether a run is in progress; the core and the reason; the profile mark; DTIME. Where the
ring has no room, LOST rises by one and nothing is written. REASON is 0 for a run that executes, 6 for a group that stands
stopped between two runs, 9 for one that has yielded (R387 to R390). -/
def Samples (s : State) : Prop :=
  ∀ (core slot : Nat) (g : Group) (n : Option Nat) (p : Part) (r : Ring), core < 1024 → slot < 48 → s.group core slot = some g →
    g.ended = false → g.esc = none → Alone s core slot g → (s.ctxs.map (·.1)).Nodup → Ticks s (s.ctx g.guest).smpctl →
    (∀ y ∈ s.ctxs, y.1 ≠ g.guest → y.2.smpctl.getLsbD 31 = false) → g.observed = some (n, p) → Memory.wf s.mem = true →
    s.ringAt g.guest ((s.ctx g.guest).dbgbase.toNat + 32 * core) = some r → r.desc.Nodup →
    (∀ as, 16 ≤ r.free → s.ringRoom g.guest r 16 = some as → as.Nodup → (∀ a ∈ as, a ∉ r.desc) →
      Leads (.sampleTick core) s (fun t =>
        let b := rdAt t.mem as
        leNat (b.take 8) = p.pc.toNat % 2 ^ 57 + slot * 2 ^ 57 + (if g.run.isSome then 2 ^ 63 else 0) ∧
        leNat ((b.drop 8).take 2) % 2 ^ 10 = core ∧
        leNat ((b.drop 10).take 2) = g.pmark.toNat ∧ leNat ((b.drop 12).take 4) = s.dtime.toNat % 2 ^ 32 ∧
        (let reason := leNat ((b.drop 8).take 2) / 2 ^ 10 % 2 ^ 5
         (∀ x, g.run = some x → x.holding = false → (holdsTimed (opOf x.lastOp) = false ∨ x.ready ≤ s.cc + 1) → (∀ c, g.dbg ≠ .stopped c) →
           reason = 0) ∧
         (∀ c, g.run = none → g.dbg = .stopped c → reason = 6) ∧
         (∀ u, g.run = none → g.dbg = .running → g.inE = none → g.yieldAt = some u → reason = 9)) ∧
        leNat (rdAt t.mem ((r.desc.drop 12).take 4)) = (r.wr + 16) % 2 ^ 32)) ∧
    (r.free < 16 → Leads (.sampleTick core) s (fun t =>
      leNat (rdAt t.mem ((r.desc.drop 20).take 4)) = (r.lost + 1) % 2 ^ 32 ∧
      ∀ a, a ∉ (r.desc.drop 20).take 4 → rdByte t.mem a = rdByte s.mem a))

/-- A tick of TRCTL, and a write that turns the trace on, set the SYNC flag of every group of the context and of no other;
the write stores the register's defined bits, and the rings have no previous packet (R386, R393, R396). -/
def TraceClock (s : State) : Prop :=
  ∀ (guest : Nat),
    (Ticks s (s.ctx guest).trctl → Leads (.traceSyncTick guest) s (fun t => t.mem = s.mem ∧ ∀ core slot g, s.group core slot = some g →
      GroupIs t core slot (fun g' => SameState g g' ∧ g'.sync = (g.sync || decide (g.guest = guest))))) ∧
    (¬Ticks s (s.ctx guest).trctl → Leads (.traceSyncTick guest) s (fun t => t.mem = s.mem ∧ ∀ core slot g, s.group core slot = some g →
      GroupIs t core slot (fun g' => SameState g g' ∧ g'.sync = g.sync))) ∧
    ∀ v : Word,
      let on := !(s.ctx guest).trctl.getLsbD 31 && v.getLsbD 31
      Leads (.trctlWrite guest v) s (fun t => t.mem = s.mem ∧ (t.ctx guest).trctl = v &&& 0x8000001F ∧
        (∀ core slot g, s.group core slot = some g → GroupIs t core slot (fun g' => SameState g g' ∧
          g'.sync = (g.sync || (on && decide (g.guest = guest))))) ∧
        (on = true → ∀ core, core < 1024 → mfind t.lastTrace (traceKey guest core) = none))

/-! ### Commands -/

/-- DBGSEL names a live group of its context. -/
def Selected (s : State) (guest core slot : Nat) (g : Group) : Prop :=
  core < 1024 ∧ slot < 64 ∧ (s.ctx guest).dbgsel = BitVec.ofNat 32 (64 * core + slot) ∧ s.group core slot = some g ∧
    g.guest = guest ∧ g.ended = false

/-- Commands 1 to 4 act on the selected group: a running one is asked to stop, and one that stands stopped inside a run will
be once it goes on; it goes on; step mode changes, at once between two runs and else at the next run boundary. Where DBGSEL names no group of the context they do nothing (R386, R401, R402). -/
def SelectedCommands (s : State) : Prop :=
  ∀ (guest core slot : Nat) (g : Group),
    (Selected s guest core slot g →
      Leads (.dbgcmdStop guest) s (fun t => t.mem = s.mem ∧ GroupIs t core slot (fun g' => SameState g g' ∧
        (g'.dbg = if g.dbg = .running then .requested else g.dbg) ∧
        (∀ c, g.dbg = .stopped c → g.run.isSome = true → g'.stopAsk = true))) ∧
      Leads (.dbgcmdResume guest) s (fun t => t.mem = s.mem ∧ GroupIs t core slot (fun g' => SameState g g' ∧
        (g'.dbg = if g.stopAsk then .requested else .running) ∧ g'.stopAsk = false)) ∧
      (g.run = none →
        Leads (.dbgcmdStepOn guest) s (fun t => t.mem = s.mem ∧ GroupIs t core slot (fun g' => SameState g g' ∧ g'.step = true)) ∧
        Leads (.dbgcmdStepOff guest) s (fun t => t.mem = s.mem ∧ GroupIs t core slot (fun g' => SameState g g' ∧ g'.step = false))) ∧
      (g.run.isSome = true →
        Leads (.dbgcmdStepOn guest) s (fun t => t.mem = s.mem ∧ GroupIs t core slot (fun g' => SameState g g' ∧
          g'.step = g.step ∧ g'.stepAsk = some true)) ∧
        Leads (.dbgcmdStepOff guest) s (fun t => t.mem = s.mem ∧ GroupIs t core slot (fun g' => SameState g g' ∧
          g'.step = g.step ∧ g'.stepAsk = some false)))) ∧
    ((s.ctx guest).dbgsel.toNat < 2 ^ 16 → (∀ c n x, ¬Selected s guest c n x) → s.group core slot = some g →
      ∀ i ∈ [Instr.dbgcmdStop guest, .dbgcmdResume guest, .dbgcmdStepOn guest, .dbgcmdStepOff guest], Leads i s (fun t =>
        t.mem = s.mem ∧ GroupIs t core slot (fun g' => SameState g g' ∧ (g'.dbg, g'.step, g'.stepAsk, g'.stopAsk) = (g.dbg, g.step, g.stepAsk, g.stopAsk))))

/-- Commands 5 and 6 act on every group of the context, and on no other (R402). -/
def ContextCommands (s : State) : Prop :=
  ∀ (guest core slot : Nat) (g : Group), s.group core slot = some g →
    Leads (.dbgcmdStopAll guest) s (fun t => t.mem = s.mem ∧ GroupIs t core slot (fun g' => SameState g g' ∧
      (g'.dbg = if g.guest = guest ∧ g.dbg = .running then .requested else g.dbg) ∧
      (∀ c, g.guest = guest → g.dbg = .stopped c → g.run.isSome = true → g'.stopAsk = true))) ∧
    Leads (.dbgcmdResumeAll guest) s (fun t => t.mem = s.mem ∧ GroupIs t core slot (fun g' => SameState g g' ∧
      g'.dbg = if g.guest = guest then (if g.stopAsk then .requested else .running) else g.dbg))

/-! ### The window -/

/-- Words of the window that a debugger may write: the run's temporaries while the group stands inside a run, the stack
window, uniform registers, predicates, and frame registers of the allotment (R403). -/
def Writable (g : Group) (off : Nat) : Prop :=
  (0x400 ≤ off ∧ off < 0x600 ∧ g.run.isSome = true) ∨ (0x800 ≤ off ∧ off < 0xC00) ∨ (0x1000 ≤ off ∧ off < 0x1140) ∨
    (0x2000 ≤ off ∧ (off - 0x2000) / 128 < 8 * g.fgran)

/-- A word written to a writable place of the window of a stopped group reads back, as the run in progress sees it where
there is one, and every other word of the window reads as before; a write elsewhere changes nothing; of a group that is
not stopped the window reads 0 and ignores writes (R141, R403). -/
def Window (s : State) : Prop :=
  ∀ (guest core slot off : Nat) (g : Group) (v : Word), Selected s guest core slot g → g.splits.length = 4 → off % 4 = 0 →
    (∀ c, g.dbg = .stopped c → (∀ r, g.run = some r → r.image.dmin ≤ r.depth0) →
      (Writable g off → Leads (.debugWindowWrite guest off v) s (fun t => t.mem = s.mem ∧ t.windowRead guest off = v ∧
        ∀ o, o % 4 = 0 → o ≠ off → t.windowRead guest o = s.windowRead guest o)) ∧
      (¬Writable g off → Leads (.debugWindowWrite guest off v) s (fun t => t.mem = s.mem ∧
        GroupIs t core slot (fun g' => SameState g g' ∧ g'.run = g.run)))) ∧
    ((∀ c, g.dbg ≠ .stopped c) → Leads (.debugWindowWrite guest off v) s (fun t => t.mem = s.mem ∧
      t.windowRead guest off = 0 ∧ GroupIs t core slot (fun g' => SameState g g' ∧ g'.run = g.run)))

end Sys2Proof.Claims

/-- The debugger: sampling, the trace's clock, commands 1 to 6, and the window. Model's readings, not rules: a resume that cancels a
request to stop, and commands that take effect whatever the mode (log 44); the write-back of window words inside a run (log 49). -/
def Obligations.Debugger : Prop :=
  ∀ s, Sys2Proof.Claims.Samples s ∧ Sys2Proof.Claims.TraceClock s ∧ Sys2Proof.Claims.SelectedCommands s ∧
    Sys2Proof.Claims.ContextCommands s ∧ Sys2Proof.Claims.Window s

namespace Sys2Proof.Claims

open Sys2Proof.Machine

/-! ### Registers and semaphores -/

/-- The status fields that follow from the units at hand (R407): the number of unfenced clusters, and DEGRADED. -/
def Counted (t : State) : Prop :=
  t.dev.clusters.toNat = ((List.range 144).filter (fun k => !(t.cluster k).fenced)).length ∧
    t.dev.degraded = (t.clusters.any (fun x => x.2.fenced) || !t.dev.laneFail.isEmpty || !t.dev.spared.isEmpty || t.dev.timeBad)

/-- An entry of the health log for a unit (R409). -/
def Logged (s t : State) (kind unit : Nat) : Prop :=
  ∃ e, t.dev.health = s.dev.health ++ [e] ∧ e.length = 32 ∧ fieldLE e 0 6 = s.dtime.toNat ∧ fieldLE e 6 1 = kind ∧ fieldLE e 7 2 = unit

/-- The device has come up with an image: where the image verifies it runs and READY is set, and after a power-on local memory
is zeroed first; else FWERR is set and READY is not (R429, R432). -/
def Boots (s t : State) (image : List Byte) : Prop :=
  if imageVerifies image = true then
    t.dev.running = some image ∧ t.dev.ready = true ∧ t.dev.fwerr = false ∧ t.dev.lpddr = BitVec.ofNat 8 Config.fitted.val ∧
      Counted t ∧ ∀ a, rdByte t.mem a = if s.dev.cold = true ∧ a < 2 ^ 51 then 0 else rdByte s.mem a
  else t.dev.fwerr = true ∧ t.dev.ready = s.dev.ready ∧ t.dev.running = s.dev.running ∧ t.mem = s.mem

/-- A port that is not trained reads as absent, and nothing of its agent has an effect; firmware (3) is always there (R406). -/
def Absent (s : State) (agent : Nat) : Prop :=
  (agent = 1 ∧ s.dev.ucieA = false) ∨ (agent = 2 ∧ s.dev.ucieB = false)

/-- An agent that is there. -/
def Agent (s : State) (agent : Nat) : Prop := (agent = 1 ∨ agent = 2 ∨ agent = 3) ∧ ¬Absent s agent

/-- Memory that an address in the form of R409 names can be reached: the device's, or the host's through a trained port. -/
def Reaches (s : State) (a : DWord) : Prop :=
  a.getLsbD 63 = true ∨ Agent s s.dev.admPort.toNat

/-- Writes to the device control page (R406, R407, R432). PKGID takes its 13 bits unless LINKUP is set. Once READY is set,
ADMCMD, GUESTTAB, FWADDR and FWLEN take what is written, ADMCMD and FWADDR with the port of the write; before, FWADDR and FWLEN are
taken, and once both have been written, in either order, the image they name boots; the other writes are ignored. From a port that is
not trained nothing is written, and a read finds no device. -/
def ControlPage (s : State) : Prop :=
  ∀ (agent off : Nat) (v : DWord), off < 0x1000000 →
    (Absent s agent → s.registerRead agent off = none ∧
      Leads (.registerWrite (Sys2Proof.Machine.spaceAt agent off) v) s (fun t => t.mem = s.mem ∧ t.ctxs = s.ctxs ∧ t.dev = s.dev)) ∧
    (Agent s agent →
      let port := BitVec.ofNat 2 agent
      Leads (.registerWrite (Sys2Proof.Machine.spaceAt agent 8) v) s (fun t => t.mem = s.mem ∧ t.ctxs = s.ctxs ∧
        t.dev = { s.dev with pkgid := if s.dev.linkup then s.dev.pkgid else v.setWidth 13 }) ∧
      (s.dev.ready = true →
        Leads (.registerWrite (Sys2Proof.Machine.spaceAt agent 0x10) v) s (fun t => t.mem = s.mem ∧ t.dev = { s.dev with admcmd := v, admPort := port } ∧
          t.registerRead agent 0x10 = some v) ∧
        Leads (.registerWrite (Sys2Proof.Machine.spaceAt agent 0x200) v) s (fun t => t.mem = s.mem ∧ t.dev = { s.dev with guesttab := v } ∧
          t.registerRead agent 0x200 = some v) ∧
        Leads (.registerWrite (Sys2Proof.Machine.spaceAt agent 0x300) v) s (fun t => t.mem = s.mem ∧ t.dev = { s.dev with fwaddr := v, fwPort := port } ∧
          t.registerRead agent 0x300 = some v) ∧
        Leads (.registerWrite (Sys2Proof.Machine.spaceAt agent 0x308) v) s (fun t => t.mem = s.mem ∧ t.dev = { s.dev with fwlen := v.setWidth 32 }) ∧
        (v.getLsbD 2 = true → s.worn = false → Leads (.registerWrite (Sys2Proof.Machine.spaceAt agent 0) v) s (fun t =>
          t.mem = s.mem ∧ t.dev.replaceReq = false))) ∧
      (s.dev.ready = false →
        (∀ o ∈ [0, 0x10, 0x200], Leads (.registerWrite (Sys2Proof.Machine.spaceAt agent o) v) s (fun t => t.mem = s.mem ∧ t.dev = s.dev)) ∧
        (s.dev.fwlenSet = false → Leads (.registerWrite (Sys2Proof.Machine.spaceAt agent 0x300) v) s (fun t => t.mem = s.mem ∧
          t.dev = { s.dev with fwaddr := v, fwPort := port, fwaddrSet := true })) ∧
        (s.dev.fwaddrSet = false → Leads (.registerWrite (Sys2Proof.Machine.spaceAt agent 0x308) v) s (fun t => t.mem = s.mem ∧
          t.dev = { s.dev with fwlen := v.setWidth 32, fwlenSet := true })) ∧
        (s.dev.fwlenSet = true → Memory.wf s.mem = true → Leads (.registerWrite (Sys2Proof.Machine.spaceAt agent 0x300) v) s (fun t =>
          Boots s t (s.hostBytes port v s.dev.fwlen.toNat))) ∧
        (s.dev.fwaddrSet = true → (s.dev.fwaddr.getLsbD 63 = true ∨ Agent s s.dev.fwPort.toNat) →
          Memory.wf s.mem = true → Leads (.registerWrite (Sys2Proof.Machine.spaceAt agent 0x308) v) s (fun t =>
            Boots s t (s.hostBytes s.dev.fwPort s.dev.fwaddr (v.setWidth 32).toNat)))))

/-- Writes to a guest's register page, and to places that no table lists, which are ignored (R386, R406, R412; the offsets
within R386's registers are log 16). -/
def GuestPage (s : State) : Prop :=
  ∀ (agent guest off : Nat) (v : DWord), guest < 64 → Agent s agent →
    let page := 0x100000 + guest * 0x20000
    let stored (t : State) (x : Ctx) : Prop := t.mem = s.mem ∧ t.dev = s.dev ∧ t.ctx guest = x ∧ ∀ h, h ≠ guest → t.ctx h = s.ctx h
    Leads (.registerWrite (Sys2Proof.Machine.spaceAt agent (page + 0x20)) v) s (fun t => stored t { s.ctx guest with smpctl := v.setWidth 32 &&& 0x8000001F } ∧
      t.registerRead agent (page + 0x20) = some ((v.setWidth 32 &&& 0x8000001F : Word).setWidth 64)) ∧
    Leads (.registerWrite (Sys2Proof.Machine.spaceAt agent (page + 0x28)) v) s (fun t => stored t { s.ctx guest with dbgbase := v } ∧
      t.registerRead agent (page + 0x28) = some v) ∧
    Leads (.registerWrite (Sys2Proof.Machine.spaceAt agent (page + 0x30)) v) s (fun t => stored t { s.ctx guest with dbgsel := v.setWidth 32 &&& 0xFFFF } ∧
      t.registerRead agent (page + 0x30) = some ((v.setWidth 32 &&& 0xFFFF : Word).setWidth 64)) ∧
    Leads (.registerWrite (Sys2Proof.Machine.spaceAt agent (page + 0x40)) v) s (fun t => t.mem = s.mem ∧ t.dev = s.dev ∧
      (t.ctx guest).quota = (List.range 4).map (fun k =>
        (v.toNat / 256 ^ k % 256, ((s.ctx guest).quota.getD k (0, 0)).2))) ∧
    (0x10000 ≤ off → (off < 0x100000 ∨ 0x900000 ≤ off) → off < 0x1000000 → Leads (.registerWrite (Sys2Proof.Machine.spaceAt agent off) v) s (fun t =>
      t.mem = s.mem ∧ t.dev = s.dev ∧ t.ctxs = s.ctxs))

/-- Semaphores (R408): an acquire of a free one makes its agent the owner; of an owned one, nothing; a release by the owner
frees it, by another, nothing; a port that is not trained takes and frees none. Of two ports at once the one that lost the
last tie wins, port A the first time. Between firmware and a port the winner is free (log 2). -/
def Semaphores (s : State) : Prop :=
  ∀ (n : Nat) (a b fw : Bool), n < 8 → s.dev.sema.length = 8 → s.dev.semaLast.length = 8 →
    let owner (t : State) : BitVec 2 := t.dev.sema.getD n 0
    let others (t : State) : Prop := t.mem = s.mem ∧ ∀ k, k ≠ n → t.dev.sema.getD k 0 = s.dev.sema.getD k 0
    (owner s ≠ 0 → Leads (.semaAcquire n a b fw) s (fun t => t.dev = s.dev)) ∧
    (owner s = 0 →
      Leads (.semaAcquire n true false false) s (fun t => others t ∧ owner t = if s.dev.ucieA then 1 else 0) ∧
      Leads (.semaAcquire n false true false) s (fun t => others t ∧ owner t = if s.dev.ucieB then 2 else 0) ∧
      Leads (.semaAcquire n false false true) s (fun t => others t ∧ owner t = 3) ∧
      (s.dev.ucieA = true → s.dev.ucieB = true → Leads (.semaAcquire n true true false) s (fun t => others t ∧
        (s.dev.semaLast.getD n 0 = 2 → owner t = 2 ∧ t.dev.semaLast.getD n 0 = 1) ∧
        (s.dev.semaLast.getD n 0 ≠ 2 → owner t = 1 ∧ t.dev.semaLast.getD n 0 = 2))) ∧
      Leads (.semaAcquire n true false true) s (fun t => others t ∧ (owner t = 1 ∨ owner t = 3))) ∧
    ∀ agent, agent ≠ 0 →
      (Agent s agent → Leads (.semaRelease n agent) s (fun t => others t ∧
        owner t = if (owner s).toNat = agent then 0 else owner s)) ∧
      (Absent s agent → Leads (.semaRelease n agent) s (fun t => t.dev = s.dev))

/-! ### Administrative commands -/

/-- The administrative commands, given by an agent. -/
def IsCommand (agent : Nat) (i : Instr) : Prop :=
  i ∈ [Instr.setPartition agent, .assignTenant agent, .setQuota agent, .fenceCluster agent, .restoreCluster agent,
    .firmwareUpdate agent, .attest agent, .deviceReset agent, .guestReset agent, .readHealthLog agent, .writeRouteTable agent,
    .linkEnable agent]

/-- A command of a code is given by the owner of SEMA0, and no other is under way; its block `b` is in order (R408, R409). -/
def Given (s : State) (agent code : Nat) (b : List Byte) : Prop :=
  s.dev.ready = true ∧ s.dev.admBusy = false ∧ Agent s agent ∧ (s.dev.sema.getD 0 0).toNat = agent ∧ Reaches s s.dev.admcmd ∧
    s.hostBytes s.dev.admPort s.dev.admcmd 256 = b ∧ blockOk b = true ∧ fieldLE b 0 8 = code

/-- A command has ended with a status. -/
def Ends (t : State) (status : BitVec 8) : Prop := t.dev.admBusy = false ∧ t.dev.admStatus = status

/-- Nothing stands on a cluster, and nobody is owed a shrink. -/
def Vacant (s : State) (n : Nat) : Prop := s.dev.deferred = [] ∧ ∀ u ∈ s.units, ∀ k ∈ u.2.wgs, clusterOf (k / 16) ≠ n

/-- Before READY, or from a port that is not trained, ADMBELL is ignored. Of an agent that does not own SEMA0 a command ends with
status 2, also while another is under way, and one whose block is not in order or cannot be read with status 1; neither has an
effect. While a command is under way the owner's bell adds nothing (R406, R408, R409, R432). -/
def CommandGate (s : State) : Prop :=
  ∀ (agent : Nat), ∀ i, IsCommand agent i →
    ((s.dev.ready = false ∧ Agent s agent) ∨ Absent s agent → Leads i s (fun t => t.mem = s.mem ∧ t.ctxs = s.ctxs ∧ t.dev = s.dev)) ∧
    (s.dev.ready = true → Agent s agent → (s.dev.sema.getD 0 0).toNat ≠ agent →
      Leads i s (fun t => t.mem = s.mem ∧ t.ctxs = s.ctxs ∧ t.dev = { s.dev with admStatus := 2 })) ∧
    (s.dev.ready = true → Agent s agent → (s.dev.sema.getD 0 0).toNat = agent →
      (s.dev.admBusy = true → Leads i s (fun t => t.mem = s.mem ∧ t.ctxs = s.ctxs ∧ t.dev = s.dev)) ∧
      (s.dev.admBusy = false → (¬Reaches s s.dev.admcmd ∨ blockOk (s.hostBytes s.dev.admPort s.dev.admcmd 256) = false) →
        Leads i s (fun t => t.mem = s.mem ∧ t.ctxs = s.ctxs ∧ t.dev = { s.dev with admStatus := 1 })))

/-- A partition takes the clusters and ranges of its block, where none of them is another's or absent, no memory that a
context maps is removed, and the clusters it gives up are vacant; with a foreign unit, or an index beyond 63, it is refused
(R409, R416). -/
def SetsPartition (s : State) : Prop :=
  ∀ (agent : Nat) (b : List Byte), Given s agent 1 b →
    let i := fieldLE b 8 1
    let new : Partition := ⟨BitVec.ofNat 144 (fieldLE b 16 18), BitVec.ofNat 1280 (fieldLE b 40 160)⟩
    let old := mget s.dev.parts i ⟨0, 0⟩
    (i < 64 → (∀ x ∈ s.dev.parts, x.1 ≠ i → x.2.clusters &&& new.clusters = 0 ∧ x.2.memory &&& new.memory = 0) →
      (∀ r < 1280, new.memory.getLsbD r = true → rangeAbsent r = false) →
      ((∀ r, old.memory.getLsbD r = true → new.memory.getLsbD r = true) ∨ ∀ x ∈ s.ctxs, x.2.valid = true → x.2.partition ≠ i) →
      (∀ n < 144, old.clusters.getLsbD n = true → new.clusters.getLsbD n = false → Vacant s n) → s.dev.deferred = [] →
      Leads (.setPartition agent) s (fun t => t.mem = s.mem ∧ Ends t 0 ∧ mfind t.dev.parts i = some new ∧
        ∀ k, k ≠ i → mfind t.dev.parts k = mfind s.dev.parts k)) ∧
    ((64 ≤ i ∨ ∃ x ∈ s.dev.parts, x.1 ≠ i ∧ (x.2.clusters &&& new.clusters ≠ 0 ∨ x.2.memory &&& new.memory ≠ 0)) →
      Leads (.setPartition agent) s (fun t => t.mem = s.mem ∧ Ends t 1 ∧ t.dev.parts = s.dev.parts))

/-- A vacant cluster takes its tenants and its counters are cleared; a row half that passes to another tenant has no user, so
that its storage starts afresh; an operand out of range is refused (R322, R409, R417). -/
def AssignsTenant (s : State) : Prop :=
  ∀ (agent : Nat) (b : List Byte), Given s agent 2 b →
    let n := fieldLE b 8 1
    let id (k : Nat) : Option Nat := if fieldLE b k 1 = 0xFF then none else some (fieldLE b k 1)
    let fits (k : Nat) : Prop := fieldLE b k 1 < 64 ∨ fieldLE b k 1 = 0xFF
    (n < 144 → fieldLE b 9 1 ≤ 1 → fits 10 → (fieldLE b 9 1 = 1 → fits 11) → Vacant s n →
      Leads (.assignTenant agent) s (fun t => t.mem = s.mem ∧ Ends t 0 ∧ (∀ m, m ≠ n → t.cluster m = s.cluster m) ∧
        (t.cluster n).split = decide (fieldLE b 9 1 = 1) ∧ (t.cluster n).upper = id 10 ∧
        (t.cluster n).lower = (if fieldLE b 9 1 = 1 then id 11 else none) ∧
        (∀ h k, h < 2 → k < 6 → t.registerRead agent (0x80000 + 1024 * (2 * n + h) + 8 * k) = some 0) ∧
        ∀ h < 2, (t.cluster n).tenant h ≠ (s.cluster n).tenant h → (t.cluster n).user.getD h none = none)) ∧
    ((144 ≤ n ∨ 1 < fieldLE b 9 1 ∨ ¬fits 10 ∨ (fieldLE b 9 1 = 1 ∧ ¬fits 11)) →
      Leads (.assignTenant agent) s (fun t => t.mem = s.mem ∧ Ends t 1 ∧ t.clusters = s.clusters))

/-- Pool sizes are set as QUOTA sets them (R409, R412). -/
def SetsQuota (s : State) : Prop :=
  ∀ (agent : Nat) (b : List Byte), Given s agent 3 b →
    (fieldLE b 8 1 < 64 → Leads (.setQuota agent) s (fun t => t.mem = s.mem ∧ Ends t 0 ∧
      (t.ctx (fieldLE b 8 1)).quota = (List.range 4).map (fun k =>
        (fieldLE b (9 + k) 1, ((s.ctx (fieldLE b 8 1)).quota.getD k (0, 0)).2)))) ∧
    (64 ≤ fieldLE b 8 1 → Leads (.setQuota agent) s (fun t => t.mem = s.mem ∧ Ends t 1 ∧ t.ctxs = s.ctxs))

/-- A vacant cluster is fenced: CLUSTERS and DEGRADED follow, and the health log tells it; a fenced one is restored unless it
was fenced for a fault (R409, R426). -/
def Fences (s : State) : Prop :=
  ∀ (agent : Nat) (b : List Byte), Given s agent 4 b →
    let n := fieldLE b 8 1
    (fieldLE b 9 1 = 1 → n < 144 → (s.cluster n).fenced = false → Vacant s n → Leads (.fenceCluster agent) s (fun t =>
      t.mem = s.mem ∧ Ends t 0 ∧ t.cluster n = { s.cluster n with fenced := true } ∧ (∀ m, m ≠ n → t.cluster m = s.cluster m) ∧
        Logged s t 2 n ∧ Counted t)) ∧
    (fieldLE b 9 1 = 0 → n < 144 → (s.cluster n).faulty = false → Leads (.restoreCluster agent) s (fun t =>
      t.mem = s.mem ∧ Ends t 0 ∧ t.cluster n = { s.cluster n with fenced := false } ∧ (∀ m, m ≠ n → t.cluster m = s.cluster m) ∧
        Counted t)) ∧
    (fieldLE b 9 1 = 0 → (144 ≤ n ∨ (s.cluster n).faulty = true) → Leads (.restoreCluster agent) s (fun t =>
      t.mem = s.mem ∧ Ends t 1 ∧ t.clusters = s.clusters))

/-- An update stages an image that verifies, and sets FWERR for another or for one that cannot be read; the running image stays
(R409, R429). A report holds the nonce, the SHA3-256 digests of the running image and of the configuration, PKGID and the
identity key, in 3,860 bytes (R430). The health log's newest entries are written, oldest first (R409). -/
def UpdatesAndReports (s : State) : Prop :=
  ∀ (agent : Nat) (b : List Byte),
    (Given s agent 5 b → Leads (.firmwareUpdate agent) s (fun t =>
      let a := BitVec.ofNat 64 (fieldLE b 8 8)
      let image := s.hostBytes s.dev.admPort a (fieldLE b 16 4)
      t.mem = s.mem ∧ t.dev.running = s.dev.running ∧ (Reaches s a ∧ imageVerifies image = true → t.dev.staged = some image ∧ t.dev.fwerr = s.dev.fwerr ∧ Ends t 0 ∧ Logged s t 6 0) ∧
      (¬(Reaches s a ∧ imageVerifies image = true) → t.dev.staged = s.dev.staged ∧ t.dev.fwerr = true ∧ Ends t 1))) ∧
    (Given s agent 6 b → Memory.wf s.mem = true → Reaches s (BitVec.ofNat 64 (fieldLE b 40 8)) → Leads (.attest agent) s (fun t =>
      let a := hostForm s.dev.admPort (BitVec.ofNat 64 (fieldLE b 40 8))
      Ends t 0 ∧ (∃ bs, bs.length = 3860 ∧ Written s.mem t.mem a bs) ∧ rdBytes t.mem a 32 = (b.drop 8).take 32 ∧
      rdBytes t.mem (a + 32) 32 = sha3 (s.dev.running.getD []) ∧ rdBytes t.mem (a + 64) 32 = sha3 s.configBytes ∧ rdLE t.mem (a + 96) 2 = s.dev.pkgid.toNat ∧
      rdLE t.mem (a + 98) 30 = 0 ∧ rdBytes t.mem (a + 128) 1312 = padTo 1312 Config.identityKey ∧
      rdBytes t.mem (a + 1440) 2420 = padTo 2420 (Config.signature (sha3 (rdBytes t.mem a 1440))))) ∧
    (Given s agent 8 b → Memory.wf s.mem = true → Reaches s (BitVec.ofNat 64 (fieldLE b 8 8)) → (∀ e ∈ s.dev.health, e.length = 32) → Leads (.readHealthLog agent) s (fun t =>
      let n := min (fieldLE b 16 4 / 32) s.dev.health.length
      Ends t 0 ∧ Written s.mem t.mem (hostForm s.dev.admPort (BitVec.ofNat 64 (fieldLE b 8 8)))
        (s.dev.health.drop (s.dev.health.length - n)).flatten))

/-- A device reset ends every context, each with a kind-6 completion entry; memory keeps its contents, on-chip storage is
zero, and the staged image is verified and run. Where a ring has no room for its entry the reset waits for it: nothing runs, and
NOTIFY starts no context. A reset of another kind, or of a guest beyond 63, is refused. A guest reset
ends the guest's groups and discards its moulds and mailboxes (R409, R431, R432). -/
def Resets (s : State) : Prop :=
  ∀ (agent : Nat) (b : List Byte), Given s agent 7 b → s.dev.cold = false →
    let again (t : State) : Prop := t.groups = [] ∧ t.launches = [] ∧ t.ctxs = [] ∧ t.ops = [] ∧ t.chains = [] ∧ t.l1 = [] ∧
      t.scratch = [] ∧ (∀ n, (t.cluster n).acc = [] ∧ (t.cluster n).weights = []) ∧ t.dev.sema = List.replicate 8 0 ∧
      t.dev.linkup = false ∧ Ends t 0 ∧ (match s.dev.staged with
        | none => t.dev.ready = false
        | some image => if imageVerifies image = true then t.dev.ready = true ∧ t.dev.running = some image ∧ Counted t
          else t.dev.ready = false ∧ t.dev.fwerr = true)
    (fieldLE b 8 1 = 1 → (∀ x ∈ s.ctxs, x.2.valid = false ∧ x.2.cqWait = []) → Leads (.deviceReset agent) s (fun t =>
      t.mem = s.mem ∧ again t)) ∧
    (∀ guest, fieldLE b 8 1 = 1 → (s.ctxs.map (·.1)).Nodup → (s.ctx guest).valid = true →
      (∀ x ∈ s.ctxs, x.1 ≠ guest → x.2.valid = false ∧ x.2.cqWait = []) → CqRoom s guest →
      Leads (.deviceReset agent) s (fun t =>
        let a := s.cmdField guest 20 8 + 32 * (s.cmdField guest 32 4 % s.cmdField guest 28 4)
        again t ∧ (rdByte t.mem a).toNat = 6 ∧ rdLE t.mem (a + 24) 6 = s.dtime.toNat ∧
          rdLE t.mem ((s.ctx guest).cmdPage.toNat + 32) 4 = (s.cmdField guest 32 4 + 1) % 2 ^ 32)) ∧
    (∀ guest, fieldLE b 8 1 = 1 → (s.ctxs.map (·.1)).Nodup → (s.ctx guest).valid = true →
      (∀ x ∈ s.ctxs, x.1 ≠ guest → x.2.valid = false) → (s.ctx guest).cqWait = [] →
      s.cmdField guest 28 4 ≤ (s.cmdField guest 32 4 + 2 ^ 32 - s.cmdField guest 36 4) % 2 ^ 32 →
      Leads (.deviceReset agent) s (fun t => t.mem = s.mem ∧ t.dev.admBusy = true ∧ t.dev.ready = true ∧
        (t.ctx guest).valid = false ∧ (t.ctx guest).cqWait.length = 1 ∧ isReset 1 t.dev.admBlock = true ∧ t.groups = [] ∧
        t.launches = [] ∧ t.ops = [] ∧ t.chains = [] ∧ t.units = [])) ∧
    (fieldLE b 8 1 ≠ 1 → fieldLE b 8 1 ≠ 2 → Leads (.deviceReset agent) s (fun t => t.mem = s.mem ∧ Ends t 1 ∧ t.ctxs = s.ctxs)) ∧
    (fieldLE b 8 1 = 2 → 64 ≤ fieldLE b 9 1 → Leads (.guestReset agent) s (fun t => t.mem = s.mem ∧ Ends t 1 ∧ t.ctxs = s.ctxs)) ∧
    (fieldLE b 8 1 = 2 → fieldLE b 9 1 < 64 → (s.ctx (fieldLE b 9 1)).queue = [] →
      (∀ x ∈ s.groups, x.2.guest = fieldLE b 9 1 → ∃ l, mfind s.launches x.2.launch = some l ∧ l.guest = fieldLE b 9 1) →
      Leads (.guestReset agent) s (fun t => Ends t 0 ∧
        (∀ core slot g, t.group core slot = some g → g.guest = fieldLE b 9 1 → g.ended = true) ∧
        (t.ctx (fieldLE b 9 1)).mail = [] ∧ ∀ m ∈ (t.ctx (fieldLE b 9 1)).moulds, m.bound = false))

/-- While a reset of the device waits, NOTIFY changes nothing; the room that a CQHEAD write makes lets it go on (R431; log 50). -/
def ResetPending (s : State) : Prop :=
  ∀ (guest : Nat), s.dev.admBusy = true → isReset 1 s.dev.admBlock = true →
    Leads (.notify guest) s (fun t => t.mem = s.mem ∧ t.ctxs = s.ctxs ∧ t.dev = s.dev ∧ t.launches = s.launches) ∧
    ((∀ x ∈ s.ctxs, x.2.valid = false ∧ x.2.cqWait = []) → s.dev.cold = false → s.dev.staged = none →
      Leads (.deviceReset 0) s (fun t => t.mem = s.mem ∧ t.ctxs = [] ∧ Ends t 0 ∧ t.dev.ready = false))

/-! ### A guest's own registers -/

/-- ERRCLR takes v where v lies between it and ERRW, and clears CTXERR and ERRCNT where v is ERRW; any other write is ignored.
Error entries of the same cc count as later: ERRW is taken without them, and what they have raised stands (R413). -/
def ErrorClear (s : State) : Prop :=
  ∀ (guest : Nat) (v : DWord), (s.ctx guest).valid = true → Memory.wf s.mem = true →
    let base := (s.ctx guest).saveBase.toNat
    let now := (s.ctx guest).errCc == some s.cc
    let errw := (rdLE s.mem base 8 + 2 ^ 64 - (if now then (s.ctx guest).errNew else 0)) % 2 ^ 64
    let clr := rdLE s.mem (base + 8) 8
    ((v.toNat + 2 ^ 64 - clr) % 2 ^ 64 ≤ (errw + 2 ^ 64 - clr) % 2 ^ 64 → Leads (.errclrWrite guest v) s (fun t =>
      Written s.mem t.mem (base + 8) (leBytes 8 v.toNat) ∧
      (v.toNat = errw → (t.ctx guest).ctxerr = now ∧
        (t.ctx guest).errcnt = if now then BitVec.ofNat 16 (s.ctx guest).cntNew else 0) ∧
      (v.toNat ≠ errw → (t.ctx guest).ctxerr = (s.ctx guest).ctxerr ∧ (t.ctx guest).errcnt = (s.ctx guest).errcnt))) ∧
    ((errw + 2 ^ 64 - clr) % 2 ^ 64 < (v.toNat + 2 ^ 64 - clr) % 2 ^ 64 → Leads (.errclrWrite guest v) s (fun t =>
      t.mem = s.mem ∧ t.ctxs = s.ctxs))

/-- The throttle stands exactly while 7/8 of the dirty log are used (R419). -/
def Throttle (s : State) : Prop :=
  ∀ (guest : Nat), (s.ctx guest).valid = true →
    let size := s.cmdField guest 48 4
    let used := (s.cmdField guest 52 4 + 2 ^ 32 - s.cmdField guest 56 4) % 2 ^ 32
    Leads (.dirtyLogThrottleLift guest) s (fun t => t.mem = s.mem ∧
      (t.ctx guest).throttled = (decide (size ≠ 0) && decide (7 * size ≤ 8 * used)) ∧ (t.ctx guest).queue = (s.ctx guest).queue)

end Sys2Proof.Claims

/-- The device's registers and semaphores, and the guests' registers that only store. Model's readings, not rules: boot starts before
READY once both FWADDR and FWLEN have been written (log 50), the save area of a context stands at an untranslated physical address
(log 9), the offsets within R386's registers (log 16), and who wins a semaphore between firmware and a port (log 2). -/
def Obligations.HostRegisters : Prop :=
  ∀ s, Sys2Proof.Claims.ControlPage s ∧ Sys2Proof.Claims.GuestPage s ∧ Sys2Proof.Claims.Semaphores s ∧
    Sys2Proof.Claims.ErrorClear s ∧ Sys2Proof.Claims.Throttle s

/-- The administrative commands: who may give them, and what each does. Model's readings, not rules: what a device reset keeps, clears
and boots, and that it waits for room in the rings (log 50); the untranslated physical address of a kind-6 entry (log 9). -/
def Obligations.AdministrativeCommands : Prop :=
  ∀ s, Sys2Proof.Claims.CommandGate s ∧ Sys2Proof.Claims.SetsPartition s ∧ Sys2Proof.Claims.AssignsTenant s ∧
    Sys2Proof.Claims.SetsQuota s ∧ Sys2Proof.Claims.Fences s ∧ Sys2Proof.Claims.UpdatesAndReports s ∧ Sys2Proof.Claims.Resets s ∧
    Sys2Proof.Claims.ResetPending s

namespace Sys2Proof.Claims

open Sys2Proof.Machine

/-! ### Flits -/

/-- The newest flit a port has sent is of a type with a payload: its number is the port's next, and its CRC fits (R420). -/
def SentFlit (p p' : Port) (type : Nat) (payload : List Byte) : Prop :=
  ∃ f, p'.replay = (f :: p.replay).take 64 ∧ p'.out = p.out ++ [f] ∧ f.length = 256 ∧ fieldLE f 0 2 = p.sendSeq.toNat ∧ fieldLE f 2 1 = type ∧
    (f.drop 4).take 248 = padTo 248 payload ∧ fieldLE f 252 4 = (crc32 (f.take 252)).toNat ∧ p'.sendSeq = p.sendSeq + 1

/-- A port that is up acts on the next flit in sequence whose CRC fits, and advances; it answers one whose CRC does not fit
with a replay request for it, and acts on no other. A replay request sends the kept flits again from the one it asks for, and requests
for one flit in a row are counted. A time flit that asks for it is answered at once with DTIME. An idle flit changes nothing else; a message goes to the mailbox it names,
where its context is valid and the box has room; what payloads hold is log 15 (R420). -/
def Flits (s : State) : Prop :=
  ∀ (port : Nat) (flit : BitVec 2048),
    let p := s.port port
    let b := leBytes 256 flit.toNat
    let payload := (b.drop 4).take 248
    let fits : Prop := (crc32 (b.take 252)).toNat = fieldLE b 252 4
    ((p.trained = false ∨ p.down = true) → Leads (.flitReceive port flit) s (fun t => t.mem = s.mem ∧ t.ctxs = s.ctxs ∧ t.dev = s.dev)) ∧
    (p.trained = true → p.down = false →
      (¬fits → Leads (.flitReceive port flit) s (fun t => t.mem = s.mem ∧ t.ctxs = s.ctxs ∧ (t.port port).recvSeq = p.recvSeq ∧
        (t.port port).bad = p.bad + 1 ∧ SentFlit p (t.port port) 5 (Config.linkPackReplay p.recvSeq))) ∧
      (fits → fieldLE b 0 2 ≠ p.recvSeq.toNat → Leads (.flitReceive port flit) s (fun t =>
        t.mem = s.mem ∧ t.ctxs = s.ctxs ∧ t.dev = s.dev)) ∧
      (fits → fieldLE b 0 2 = p.recvSeq.toNat →
        (fieldLE b 2 1 = 0 → Leads (.flitReceive port flit) s (fun t => t.mem = s.mem ∧ t.ctxs = s.ctxs ∧
          t.port port = { p with recvSeq := p.recvSeq + 1, credits := p.credits + fieldLE b 3 1, bad := 0 })) ∧
        (fieldLE b 2 1 = 4 → Leads (.flitReceive port flit) s (fun t => t.mem = s.mem ∧ t.ctxs = s.ctxs ∧
          (t.port port).recvSeq = p.recvSeq + 1 ∧
          (Config.linkTimeAsks payload = true → SentFlit p (t.port port) 4 (Config.linkPackTimeReply s.dtime s.dtime)) ∧
          (Config.linkTimeAsks payload = false → (t.port port).out = p.out))) ∧
        (fieldLE b 2 1 = 3 → Leads (.flitReceive port flit) s (fun t => t.mem = s.mem ∧ (t.port port).recvSeq = p.recvSeq + 1 ∧
          match Config.linkMessage payload with
          | none => t.ctxs = s.ctxs
          | some m =>
            let box := mget (s.ctx m.guest).mail m.die []
            mget (t.ctx m.guest).mail m.die [] =
              if (s.ctx m.guest).valid = true ∧ box.length < 64 then box ++ [⟨m.pkg, m.sdie, m.words, m.tok⟩] else box)) ∧
        (fieldLE b 2 1 = 5 → Leads (.flitReceive port flit) s (fun t => t.mem = s.mem ∧ t.ctxs = s.ctxs ∧
          (t.port port).recvSeq = p.recvSeq + 1 ∧ (t.port port).bad = 0 ∧
          (t.port port).askSeq = Config.replayFrom payload ∧
          (t.port port).asks = (if p.askSeq = Config.replayFrom payload then p.asks + 1 else 1) ∧
          (t.port port).out = p.out ++ p.replay.reverse.dropWhile (fun f => fieldLE f 0 2 != (Config.replayFrom payload).toNat)))))

/-- A request of another package is applied at its home once: a store writes its bytes, an atomic its new value, a load
nothing; its answer is what stood there, and a synchronising request leaves its record on the line (R254, R258, R264, R420). The
same request once more gets the same answer and is not applied. It waits behind accesses that stand for its line, and for the next cc
after an apply there, one that writes after a fill from there too; a `ringput` leaves its record too. -/
def LinkHomes (s : State) : Prop :=
  ∀ (port : Nat) (r : Config.LinkRequest),
    let known := s.applied.find? (fun x => x.1 == r.pkg && x.2.1 == r.num)
    let line := r.addr / 128
    let old := BitVec.ofNat 1024 (rdLE s.mem r.addr r.size)
    let readable : Prop := (∀ e ∈ s.aq, e.addr / 128 ≠ line) ∧ mfind s.lastApply line ≠ some s.cc
    let free : Prop := (∀ e ∈ s.aq, e.addr / 128 ≠ line) ∧ s.lineBusy line = false
    (∀ a, known = some (r.pkg, r.num, a) → ∃ t, s.linkRequest port r = some t ∧
      t.mem = s.mem ∧ t.applied = s.applied ∧ SentFlit (s.port port) (t.port port) 2 (Config.linkResponse r.pkg r.num a)) ∧
    (known = none → backed r.addr = true → readable → r.kind = .load → ∃ t, s.linkRequest port r = some t ∧ t.mem = s.mem ∧ t.l1 = s.l1 ∧
      t.lineBusy line = true ∧ t.applied.head? = some (r.pkg, r.num, old) ∧ SentFlit (s.port port) (t.port port) 2 (Config.linkResponse r.pkg r.num old)) ∧
    (known = none → backed r.addr = true → free → (∀ l, NoHeld s l) → (∀ x ∈ s.ctxs, Unlogged s x.1) → Memory.wf s.mem = true →
      let done (t : State) : Prop := s.linkRequest port r = some t ∧ mfind t.lastApply line = some s.cc ∧
        t.applied.head? = some (r.pkg, r.num, old) ∧ SentFlit (s.port port) (t.port port) 2 (Config.linkResponse r.pkg r.num old)
      (∀ sync, r.kind = .store sync → ∃ t, done t ∧ Written s.mem t.mem r.addr (leBytes r.size r.val.toNat) ∧
        (sync = true → mfind t.scopes line = some ⟨.sys, 0x3FFF, s.dtime, r.guest⟩) ∧ (sync = false → t.scopes = s.scopes)) ∧
      (∀ op sgn, r.kind = .atomic op sgn → ∃ t, done t ∧
        Written s.mem t.mem r.addr (leBytes r.size (atomicNew (linkAtom op.val) r.size sgn (rdLE s.mem r.addr r.size) r.val.toNat r.cmp.toNat)) ∧
        mfind t.scopes line = some ⟨.sys, 0x3FFF, s.dtime, r.guest⟩) ∧
      (r.kind = .append → ∃ t v, s.linkRequest port r = some t ∧ t.applied.head? = some (r.pkg, r.num, v) ∧
        mfind t.scopes line = some ⟨.sys, 0x3FFF, s.dtime, r.guest⟩)) ∧
    (known = none → backed r.addr = true → r.kind = .load → ¬readable → s.linkRequest port r = none) ∧
    (known = none → backed r.addr = true → r.kind ≠ .load → ¬free → s.linkRequest port r = none)

/-- The response to a request of this package ends its access: a plain store is done, an atomic has its old value; a unit's write is
done, and what a unit has read stands ready for it (R241, R259, R420). -/
def LinkAnswers (s : State) : Prop :=
  (∀ (num : Word) (f : Far) (bs : List Byte), s.far = [f] → f.num = num → f.answer = none →
    let t := s.linkAnswer num bs
    t.mem = s.mem ∧ (f.bytes ≠ [] → t.far = []) ∧ (∀ id, f.bytes = [] → f.who = .chain id → t.far = [{ f with answer := some bs }])) ∧
  ∀ (num : Word) (e : AQEntry) (bs : List Byte) (port : Option Nat), s.aq = [e] → isRemote e.addr = true →
    s.sent = [⟨num, e.op, e.lane, port⟩] → (∀ f ∈ s.far, f.num ≠ num) → Lives s e.core e.slot → Memory.wf s.mem = true →
    let t := s.linkAnswer num bs
    let ended : Prop := t.aq = [] ∧ t.sent = []
    (∀ d, e.act = .store d → mfind s.ops e.op = none → ended ∧ Written s.mem t.mem e.addr d) ∧
    (∀ o q, e.act = .atomic → mfind s.ops e.op = some o → o.id = e.op → o.kind = .atomic → o.saved = false → o.wit = false →
      o.core = e.core → o.slot = e.slot → o.lanes.find? (fun x => x.req.lane == e.lane) = some q → o.size ≤ bs.length →
      ended ∧ Delivered s t o e.lane (valueWords o.size (leNat (bs.take o.size))) ∧
      Written s.mem t.mem e.addr (leBytes o.size
        (atomicNew o.atom o.size o.sgn (leNat (bs.take o.size)) q.req.val.toNat q.req.cmp.toNat)))

/-! ### Ports and routes -/

/-- Nothing of the access queue that goes to an unreachable home could fail. -/
def NothingLost (s t : State) : Prop :=
  ∀ e ∈ s.aq, t.homeUp e.addr = true ∨ (match e.act with | .fill _ | .store _ => false | _ => true) = true

/-- After 16 failed replays of one flit, which has then failed 17 times, a port goes down; what was in flight on it goes out again
where another route is left; a plain store whose only route it carried leaves a store record with
PATH_DOWN, or, where the group that released it is gone, an error entry. A port that trains starts afresh, and LINKUP follows
once the link is enabled and every port of the route table has trained. The UCIe ports come and go on their own (R370, R406,
R420, R421). -/
def Ports (s : State) : Prop :=
  ∀ (port : Nat),
    (((s.port port).trained = false ∨ ((s.port port).bad ≤ 16 ∧ (s.port port).asks ≤ 16)) → Leads (.portDown port) s (fun t =>
      t.mem = s.mem ∧ t.dev = s.dev ∧ t.aq = s.aq)) ∧
    ((s.port port).trained = true → (17 ≤ (s.port port).bad ∨ 17 ≤ (s.port port).asks) →
      let s1 := s.modPort port (fun p => { p with down := true, dist := none })
      (NothingLost s s1 → Leads (.portDown port) s (fun t => t.mem = s.mem ∧ t.aq = s.aq ∧ (t.port port).down = true ∧
        (s.far = [] → (∀ e ∈ s.aq, isRemote e.addr = false) → ∀ n, n ≠ port → t.port n = s.port n) ∧
        ∀ pkg r, mfind s.dev.routes pkg = some r → r.port = port → t.reaches pkg = false)) ∧
      (∀ e num r, s.aq = [e] → s.far = [] → isRemote e.addr = true → s.sent = [⟨num, e.op, e.lane, some port⟩] →
        mfind s.dev.routes (pkgOf e.addr) = some r → s1.homeUp e.addr = true → Leads (.portDown port) s (fun t => t.mem = s.mem ∧
          t.aq = s.aq ∧ t.sent = [⟨num, e.op, e.lane, some r.port⟩] ∧
          SentFlit (s1.port r.port) (t.port r.port) 1 (Config.linkPack (s.linkRequestOf e num)))) ∧
      (∀ e bs g, s.aq = [e] → e.act = .store bs → s1.homeUp e.addr = false → s.group e.core e.slot = some g → g.wid = e.owner →
        g.launch = e.launch → g.ended = false → e.lane < 32 →
        laneOn g.live e.lane → s.recs = [] → Leads (.portDown port) s (fun t => t.mem = s.mem ∧ t.aq = [] ∧ ∃ r, t.recs = [r] ∧
          r.cause = cPathDown ∧ r.store = true ∧ r.core = e.core ∧ r.slot = e.slot ∧ mfind r.addr e.lane = some e.va)) ∧
      (∀ e bs, s.aq = [e] → e.act = .store bs → s1.homeUp e.addr = false →
        (∀ g, s.group e.core e.slot = some g → g.wid = e.owner → g.launch = e.launch → g.ended = true) →
        Leads (.portDown port) s (fun t => t.aq = [] ∧ t.recs = s.recs ∧ (t.ctx e.guest).ctxerr = true))) ∧
    (port < 16 → Leads (.portTrained port) s (fun t => t.mem = s.mem ∧ (t.port port).trained = true ∧ (t.port port).down = false ∧
      ((∀ e ∈ s.aq, isRemote e.addr = false) → s.far = [] → t.port port = { Port.initial with trained := true } ∧
        ∀ n, n ≠ port → t.port n = s.port n) ∧
      (t.dev.linkup = true ↔ s.dev.linkup = true ∨ (s.dev.linkEnabled = true ∧ ∀ x ∈ s.dev.routes, (t.port x.2.port).trained = true)))) ∧
    (16 ≤ port → Leads (.portTrained port) s (fun t => t.mem = s.mem ∧ t.dev = s.dev)) ∧
    Leads (.uciePortTrained 1) s (fun t => t.mem = s.mem ∧ t.dev = { s.dev with ucieA := true }) ∧
    Leads (.uciePortTrained 2) s (fun t => t.mem = s.mem ∧ t.dev = { s.dev with ucieB := true }) ∧
    (NothingLost s (s.modDev (fun d => { d with ucieA := false })) →
      Leads (.uciePortDown 1) s (fun t => t.mem = s.mem ∧ t.aq = s.aq ∧ t.dev = { s.dev with ucieA := false })) ∧
    (NothingLost s (s.modDev (fun d => { d with ucieB := false })) →
      Leads (.uciePortDown 2) s (fun t => t.mem = s.mem ∧ t.aq = s.aq ∧ t.dev = { s.dev with ucieB := false }))

/-- The route table is taken whole: an entry with its valid bit gives its package a port and a PATH class; a table with a
nonzero reserved byte, or one that cannot be read, is refused. Link enable brings the link up once every port of the table has trained (R409, R421). -/
def Routes (s : State) : Prop :=
  ∀ (agent : Nat) (b : List Byte),
    (Given s agent 9 b →
      let a := BitVec.ofNat 64 (fieldLE b 8 8)
      let e (p : Nat) : Byte := rdByte s.mem (hostForm s.dev.admPort a + 2 * p)
      let hi (p : Nat) : Byte := rdByte s.mem (hostForm s.dev.admPort a + 2 * p + 1)
      (Reaches s a → (∀ p < 8192, hi p = 0) → Leads (.writeRouteTable agent) s (fun t => Ends t 0 ∧ ∀ p < 8192, mfind t.dev.routes p =
        if (e p).getLsbD 7 then some ⟨(e p).toNat % 16, BitVec.ofNat 3 ((e p).toNat / 16)⟩ else none)) ∧
      ((¬Reaches s a ∨ ∃ p < 8192, hi p ≠ 0) → Leads (.writeRouteTable agent) s (fun t => t.mem = s.mem ∧ Ends t 1 ∧
        t.dev.routes = s.dev.routes))) ∧
    (Given s agent 10 b → Leads (.linkEnable agent) s (fun t => t.mem = s.mem ∧ Ends t 0 ∧ t.dev.linkEnabled = true ∧
      (t.dev.linkup = true ↔ s.dev.linkup = true ∨ ∀ x ∈ s.dev.routes, (s.port x.2.port).trained = true)))

/-- An exchange of stamps on a port that is up gives the offset of the two clocks, and takes no time itself. The reference
package corrects nothing; where the port is the only one, its offset is due, to be corrected as time passes, and one beyond
SKEW / 2 is reported (R250, R422, R427). -/
def Clocks (s : State) : Prop :=
  ∀ (port : Nat) (t0 t1 t2 t3 : DTime) (dist : Nat),
    let d := ((t1 - t0).toInt + (t2 - t3).toInt) / 2
    let still (t : State) : Prop := t.cc = s.cc ∧ t.dtime = s.dtime
    (((s.port port).trained = false ∨ (s.port port).down = true) → Leads (.timeExchange port t0 t1 t2 t3 dist) s (fun t =>
      t.mem = s.mem ∧ t.dev = s.dev ∧ still t)) ∧
    ((s.port port).trained = true → (s.port port).down = false →
      Leads (.timeExchange port t0 t1 t2 t3 dist) s (fun t => t.mem = s.mem ∧ still t ∧
        (t.port port).dist = some dist ∧ (t.port port).offset = d ∧
        SentFlit (s.port port) (t.port port) 4 (Config.linkPackTime s.dtime) ∧ (∀ n, n ≠ port → t.port n = s.port n) ∧
        (s.isReference = true → t.dev.timeDue = 0) ∧
        (∀ p, s.dev.ports = [(port, p)] → s.isReference = false → dist < 2 ^ 13 →
          t.dev.timeDue = d ∧ (32 < d.natAbs → t.dev.degraded = true ∧ t.dev.replaceReq = true))))

/-! ### Service life -/

/-- A withheld issue slot stays empty until it is given back; a corrected error is counted and changes nothing else (R20, R424). -/
def Services (s : State) : Prop :=
  (∀ core sched on, sched < 4 → Leads (.issueSlotWithholding core sched on) s (fun t => t.mem = s.mem ∧ t.ctxs = s.ctxs ∧
    mget t.dev.withheld (core * 4 + sched) false = on ∧ (on = true → t.schedIdle core sched = false))) ∧
  (∀ n, Leads (.correctedError n) s (fun t => t.mem = s.mem ∧ t.dev = s.dev ∧ t.cluster n = { s.cluster n with ce := (s.cluster n).ce + 1 } ∧
    ∀ m, m ≠ n → t.cluster m = s.cluster m))

/-- The first lane that fails on an empty scheduler is mapped out: the 32 logical lanes stand in order on the 32 others of
the 33; a second one fences the cluster for a fault. A spared row is noted, and asks for a replacement when it is the last.
A low margin raises the voltage by a step, or, at the ceiling, fences one of the clusters at the ceiling for a fault, the one
that has the least margin, which no rule numbers (R425 to R428; log 52). -/
def Ageing (s : State) : Prop :=
  (∀ core sched lane, sched < 4 → lane < 33 → Vacant s (clusterOf core) →
    (mfind s.dev.laneFail (core * 4 + sched) = none → Leads (.laneTestFail core sched lane) s (fun t => t.mem = s.mem ∧
      (∃ m, mfind t.dev.laneMap (core * 4 + sched) = some m ∧ m.length = 32 ∧ ∀ l < 32, m.getD l 0 = if l < lane then l else l + 1) ∧
      Counted t ∧ t.dev.degraded = true ∧ t.dev.replaceReq = true)) ∧
    (∀ l, mfind s.dev.laneFail (core * 4 + sched) = some l → l ≠ lane → core < 576 → Leads (.laneTestFail core sched lane) s (fun t =>
      t.mem = s.mem ∧ t.cluster (clusterOf core) = { s.cluster (clusterOf core) with fenced := true, faulty := true } ∧
      Logged s t 2 (clusterOf core) ∧ Counted t ∧ t.dev.replaceReq = true))) ∧
  (∀ bank last, bank < 2 ^ 16 → Leads (.dramSpare bank last) s (fun t => t.mem = s.mem ∧ Logged s t 4 bank ∧ t.dev.degraded = true ∧
    (last = true → t.dev.replaceReq = true))) ∧
  (∀ n, n < 144 →
    Leads (.patinaCheck n false) s (fun t => t.mem = s.mem ∧ t.clusters = s.clusters ∧ t.dev = s.dev) ∧
    ((s.cluster n).fenced = false → (s.cluster n).volts < Config.voltCeiling → Leads (.patinaCheck n true) s (fun t =>
      t.mem = s.mem ∧ t.cluster n = { s.cluster n with volts := (s.cluster n).volts + 1 } ∧ Logged s t 1 n ∧
        ∀ m, m ≠ n → t.cluster m = s.cluster m)) ∧
    ((s.cluster n).fenced = false → Config.voltCeiling ≤ (s.cluster n).volts → (∀ m, Vacant s m) →
      Leads (.patinaCheck n true) s (fun t => t.mem = s.mem ∧ ∃ m < 144, (s.cluster m).fenced = false ∧
        Config.voltCeiling ≤ (s.cluster m).volts ∧ t.cluster m = { s.cluster m with fenced := true, faulty := true } ∧
        (∀ k, k ≠ m → t.cluster k = s.cluster k) ∧ Logged s t 2 m ∧ Counted t ∧ t.dev.replaceReq = true)))

/-- Power-on clears everything: the package's memory reads 0, no context, launch or group stands, and the device's registers
have their reset values; host memory and the memory of other packages are not the package's to clear (R407, R431, R432). -/
def PowersOn (s : State) : Prop :=
  Memory.wf s.mem = true → Leads .powerOnReset s (fun t => (∀ a < 2 ^ 51, rdByte t.mem a = 0) ∧ (∀ a, 2 ^ 51 ≤ a → rdByte t.mem a = rdByte s.mem a) ∧
    t.dev = Device.initial ∧ t.ctxs = [] ∧ t.launches = [] ∧ t.groups = [] ∧ t.wgroups = [] ∧ t.ops = [] ∧ t.chains = [] ∧
    t.clusters = [] ∧ t.l1 = [] ∧ t.scratch = [] ∧ t.dtime = 0)

end Sys2Proof.Claims

/-- The Maelber link and the UCIe ports: flits, requests of other packages, lost ports, routes, clocks. Model's readings, not rules:
what payloads hold (log 15), a flit out of sequence that is discarded, a flit that waits and the 17 failures of a port (log 53), the
correction due after an exchange (log 54), and units' accesses to other packages (log 77). -/
def Obligations.LinkAndClock : Prop :=
  ∀ s, Sys2Proof.Claims.Flits s ∧ Sys2Proof.Claims.LinkHomes s ∧ Sys2Proof.Claims.LinkAnswers s ∧ Sys2Proof.Claims.Ports s ∧ Sys2Proof.Claims.Routes s ∧
    Sys2Proof.Claims.Clocks s

/-- Withheld slots, corrected errors, failed lanes, spared rows, voltage steps, power-on. Model's readings, not rules: the logical
lanes in ascending order on the other 32 physical ones (log 75), what a power-on resets (log 50), margins (log 52). -/
def Obligations.ServiceLife : Prop :=
  ∀ s, Sys2Proof.Claims.Services s ∧ Sys2Proof.Claims.Ageing s ∧ Sys2Proof.Claims.PowersOn s

/-- The machine right after reset: the device control page reads as R407's reset column, to firmware, while no port has
trained; no semaphore has an owner, memory reads
0 everywhere and keeps its form (log 4), no context, launch, group or access stands, and DTIME is 0 (log 3). -/
def Obligations.ResetState : Prop :=
  let s := Sys2Proof.Machine.State.reset
  s.registerRead 3 0 = some 0 ∧ s.registerRead 3 0x20 = some 0 ∧ (∀ n < 8, s.registerRead 3 (0x100 + 4 * n) = some 0) ∧
    (∀ off, s.registerRead 1 off = none ∧ s.registerRead 2 off = none) ∧
    (∀ a, Sys2Proof.Machine.rdByte s.mem a = 0) ∧ Sys2Proof.Machine.Memory.wf s.mem = true ∧
    (∀ g, (s.ctx g).valid = false ∧ (s.ctx g).smpctl = 0 ∧ (s.ctx g).trctl = 0 ∧ (s.ctx g).dbgbase = 0 ∧ (s.ctx g).dbgsel = 0) ∧
    s.launches = [] ∧ s.groups = [] ∧ s.aq = [] ∧ s.dtime = 0

/-- Every step keeps memory in its canonical form: addresses rising, and no cell that reads as an unlisted one. -/
def Obligations.StepKeepsMemoryForm : Prop :=
  ∀ s t : Sys2Proof.Machine.State, Sys2Proof.Machine.Memory.wf s.mem = true → Sys2Proof.Machine.step s = .next t →
    Sys2Proof.Machine.Memory.wf t.mem = true
end

