-- ==== Sys2Proof/Laws/Maps.lean ====
section
/-! SUPPORT. Laws of sparse maps, of memories and of lane values. -/

namespace Sys2Proof.Machine

variable {α : Type}

/-! ## Sparse maps -/

/-- A map read after a write. -/
theorem mfind_mset (m : AMap α) (k j : Nat) (v : α) : mfind (mset m k v) j = if j = k then some v else mfind m j := by
  induction m with
  | nil => simp [mset, mfind]
  | cons x m ih =>
    obtain ⟨a, b⟩ := x
    by_cases h : k < a
    · simp [mset, mfind, h]
    · by_cases h2 : k = a
      · subst h2
        by_cases h3 : j = k <;> simp [mset, mfind, h3]
      · by_cases h3 : j = a
        · have : j ≠ k := fun e => h2 (e ▸ h3)
          simp [mset, mfind, h, h2, h3, Ne.symm h2]
        · simp [mset, mfind, h, h2, h3, ih]

@[simp] theorem mfind_mset_same (m : AMap α) (k : Nat) (v : α) : mfind (mset m k v) k = some v := by simp [mfind_mset]

theorem mfind_mset_other (m : AMap α) {k j : Nat} (v : α) (h : j ≠ k) : mfind (mset m k v) j = mfind m j := by
  simp [mfind_mset, h]

@[simp] theorem mget_mset_same (m : AMap α) (k : Nat) (v d : α) : mget (mset m k v) k d = v := by simp [mget]

theorem mget_mset_other (m : AMap α) {k j : Nat} (v d : α) (h : j ≠ k) : mget (mset m k v) j d = mget m j d := by
  simp [mget, mfind_mset, h]

/-- A map read after a deletion. -/
theorem mfind_mdel (m : AMap α) (k j : Nat) : mfind (mdel m k) j = if j = k then none else mfind m j := by
  induction m with
  | nil => simp [mdel, mfind]
  | cons x m ih =>
    obtain ⟨a, b⟩ := x
    simp only [mdel] at ih ⊢
    by_cases h : a = k
    · subst h
      by_cases h3 : j = a
      · simpa [mfind, h3] using ih
      · simp [mfind, h3, ih]
    · by_cases h3 : j = a
      · have : j ≠ k := fun e => h (h3 ▸ e)
        simp [mfind, h, h3]
      · simp [mfind, h, h3, ih]

/-- A map read after a change in place. -/
theorem mfind_mmod (m : AMap α) (k j : Nat) (f : α → α) :
    mfind (mmod m k f) j = if j = k then (mfind m k).map f else mfind m j := by
  unfold mmod
  cases h : mfind m k with
  | none => by_cases h3 : j = k <;> simp [h3, h]
  | some v => simp [mfind_mset]

/-- A map read after every value has been changed by the same function of key and value. -/
theorem mfind_map (m : AMap α) (f : Nat → α → α) (j : Nat) :
    mfind (m.map (fun x => (x.1, f x.1 x.2))) j = (mfind m j).map (f j) := by
  induction m with
  | nil => simp [mfind]
  | cons x m ih =>
    obtain ⟨a, b⟩ := x
    by_cases h : j = a <;> simp [mfind, h, ih]

/-! ## Memories -/

/-- A lower bound for a memory's addresses. -/
def AboveAll (lo : Option Nat) (a : Nat) : Prop := ∀ l, lo = some l → l < a

theorem wfFrom_cons (lo : Option Nat) (a : Nat) (b : Byte) (m : Memory) :
    Memory.wfFrom lo ((a, b) :: m) = true ↔ AboveAll lo a ∧ b ≠ unlistedByte ∧ Memory.wfFrom (some a) m = true := by
  cases lo <;> simp [Memory.wfFrom, AboveAll, and_assoc]

/-- A lower bound may be lowered. -/
theorem wfFrom_mono {lo lo' : Option Nat} {m : Memory} (h : ∀ a, AboveAll lo a → AboveAll lo' a)
    (hm : Memory.wfFrom lo m = true) : Memory.wfFrom lo' m = true := by
  cases m with
  | nil => rfl
  | cons x m =>
    rw [wfFrom_cons] at hm ⊢
    exact ⟨h _ hm.1, hm.2⟩

/-- The form is kept by a write above the bound. -/
theorem wfFrom_wrByte (m : Memory) (lo : Option Nat) (a : Nat) (b : Byte) (hm : Memory.wfFrom lo m = true)
    (ha : AboveAll lo a) : Memory.wfFrom lo (wrByte m a b) = true := by
  induction m generalizing lo with
  | nil =>
    by_cases h : b = unlistedByte
    · simp [wrByte, h, Memory.wfFrom]
    · simp only [wrByte, h, if_false]
      exact (wfFrom_cons _ _ _ _).2 ⟨ha, h, rfl⟩
  | cons x m ih =>
    obtain ⟨a', b'⟩ := x
    have hx := (wfFrom_cons _ _ _ _).1 hm
    by_cases h1 : a < a'
    · by_cases h2 : b = unlistedByte
      · simpa [wrByte, h1, h2] using hm
      · simp only [wrByte, h1, h2, if_true, if_false]
        refine (wfFrom_cons _ _ _ _).2 ⟨ha, h2, (wfFrom_cons _ _ _ _).2 ⟨?_, hx.2⟩⟩
        intro l e; cases e; exact h1
    · by_cases h2 : a = a'
      · subst h2
        by_cases h3 : b = unlistedByte
        · simp only [wrByte, h3, lt_irrefl, if_true, if_false]
          refine wfFrom_mono ?_ hx.2.2
          intro c hc l e
          exact lt_trans (hx.1 l e) (hc a rfl)
        · simp only [wrByte, h3, lt_irrefl, if_true, if_false]
          exact (wfFrom_cons _ _ _ _).2 ⟨ha, h3, hx.2.2⟩
      · simp only [wrByte, h1, h2, if_false]
        refine (wfFrom_cons _ _ _ _).2 ⟨hx.1, hx.2.1, ih _ hx.2.2 ?_⟩
        intro l e; cases e; omega

/-- A write of one byte keeps the canonical form. -/
theorem wf_wrByte {m : Memory} (h : Memory.wf m = true) (a : Nat) (b : Byte) : Memory.wf (wrByte m a b) = true :=
  wfFrom_wrByte m none a b h (fun _ e => by cases e)

/-- A write of bytes keeps it. -/
theorem wf_wrBytes {m : Memory} (h : Memory.wf m = true) (a : Nat) (bs : List Byte) : Memory.wf (wrBytes m a bs) = true := by
  induction bs generalizing m a with
  | nil => exact h
  | cons b bs ih => exact ih (wf_wrByte h a b) (a + 1)

/-- A write of a number keeps it. -/
theorem wf_wrLE {m : Memory} (h : Memory.wf m = true) (a n v : Nat) : Memory.wf (wrLE m a n v) = true := wf_wrBytes h a _

/-- Dropping cells keeps it. -/
theorem wfFrom_filter (m : Memory) (lo : Option Nat) (p : Host.Cell → Bool) (hm : Memory.wfFrom lo m = true) :
    Memory.wfFrom lo (m.filter p) = true := by
  induction m generalizing lo with
  | nil => rfl
  | cons x m ih =>
    obtain ⟨a, b⟩ := x
    have hx := (wfFrom_cons _ _ _ _).1 hm
    by_cases h : p (a, b) = true
    · simp only [List.filter, h]
      exact (wfFrom_cons _ _ _ _).2 ⟨hx.1, hx.2.1, ih _ hx.2.2⟩
    · simp only [List.filter, h]
      refine ih _ (wfFrom_mono ?_ hx.2.2)
      intro c hc l e
      exact lt_trans (hx.1 l e) (hc a rfl)

theorem wf_filter {m : Memory} (h : Memory.wf m = true) (p : Host.Cell → Bool) : Memory.wf (m.filter p) = true :=
  wfFrom_filter m none p h

/-- Zeroing keeps it. -/
theorem wf_zeroBytes {m : Memory} (h : Memory.wf m = true) (a n : Nat) : Memory.wf (zeroBytes m a n) = true := wf_filter h _

/-- Below every listed address a memory reads as unlisted. -/
theorem rdByte_below {m : Memory} {lo a : Nat} (h : Memory.wfFrom (some lo) m = true) (ha : a ≤ lo) :
    rdByte m a = unlistedByte := by
  cases m with
  | nil => rfl
  | cons x m =>
    obtain ⟨a', b'⟩ := x
    have hx := ((wfFrom_cons _ _ _ _).1 h).1 lo rfl
    have h1 : a ≠ a' := by omega
    have h2 : a < a' := by omega
    simp [rdByte, h1, h2]

/-- A byte read after a write of one byte. -/
theorem rdByte_wrByteFrom (m : Memory) (lo : Option Nat) (a c : Nat) (b : Byte) (hm : Memory.wfFrom lo m = true) :
    rdByte (wrByte m a b) c = if c = a then b else rdByte m c := by
  induction m generalizing lo with
  | nil =>
    by_cases h : b = unlistedByte
    · by_cases h2 : c = a <;> simp [wrByte, h, h2, rdByte]
    · by_cases h2 : c = a
      · simp [wrByte, h, h2, rdByte]
      · by_cases h3 : c < a <;> simp [wrByte, h, h2, h3, rdByte]
  | cons x m ih =>
    obtain ⟨a', b'⟩ := x
    have hx := (wfFrom_cons _ _ _ _).1 hm
    by_cases h1 : a < a'
    · by_cases h2 : b = unlistedByte
      · by_cases h3 : c = a
        · have h4 : a ≠ a' := by omega
          simp [wrByte, h1, h2, h3, rdByte, h4]
        · simp [wrByte, h1, h2, h3]
      · by_cases h3 : c = a
        · simp [wrByte, h1, h2, h3, rdByte]
        · by_cases h4 : c < a
          · have h5 : c ≠ a' := by omega
            have h6 : c < a' := by omega
            simp [wrByte, h1, h2, h3, rdByte, h4, h5, h6]
          · simp [wrByte, h1, h2, h3, rdByte, h4]
    · by_cases h2 : a = a'
      · subst h2
        by_cases h3 : b = unlistedByte
        · by_cases h4 : c = a
          · simp [wrByte, h3, h4, rdByte_below hx.2.2 (le_refl a)]
          · by_cases h5 : c < a
            · simp [wrByte, h3, h4, h5, rdByte, rdByte_below hx.2.2 (le_of_lt h5)]
            · simp [wrByte, h3, h4, h5, rdByte]
        · by_cases h4 : c = a
          · simp [wrByte, h3, h4, rdByte]
          · by_cases h5 : c < a <;> simp [wrByte, h3, h4, h5, rdByte]
      · by_cases h3 : c = a'
        · have h4 : c ≠ a := fun e => h2 (e ▸ h3)
          simp [wrByte, h1, h2, rdByte, h3, Ne.symm h2]
        · by_cases h4 : c < a'
          · have h5 : c ≠ a := by omega
            simp [wrByte, h1, h2, rdByte, h3, h4, h5]
          · simp [wrByte, h1, h2, rdByte, h3, h4, ih _ hx.2.2]

theorem rdByte_wrByte {m : Memory} (h : Memory.wf m = true) (a c : Nat) (b : Byte) :
    rdByte (wrByte m a b) c = if c = a then b else rdByte m c := rdByte_wrByteFrom m none a c b h

/-- A byte read after a write of bytes. -/
theorem rdByte_wrBytes {m : Memory} (h : Memory.wf m = true) (a c : Nat) (bs : List Byte) :
    rdByte (wrBytes m a bs) c = if a ≤ c ∧ c < a + bs.length then bs.getD (c - a) 0 else rdByte m c := by
  induction bs generalizing m a with
  | nil => simp [wrBytes]
  | cons b bs ih =>
    simp only [wrBytes, ih (wf_wrByte h a b), rdByte_wrByte h, List.length_cons]
    by_cases h1 : c = a
    · subst h1; simp
    · by_cases h2 : a + 1 ≤ c ∧ c < a + 1 + bs.length
      · have h3 : a ≤ c ∧ c < a + (bs.length + 1) := by omega
        have h4 : c - a = (c - (a + 1)) + 1 := by omega
        simp [h2, h3, h4]
      · have h3 : ¬(a ≤ c ∧ c < a + (bs.length + 1)) := by omega
        rw [if_neg h2, if_neg h1, if_neg h3]

/-- Bytes read where they have been written. -/
theorem rdBytes_wrBytes {m : Memory} (h : Memory.wf m = true) (a : Nat) (bs : List Byte) :
    rdBytes (wrBytes m a bs) a bs.length = bs := by
  apply List.ext_getElem
  · simp [rdBytes]
  · intro i h1 h2
    simp [rdBytes, rdByte_wrBytes h, h2]

/-! ## Numbers as bytes (R4) -/

@[simp] theorem length_leBytes (n v : Nat) : (leBytes n v).length = n := by
  induction n generalizing v with
  | zero => rfl
  | succ n ih => simp [leBytes, ih]

theorem leNat_leBytes (n v : Nat) : leNat (leBytes n v) = v % 256 ^ n := by
  induction n generalizing v with
  | zero => simp [leBytes, leNat, Nat.mod_one]
  | succ n ih =>
    have e : 256 ^ (n + 1) = 256 * 256 ^ n := by ring
    simp only [leBytes, leNat, ih, BitVec.toNat_ofNat, e, Nat.mod_mul]

/-- A number read after it has been written in the same place. -/
theorem rdLE_wrLE {m : Memory} (h : Memory.wf m = true) (a n v : Nat) : rdLE (wrLE m a n v) a n = v % 256 ^ n := by
  have e : rdBytes (wrLE m a n v) a n = leBytes n v := by
    apply List.ext_getElem
    · simp [rdBytes]
    · intro i h1 h2
      have hi : i < n := by simpa using h2
      simp [rdBytes, wrLE, rdByte_wrBytes h, hi]
  rw [rdLE, e, leNat_leBytes]

/-- A number read beside a number that has been written. -/
theorem rdLE_wrLE_other {m : Memory} (h : Memory.wf m = true) (a n v c k : Nat) (hd : c + k ≤ a ∨ a + n ≤ c) :
    rdLE (wrLE m a n v) c k = rdLE m c k := by
  have e : rdBytes (wrLE m a n v) c k = rdBytes m c k := by
    apply List.map_congr_left
    intro i hi
    have hi := List.mem_range.1 hi
    have : ¬(a ≤ c + i ∧ c + i < a + n) := by omega
    simp [wrLE, rdByte_wrBytes h, this]
  rw [rdLE, rdLE, e]

/-! ## Lane values -/

@[simp] theorem laneAt_mkLanes (f : Nat → Word) {l : Nat} (h : l < 32) : laneAt (mkLanes f) l = f l := by
  simp [laneAt, mkLanes, List.getD, h]

@[simp] theorem length_mkLanes (f : Nat → Word) : (mkLanes f).length = 32 := by simp [mkLanes]

theorem laneAt_mergeLanes (m : Mask) (new old : Lanes) {l : Nat} (h : l < 32) :
    laneAt (mergeLanes m new old) l = if laneOn m l then laneAt new l else laneAt old l := by simp [mergeLanes, h]

end Sys2Proof.Machine
end

