-- ==== Sys2Proof/Laws/State.lean ====
section
/-! SUPPORT. What each update of the state leaves as it was, field by field. -/

namespace Sys2Proof.Machine

/-! ## `State.setGroup` -/

@[simp] theorem State.setGroup_cc (s : State) (core slot : Nat) (g : Group) : (s.setGroup core slot g).cc = s.cc := rfl
@[simp] theorem State.setGroup_dtime (s : State) (core slot : Nat) (g : Group) : (s.setGroup core slot g).dtime = s.dtime := rfl
@[simp] theorem State.setGroup_agenda (s : State) (core slot : Nat) (g : Group) : (s.setGroup core slot g).agenda = s.agenda := rfl
@[simp] theorem State.setGroup_focus (s : State) (core slot : Nat) (g : Group) : (s.setGroup core slot g).focus = s.focus := rfl
@[simp] theorem State.setGroup_seqFocus (s : State) (core slot : Nat) (g : Group) : (s.setGroup core slot g).seqFocus = s.seqFocus := rfl
@[simp] theorem State.setGroup_fresh (s : State) (core slot : Nat) (g : Group) : (s.setGroup core slot g).fresh = s.fresh := rfl
@[simp] theorem State.setGroup_nextId (s : State) (core slot : Nat) (g : Group) : (s.setGroup core slot g).nextId = s.nextId := rfl
@[simp] theorem State.setGroup_mem (s : State) (core slot : Nat) (g : Group) : (s.setGroup core slot g).mem = s.mem := rfl
@[simp] theorem State.setGroup_dev (s : State) (core slot : Nat) (g : Group) : (s.setGroup core slot g).dev = s.dev := rfl
@[simp] theorem State.setGroup_ctxs (s : State) (core slot : Nat) (g : Group) : (s.setGroup core slot g).ctxs = s.ctxs := rfl
@[simp] theorem State.setGroup_launches (s : State) (core slot : Nat) (g : Group) : (s.setGroup core slot g).launches = s.launches := rfl
@[simp] theorem State.setGroup_pipes (s : State) (core slot : Nat) (g : Group) : (s.setGroup core slot g).pipes = s.pipes := rfl
@[simp] theorem State.setGroup_units (s : State) (core slot : Nat) (g : Group) : (s.setGroup core slot g).units = s.units := rfl
@[simp] theorem State.setGroup_wgroups (s : State) (core slot : Nat) (g : Group) : (s.setGroup core slot g).wgroups = s.wgroups := rfl
@[simp] theorem State.setGroup_ops (s : State) (core slot : Nat) (g : Group) : (s.setGroup core slot g).ops = s.ops := rfl
@[simp] theorem State.setGroup_chains (s : State) (core slot : Nat) (g : Group) : (s.setGroup core slot g).chains = s.chains := rfl
@[simp] theorem State.setGroup_armings (s : State) (core slot : Nat) (g : Group) : (s.setGroup core slot g).armings = s.armings := rfl
@[simp] theorem State.setGroup_eops (s : State) (core slot : Nat) (g : Group) : (s.setGroup core slot g).eops = s.eops := rfl
@[simp] theorem State.setGroup_clusters (s : State) (core slot : Nat) (g : Group) : (s.setGroup core slot g).clusters = s.clusters := rfl
@[simp] theorem State.setGroup_aq (s : State) (core slot : Nat) (g : Group) : (s.setGroup core slot g).aq = s.aq := rfl
@[simp] theorem State.setGroup_l1 (s : State) (core slot : Nat) (g : Group) : (s.setGroup core slot g).l1 = s.l1 := rfl
@[simp] theorem State.setGroup_icache (s : State) (core slot : Nat) (g : Group) : (s.setGroup core slot g).icache = s.icache := rfl
@[simp] theorem State.setGroup_tlb (s : State) (core slot : Nat) (g : Group) : (s.setGroup core slot g).tlb = s.tlb := rfl
@[simp] theorem State.setGroup_lastApply (s : State) (core slot : Nat) (g : Group) : (s.setGroup core slot g).lastApply = s.lastApply := rfl
@[simp] theorem State.setGroup_lastFill (s : State) (core slot : Nat) (g : Group) : (s.setGroup core slot g).lastFill = s.lastFill := rfl
@[simp] theorem State.setGroup_scopes (s : State) (core slot : Nat) (g : Group) : (s.setGroup core slot g).scopes = s.scopes := rfl
@[simp] theorem State.setGroup_recs (s : State) (core slot : Nat) (g : Group) : (s.setGroup core slot g).recs = s.recs := rfl
@[simp] theorem State.setGroup_seqnos (s : State) (core slot : Nat) (g : Group) : (s.setGroup core slot g).seqnos = s.seqnos := rfl
@[simp] theorem State.setGroup_growq (s : State) (core slot : Nat) (g : Group) : (s.setGroup core slot g).growq = s.growq := rfl
@[simp] theorem State.setGroup_banks (s : State) (core slot : Nat) (g : Group) : (s.setGroup core slot g).banks = s.banks := rfl
@[simp] theorem State.setGroup_curBank (s : State) (core slot : Nat) (g : Group) : (s.setGroup core slot g).curBank = s.curBank := rfl
@[simp] theorem State.setGroup_scratch (s : State) (core slot : Nat) (g : Group) : (s.setGroup core slot g).scratch = s.scratch := rfl
@[simp] theorem State.setGroup_pool (s : State) (core slot : Nat) (g : Group) : (s.setGroup core slot g).pool = s.pool := rfl
@[simp] theorem State.setGroup_winPool (s : State) (core slot : Nat) (g : Group) : (s.setGroup core slot g).winPool = s.winPool := rfl
@[simp] theorem State.setGroup_sent (s : State) (core slot : Nat) (g : Group) : (s.setGroup core slot g).sent = s.sent := rfl
@[simp] theorem State.setGroup_far (s : State) (core slot : Nat) (g : Group) : (s.setGroup core slot g).far = s.far := rfl
@[simp] theorem State.setGroup_applied (s : State) (core slot : Nat) (g : Group) : (s.setGroup core slot g).applied = s.applied := rfl
@[simp] theorem State.setGroup_lastSlot (s : State) (core slot : Nat) (g : Group) : (s.setGroup core slot g).lastSlot = s.lastSlot := rfl
@[simp] theorem State.setGroup_lastTrace (s : State) (core slot : Nat) (g : Group) : (s.setGroup core slot g).lastTrace = s.lastTrace := rfl
@[simp] theorem State.setGroup_trailAt (s : State) (core slot : Nat) (g : Group) : (s.setGroup core slot g).trailAt = s.trailAt := rfl

/-! ## `State.modGroup` -/

@[simp] theorem State.modGroup_cc (s : State) (core slot : Nat) (f : Group → Group) : (s.modGroup core slot f).cc = s.cc := rfl
@[simp] theorem State.modGroup_dtime (s : State) (core slot : Nat) (f : Group → Group) : (s.modGroup core slot f).dtime = s.dtime := rfl
@[simp] theorem State.modGroup_agenda (s : State) (core slot : Nat) (f : Group → Group) : (s.modGroup core slot f).agenda = s.agenda := rfl
@[simp] theorem State.modGroup_focus (s : State) (core slot : Nat) (f : Group → Group) : (s.modGroup core slot f).focus = s.focus := rfl
@[simp] theorem State.modGroup_seqFocus (s : State) (core slot : Nat) (f : Group → Group) : (s.modGroup core slot f).seqFocus = s.seqFocus := rfl
@[simp] theorem State.modGroup_fresh (s : State) (core slot : Nat) (f : Group → Group) : (s.modGroup core slot f).fresh = s.fresh := rfl
@[simp] theorem State.modGroup_nextId (s : State) (core slot : Nat) (f : Group → Group) : (s.modGroup core slot f).nextId = s.nextId := rfl
@[simp] theorem State.modGroup_mem (s : State) (core slot : Nat) (f : Group → Group) : (s.modGroup core slot f).mem = s.mem := rfl
@[simp] theorem State.modGroup_dev (s : State) (core slot : Nat) (f : Group → Group) : (s.modGroup core slot f).dev = s.dev := rfl
@[simp] theorem State.modGroup_ctxs (s : State) (core slot : Nat) (f : Group → Group) : (s.modGroup core slot f).ctxs = s.ctxs := rfl
@[simp] theorem State.modGroup_launches (s : State) (core slot : Nat) (f : Group → Group) : (s.modGroup core slot f).launches = s.launches := rfl
@[simp] theorem State.modGroup_pipes (s : State) (core slot : Nat) (f : Group → Group) : (s.modGroup core slot f).pipes = s.pipes := rfl
@[simp] theorem State.modGroup_units (s : State) (core slot : Nat) (f : Group → Group) : (s.modGroup core slot f).units = s.units := rfl
@[simp] theorem State.modGroup_wgroups (s : State) (core slot : Nat) (f : Group → Group) : (s.modGroup core slot f).wgroups = s.wgroups := rfl
@[simp] theorem State.modGroup_ops (s : State) (core slot : Nat) (f : Group → Group) : (s.modGroup core slot f).ops = s.ops := rfl
@[simp] theorem State.modGroup_chains (s : State) (core slot : Nat) (f : Group → Group) : (s.modGroup core slot f).chains = s.chains := rfl
@[simp] theorem State.modGroup_armings (s : State) (core slot : Nat) (f : Group → Group) : (s.modGroup core slot f).armings = s.armings := rfl
@[simp] theorem State.modGroup_eops (s : State) (core slot : Nat) (f : Group → Group) : (s.modGroup core slot f).eops = s.eops := rfl
@[simp] theorem State.modGroup_clusters (s : State) (core slot : Nat) (f : Group → Group) : (s.modGroup core slot f).clusters = s.clusters := rfl
@[simp] theorem State.modGroup_aq (s : State) (core slot : Nat) (f : Group → Group) : (s.modGroup core slot f).aq = s.aq := rfl
@[simp] theorem State.modGroup_l1 (s : State) (core slot : Nat) (f : Group → Group) : (s.modGroup core slot f).l1 = s.l1 := rfl
@[simp] theorem State.modGroup_icache (s : State) (core slot : Nat) (f : Group → Group) : (s.modGroup core slot f).icache = s.icache := rfl
@[simp] theorem State.modGroup_tlb (s : State) (core slot : Nat) (f : Group → Group) : (s.modGroup core slot f).tlb = s.tlb := rfl
@[simp] theorem State.modGroup_lastApply (s : State) (core slot : Nat) (f : Group → Group) : (s.modGroup core slot f).lastApply = s.lastApply := rfl
@[simp] theorem State.modGroup_lastFill (s : State) (core slot : Nat) (f : Group → Group) : (s.modGroup core slot f).lastFill = s.lastFill := rfl
@[simp] theorem State.modGroup_scopes (s : State) (core slot : Nat) (f : Group → Group) : (s.modGroup core slot f).scopes = s.scopes := rfl
@[simp] theorem State.modGroup_recs (s : State) (core slot : Nat) (f : Group → Group) : (s.modGroup core slot f).recs = s.recs := rfl
@[simp] theorem State.modGroup_seqnos (s : State) (core slot : Nat) (f : Group → Group) : (s.modGroup core slot f).seqnos = s.seqnos := rfl
@[simp] theorem State.modGroup_growq (s : State) (core slot : Nat) (f : Group → Group) : (s.modGroup core slot f).growq = s.growq := rfl
@[simp] theorem State.modGroup_banks (s : State) (core slot : Nat) (f : Group → Group) : (s.modGroup core slot f).banks = s.banks := rfl
@[simp] theorem State.modGroup_curBank (s : State) (core slot : Nat) (f : Group → Group) : (s.modGroup core slot f).curBank = s.curBank := rfl
@[simp] theorem State.modGroup_scratch (s : State) (core slot : Nat) (f : Group → Group) : (s.modGroup core slot f).scratch = s.scratch := rfl
@[simp] theorem State.modGroup_pool (s : State) (core slot : Nat) (f : Group → Group) : (s.modGroup core slot f).pool = s.pool := rfl
@[simp] theorem State.modGroup_winPool (s : State) (core slot : Nat) (f : Group → Group) : (s.modGroup core slot f).winPool = s.winPool := rfl
@[simp] theorem State.modGroup_sent (s : State) (core slot : Nat) (f : Group → Group) : (s.modGroup core slot f).sent = s.sent := rfl
@[simp] theorem State.modGroup_far (s : State) (core slot : Nat) (f : Group → Group) : (s.modGroup core slot f).far = s.far := rfl
@[simp] theorem State.modGroup_applied (s : State) (core slot : Nat) (f : Group → Group) : (s.modGroup core slot f).applied = s.applied := rfl
@[simp] theorem State.modGroup_lastSlot (s : State) (core slot : Nat) (f : Group → Group) : (s.modGroup core slot f).lastSlot = s.lastSlot := rfl
@[simp] theorem State.modGroup_lastTrace (s : State) (core slot : Nat) (f : Group → Group) : (s.modGroup core slot f).lastTrace = s.lastTrace := rfl
@[simp] theorem State.modGroup_trailAt (s : State) (core slot : Nat) (f : Group → Group) : (s.modGroup core slot f).trailAt = s.trailAt := rfl

/-! ## `State.putRun` -/

@[simp] theorem State.putRun_cc (s : State) (c : Cur) (r : Run) : (s.putRun c r).cc = s.cc := rfl
@[simp] theorem State.putRun_dtime (s : State) (c : Cur) (r : Run) : (s.putRun c r).dtime = s.dtime := rfl
@[simp] theorem State.putRun_agenda (s : State) (c : Cur) (r : Run) : (s.putRun c r).agenda = s.agenda := rfl
@[simp] theorem State.putRun_focus (s : State) (c : Cur) (r : Run) : (s.putRun c r).focus = s.focus := rfl
@[simp] theorem State.putRun_seqFocus (s : State) (c : Cur) (r : Run) : (s.putRun c r).seqFocus = s.seqFocus := rfl
@[simp] theorem State.putRun_fresh (s : State) (c : Cur) (r : Run) : (s.putRun c r).fresh = s.fresh := rfl
@[simp] theorem State.putRun_nextId (s : State) (c : Cur) (r : Run) : (s.putRun c r).nextId = s.nextId := rfl
@[simp] theorem State.putRun_mem (s : State) (c : Cur) (r : Run) : (s.putRun c r).mem = s.mem := rfl
@[simp] theorem State.putRun_dev (s : State) (c : Cur) (r : Run) : (s.putRun c r).dev = s.dev := rfl
@[simp] theorem State.putRun_ctxs (s : State) (c : Cur) (r : Run) : (s.putRun c r).ctxs = s.ctxs := rfl
@[simp] theorem State.putRun_launches (s : State) (c : Cur) (r : Run) : (s.putRun c r).launches = s.launches := rfl
@[simp] theorem State.putRun_pipes (s : State) (c : Cur) (r : Run) : (s.putRun c r).pipes = s.pipes := rfl
@[simp] theorem State.putRun_units (s : State) (c : Cur) (r : Run) : (s.putRun c r).units = s.units := rfl
@[simp] theorem State.putRun_wgroups (s : State) (c : Cur) (r : Run) : (s.putRun c r).wgroups = s.wgroups := rfl
@[simp] theorem State.putRun_ops (s : State) (c : Cur) (r : Run) : (s.putRun c r).ops = s.ops := rfl
@[simp] theorem State.putRun_chains (s : State) (c : Cur) (r : Run) : (s.putRun c r).chains = s.chains := rfl
@[simp] theorem State.putRun_armings (s : State) (c : Cur) (r : Run) : (s.putRun c r).armings = s.armings := rfl
@[simp] theorem State.putRun_eops (s : State) (c : Cur) (r : Run) : (s.putRun c r).eops = s.eops := rfl
@[simp] theorem State.putRun_clusters (s : State) (c : Cur) (r : Run) : (s.putRun c r).clusters = s.clusters := rfl
@[simp] theorem State.putRun_aq (s : State) (c : Cur) (r : Run) : (s.putRun c r).aq = s.aq := rfl
@[simp] theorem State.putRun_l1 (s : State) (c : Cur) (r : Run) : (s.putRun c r).l1 = s.l1 := rfl
@[simp] theorem State.putRun_icache (s : State) (c : Cur) (r : Run) : (s.putRun c r).icache = s.icache := rfl
@[simp] theorem State.putRun_tlb (s : State) (c : Cur) (r : Run) : (s.putRun c r).tlb = s.tlb := rfl
@[simp] theorem State.putRun_lastApply (s : State) (c : Cur) (r : Run) : (s.putRun c r).lastApply = s.lastApply := rfl
@[simp] theorem State.putRun_lastFill (s : State) (c : Cur) (r : Run) : (s.putRun c r).lastFill = s.lastFill := rfl
@[simp] theorem State.putRun_scopes (s : State) (c : Cur) (r : Run) : (s.putRun c r).scopes = s.scopes := rfl
@[simp] theorem State.putRun_recs (s : State) (c : Cur) (r : Run) : (s.putRun c r).recs = s.recs := rfl
@[simp] theorem State.putRun_seqnos (s : State) (c : Cur) (r : Run) : (s.putRun c r).seqnos = s.seqnos := rfl
@[simp] theorem State.putRun_growq (s : State) (c : Cur) (r : Run) : (s.putRun c r).growq = s.growq := rfl
@[simp] theorem State.putRun_banks (s : State) (c : Cur) (r : Run) : (s.putRun c r).banks = s.banks := rfl
@[simp] theorem State.putRun_curBank (s : State) (c : Cur) (r : Run) : (s.putRun c r).curBank = s.curBank := rfl
@[simp] theorem State.putRun_scratch (s : State) (c : Cur) (r : Run) : (s.putRun c r).scratch = s.scratch := rfl
@[simp] theorem State.putRun_pool (s : State) (c : Cur) (r : Run) : (s.putRun c r).pool = s.pool := rfl
@[simp] theorem State.putRun_winPool (s : State) (c : Cur) (r : Run) : (s.putRun c r).winPool = s.winPool := rfl
@[simp] theorem State.putRun_sent (s : State) (c : Cur) (r : Run) : (s.putRun c r).sent = s.sent := rfl
@[simp] theorem State.putRun_far (s : State) (c : Cur) (r : Run) : (s.putRun c r).far = s.far := rfl
@[simp] theorem State.putRun_applied (s : State) (c : Cur) (r : Run) : (s.putRun c r).applied = s.applied := rfl
@[simp] theorem State.putRun_lastSlot (s : State) (c : Cur) (r : Run) : (s.putRun c r).lastSlot = s.lastSlot := rfl
@[simp] theorem State.putRun_lastTrace (s : State) (c : Cur) (r : Run) : (s.putRun c r).lastTrace = s.lastTrace := rfl
@[simp] theorem State.putRun_trailAt (s : State) (c : Cur) (r : Run) : (s.putRun c r).trailAt = s.trailAt := rfl

/-! ## `State.modWG` -/

@[simp] theorem State.modWG_cc (s : State) (core wslot : Nat) (f : WGroup → WGroup) : (s.modWG core wslot f).cc = s.cc := rfl
@[simp] theorem State.modWG_dtime (s : State) (core wslot : Nat) (f : WGroup → WGroup) : (s.modWG core wslot f).dtime = s.dtime := rfl
@[simp] theorem State.modWG_agenda (s : State) (core wslot : Nat) (f : WGroup → WGroup) : (s.modWG core wslot f).agenda = s.agenda := rfl
@[simp] theorem State.modWG_focus (s : State) (core wslot : Nat) (f : WGroup → WGroup) : (s.modWG core wslot f).focus = s.focus := rfl
@[simp] theorem State.modWG_seqFocus (s : State) (core wslot : Nat) (f : WGroup → WGroup) : (s.modWG core wslot f).seqFocus = s.seqFocus := rfl
@[simp] theorem State.modWG_fresh (s : State) (core wslot : Nat) (f : WGroup → WGroup) : (s.modWG core wslot f).fresh = s.fresh := rfl
@[simp] theorem State.modWG_nextId (s : State) (core wslot : Nat) (f : WGroup → WGroup) : (s.modWG core wslot f).nextId = s.nextId := rfl
@[simp] theorem State.modWG_mem (s : State) (core wslot : Nat) (f : WGroup → WGroup) : (s.modWG core wslot f).mem = s.mem := rfl
@[simp] theorem State.modWG_dev (s : State) (core wslot : Nat) (f : WGroup → WGroup) : (s.modWG core wslot f).dev = s.dev := rfl
@[simp] theorem State.modWG_ctxs (s : State) (core wslot : Nat) (f : WGroup → WGroup) : (s.modWG core wslot f).ctxs = s.ctxs := rfl
@[simp] theorem State.modWG_launches (s : State) (core wslot : Nat) (f : WGroup → WGroup) : (s.modWG core wslot f).launches = s.launches := rfl
@[simp] theorem State.modWG_pipes (s : State) (core wslot : Nat) (f : WGroup → WGroup) : (s.modWG core wslot f).pipes = s.pipes := rfl
@[simp] theorem State.modWG_units (s : State) (core wslot : Nat) (f : WGroup → WGroup) : (s.modWG core wslot f).units = s.units := rfl
@[simp] theorem State.modWG_groups (s : State) (core wslot : Nat) (f : WGroup → WGroup) : (s.modWG core wslot f).groups = s.groups := rfl
@[simp] theorem State.modWG_ops (s : State) (core wslot : Nat) (f : WGroup → WGroup) : (s.modWG core wslot f).ops = s.ops := rfl
@[simp] theorem State.modWG_chains (s : State) (core wslot : Nat) (f : WGroup → WGroup) : (s.modWG core wslot f).chains = s.chains := rfl
@[simp] theorem State.modWG_armings (s : State) (core wslot : Nat) (f : WGroup → WGroup) : (s.modWG core wslot f).armings = s.armings := rfl
@[simp] theorem State.modWG_eops (s : State) (core wslot : Nat) (f : WGroup → WGroup) : (s.modWG core wslot f).eops = s.eops := rfl
@[simp] theorem State.modWG_clusters (s : State) (core wslot : Nat) (f : WGroup → WGroup) : (s.modWG core wslot f).clusters = s.clusters := rfl
@[simp] theorem State.modWG_aq (s : State) (core wslot : Nat) (f : WGroup → WGroup) : (s.modWG core wslot f).aq = s.aq := rfl
@[simp] theorem State.modWG_l1 (s : State) (core wslot : Nat) (f : WGroup → WGroup) : (s.modWG core wslot f).l1 = s.l1 := rfl
@[simp] theorem State.modWG_icache (s : State) (core wslot : Nat) (f : WGroup → WGroup) : (s.modWG core wslot f).icache = s.icache := rfl
@[simp] theorem State.modWG_tlb (s : State) (core wslot : Nat) (f : WGroup → WGroup) : (s.modWG core wslot f).tlb = s.tlb := rfl
@[simp] theorem State.modWG_lastApply (s : State) (core wslot : Nat) (f : WGroup → WGroup) : (s.modWG core wslot f).lastApply = s.lastApply := rfl
@[simp] theorem State.modWG_lastFill (s : State) (core wslot : Nat) (f : WGroup → WGroup) : (s.modWG core wslot f).lastFill = s.lastFill := rfl
@[simp] theorem State.modWG_scopes (s : State) (core wslot : Nat) (f : WGroup → WGroup) : (s.modWG core wslot f).scopes = s.scopes := rfl
@[simp] theorem State.modWG_recs (s : State) (core wslot : Nat) (f : WGroup → WGroup) : (s.modWG core wslot f).recs = s.recs := rfl
@[simp] theorem State.modWG_seqnos (s : State) (core wslot : Nat) (f : WGroup → WGroup) : (s.modWG core wslot f).seqnos = s.seqnos := rfl
@[simp] theorem State.modWG_growq (s : State) (core wslot : Nat) (f : WGroup → WGroup) : (s.modWG core wslot f).growq = s.growq := rfl
@[simp] theorem State.modWG_banks (s : State) (core wslot : Nat) (f : WGroup → WGroup) : (s.modWG core wslot f).banks = s.banks := rfl
@[simp] theorem State.modWG_curBank (s : State) (core wslot : Nat) (f : WGroup → WGroup) : (s.modWG core wslot f).curBank = s.curBank := rfl
@[simp] theorem State.modWG_scratch (s : State) (core wslot : Nat) (f : WGroup → WGroup) : (s.modWG core wslot f).scratch = s.scratch := rfl
@[simp] theorem State.modWG_pool (s : State) (core wslot : Nat) (f : WGroup → WGroup) : (s.modWG core wslot f).pool = s.pool := rfl
@[simp] theorem State.modWG_winPool (s : State) (core wslot : Nat) (f : WGroup → WGroup) : (s.modWG core wslot f).winPool = s.winPool := rfl
@[simp] theorem State.modWG_sent (s : State) (core wslot : Nat) (f : WGroup → WGroup) : (s.modWG core wslot f).sent = s.sent := rfl
@[simp] theorem State.modWG_far (s : State) (core wslot : Nat) (f : WGroup → WGroup) : (s.modWG core wslot f).far = s.far := rfl
@[simp] theorem State.modWG_applied (s : State) (core wslot : Nat) (f : WGroup → WGroup) : (s.modWG core wslot f).applied = s.applied := rfl
@[simp] theorem State.modWG_lastSlot (s : State) (core wslot : Nat) (f : WGroup → WGroup) : (s.modWG core wslot f).lastSlot = s.lastSlot := rfl
@[simp] theorem State.modWG_lastTrace (s : State) (core wslot : Nat) (f : WGroup → WGroup) : (s.modWG core wslot f).lastTrace = s.lastTrace := rfl
@[simp] theorem State.modWG_trailAt (s : State) (core wslot : Nat) (f : WGroup → WGroup) : (s.modWG core wslot f).trailAt = s.trailAt := rfl

/-! ## `State.setCtx` -/

@[simp] theorem State.setCtx_cc (s : State) (guest : Nat) (x : Ctx) : (s.setCtx guest x).cc = s.cc := rfl
@[simp] theorem State.setCtx_dtime (s : State) (guest : Nat) (x : Ctx) : (s.setCtx guest x).dtime = s.dtime := rfl
@[simp] theorem State.setCtx_agenda (s : State) (guest : Nat) (x : Ctx) : (s.setCtx guest x).agenda = s.agenda := rfl
@[simp] theorem State.setCtx_focus (s : State) (guest : Nat) (x : Ctx) : (s.setCtx guest x).focus = s.focus := rfl
@[simp] theorem State.setCtx_seqFocus (s : State) (guest : Nat) (x : Ctx) : (s.setCtx guest x).seqFocus = s.seqFocus := rfl
@[simp] theorem State.setCtx_fresh (s : State) (guest : Nat) (x : Ctx) : (s.setCtx guest x).fresh = s.fresh := rfl
@[simp] theorem State.setCtx_nextId (s : State) (guest : Nat) (x : Ctx) : (s.setCtx guest x).nextId = s.nextId := rfl
@[simp] theorem State.setCtx_mem (s : State) (guest : Nat) (x : Ctx) : (s.setCtx guest x).mem = s.mem := rfl
@[simp] theorem State.setCtx_dev (s : State) (guest : Nat) (x : Ctx) : (s.setCtx guest x).dev = s.dev := rfl
@[simp] theorem State.setCtx_launches (s : State) (guest : Nat) (x : Ctx) : (s.setCtx guest x).launches = s.launches := rfl
@[simp] theorem State.setCtx_pipes (s : State) (guest : Nat) (x : Ctx) : (s.setCtx guest x).pipes = s.pipes := rfl
@[simp] theorem State.setCtx_units (s : State) (guest : Nat) (x : Ctx) : (s.setCtx guest x).units = s.units := rfl
@[simp] theorem State.setCtx_groups (s : State) (guest : Nat) (x : Ctx) : (s.setCtx guest x).groups = s.groups := rfl
@[simp] theorem State.setCtx_wgroups (s : State) (guest : Nat) (x : Ctx) : (s.setCtx guest x).wgroups = s.wgroups := rfl
@[simp] theorem State.setCtx_ops (s : State) (guest : Nat) (x : Ctx) : (s.setCtx guest x).ops = s.ops := rfl
@[simp] theorem State.setCtx_chains (s : State) (guest : Nat) (x : Ctx) : (s.setCtx guest x).chains = s.chains := rfl
@[simp] theorem State.setCtx_armings (s : State) (guest : Nat) (x : Ctx) : (s.setCtx guest x).armings = s.armings := rfl
@[simp] theorem State.setCtx_eops (s : State) (guest : Nat) (x : Ctx) : (s.setCtx guest x).eops = s.eops := rfl
@[simp] theorem State.setCtx_clusters (s : State) (guest : Nat) (x : Ctx) : (s.setCtx guest x).clusters = s.clusters := rfl
@[simp] theorem State.setCtx_aq (s : State) (guest : Nat) (x : Ctx) : (s.setCtx guest x).aq = s.aq := rfl
@[simp] theorem State.setCtx_l1 (s : State) (guest : Nat) (x : Ctx) : (s.setCtx guest x).l1 = s.l1 := rfl
@[simp] theorem State.setCtx_icache (s : State) (guest : Nat) (x : Ctx) : (s.setCtx guest x).icache = s.icache := rfl
@[simp] theorem State.setCtx_tlb (s : State) (guest : Nat) (x : Ctx) : (s.setCtx guest x).tlb = s.tlb := rfl
@[simp] theorem State.setCtx_lastApply (s : State) (guest : Nat) (x : Ctx) : (s.setCtx guest x).lastApply = s.lastApply := rfl
@[simp] theorem State.setCtx_lastFill (s : State) (guest : Nat) (x : Ctx) : (s.setCtx guest x).lastFill = s.lastFill := rfl
@[simp] theorem State.setCtx_scopes (s : State) (guest : Nat) (x : Ctx) : (s.setCtx guest x).scopes = s.scopes := rfl
@[simp] theorem State.setCtx_recs (s : State) (guest : Nat) (x : Ctx) : (s.setCtx guest x).recs = s.recs := rfl
@[simp] theorem State.setCtx_seqnos (s : State) (guest : Nat) (x : Ctx) : (s.setCtx guest x).seqnos = s.seqnos := rfl
@[simp] theorem State.setCtx_growq (s : State) (guest : Nat) (x : Ctx) : (s.setCtx guest x).growq = s.growq := rfl
@[simp] theorem State.setCtx_banks (s : State) (guest : Nat) (x : Ctx) : (s.setCtx guest x).banks = s.banks := rfl
@[simp] theorem State.setCtx_curBank (s : State) (guest : Nat) (x : Ctx) : (s.setCtx guest x).curBank = s.curBank := rfl
@[simp] theorem State.setCtx_scratch (s : State) (guest : Nat) (x : Ctx) : (s.setCtx guest x).scratch = s.scratch := rfl
@[simp] theorem State.setCtx_pool (s : State) (guest : Nat) (x : Ctx) : (s.setCtx guest x).pool = s.pool := rfl
@[simp] theorem State.setCtx_winPool (s : State) (guest : Nat) (x : Ctx) : (s.setCtx guest x).winPool = s.winPool := rfl
@[simp] theorem State.setCtx_sent (s : State) (guest : Nat) (x : Ctx) : (s.setCtx guest x).sent = s.sent := rfl
@[simp] theorem State.setCtx_far (s : State) (guest : Nat) (x : Ctx) : (s.setCtx guest x).far = s.far := rfl
@[simp] theorem State.setCtx_applied (s : State) (guest : Nat) (x : Ctx) : (s.setCtx guest x).applied = s.applied := rfl
@[simp] theorem State.setCtx_lastSlot (s : State) (guest : Nat) (x : Ctx) : (s.setCtx guest x).lastSlot = s.lastSlot := rfl
@[simp] theorem State.setCtx_lastTrace (s : State) (guest : Nat) (x : Ctx) : (s.setCtx guest x).lastTrace = s.lastTrace := rfl
@[simp] theorem State.setCtx_trailAt (s : State) (guest : Nat) (x : Ctx) : (s.setCtx guest x).trailAt = s.trailAt := rfl

/-! ## `State.modCtx` -/

@[simp] theorem State.modCtx_cc (s : State) (guest : Nat) (f : Ctx → Ctx) : (s.modCtx guest f).cc = s.cc := rfl
@[simp] theorem State.modCtx_dtime (s : State) (guest : Nat) (f : Ctx → Ctx) : (s.modCtx guest f).dtime = s.dtime := rfl
@[simp] theorem State.modCtx_agenda (s : State) (guest : Nat) (f : Ctx → Ctx) : (s.modCtx guest f).agenda = s.agenda := rfl
@[simp] theorem State.modCtx_focus (s : State) (guest : Nat) (f : Ctx → Ctx) : (s.modCtx guest f).focus = s.focus := rfl
@[simp] theorem State.modCtx_seqFocus (s : State) (guest : Nat) (f : Ctx → Ctx) : (s.modCtx guest f).seqFocus = s.seqFocus := rfl
@[simp] theorem State.modCtx_fresh (s : State) (guest : Nat) (f : Ctx → Ctx) : (s.modCtx guest f).fresh = s.fresh := rfl
@[simp] theorem State.modCtx_nextId (s : State) (guest : Nat) (f : Ctx → Ctx) : (s.modCtx guest f).nextId = s.nextId := rfl
@[simp] theorem State.modCtx_mem (s : State) (guest : Nat) (f : Ctx → Ctx) : (s.modCtx guest f).mem = s.mem := rfl
@[simp] theorem State.modCtx_dev (s : State) (guest : Nat) (f : Ctx → Ctx) : (s.modCtx guest f).dev = s.dev := rfl
@[simp] theorem State.modCtx_launches (s : State) (guest : Nat) (f : Ctx → Ctx) : (s.modCtx guest f).launches = s.launches := rfl
@[simp] theorem State.modCtx_pipes (s : State) (guest : Nat) (f : Ctx → Ctx) : (s.modCtx guest f).pipes = s.pipes := rfl
@[simp] theorem State.modCtx_units (s : State) (guest : Nat) (f : Ctx → Ctx) : (s.modCtx guest f).units = s.units := rfl
@[simp] theorem State.modCtx_groups (s : State) (guest : Nat) (f : Ctx → Ctx) : (s.modCtx guest f).groups = s.groups := rfl
@[simp] theorem State.modCtx_wgroups (s : State) (guest : Nat) (f : Ctx → Ctx) : (s.modCtx guest f).wgroups = s.wgroups := rfl
@[simp] theorem State.modCtx_ops (s : State) (guest : Nat) (f : Ctx → Ctx) : (s.modCtx guest f).ops = s.ops := rfl
@[simp] theorem State.modCtx_chains (s : State) (guest : Nat) (f : Ctx → Ctx) : (s.modCtx guest f).chains = s.chains := rfl
@[simp] theorem State.modCtx_armings (s : State) (guest : Nat) (f : Ctx → Ctx) : (s.modCtx guest f).armings = s.armings := rfl
@[simp] theorem State.modCtx_eops (s : State) (guest : Nat) (f : Ctx → Ctx) : (s.modCtx guest f).eops = s.eops := rfl
@[simp] theorem State.modCtx_clusters (s : State) (guest : Nat) (f : Ctx → Ctx) : (s.modCtx guest f).clusters = s.clusters := rfl
@[simp] theorem State.modCtx_aq (s : State) (guest : Nat) (f : Ctx → Ctx) : (s.modCtx guest f).aq = s.aq := rfl
@[simp] theorem State.modCtx_l1 (s : State) (guest : Nat) (f : Ctx → Ctx) : (s.modCtx guest f).l1 = s.l1 := rfl
@[simp] theorem State.modCtx_icache (s : State) (guest : Nat) (f : Ctx → Ctx) : (s.modCtx guest f).icache = s.icache := rfl
@[simp] theorem State.modCtx_tlb (s : State) (guest : Nat) (f : Ctx → Ctx) : (s.modCtx guest f).tlb = s.tlb := rfl
@[simp] theorem State.modCtx_lastApply (s : State) (guest : Nat) (f : Ctx → Ctx) : (s.modCtx guest f).lastApply = s.lastApply := rfl
@[simp] theorem State.modCtx_lastFill (s : State) (guest : Nat) (f : Ctx → Ctx) : (s.modCtx guest f).lastFill = s.lastFill := rfl
@[simp] theorem State.modCtx_scopes (s : State) (guest : Nat) (f : Ctx → Ctx) : (s.modCtx guest f).scopes = s.scopes := rfl
@[simp] theorem State.modCtx_recs (s : State) (guest : Nat) (f : Ctx → Ctx) : (s.modCtx guest f).recs = s.recs := rfl
@[simp] theorem State.modCtx_seqnos (s : State) (guest : Nat) (f : Ctx → Ctx) : (s.modCtx guest f).seqnos = s.seqnos := rfl
@[simp] theorem State.modCtx_growq (s : State) (guest : Nat) (f : Ctx → Ctx) : (s.modCtx guest f).growq = s.growq := rfl
@[simp] theorem State.modCtx_banks (s : State) (guest : Nat) (f : Ctx → Ctx) : (s.modCtx guest f).banks = s.banks := rfl
@[simp] theorem State.modCtx_curBank (s : State) (guest : Nat) (f : Ctx → Ctx) : (s.modCtx guest f).curBank = s.curBank := rfl
@[simp] theorem State.modCtx_scratch (s : State) (guest : Nat) (f : Ctx → Ctx) : (s.modCtx guest f).scratch = s.scratch := rfl
@[simp] theorem State.modCtx_pool (s : State) (guest : Nat) (f : Ctx → Ctx) : (s.modCtx guest f).pool = s.pool := rfl
@[simp] theorem State.modCtx_winPool (s : State) (guest : Nat) (f : Ctx → Ctx) : (s.modCtx guest f).winPool = s.winPool := rfl
@[simp] theorem State.modCtx_sent (s : State) (guest : Nat) (f : Ctx → Ctx) : (s.modCtx guest f).sent = s.sent := rfl
@[simp] theorem State.modCtx_far (s : State) (guest : Nat) (f : Ctx → Ctx) : (s.modCtx guest f).far = s.far := rfl
@[simp] theorem State.modCtx_applied (s : State) (guest : Nat) (f : Ctx → Ctx) : (s.modCtx guest f).applied = s.applied := rfl
@[simp] theorem State.modCtx_lastSlot (s : State) (guest : Nat) (f : Ctx → Ctx) : (s.modCtx guest f).lastSlot = s.lastSlot := rfl
@[simp] theorem State.modCtx_lastTrace (s : State) (guest : Nat) (f : Ctx → Ctx) : (s.modCtx guest f).lastTrace = s.lastTrace := rfl
@[simp] theorem State.modCtx_trailAt (s : State) (guest : Nat) (f : Ctx → Ctx) : (s.modCtx guest f).trailAt = s.trailAt := rfl

/-! ## `State.modCluster` -/

@[simp] theorem State.modCluster_cc (s : State) (n : Nat) (f : Cluster → Cluster) : (s.modCluster n f).cc = s.cc := rfl
@[simp] theorem State.modCluster_dtime (s : State) (n : Nat) (f : Cluster → Cluster) : (s.modCluster n f).dtime = s.dtime := rfl
@[simp] theorem State.modCluster_agenda (s : State) (n : Nat) (f : Cluster → Cluster) : (s.modCluster n f).agenda = s.agenda := rfl
@[simp] theorem State.modCluster_focus (s : State) (n : Nat) (f : Cluster → Cluster) : (s.modCluster n f).focus = s.focus := rfl
@[simp] theorem State.modCluster_seqFocus (s : State) (n : Nat) (f : Cluster → Cluster) : (s.modCluster n f).seqFocus = s.seqFocus := rfl
@[simp] theorem State.modCluster_fresh (s : State) (n : Nat) (f : Cluster → Cluster) : (s.modCluster n f).fresh = s.fresh := rfl
@[simp] theorem State.modCluster_nextId (s : State) (n : Nat) (f : Cluster → Cluster) : (s.modCluster n f).nextId = s.nextId := rfl
@[simp] theorem State.modCluster_mem (s : State) (n : Nat) (f : Cluster → Cluster) : (s.modCluster n f).mem = s.mem := rfl
@[simp] theorem State.modCluster_dev (s : State) (n : Nat) (f : Cluster → Cluster) : (s.modCluster n f).dev = s.dev := rfl
@[simp] theorem State.modCluster_ctxs (s : State) (n : Nat) (f : Cluster → Cluster) : (s.modCluster n f).ctxs = s.ctxs := rfl
@[simp] theorem State.modCluster_launches (s : State) (n : Nat) (f : Cluster → Cluster) : (s.modCluster n f).launches = s.launches := rfl
@[simp] theorem State.modCluster_pipes (s : State) (n : Nat) (f : Cluster → Cluster) : (s.modCluster n f).pipes = s.pipes := rfl
@[simp] theorem State.modCluster_units (s : State) (n : Nat) (f : Cluster → Cluster) : (s.modCluster n f).units = s.units := rfl
@[simp] theorem State.modCluster_groups (s : State) (n : Nat) (f : Cluster → Cluster) : (s.modCluster n f).groups = s.groups := rfl
@[simp] theorem State.modCluster_wgroups (s : State) (n : Nat) (f : Cluster → Cluster) : (s.modCluster n f).wgroups = s.wgroups := rfl
@[simp] theorem State.modCluster_ops (s : State) (n : Nat) (f : Cluster → Cluster) : (s.modCluster n f).ops = s.ops := rfl
@[simp] theorem State.modCluster_chains (s : State) (n : Nat) (f : Cluster → Cluster) : (s.modCluster n f).chains = s.chains := rfl
@[simp] theorem State.modCluster_armings (s : State) (n : Nat) (f : Cluster → Cluster) : (s.modCluster n f).armings = s.armings := rfl
@[simp] theorem State.modCluster_eops (s : State) (n : Nat) (f : Cluster → Cluster) : (s.modCluster n f).eops = s.eops := rfl
@[simp] theorem State.modCluster_aq (s : State) (n : Nat) (f : Cluster → Cluster) : (s.modCluster n f).aq = s.aq := rfl
@[simp] theorem State.modCluster_l1 (s : State) (n : Nat) (f : Cluster → Cluster) : (s.modCluster n f).l1 = s.l1 := rfl
@[simp] theorem State.modCluster_icache (s : State) (n : Nat) (f : Cluster → Cluster) : (s.modCluster n f).icache = s.icache := rfl
@[simp] theorem State.modCluster_tlb (s : State) (n : Nat) (f : Cluster → Cluster) : (s.modCluster n f).tlb = s.tlb := rfl
@[simp] theorem State.modCluster_lastApply (s : State) (n : Nat) (f : Cluster → Cluster) : (s.modCluster n f).lastApply = s.lastApply := rfl
@[simp] theorem State.modCluster_lastFill (s : State) (n : Nat) (f : Cluster → Cluster) : (s.modCluster n f).lastFill = s.lastFill := rfl
@[simp] theorem State.modCluster_scopes (s : State) (n : Nat) (f : Cluster → Cluster) : (s.modCluster n f).scopes = s.scopes := rfl
@[simp] theorem State.modCluster_recs (s : State) (n : Nat) (f : Cluster → Cluster) : (s.modCluster n f).recs = s.recs := rfl
@[simp] theorem State.modCluster_seqnos (s : State) (n : Nat) (f : Cluster → Cluster) : (s.modCluster n f).seqnos = s.seqnos := rfl
@[simp] theorem State.modCluster_growq (s : State) (n : Nat) (f : Cluster → Cluster) : (s.modCluster n f).growq = s.growq := rfl
@[simp] theorem State.modCluster_banks (s : State) (n : Nat) (f : Cluster → Cluster) : (s.modCluster n f).banks = s.banks := rfl
@[simp] theorem State.modCluster_curBank (s : State) (n : Nat) (f : Cluster → Cluster) : (s.modCluster n f).curBank = s.curBank := rfl
@[simp] theorem State.modCluster_scratch (s : State) (n : Nat) (f : Cluster → Cluster) : (s.modCluster n f).scratch = s.scratch := rfl
@[simp] theorem State.modCluster_pool (s : State) (n : Nat) (f : Cluster → Cluster) : (s.modCluster n f).pool = s.pool := rfl
@[simp] theorem State.modCluster_winPool (s : State) (n : Nat) (f : Cluster → Cluster) : (s.modCluster n f).winPool = s.winPool := rfl
@[simp] theorem State.modCluster_sent (s : State) (n : Nat) (f : Cluster → Cluster) : (s.modCluster n f).sent = s.sent := rfl
@[simp] theorem State.modCluster_far (s : State) (n : Nat) (f : Cluster → Cluster) : (s.modCluster n f).far = s.far := rfl
@[simp] theorem State.modCluster_applied (s : State) (n : Nat) (f : Cluster → Cluster) : (s.modCluster n f).applied = s.applied := rfl
@[simp] theorem State.modCluster_lastSlot (s : State) (n : Nat) (f : Cluster → Cluster) : (s.modCluster n f).lastSlot = s.lastSlot := rfl
@[simp] theorem State.modCluster_lastTrace (s : State) (n : Nat) (f : Cluster → Cluster) : (s.modCluster n f).lastTrace = s.lastTrace := rfl
@[simp] theorem State.modCluster_trailAt (s : State) (n : Nat) (f : Cluster → Cluster) : (s.modCluster n f).trailAt = s.trailAt := rfl

/-! ## `State.setScratch` -/

@[simp] theorem State.setScratch_cc (s : State) (core : Nat) (m : Memory) : (s.setScratch core m).cc = s.cc := rfl
@[simp] theorem State.setScratch_dtime (s : State) (core : Nat) (m : Memory) : (s.setScratch core m).dtime = s.dtime := rfl
@[simp] theorem State.setScratch_agenda (s : State) (core : Nat) (m : Memory) : (s.setScratch core m).agenda = s.agenda := rfl
@[simp] theorem State.setScratch_focus (s : State) (core : Nat) (m : Memory) : (s.setScratch core m).focus = s.focus := rfl
@[simp] theorem State.setScratch_seqFocus (s : State) (core : Nat) (m : Memory) : (s.setScratch core m).seqFocus = s.seqFocus := rfl
@[simp] theorem State.setScratch_fresh (s : State) (core : Nat) (m : Memory) : (s.setScratch core m).fresh = s.fresh := rfl
@[simp] theorem State.setScratch_nextId (s : State) (core : Nat) (m : Memory) : (s.setScratch core m).nextId = s.nextId := rfl
@[simp] theorem State.setScratch_mem (s : State) (core : Nat) (m : Memory) : (s.setScratch core m).mem = s.mem := rfl
@[simp] theorem State.setScratch_dev (s : State) (core : Nat) (m : Memory) : (s.setScratch core m).dev = s.dev := rfl
@[simp] theorem State.setScratch_ctxs (s : State) (core : Nat) (m : Memory) : (s.setScratch core m).ctxs = s.ctxs := rfl
@[simp] theorem State.setScratch_launches (s : State) (core : Nat) (m : Memory) : (s.setScratch core m).launches = s.launches := rfl
@[simp] theorem State.setScratch_pipes (s : State) (core : Nat) (m : Memory) : (s.setScratch core m).pipes = s.pipes := rfl
@[simp] theorem State.setScratch_units (s : State) (core : Nat) (m : Memory) : (s.setScratch core m).units = s.units := rfl
@[simp] theorem State.setScratch_groups (s : State) (core : Nat) (m : Memory) : (s.setScratch core m).groups = s.groups := rfl
@[simp] theorem State.setScratch_wgroups (s : State) (core : Nat) (m : Memory) : (s.setScratch core m).wgroups = s.wgroups := rfl
@[simp] theorem State.setScratch_ops (s : State) (core : Nat) (m : Memory) : (s.setScratch core m).ops = s.ops := rfl
@[simp] theorem State.setScratch_chains (s : State) (core : Nat) (m : Memory) : (s.setScratch core m).chains = s.chains := rfl
@[simp] theorem State.setScratch_armings (s : State) (core : Nat) (m : Memory) : (s.setScratch core m).armings = s.armings := rfl
@[simp] theorem State.setScratch_eops (s : State) (core : Nat) (m : Memory) : (s.setScratch core m).eops = s.eops := rfl
@[simp] theorem State.setScratch_clusters (s : State) (core : Nat) (m : Memory) : (s.setScratch core m).clusters = s.clusters := rfl
@[simp] theorem State.setScratch_aq (s : State) (core : Nat) (m : Memory) : (s.setScratch core m).aq = s.aq := rfl
@[simp] theorem State.setScratch_l1 (s : State) (core : Nat) (m : Memory) : (s.setScratch core m).l1 = s.l1 := rfl
@[simp] theorem State.setScratch_icache (s : State) (core : Nat) (m : Memory) : (s.setScratch core m).icache = s.icache := rfl
@[simp] theorem State.setScratch_tlb (s : State) (core : Nat) (m : Memory) : (s.setScratch core m).tlb = s.tlb := rfl
@[simp] theorem State.setScratch_lastApply (s : State) (core : Nat) (m : Memory) : (s.setScratch core m).lastApply = s.lastApply := rfl
@[simp] theorem State.setScratch_lastFill (s : State) (core : Nat) (m : Memory) : (s.setScratch core m).lastFill = s.lastFill := rfl
@[simp] theorem State.setScratch_scopes (s : State) (core : Nat) (m : Memory) : (s.setScratch core m).scopes = s.scopes := rfl
@[simp] theorem State.setScratch_recs (s : State) (core : Nat) (m : Memory) : (s.setScratch core m).recs = s.recs := rfl
@[simp] theorem State.setScratch_seqnos (s : State) (core : Nat) (m : Memory) : (s.setScratch core m).seqnos = s.seqnos := rfl
@[simp] theorem State.setScratch_growq (s : State) (core : Nat) (m : Memory) : (s.setScratch core m).growq = s.growq := rfl
@[simp] theorem State.setScratch_banks (s : State) (core : Nat) (m : Memory) : (s.setScratch core m).banks = s.banks := rfl
@[simp] theorem State.setScratch_curBank (s : State) (core : Nat) (m : Memory) : (s.setScratch core m).curBank = s.curBank := rfl
@[simp] theorem State.setScratch_pool (s : State) (core : Nat) (m : Memory) : (s.setScratch core m).pool = s.pool := rfl
@[simp] theorem State.setScratch_winPool (s : State) (core : Nat) (m : Memory) : (s.setScratch core m).winPool = s.winPool := rfl
@[simp] theorem State.setScratch_sent (s : State) (core : Nat) (m : Memory) : (s.setScratch core m).sent = s.sent := rfl
@[simp] theorem State.setScratch_far (s : State) (core : Nat) (m : Memory) : (s.setScratch core m).far = s.far := rfl
@[simp] theorem State.setScratch_applied (s : State) (core : Nat) (m : Memory) : (s.setScratch core m).applied = s.applied := rfl
@[simp] theorem State.setScratch_lastSlot (s : State) (core : Nat) (m : Memory) : (s.setScratch core m).lastSlot = s.lastSlot := rfl
@[simp] theorem State.setScratch_lastTrace (s : State) (core : Nat) (m : Memory) : (s.setScratch core m).lastTrace = s.lastTrace := rfl
@[simp] theorem State.setScratch_trailAt (s : State) (core : Nat) (m : Memory) : (s.setScratch core m).trailAt = s.trailAt := rfl

/-! ## `State.modOp` -/

@[simp] theorem State.modOp_cc (s : State) (id : Nat) (f : Op → Op) : (s.modOp id f).cc = s.cc := rfl
@[simp] theorem State.modOp_dtime (s : State) (id : Nat) (f : Op → Op) : (s.modOp id f).dtime = s.dtime := rfl
@[simp] theorem State.modOp_agenda (s : State) (id : Nat) (f : Op → Op) : (s.modOp id f).agenda = s.agenda := rfl
@[simp] theorem State.modOp_focus (s : State) (id : Nat) (f : Op → Op) : (s.modOp id f).focus = s.focus := rfl
@[simp] theorem State.modOp_seqFocus (s : State) (id : Nat) (f : Op → Op) : (s.modOp id f).seqFocus = s.seqFocus := rfl
@[simp] theorem State.modOp_fresh (s : State) (id : Nat) (f : Op → Op) : (s.modOp id f).fresh = s.fresh := rfl
@[simp] theorem State.modOp_nextId (s : State) (id : Nat) (f : Op → Op) : (s.modOp id f).nextId = s.nextId := rfl
@[simp] theorem State.modOp_mem (s : State) (id : Nat) (f : Op → Op) : (s.modOp id f).mem = s.mem := rfl
@[simp] theorem State.modOp_dev (s : State) (id : Nat) (f : Op → Op) : (s.modOp id f).dev = s.dev := rfl
@[simp] theorem State.modOp_ctxs (s : State) (id : Nat) (f : Op → Op) : (s.modOp id f).ctxs = s.ctxs := rfl
@[simp] theorem State.modOp_launches (s : State) (id : Nat) (f : Op → Op) : (s.modOp id f).launches = s.launches := rfl
@[simp] theorem State.modOp_pipes (s : State) (id : Nat) (f : Op → Op) : (s.modOp id f).pipes = s.pipes := rfl
@[simp] theorem State.modOp_units (s : State) (id : Nat) (f : Op → Op) : (s.modOp id f).units = s.units := rfl
@[simp] theorem State.modOp_groups (s : State) (id : Nat) (f : Op → Op) : (s.modOp id f).groups = s.groups := rfl
@[simp] theorem State.modOp_wgroups (s : State) (id : Nat) (f : Op → Op) : (s.modOp id f).wgroups = s.wgroups := rfl
@[simp] theorem State.modOp_chains (s : State) (id : Nat) (f : Op → Op) : (s.modOp id f).chains = s.chains := rfl
@[simp] theorem State.modOp_armings (s : State) (id : Nat) (f : Op → Op) : (s.modOp id f).armings = s.armings := rfl
@[simp] theorem State.modOp_eops (s : State) (id : Nat) (f : Op → Op) : (s.modOp id f).eops = s.eops := rfl
@[simp] theorem State.modOp_clusters (s : State) (id : Nat) (f : Op → Op) : (s.modOp id f).clusters = s.clusters := rfl
@[simp] theorem State.modOp_aq (s : State) (id : Nat) (f : Op → Op) : (s.modOp id f).aq = s.aq := rfl
@[simp] theorem State.modOp_l1 (s : State) (id : Nat) (f : Op → Op) : (s.modOp id f).l1 = s.l1 := rfl
@[simp] theorem State.modOp_icache (s : State) (id : Nat) (f : Op → Op) : (s.modOp id f).icache = s.icache := rfl
@[simp] theorem State.modOp_tlb (s : State) (id : Nat) (f : Op → Op) : (s.modOp id f).tlb = s.tlb := rfl
@[simp] theorem State.modOp_lastApply (s : State) (id : Nat) (f : Op → Op) : (s.modOp id f).lastApply = s.lastApply := rfl
@[simp] theorem State.modOp_lastFill (s : State) (id : Nat) (f : Op → Op) : (s.modOp id f).lastFill = s.lastFill := rfl
@[simp] theorem State.modOp_scopes (s : State) (id : Nat) (f : Op → Op) : (s.modOp id f).scopes = s.scopes := rfl
@[simp] theorem State.modOp_recs (s : State) (id : Nat) (f : Op → Op) : (s.modOp id f).recs = s.recs := rfl
@[simp] theorem State.modOp_seqnos (s : State) (id : Nat) (f : Op → Op) : (s.modOp id f).seqnos = s.seqnos := rfl
@[simp] theorem State.modOp_growq (s : State) (id : Nat) (f : Op → Op) : (s.modOp id f).growq = s.growq := rfl
@[simp] theorem State.modOp_banks (s : State) (id : Nat) (f : Op → Op) : (s.modOp id f).banks = s.banks := rfl
@[simp] theorem State.modOp_curBank (s : State) (id : Nat) (f : Op → Op) : (s.modOp id f).curBank = s.curBank := rfl
@[simp] theorem State.modOp_scratch (s : State) (id : Nat) (f : Op → Op) : (s.modOp id f).scratch = s.scratch := rfl
@[simp] theorem State.modOp_pool (s : State) (id : Nat) (f : Op → Op) : (s.modOp id f).pool = s.pool := rfl
@[simp] theorem State.modOp_winPool (s : State) (id : Nat) (f : Op → Op) : (s.modOp id f).winPool = s.winPool := rfl
@[simp] theorem State.modOp_sent (s : State) (id : Nat) (f : Op → Op) : (s.modOp id f).sent = s.sent := rfl
@[simp] theorem State.modOp_far (s : State) (id : Nat) (f : Op → Op) : (s.modOp id f).far = s.far := rfl
@[simp] theorem State.modOp_applied (s : State) (id : Nat) (f : Op → Op) : (s.modOp id f).applied = s.applied := rfl
@[simp] theorem State.modOp_lastSlot (s : State) (id : Nat) (f : Op → Op) : (s.modOp id f).lastSlot = s.lastSlot := rfl
@[simp] theorem State.modOp_lastTrace (s : State) (id : Nat) (f : Op → Op) : (s.modOp id f).lastTrace = s.lastTrace := rfl
@[simp] theorem State.modOp_trailAt (s : State) (id : Nat) (f : Op → Op) : (s.modOp id f).trailAt = s.trailAt := rfl

/-! ## `State.modDev` -/

@[simp] theorem State.modDev_cc (s : State) (f : Device → Device) : (s.modDev f).cc = s.cc := rfl
@[simp] theorem State.modDev_dtime (s : State) (f : Device → Device) : (s.modDev f).dtime = s.dtime := rfl
@[simp] theorem State.modDev_agenda (s : State) (f : Device → Device) : (s.modDev f).agenda = s.agenda := rfl
@[simp] theorem State.modDev_focus (s : State) (f : Device → Device) : (s.modDev f).focus = s.focus := rfl
@[simp] theorem State.modDev_seqFocus (s : State) (f : Device → Device) : (s.modDev f).seqFocus = s.seqFocus := rfl
@[simp] theorem State.modDev_fresh (s : State) (f : Device → Device) : (s.modDev f).fresh = s.fresh := rfl
@[simp] theorem State.modDev_nextId (s : State) (f : Device → Device) : (s.modDev f).nextId = s.nextId := rfl
@[simp] theorem State.modDev_mem (s : State) (f : Device → Device) : (s.modDev f).mem = s.mem := rfl
@[simp] theorem State.modDev_ctxs (s : State) (f : Device → Device) : (s.modDev f).ctxs = s.ctxs := rfl
@[simp] theorem State.modDev_launches (s : State) (f : Device → Device) : (s.modDev f).launches = s.launches := rfl
@[simp] theorem State.modDev_pipes (s : State) (f : Device → Device) : (s.modDev f).pipes = s.pipes := rfl
@[simp] theorem State.modDev_units (s : State) (f : Device → Device) : (s.modDev f).units = s.units := rfl
@[simp] theorem State.modDev_groups (s : State) (f : Device → Device) : (s.modDev f).groups = s.groups := rfl
@[simp] theorem State.modDev_wgroups (s : State) (f : Device → Device) : (s.modDev f).wgroups = s.wgroups := rfl
@[simp] theorem State.modDev_ops (s : State) (f : Device → Device) : (s.modDev f).ops = s.ops := rfl
@[simp] theorem State.modDev_chains (s : State) (f : Device → Device) : (s.modDev f).chains = s.chains := rfl
@[simp] theorem State.modDev_armings (s : State) (f : Device → Device) : (s.modDev f).armings = s.armings := rfl
@[simp] theorem State.modDev_eops (s : State) (f : Device → Device) : (s.modDev f).eops = s.eops := rfl
@[simp] theorem State.modDev_clusters (s : State) (f : Device → Device) : (s.modDev f).clusters = s.clusters := rfl
@[simp] theorem State.modDev_aq (s : State) (f : Device → Device) : (s.modDev f).aq = s.aq := rfl
@[simp] theorem State.modDev_l1 (s : State) (f : Device → Device) : (s.modDev f).l1 = s.l1 := rfl
@[simp] theorem State.modDev_icache (s : State) (f : Device → Device) : (s.modDev f).icache = s.icache := rfl
@[simp] theorem State.modDev_tlb (s : State) (f : Device → Device) : (s.modDev f).tlb = s.tlb := rfl
@[simp] theorem State.modDev_lastApply (s : State) (f : Device → Device) : (s.modDev f).lastApply = s.lastApply := rfl
@[simp] theorem State.modDev_lastFill (s : State) (f : Device → Device) : (s.modDev f).lastFill = s.lastFill := rfl
@[simp] theorem State.modDev_scopes (s : State) (f : Device → Device) : (s.modDev f).scopes = s.scopes := rfl
@[simp] theorem State.modDev_recs (s : State) (f : Device → Device) : (s.modDev f).recs = s.recs := rfl
@[simp] theorem State.modDev_seqnos (s : State) (f : Device → Device) : (s.modDev f).seqnos = s.seqnos := rfl
@[simp] theorem State.modDev_growq (s : State) (f : Device → Device) : (s.modDev f).growq = s.growq := rfl
@[simp] theorem State.modDev_banks (s : State) (f : Device → Device) : (s.modDev f).banks = s.banks := rfl
@[simp] theorem State.modDev_curBank (s : State) (f : Device → Device) : (s.modDev f).curBank = s.curBank := rfl
@[simp] theorem State.modDev_scratch (s : State) (f : Device → Device) : (s.modDev f).scratch = s.scratch := rfl
@[simp] theorem State.modDev_pool (s : State) (f : Device → Device) : (s.modDev f).pool = s.pool := rfl
@[simp] theorem State.modDev_winPool (s : State) (f : Device → Device) : (s.modDev f).winPool = s.winPool := rfl
@[simp] theorem State.modDev_sent (s : State) (f : Device → Device) : (s.modDev f).sent = s.sent := rfl
@[simp] theorem State.modDev_far (s : State) (f : Device → Device) : (s.modDev f).far = s.far := rfl
@[simp] theorem State.modDev_applied (s : State) (f : Device → Device) : (s.modDev f).applied = s.applied := rfl
@[simp] theorem State.modDev_lastSlot (s : State) (f : Device → Device) : (s.modDev f).lastSlot = s.lastSlot := rfl
@[simp] theorem State.modDev_lastTrace (s : State) (f : Device → Device) : (s.modDev f).lastTrace = s.lastTrace := rfl
@[simp] theorem State.modDev_trailAt (s : State) (f : Device → Device) : (s.modDev f).trailAt = s.trailAt := rfl

/-! ## `State.setCmd` -/

@[simp] theorem State.setCmd_cc (s : State) (guest o n v : Nat) : (s.setCmd guest o n v).cc = s.cc := rfl
@[simp] theorem State.setCmd_dtime (s : State) (guest o n v : Nat) : (s.setCmd guest o n v).dtime = s.dtime := rfl
@[simp] theorem State.setCmd_agenda (s : State) (guest o n v : Nat) : (s.setCmd guest o n v).agenda = s.agenda := rfl
@[simp] theorem State.setCmd_focus (s : State) (guest o n v : Nat) : (s.setCmd guest o n v).focus = s.focus := rfl
@[simp] theorem State.setCmd_seqFocus (s : State) (guest o n v : Nat) : (s.setCmd guest o n v).seqFocus = s.seqFocus := rfl
@[simp] theorem State.setCmd_fresh (s : State) (guest o n v : Nat) : (s.setCmd guest o n v).fresh = s.fresh := rfl
@[simp] theorem State.setCmd_nextId (s : State) (guest o n v : Nat) : (s.setCmd guest o n v).nextId = s.nextId := rfl
@[simp] theorem State.setCmd_dev (s : State) (guest o n v : Nat) : (s.setCmd guest o n v).dev = s.dev := rfl
@[simp] theorem State.setCmd_ctxs (s : State) (guest o n v : Nat) : (s.setCmd guest o n v).ctxs = s.ctxs := rfl
@[simp] theorem State.setCmd_launches (s : State) (guest o n v : Nat) : (s.setCmd guest o n v).launches = s.launches := rfl
@[simp] theorem State.setCmd_pipes (s : State) (guest o n v : Nat) : (s.setCmd guest o n v).pipes = s.pipes := rfl
@[simp] theorem State.setCmd_units (s : State) (guest o n v : Nat) : (s.setCmd guest o n v).units = s.units := rfl
@[simp] theorem State.setCmd_groups (s : State) (guest o n v : Nat) : (s.setCmd guest o n v).groups = s.groups := rfl
@[simp] theorem State.setCmd_wgroups (s : State) (guest o n v : Nat) : (s.setCmd guest o n v).wgroups = s.wgroups := rfl
@[simp] theorem State.setCmd_ops (s : State) (guest o n v : Nat) : (s.setCmd guest o n v).ops = s.ops := rfl
@[simp] theorem State.setCmd_chains (s : State) (guest o n v : Nat) : (s.setCmd guest o n v).chains = s.chains := rfl
@[simp] theorem State.setCmd_armings (s : State) (guest o n v : Nat) : (s.setCmd guest o n v).armings = s.armings := rfl
@[simp] theorem State.setCmd_eops (s : State) (guest o n v : Nat) : (s.setCmd guest o n v).eops = s.eops := rfl
@[simp] theorem State.setCmd_clusters (s : State) (guest o n v : Nat) : (s.setCmd guest o n v).clusters = s.clusters := rfl
@[simp] theorem State.setCmd_aq (s : State) (guest o n v : Nat) : (s.setCmd guest o n v).aq = s.aq := rfl
@[simp] theorem State.setCmd_l1 (s : State) (guest o n v : Nat) : (s.setCmd guest o n v).l1 = s.l1 := rfl
@[simp] theorem State.setCmd_icache (s : State) (guest o n v : Nat) : (s.setCmd guest o n v).icache = s.icache := rfl
@[simp] theorem State.setCmd_tlb (s : State) (guest o n v : Nat) : (s.setCmd guest o n v).tlb = s.tlb := rfl
@[simp] theorem State.setCmd_lastApply (s : State) (guest o n v : Nat) : (s.setCmd guest o n v).lastApply = s.lastApply := rfl
@[simp] theorem State.setCmd_lastFill (s : State) (guest o n v : Nat) : (s.setCmd guest o n v).lastFill = s.lastFill := rfl
@[simp] theorem State.setCmd_scopes (s : State) (guest o n v : Nat) : (s.setCmd guest o n v).scopes = s.scopes := rfl
@[simp] theorem State.setCmd_recs (s : State) (guest o n v : Nat) : (s.setCmd guest o n v).recs = s.recs := rfl
@[simp] theorem State.setCmd_seqnos (s : State) (guest o n v : Nat) : (s.setCmd guest o n v).seqnos = s.seqnos := rfl
@[simp] theorem State.setCmd_growq (s : State) (guest o n v : Nat) : (s.setCmd guest o n v).growq = s.growq := rfl
@[simp] theorem State.setCmd_banks (s : State) (guest o n v : Nat) : (s.setCmd guest o n v).banks = s.banks := rfl
@[simp] theorem State.setCmd_curBank (s : State) (guest o n v : Nat) : (s.setCmd guest o n v).curBank = s.curBank := rfl
@[simp] theorem State.setCmd_scratch (s : State) (guest o n v : Nat) : (s.setCmd guest o n v).scratch = s.scratch := rfl
@[simp] theorem State.setCmd_pool (s : State) (guest o n v : Nat) : (s.setCmd guest o n v).pool = s.pool := rfl
@[simp] theorem State.setCmd_winPool (s : State) (guest o n v : Nat) : (s.setCmd guest o n v).winPool = s.winPool := rfl
@[simp] theorem State.setCmd_sent (s : State) (guest o n v : Nat) : (s.setCmd guest o n v).sent = s.sent := rfl
@[simp] theorem State.setCmd_far (s : State) (guest o n v : Nat) : (s.setCmd guest o n v).far = s.far := rfl
@[simp] theorem State.setCmd_applied (s : State) (guest o n v : Nat) : (s.setCmd guest o n v).applied = s.applied := rfl
@[simp] theorem State.setCmd_lastSlot (s : State) (guest o n v : Nat) : (s.setCmd guest o n v).lastSlot = s.lastSlot := rfl
@[simp] theorem State.setCmd_lastTrace (s : State) (guest o n v : Nat) : (s.setCmd guest o n v).lastTrace = s.lastTrace := rfl
@[simp] theorem State.setCmd_trailAt (s : State) (guest o n v : Nat) : (s.setCmd guest o n v).trailAt = s.trailAt := rfl

/-! ## `State.pass` -/

@[simp] theorem State.pass_agenda (s : State) (n : Nat) : (s.pass n).agenda = s.agenda := rfl
@[simp] theorem State.pass_focus (s : State) (n : Nat) : (s.pass n).focus = s.focus := rfl
@[simp] theorem State.pass_seqFocus (s : State) (n : Nat) : (s.pass n).seqFocus = s.seqFocus := rfl
@[simp] theorem State.pass_fresh (s : State) (n : Nat) : (s.pass n).fresh = s.fresh := rfl
@[simp] theorem State.pass_nextId (s : State) (n : Nat) : (s.pass n).nextId = s.nextId := rfl
@[simp] theorem State.pass_mem (s : State) (n : Nat) : (s.pass n).mem = s.mem := rfl
@[simp] theorem State.pass_dev (s : State) (n : Nat) : (s.pass n).dev = s.dev := rfl
@[simp] theorem State.pass_ctxs (s : State) (n : Nat) : (s.pass n).ctxs = s.ctxs := rfl
@[simp] theorem State.pass_launches (s : State) (n : Nat) : (s.pass n).launches = s.launches := rfl
@[simp] theorem State.pass_pipes (s : State) (n : Nat) : (s.pass n).pipes = s.pipes := rfl
@[simp] theorem State.pass_units (s : State) (n : Nat) : (s.pass n).units = s.units := rfl
@[simp] theorem State.pass_groups (s : State) (n : Nat) : (s.pass n).groups = s.groups := rfl
@[simp] theorem State.pass_wgroups (s : State) (n : Nat) : (s.pass n).wgroups = s.wgroups := rfl
@[simp] theorem State.pass_ops (s : State) (n : Nat) : (s.pass n).ops = s.ops := rfl
@[simp] theorem State.pass_chains (s : State) (n : Nat) : (s.pass n).chains = s.chains := rfl
@[simp] theorem State.pass_armings (s : State) (n : Nat) : (s.pass n).armings = s.armings := rfl
@[simp] theorem State.pass_eops (s : State) (n : Nat) : (s.pass n).eops = s.eops := rfl
@[simp] theorem State.pass_clusters (s : State) (n : Nat) : (s.pass n).clusters = s.clusters := rfl
@[simp] theorem State.pass_aq (s : State) (n : Nat) : (s.pass n).aq = s.aq := rfl
@[simp] theorem State.pass_l1 (s : State) (n : Nat) : (s.pass n).l1 = s.l1 := rfl
@[simp] theorem State.pass_icache (s : State) (n : Nat) : (s.pass n).icache = s.icache := rfl
@[simp] theorem State.pass_tlb (s : State) (n : Nat) : (s.pass n).tlb = s.tlb := rfl
@[simp] theorem State.pass_lastApply (s : State) (n : Nat) : (s.pass n).lastApply = s.lastApply := rfl
@[simp] theorem State.pass_lastFill (s : State) (n : Nat) : (s.pass n).lastFill = s.lastFill := rfl
@[simp] theorem State.pass_scopes (s : State) (n : Nat) : (s.pass n).scopes = s.scopes := rfl
@[simp] theorem State.pass_recs (s : State) (n : Nat) : (s.pass n).recs = s.recs := rfl
@[simp] theorem State.pass_seqnos (s : State) (n : Nat) : (s.pass n).seqnos = s.seqnos := rfl
@[simp] theorem State.pass_growq (s : State) (n : Nat) : (s.pass n).growq = s.growq := rfl
@[simp] theorem State.pass_banks (s : State) (n : Nat) : (s.pass n).banks = s.banks := rfl
@[simp] theorem State.pass_curBank (s : State) (n : Nat) : (s.pass n).curBank = s.curBank := rfl
@[simp] theorem State.pass_scratch (s : State) (n : Nat) : (s.pass n).scratch = s.scratch := rfl
@[simp] theorem State.pass_pool (s : State) (n : Nat) : (s.pass n).pool = s.pool := rfl
@[simp] theorem State.pass_winPool (s : State) (n : Nat) : (s.pass n).winPool = s.winPool := rfl
@[simp] theorem State.pass_sent (s : State) (n : Nat) : (s.pass n).sent = s.sent := rfl
@[simp] theorem State.pass_far (s : State) (n : Nat) : (s.pass n).far = s.far := rfl
@[simp] theorem State.pass_applied (s : State) (n : Nat) : (s.pass n).applied = s.applied := rfl
@[simp] theorem State.pass_lastSlot (s : State) (n : Nat) : (s.pass n).lastSlot = s.lastSlot := rfl
@[simp] theorem State.pass_lastTrace (s : State) (n : Nat) : (s.pass n).lastTrace = s.lastTrace := rfl
@[simp] theorem State.pass_trailAt (s : State) (n : Nat) : (s.pass n).trailAt = s.trailAt := rfl

/-! ## `State.passTo` -/

@[simp] theorem State.passTo_agenda (s : State) (n : Nat) : (s.passTo n).agenda = s.agenda := rfl
@[simp] theorem State.passTo_focus (s : State) (n : Nat) : (s.passTo n).focus = s.focus := rfl
@[simp] theorem State.passTo_seqFocus (s : State) (n : Nat) : (s.passTo n).seqFocus = s.seqFocus := rfl
@[simp] theorem State.passTo_fresh (s : State) (n : Nat) : (s.passTo n).fresh = s.fresh := rfl
@[simp] theorem State.passTo_nextId (s : State) (n : Nat) : (s.passTo n).nextId = s.nextId := rfl
@[simp] theorem State.passTo_mem (s : State) (n : Nat) : (s.passTo n).mem = s.mem := rfl
@[simp] theorem State.passTo_dev (s : State) (n : Nat) : (s.passTo n).dev = s.dev := rfl
@[simp] theorem State.passTo_ctxs (s : State) (n : Nat) : (s.passTo n).ctxs = s.ctxs := rfl
@[simp] theorem State.passTo_launches (s : State) (n : Nat) : (s.passTo n).launches = s.launches := rfl
@[simp] theorem State.passTo_pipes (s : State) (n : Nat) : (s.passTo n).pipes = s.pipes := rfl
@[simp] theorem State.passTo_units (s : State) (n : Nat) : (s.passTo n).units = s.units := rfl
@[simp] theorem State.passTo_groups (s : State) (n : Nat) : (s.passTo n).groups = s.groups := rfl
@[simp] theorem State.passTo_wgroups (s : State) (n : Nat) : (s.passTo n).wgroups = s.wgroups := rfl
@[simp] theorem State.passTo_ops (s : State) (n : Nat) : (s.passTo n).ops = s.ops := rfl
@[simp] theorem State.passTo_chains (s : State) (n : Nat) : (s.passTo n).chains = s.chains := rfl
@[simp] theorem State.passTo_armings (s : State) (n : Nat) : (s.passTo n).armings = s.armings := rfl
@[simp] theorem State.passTo_eops (s : State) (n : Nat) : (s.passTo n).eops = s.eops := rfl
@[simp] theorem State.passTo_clusters (s : State) (n : Nat) : (s.passTo n).clusters = s.clusters := rfl
@[simp] theorem State.passTo_aq (s : State) (n : Nat) : (s.passTo n).aq = s.aq := rfl
@[simp] theorem State.passTo_l1 (s : State) (n : Nat) : (s.passTo n).l1 = s.l1 := rfl
@[simp] theorem State.passTo_icache (s : State) (n : Nat) : (s.passTo n).icache = s.icache := rfl
@[simp] theorem State.passTo_tlb (s : State) (n : Nat) : (s.passTo n).tlb = s.tlb := rfl
@[simp] theorem State.passTo_lastApply (s : State) (n : Nat) : (s.passTo n).lastApply = s.lastApply := rfl
@[simp] theorem State.passTo_lastFill (s : State) (n : Nat) : (s.passTo n).lastFill = s.lastFill := rfl
@[simp] theorem State.passTo_scopes (s : State) (n : Nat) : (s.passTo n).scopes = s.scopes := rfl
@[simp] theorem State.passTo_recs (s : State) (n : Nat) : (s.passTo n).recs = s.recs := rfl
@[simp] theorem State.passTo_seqnos (s : State) (n : Nat) : (s.passTo n).seqnos = s.seqnos := rfl
@[simp] theorem State.passTo_growq (s : State) (n : Nat) : (s.passTo n).growq = s.growq := rfl
@[simp] theorem State.passTo_banks (s : State) (n : Nat) : (s.passTo n).banks = s.banks := rfl
@[simp] theorem State.passTo_curBank (s : State) (n : Nat) : (s.passTo n).curBank = s.curBank := rfl
@[simp] theorem State.passTo_scratch (s : State) (n : Nat) : (s.passTo n).scratch = s.scratch := rfl
@[simp] theorem State.passTo_pool (s : State) (n : Nat) : (s.passTo n).pool = s.pool := rfl
@[simp] theorem State.passTo_winPool (s : State) (n : Nat) : (s.passTo n).winPool = s.winPool := rfl
@[simp] theorem State.passTo_sent (s : State) (n : Nat) : (s.passTo n).sent = s.sent := rfl
@[simp] theorem State.passTo_far (s : State) (n : Nat) : (s.passTo n).far = s.far := rfl
@[simp] theorem State.passTo_applied (s : State) (n : Nat) : (s.passTo n).applied = s.applied := rfl
@[simp] theorem State.passTo_lastSlot (s : State) (n : Nat) : (s.passTo n).lastSlot = s.lastSlot := rfl
@[simp] theorem State.passTo_lastTrace (s : State) (n : Nat) : (s.passTo n).lastTrace = s.lastTrace := rfl
@[simp] theorem State.passTo_trailAt (s : State) (n : Nat) : (s.passTo n).trailAt = s.trailAt := rfl

/-! ## `State.refresh` -/

@[simp] theorem State.refresh_cc (s : State) : s.refresh.cc = s.cc := rfl
@[simp] theorem State.refresh_dtime (s : State) : s.refresh.dtime = s.dtime := rfl
@[simp] theorem State.refresh_agenda (s : State) : s.refresh.agenda = s.agenda := rfl
@[simp] theorem State.refresh_focus (s : State) : s.refresh.focus = s.focus := rfl
@[simp] theorem State.refresh_seqFocus (s : State) : s.refresh.seqFocus = s.seqFocus := rfl
@[simp] theorem State.refresh_fresh (s : State) : s.refresh.fresh = s.fresh := rfl
@[simp] theorem State.refresh_nextId (s : State) : s.refresh.nextId = s.nextId := rfl
@[simp] theorem State.refresh_mem (s : State) : s.refresh.mem = s.mem := rfl
@[simp] theorem State.refresh_dev (s : State) : s.refresh.dev = s.dev := rfl
@[simp] theorem State.refresh_ctxs (s : State) : s.refresh.ctxs = s.ctxs := rfl
@[simp] theorem State.refresh_launches (s : State) : s.refresh.launches = s.launches := rfl
@[simp] theorem State.refresh_pipes (s : State) : s.refresh.pipes = s.pipes := rfl
@[simp] theorem State.refresh_units (s : State) : s.refresh.units = s.units := rfl
@[simp] theorem State.refresh_ops (s : State) : s.refresh.ops = s.ops := rfl
@[simp] theorem State.refresh_chains (s : State) : s.refresh.chains = s.chains := rfl
@[simp] theorem State.refresh_armings (s : State) : s.refresh.armings = s.armings := rfl
@[simp] theorem State.refresh_eops (s : State) : s.refresh.eops = s.eops := rfl
@[simp] theorem State.refresh_clusters (s : State) : s.refresh.clusters = s.clusters := rfl
@[simp] theorem State.refresh_aq (s : State) : s.refresh.aq = s.aq := rfl
@[simp] theorem State.refresh_l1 (s : State) : s.refresh.l1 = s.l1 := rfl
@[simp] theorem State.refresh_icache (s : State) : s.refresh.icache = s.icache := rfl
@[simp] theorem State.refresh_tlb (s : State) : s.refresh.tlb = s.tlb := rfl
@[simp] theorem State.refresh_lastApply (s : State) : s.refresh.lastApply = s.lastApply := rfl
@[simp] theorem State.refresh_lastFill (s : State) : s.refresh.lastFill = s.lastFill := rfl
@[simp] theorem State.refresh_scopes (s : State) : s.refresh.scopes = s.scopes := rfl
@[simp] theorem State.refresh_recs (s : State) : s.refresh.recs = s.recs := rfl
@[simp] theorem State.refresh_seqnos (s : State) : s.refresh.seqnos = s.seqnos := rfl
@[simp] theorem State.refresh_growq (s : State) : s.refresh.growq = s.growq := rfl
@[simp] theorem State.refresh_banks (s : State) : s.refresh.banks = s.banks := rfl
@[simp] theorem State.refresh_curBank (s : State) : s.refresh.curBank = s.curBank := rfl
@[simp] theorem State.refresh_scratch (s : State) : s.refresh.scratch = s.scratch := rfl
@[simp] theorem State.refresh_pool (s : State) : s.refresh.pool = s.pool := rfl
@[simp] theorem State.refresh_winPool (s : State) : s.refresh.winPool = s.winPool := rfl
@[simp] theorem State.refresh_sent (s : State) : s.refresh.sent = s.sent := rfl
@[simp] theorem State.refresh_far (s : State) : s.refresh.far = s.far := rfl
@[simp] theorem State.refresh_applied (s : State) : s.refresh.applied = s.applied := rfl
@[simp] theorem State.refresh_lastSlot (s : State) : s.refresh.lastSlot = s.lastSlot := rfl
@[simp] theorem State.refresh_trailAt (s : State) : s.refresh.trailAt = s.trailAt := rfl

end Sys2Proof.Machine
end

