-- ==== Sys2Proof/Laws/Area.lean ====
section
/-! SUPPORT. What images written into memory leave there, and the TLB's two moves. -/

namespace Sys2Proof.Machine

/-- A byte read from a memory whose cells are filtered by their addresses. -/
theorem rdByte_filterFrom (m : Memory) (lo : Option Nat) (p : Nat → Bool) (c : Nat) (hm : Memory.wfFrom lo m = true) :
    rdByte (m.filter (fun x => p x.1)) c = if p c = true then rdByte m c else unlistedByte := by
  induction m generalizing lo with
  | nil => simp [rdByte]
  | cons x m ih =>
    obtain ⟨a, b⟩ := x
    have hx := (wfFrom_cons _ _ _ _).1 hm
    have hi := ih _ hx.2.2
    by_cases hp : p a = true
    · rw [List.filter_cons_of_pos (by simpa using hp)]
      by_cases h1 : c = a
      · subst h1; simp [rdByte, hp]
      · by_cases h2 : c < a <;> simp [rdByte, h1, h2, hi]
    · rw [List.filter_cons_of_neg (by simpa using hp), hi]
      by_cases h1 : c = a
      · subst h1; simp [hp]
      · by_cases h2 : c < a
        · simp [rdByte, h1, h2, rdByte_below hx.2.2 (le_of_lt h2)]
        · simp [rdByte, h1, h2]

/-- A byte read after zeroing. -/
theorem rdByte_zeroBytes {m : Memory} (h : Memory.wf m = true) (a n c : Nat) :
    rdByte (zeroBytes m a n) c = if a ≤ c ∧ c < a + n then unlistedByte else rdByte m c := by
  unfold zeroBytes
  rw [rdByte_filterFrom m none (fun x => !(decide (a ≤ x) && decide (x < a + n))) c h]
  by_cases h1 : a ≤ c <;> by_cases h2 : c < a + n <;> simp [h1, h2]

/-- One cell of an image. -/
def putCell (a n : Nat) (m : Memory) (c : Host.Cell) : Memory := if c.1 < n then wrByte m (a + c.1) c.2 else m

theorem wf_putCells {m : Memory} (h : Memory.wf m = true) (a n : Nat) (cs : List Host.Cell) :
    Memory.wf (cs.foldl (putCell a n) m) = true := by
  induction cs generalizing m with
  | nil => exact h
  | cons c cs ih =>
    refine ih ?_
    unfold putCell
    split
    · exact wf_wrByte h _ _
    · exact h

/-- An image keeps the canonical form. -/
theorem wf_putImage {m : Memory} (h : Memory.wf m = true) (a n : Nat) (cs : List Host.Cell) :
    Memory.wf (putImage m a n cs) = true := wf_putCells (wf_zeroBytes h a n) a n cs

theorem rdByte_putCells_out {m : Memory} (h : Memory.wf m = true) (a n x : Nat) (cs : List Host.Cell) (hx : x < a ∨ a + n ≤ x) :
    rdByte (cs.foldl (putCell a n) m) x = rdByte m x := by
  induction cs generalizing m with
  | nil => rfl
  | cons c cs ih =>
    simp only [List.foldl_cons]
    by_cases hc : c.1 < n
    · rw [putCell, if_pos hc, ih (wf_wrByte h _ _), rdByte_wrByte h, if_neg (by omega)]
    · rw [putCell, if_neg hc, ih h]

/-- No byte outside an image changes. -/
theorem rdByte_putImage_out {m : Memory} (h : Memory.wf m = true) (a n x : Nat) (cs : List Host.Cell)
    (hx : x < a ∨ a + n ≤ x) : rdByte (putImage m a n cs) x = rdByte m x := by
  have h1 := rdByte_putCells_out (wf_zeroBytes h a n) a n x cs hx
  rw [rdByte_zeroBytes h, if_neg (by omega)] at h1
  exact h1

theorem rdByte_putCells {m : Memory} (h : Memory.wf m = true) (a n o : Nat) (cs : List Host.Cell) (ho : o < n) :
    rdByte (cs.foldl (putCell a n) m) (a + o) =
      (((cs.filter (fun c => c.1 == o)).getLast?).map (·.2)).getD (rdByte m (a + o)) := by
  induction cs generalizing m with
  | nil => simp
  | cons c cs ih =>
    simp only [List.foldl_cons]
    by_cases hc : c.1 = o
    · rw [putCell, if_pos (by omega), ih (wf_wrByte h _ _), rdByte_wrByte h, hc]
      rw [if_pos rfl, List.filter_cons_of_pos (by simp [hc]), List.getLast?_cons]
      cases (cs.filter (fun c => c.1 == o)).getLast? <;> rfl
    · have h2 : (c.1 == o) = false := by simpa using hc
      simp only [List.filter_cons, h2]
      by_cases hn : c.1 < n
      · rw [putCell, if_pos hn, ih (wf_wrByte h _ _), rdByte_wrByte h, if_neg (by omega)]
        simp
      · rw [putCell, if_neg hn, ih h]
        simp

/-- A byte of an image: the last cell with its offset, or 0. -/
theorem rdByte_putImage {m : Memory} (h : Memory.wf m = true) (a n o : Nat) (cs : List Host.Cell) (ho : o < n) :
    rdByte (putImage m a n cs) (a + o) = (((cs.filter (fun c => c.1 == o)).getLast?).map (·.2)).getD unlistedByte := by
  have h1 := rdByte_putCells (wf_zeroBytes h a n) a n o cs ho
  rw [rdByte_zeroBytes h, if_pos (by omega)] at h1
  exact h1

/-- The cells of consecutive bytes with one offset. -/
theorem filter_cellsAt (off : Nat) (bs : List Byte) (o : Nat) :
    (cellsAt off bs).filter (fun c => c.1 == o) =
      if off ≤ o ∧ o < off + bs.length then [(o, bs.getD (o - off) 0)] else [] := by
  induction bs generalizing off with
  | nil => simp [cellsAt]
  | cons b bs ih =>
    simp only [cellsAt, List.filter_cons, ih, List.length_cons]
    by_cases h1 : off = o
    · subst h1; simp
    · have h2 : (off == o) = false := by simpa using h1
      simp only [h2]
      by_cases h3 : off + 1 ≤ o ∧ o < off + 1 + bs.length
      · have h4 : off ≤ o ∧ o < off + (bs.length + 1) := by omega
        have h5 : o - off = (o - (off + 1)) + 1 := by omega
        simp [h3, h4, h5]
      · have h4 : ¬(off ≤ o ∧ o < off + (bs.length + 1)) := by omega
        simp only [h3, h4, if_false]
        rfl

/-- A write to a slot of the record area keeps the canonical form. -/
theorem wf_writeSlot {s : State} (h : Memory.wf s.mem = true) (guest k : Nat) (cs : List Host.Cell) :
    Memory.wf (s.writeSlot guest k cs).mem = true := by
  unfold State.writeSlot
  split
  · exact wf_putImage h _ _ _
  · exact h

theorem wf_spillRec {s : State} (h : Memory.wf s.mem = true) (i hw : Nat) : Memory.wf (s.spillRec i hw).mem = true := by
  unfold State.spillRec
  split
  · exact h
  · rename_i r _
    exact wf_writeSlot (s := { s with recs := s.recs.set i { r with hw := none, area := some (s.freeSlot r.guest) } }) h _ _ _

theorem wf_rewriteRec {s : State} (h : Memory.wf s.mem = true) (i : Nat) : Memory.wf (s.rewriteRec i).mem = true := by
  unfold State.rewriteRec
  split
  · split
    · exact wf_writeSlot h _ _ _
    · exact h
  · exact h

theorem wf_patchSlot {s : State} (h : Memory.wf s.mem = true) (guest k : Nat) (m : Mask) (d : List (Nat × Nat)) :
    Memory.wf (s.patchSlot guest k m d).mem = true := by
  unfold State.patchSlot
  split
  · generalize s.slotAddr guest k = a
    show Memory.wf (d.foldl _ _) = true
    have h0 : Memory.wf (wrLE s.mem (a + 12) 4 m.toNat) = true := wf_wrLE h _ _ _
    generalize wrLE s.mem (a + 12) 4 m.toNat = mm at h0
    induction d generalizing mm with
    | nil => exact h0
    | cons x d ih => exact ih _ (wf_wrLE h0 _ _ _)
  · exact h

theorem wf_keepBlock {s : State} (h : Memory.wf s.mem = true) (core slot : Nat) :
    Memory.wf (s.keepBlock core slot).1.mem = true := by
  have h1 : Memory.wf s.freeBlock.1.mem = true := h
  unfold State.keepBlock
  generalize s.freeBlock = r at h1
  obtain ⟨u, a⟩ := r
  dsimp only
  cases u.group core slot with
  | none => exact h1
  | some g =>
    dsimp only
    cases u.blockPlace g.guest (g.blockLen true) (a.toNat / 128) with
    | none => exact h1
    | some p =>
      dsimp only
      exact wf_putImage h1 _ _ _

/-- The TLB's moves change nothing else. -/
theorem tlbFill_eq (s : State) (guest va : Nat) : ∃ l, s.tlbFill guest va = { s with tlb := l } := by
  unfold State.tlbFill
  split
  · dsimp only
    split
    · exact ⟨s.tlb, rfl⟩
    · exact ⟨_, rfl⟩
  · exact ⟨s.tlb, rfl⟩

theorem tlbDrop_eq (s : State) (guest va : Nat) : ∃ l, s.tlbDrop guest va = { s with tlb := l } := ⟨_, rfl⟩

end Sys2Proof.Machine
end

