-- ==== Sys2Proof/Laws/MemoryForm.lean ====
section
/-! SUPPORT. The shared operations on the state keep memory in its canonical form. -/

namespace Sys2Proof.Machine

/-- Bytes written at scattered addresses keep the form. -/
theorem wf_wrAt {m : Memory} (h : Memory.wf m = true) (as : List Nat) (bs : List Byte) : Memory.wf (wrAt m as bs) = true := by
  unfold wrAt
  generalize as.zip bs = xs
  induction xs generalizing m with
  | nil => exact h
  | cons x xs ih => exact ih (wf_wrByte h x.1 x.2)

/-- A fold of steps that keep a property of the state keeps it. -/
theorem foldl_keeps {β : Type} (p : State → Prop) (f : State → β → State) (hf : ∀ s x, p s → p (f s x)) (xs : List β)
    {s : State} (h : p s) : p (xs.foldl f s) := by
  induction xs generalizing s with
  | nil => exact h
  | cons x xs ih => exact ih (hf s x h)

theorem wf_setCmd {s : State} (h : Memory.wf s.mem = true) (guest o n v : Nat) : Memory.wf (s.setCmd guest o n v).mem = true :=
  wf_wrLE h _ _ _

/-! ## Requests to other packages leave memory alone -/

@[simp] theorem State.sendFlit_mem (s : State) (port type : Nat) (bs : List Byte) : (s.sendFlit port type bs).mem = s.mem := rfl

@[simp] theorem State.putRequest_mem (s : State) (pkg : Nat) (r : Config.LinkRequest) : (s.putRequest pkg r).1.mem = s.mem := by
  unfold State.putRequest
  split
  · split <;> simp
  · rfl

@[simp] theorem State.farGo_mem (s : State) (f : Far) : (s.farGo f).mem = s.mem := by
  unfold State.farGo
  split
  · rfl
  · simp

@[simp] theorem State.farAdd_mem (s : State) (who : FarUser) (guest : Nat) (va : Addr) (addr : Nat) (bs : List Byte) :
    (s.farAdd who guest va addr bs).mem = s.mem := by
  simp [State.farAdd, State.nextNum, State.modDev]

@[simp] theorem State.farStore_mem (s : State) (who : FarUser) (guest : Nat) (va : Addr) (addr : Nat) (bs : List Byte) :
    (s.farStore who guest va addr bs).mem = s.mem :=
  foldl_keeps (fun t => t.mem = s.mem) _ (fun t k h => by simpa using h) _ rfl

/-- Bytes put at addresses stand there in the cells. -/
@[simp] theorem State.putAt_mem (s : State) (guest : Nat) (as : List Nat) (bs : List Byte) : (s.putAt guest as bs).mem = wrAt s.mem as bs :=
  foldl_keeps (fun t => t.mem = wrAt s.mem as bs) _ (fun t x h => by simpa using h) _ rfl

theorem wf_ringField {s : State} (h : Memory.wf s.mem = true) (r : Ring) (o v : Nat) : Memory.wf (s.ringField r o v).mem = true := by
  rw [State.ringField, State.putAt_mem]
  exact wf_wrAt h _ _

@[simp] theorem State.setSync_mem (s : State) (guest : Nat) (p : Nat → Bool) : (s.setSync guest p).mem = s.mem := rfl

/-- One item of a trace ring. -/
theorem wf_traceItem {s : State} (h : Memory.wf s.mem = true) (guest core : Nat) (last : Option Nat) (p : Packet) :
    Memory.wf (s.traceItem guest core last p).1.mem = true := by
  unfold State.traceItem
  split
  · exact h
  extract_lets gap time delta n body item need
  split
  · split
    · rename_i r _ _ as _ _
      have h2 : Memory.wf ((s.putAt guest as item).ringField r 12 ((r.wr + item.length) % 2 ^ 32)).mem = true :=
        wf_ringField (by rw [State.putAt_mem]; exact wf_wrAt h _ _) _ _ _
      dsimp only
      split
      · exact wf_ringField h2 _ _ _
      · exact h2
    · exact wf_ringField h _ _ _
  · exact wf_ringField h _ _ _

/-- Items of a trace ring. -/
theorem wf_traceItems {s : State} (h : Memory.wf s.mem = true) (guest core : Nat) (last : Option Nat) (ps : List Packet) :
    Memory.wf (s.traceItems guest core last ps).1.mem = true := by
  unfold State.traceItems
  generalize hx : (s, last) = x
  have hw : Memory.wf x.1.mem = true := by rw [← hx]; exact h
  clear hx
  induction ps generalizing x with
  | nil => exact hw
  | cons p ps ih => exact ih _ (wf_traceItem hw _ _ _ _)

/-- Either of two results keeps the form. -/
theorem wf_either {β : Type} {c : Prop} [Decidable c] {x y : State × β} (hx : Memory.wf x.1.mem = true)
    (hy : Memory.wf y.1.mem = true) : Memory.wf (if c then x else y).1.mem = true := by
  split
  · exact hx
  · exact hy

/-- A trace packet. -/
theorem wf_trace {s : State} (h : Memory.wf s.mem = true) (guest core slot split type : Nat) (payload : List Byte) :
    Memory.wf (s.trace guest core slot split type payload).mem = true := by
  unfold State.trace
  extract_lets key
  split
  · exact h
  split
  · exact h
  dsimp only
  refine wf_either (x := State.traceItem _ _ _ _ _) (y := State.traceItems _ _ _ _ _) ?_ ?_
  · exact wf_traceItem h _ _ _ _
  · exact wf_traceItems (wf_ringField (wf_ringField h _ _ _) _ _ _) _ _ _ _

/-- An entry of the error ring. -/
theorem wf_errorEntry {s : State} (h : Memory.wf s.mem = true) (guest : Nat) (addr : Addr) (owner : DWord) (cause : Cause)
    (source core : Nat) : Memory.wf (s.errorEntry guest addr owner cause source core).mem = true := by
  simp only [State.errorEntry, State.setCtx_mem]
  split
  · apply wf_wrLE h
  · apply wf_wrLE
    apply wf_wrBytes h

/-- An entry of the dirty log. -/
theorem wf_logPage {s t : State} (h : Memory.wf s.mem = true) (guest pa : Nat) (ht : s.logPage guest pa = some t) :
    Memory.wf t.mem = true := by
  unfold State.logPage at ht
  dsimp only at ht
  split at ht
  · cases ht; exact h
  · split at ht
    · cases ht
    · cases ht; exact wf_setCmd (wf_wrLE h _ _ _) _ _ _ _

/-- A line's write-back. -/
theorem wf_writeBack {s : State} (h : Memory.wf s.mem = true) (x : L1Line) : Memory.wf (s.writeBack x).mem = true := by
  unfold State.writeBack
  split
  · split
    · simpa using h
    · exact wf_wrBytes h _ _
  · exact wf_wrBytes h _ _
  · exact h

theorem wf_writeBackLog {s t : State} (h : Memory.wf s.mem = true) (x : L1Line) (ht : s.writeBackLog x = some t) :
    Memory.wf t.mem = true := by
  unfold State.writeBackLog at ht
  split at ht
  · cases ht; exact h
  · cases ht; exact h
  · obtain ⟨u, hu, rfl⟩ := Option.map_eq_some_iff.1 ht
    exact wf_writeBack (wf_logPage h _ _ hu) x

/-- The completion entries that wait. -/
theorem wf_flushCq (guest n : Nat) {s : State} (h : Memory.wf s.mem = true) : Memory.wf (State.flushCq guest n s).mem = true := by
  induction n generalizing s with
  | zero => exact h
  | succ n ih =>
    unfold State.flushCq
    dsimp only
    split
    · exact h
    · split
      · exact h
      · exact ih (wf_setCmd (wf_wrBytes h _ _) _ _ _ _)

end Sys2Proof.Machine
end

