-- ==== Sys2Proof/Laws/Run.lean ====
section
/-! SUPPORT. What the shared operations of run instructions do: the run in focus, its change, results, lane-wise effects. -/

namespace Sys2Proof.Machine

/-! ## Groups and the run in focus -/

theorem group_setGroup (s : State) (core slot j k : Nat) (g : Group) :
    (s.setGroup core slot g).group j k = if gkey j k = gkey core slot then some g else s.group j k := by
  simp [State.group, State.setGroup, mfind_mset]

theorem group_modGroup (s : State) (core slot j k : Nat) (f : Group → Group) :
    (s.modGroup core slot f).group j k = if gkey j k = gkey core slot then (s.group core slot).map f else s.group j k := by
  simp [State.group, State.modGroup, mfind_mmod]

/-- After the upkeep every group is its touched self. -/
theorem group_refresh (s : State) (core slot : Nat) :
    s.refresh.group core slot = (s.group core slot).map (s.touchGroup (gkey core slot)) := by
  simp [State.group, State.refresh, mfind_map (f := s.touchGroup)]

/-- The run in focus, taken apart. -/
theorem cur_eq_some {s : State} {c : Cur} : s.cur = some c ↔
    s.focus = some (c.core, c.slot) ∧ s.group c.core c.slot = some c.g ∧ c.g.run = some c.r := by
  unfold State.cur
  constructor
  · intro h
    split at h <;> try contradiction
    rename_i core slot hf
    split at h <;> try contradiction
    rename_i g hg
    split at h <;> try contradiction
    rename_i r hr
    cases h
    exact ⟨hf, hg, hr⟩
  · rintro ⟨hf, hg, hr⟩
    simp [hf, hg, hr]

/-- A changed run stands in focus. -/
theorem cur_putRun {s : State} {c : Cur} (h : s.cur = some c) (r : Run) :
    (s.putRun c r).cur = some { c with g := { c.g with run := some r }, r := r } := by
  obtain ⟨hf, hg, -⟩ := cur_eq_some.1 h
  refine cur_eq_some.2 ⟨by simpa using hf, ?_, rfl⟩
  simp [State.putRun, group_modGroup, hg]

/-- Another group is as before. -/
theorem group_putRun_other (s : State) (c : Cur) (r : Run) (j k : Nat) (h : gkey j k ≠ gkey c.core c.slot) :
    (s.putRun c r).group j k = s.group j k := by simp [State.putRun, group_modGroup, h]

/-! ## Results -/

theorem runInstr_none {s : State} (h : s.cur = none) (f : Cur → Res) : s.runInstr f = .fault .noRun := by
  simp [State.runInstr, h]

theorem runInstr_ok {s s' : State} {c : Cur} {r : Run} {lat : Nat} {f : Cur → Res} (h : s.cur = some c)
    (hf : f c = .ok s' r lat) : s.runInstr f = .next ((s'.putRun c (r.advance lat)).stepStop c) := by
  simp [State.runInstr, h, hf]

theorem runInstr_fault {s s' : State} {c : Cur} {k : Cause} {m : Mask} {xa : AMap DWord} {f : Cur → Res} (h : s.cur = some c)
    (hf : f c = .fault s' k m xa) : s.runInstr f = .next (s'.preciseFault c k m xa).refresh := by
  simp [State.runInstr, h, hf]

theorem runInstr_wait {s s' : State} {c : Cur} {w : WaitOn} {f : Cur → Res} (h : s.cur = some c)
    (hf : f c = .wait s' w) : s.runInstr f = .next ((s'.rollback c.core c.slot c.r.split w).copyEdge c w).refresh := by
  simp [State.runInstr, h, hf]

theorem runInstr_hold {s s' : State} {c : Cur} {f : Cur → Res} (h : s.cur = some c)
    (hf : f c = .hold s') : s.runInstr f = .next ((s'.putRun c { c.r with holding := true }).pass 1) := by
  simp [State.runInstr, h, hf]

/-- With a run in focus a run instruction always answers a next state. -/
theorem runInstr_next {s : State} {c : Cur} (h : s.cur = some c) (f : Cur → Res) : ∃ t, s.runInstr f = .next t := by
  unfold State.runInstr
  rw [h]
  exact ⟨_, rfl⟩

/-- An event always answers a next state. -/
theorem event_next (s : State) (f : State → State) : s.event f = .next (f s).refresh := rfl

/-- The three ways of a check on frame registers. -/
theorem frameCheck_cases (c : Cur) (s : State) (n k : Nat) (f : Unit → Res) :
    (8 * c.g.fgran < n + k ∧ c.frameCheck s n k f = .fault s cFrameRange c.r.mask []) ∨
    (n + k ≤ 8 * c.g.fgran ∧ (c.g.pendFrm.any (fun p => decide (n ≤ p.reg) && decide (p.reg < n + k))) = true ∧
      c.frameCheck s n k f = .wait s (.frame n k)) ∨
    (n + k ≤ 8 * c.g.fgran ∧ (c.g.pendFrm.any (fun p => decide (n ≤ p.reg) && decide (p.reg < n + k))) = false ∧
      c.frameCheck s n k f = f ()) := by
  by_cases h : 8 * c.g.fgran < n + k
  · exact .inl ⟨h, by simp [Cur.frameCheck, h]⟩
  · by_cases h2 : (c.g.pendFrm.any (fun p => decide (n ≤ p.reg) && decide (p.reg < n + k))) = true
    · exact .inr (.inl ⟨by omega, h2, by simp only [Cur.frameCheck, h, h2, if_true, if_false]⟩)
    · exact .inr (.inr ⟨by omega, by simpa using h2, by simp only [Cur.frameCheck, h, h2, if_false]; rfl⟩)

/-! ## Lane-wise effects -/

/-- A lane-wise instruction completes. -/
theorem laneInstr_next {s : State} {c : Cur} (h : s.cur = some c) (gd : Guard) (a b lat : Nat) (f : LaneFn) :
    s.laneInstr gd a b lat f = .next ((s.putRun c ((c.r.lanewise (c.on gd) a b f).advance lat)).stepStop c) :=
  runInstr_ok h rfl

@[simp] theorem length_laneOuts (on : Mask) (ps : List Lanes) (f : LaneFn) : (laneOuts on ps f).length = 32 := by
  simp [laneOuts]

/-- Below the new entries the stack is as below the popped ones. -/
theorem lanewise_below (r : Run) (on : Mask) (a b : Nat) (f : LaneFn) :
    (r.lanewise on a b f).stk.drop b = r.stk.drop a := by
  simp [Run.lanewise, Run.replace]

theorem lanewise_size (r : Run) (on : Mask) (a b : Nat) (f : LaneFn) :
    (r.lanewise on a b f).stk.length = b + (r.stk.length - a) := by
  simp [Run.lanewise, Run.replace]

/-- The new entries, deepest first. -/
theorem lanewise_top (r : Run) (on : Mask) (a b : Nat) (f : LaneFn) :
    ((r.lanewise on a b f).stk.take b).reverse = (List.range b).map (outEntry (laneOuts on (r.popped a) f)) := by
  simp [Run.lanewise, Run.replace]

/-- A lane of new entry `j`. -/
theorem outEntry_lane (on : Mask) (ps : List Lanes) (f : LaneFn) (j : Nat) {l : Nat} (h : l < 32) :
    laneAt (outEntry (laneOuts on ps f) j).v l =
      (if laneOn on l then (f l (argsOf ps l)).1 else argsOf ps l).getD j 0 := by
  by_cases h2 : laneOn on l <;> simp [laneAt, outEntry, laneOuts, h, h2, List.getD]

theorem outEntry_settled (outs : List (List Word × BitVec 6)) (j : Nat) : (outEntry outs j).pend = none := rfl

end Sys2Proof.Machine
end

