-- ==== Sys2Proof/Safety.lean ====
section
/-! DEFINITION. What counts as a safe step and a safe run: the machine answers a next state. -/

namespace Sys2Proof

/-- The next state of an outcome, if it is one. -/
def nextOf {σ φ ρ : Type} : Host.Outcome σ φ ρ → Option σ
  | .next s => some s
  | .fault _ => none
  | .refused _ => none

/-- A step from `s` neither faults nor refuses. -/
def SafeStep (s : Machine.State) : Prop := ∃ t, Machine.step s = .next t

/-- `k` steps from `s` neither fault nor refuse. -/
def SafeRun (k : Nat) (s : Machine.State) : Prop := ∃ t, core.run k s = .next t

end Sys2Proof
end

