-- ==== Sys2Proof/Tests/Slice0.lean ====
section
/-! SUPPORT. Tests of the model: words decoded as the spec's encoding tables write them, ill-formed terms refused, and
for every obligation a concrete state that meets its hypotheses. -/


namespace Sys2Proof.Tests

set_option Elab.async false

/-- Words written out from the encodings of R131 to R135, R143 to R149. -/
theorem test_decode_stack1 : ∀ x ∈ ([
    (16, 0x0000, .nop Guard.none),
    (16, 0x9401, .dup ⟨true, false, 5⟩),
    (16, 0xF002, .drop ⟨true, true, 12⟩),
    (16, 0x0003, .swap Guard.none),
    (16, 0x9404, .over ⟨true, false, 5⟩),
    (16, 0xF005, .rot ⟨true, true, 12⟩),
    (16, 0x0006, .nip Guard.none),
    (16, 0x9407, .tuck ⟨true, false, 5⟩),
    (16, 0xF008, .dup2 ⟨true, true, 12⟩),
    (16, 0x0009, .drop2 Guard.none),
    (16, 0x940A, .swap2 ⟨true, false, 5⟩),
    (16, 0xF00B, .depth ⟨true, true, 12⟩),
    (32, 0x0006018D, .pick Guard.none 6),
    (32, 0x0003958E, .roll ⟨true, false, 5⟩ 3),
    (32, 0x8001F180, .ldi ⟨true, true, 12⟩ 0x8001),
    (32, 0x003E9581, .ldk ⟨true, false, 5⟩ 0x3e),
    (32, 0x003EF182, .ldk2 ⟨true, true, 12⟩ 0x3e),
    (16, 0x0010, .ldu Guard.none),
    (32, 0x00E19583, .ldf ⟨true, false, 5⟩ 0xe1),
    (32, 0x00E1F184, .stf ⟨true, true, 12⟩ 0xe1),
    (32, 0x00820185, .ldf2 Guard.none 0x82),
    (32, 0x00FE9586, .stf2 ⟨true, false, 5⟩ 0xfe),
    (32, 0x00E1F187, .teef ⟨true, true, 12⟩ 0xe1),
    (32, 0x00210188, .stu Guard.none 0x21)] : List (Nat × Nat × Instr)),
    decodeTableWord x.1 x.2.1 = some x.2.2 := by decide +kernel

/-- Words written out from the encodings of R131 to R135, R143 to R149. -/
theorem test_decode_stack2 : ∀ x ∈ ([
    (32, 0x00019589, .ldx ⟨true, false, 5⟩ 1),
    (32, 0x0001F18A, .stx ⟨true, true, 12⟩ 1),
    (32, 0x0001018B, .ldp Guard.none 1),
    (32, 0x0001958C, .stp ⟨true, false, 5⟩ 1),
    (16, 0xF011, .wid ⟨true, true, 12⟩),
    (16, 0x0012, .lane Guard.none),
    (16, 0x9413, .segi ⟨true, false, 5⟩),
    (16, 0xF017, .lea ⟨true, true, 12⟩ .b64)] : List (Nat × Nat × Instr)),
    decodeTableWord x.1 x.2.1 = some x.2.2 := by decide +kernel

/-- Words written out from the encodings of R131 to R134, R150 to R159. -/
theorem test_decode_integer1 : ∀ x ∈ ([
    (16, 0x0042, .add Guard.none .i64),
    (16, 0x9445, .sub ⟨true, false, 5⟩ .z32),
    (16, 0xF048, .mul ⟨true, true, 12⟩ .i32),
    (16, 0x004F, .mulh Guard.none .z64),
    (16, 0x9452, .mad ⟨true, false, 5⟩ .i64),
    (16, 0xF055, .div ⟨true, true, 12⟩ .z32),
    (16, 0x0058, .rem Guard.none .i32),
    (16, 0x945F, .neg ⟨true, false, 5⟩ .z64),
    (16, 0xF062, .abs ⟨true, true, 12⟩ .w64),
    (16, 0x0065, .min Guard.none .z32),
    (16, 0x9468, .max ⟨true, false, 5⟩ .i32),
    (16, 0xF06F, .and ⟨true, true, 12⟩ .z64),
    (16, 0x0072, .or Guard.none .i64),
    (16, 0x9475, .xor ⟨true, false, 5⟩ .z32),
    (16, 0xF078, .not ⟨true, true, 12⟩ .i32),
    (16, 0x007F, .shl Guard.none .z64),
    (16, 0x9482, .shr ⟨true, false, 5⟩ .i64),
    (16, 0xF085, .sar ⟨true, true, 12⟩ .z32),
    (16, 0x0088, .rotl Guard.none .i32),
    (16, 0x948F, .clz ⟨true, false, 5⟩ .z64),
    (16, 0xF092, .popc ⟨true, true, 12⟩ .i64),
    (16, 0x0095, .brev Guard.none .z32),
    (16, 0x9498, .addc ⟨true, false, 5⟩ .i32),
    (16, 0xF09F, .subb ⟨true, true, 12⟩ .z64)] : List (Nat × Nat × Instr)),
    decodeTableWord x.1 x.2.1 = some x.2.2 := by decide +kernel

/-- Words written out from the encodings of R131 to R134, R150 to R159. -/
theorem test_decode_integer2 : ∀ x ∈ ([
    (16, 0x0022, .bfe Guard.none .i64),
    (16, 0x9425, .bfi ⟨true, false, 5⟩ .z32),
    (16, 0xF02A, .sext ⟨true, true, 12⟩ .i32),
    (32, 0x000101CF, .setp Guard.none .le .z64 1),
    (16, 0x942D, .sel ⟨true, false, 5⟩ .w64)] : List (Nat × Nat × Instr)),
    decodeTableWord x.1 x.2.1 = some x.2.2 := by decide +kernel

/-- Words written out from the encodings of R133, R160 to R169. -/
theorem test_decode_control : ∀ x ∈ ([
    (32, 0xFFFFF190, .br ⟨true, true, 12⟩ 0xffff),
    (32, 0x7FFE0191, .bz Guard.none 0x7ffe),
    (32, 0x80019592, .bnz ⟨true, false, 5⟩ 0x8001),
    (32, 0x8003F1AB, .bpAny ⟨true, true, 12⟩ 0xb 0x8003),
    (32, 0x800301BB, .bpAll Guard.none 0xb 0x8003),
    (16, 0x0019, .ret Guard.none),
    (16, 0x9418, .bx ⟨true, false, 5⟩),
    (16, 0xF01A, .exit ⟨true, true, 12⟩),
    (16, 0x001B, .yield Guard.none),
    (32, 0x9FA89593, .wait ⟨true, false, 5⟩ ⟨9, 15, 5, 2⟩),
    (32, 0x0001F194, .arrive ⟨true, true, 12⟩ 1),
    (32, 0x00010195, .bwait Guard.none 1),
    (32, 0x00019596, .bsync ⟨true, false, 5⟩ 1)] : List (Nat × Nat × Instr)),
    decodeTableWord x.1 x.2.1 = some x.2.2 := by decide +kernel

/-- Words written out from the encodings of R132, R134, R175 to R183. -/
theorem test_decode_float : ∀ x ∈ ([
    (16, 0xF0A2, .fadd ⟨true, true, 12⟩ .ru),
    (16, 0x00A5, .fsub Guard.none .rz),
    (16, 0x94A8, .fmul ⟨true, false, 5⟩ .rn),
    (16, 0xF0AF, .ffma ⟨true, true, 12⟩ .rd),
    (16, 0x00B2, .fdiv Guard.none .ru),
    (16, 0x94B5, .fsqrt ⟨true, false, 5⟩ .rz),
    (16, 0xF0B8, .frnd ⟨true, true, 12⟩ .rn),
    (16, 0x00BC, .fmin Guard.none),
    (16, 0x94BD, .fmax ⟨true, false, 5⟩),
    (16, 0xF0BE, .fabs ⟨true, true, 12⟩),
    (16, 0x00BF, .fneg Guard.none),
    (16, 0x94C0, .fsgn ⟨true, false, 5⟩),
    (16, 0xF0C1, .fcls ⟨true, true, 12⟩),
    (16, 0x00C2, .frcp Guard.none),
    (16, 0x94C3, .frsq ⟨true, false, 5⟩),
    (32, 0x0001F1E7, .fsetp ⟨true, true, 12⟩ .ord 1),
    (32, 0x029101F0, .cvt Guard.none ⟨.f16, .i32, .ru⟩),
    (16, 0x94C5, .hadd2 ⟨true, false, 5⟩ .bf16),
    (16, 0xF0C6, .hmul2 ⟨true, true, 12⟩ .f16),
    (16, 0x00C9, .hfma2 Guard.none .bf16),
    (16, 0x94CA, .hmax2 ⟨true, false, 5⟩ .f16),
    (16, 0xF0CD, .dot4 ⟨true, true, 12⟩ .z8)] : List (Nat × Nat × Instr)),
    decodeTableWord x.1 x.2.1 = some x.2.2 := by decide +kernel

/-- Words written out from the encodings of R132, R184 to R194. -/
theorem test_decode_sfu : ∀ x ∈ ([
    (16, 0x00D0, .exp2 Guard.none .f32),
    (16, 0x94D5, .log2 ⟨true, false, 5⟩ .f16),
    (16, 0xF0DA, .sin ⟨true, true, 12⟩ .bf16),
    (16, 0x00DC, .cos Guard.none .f32),
    (16, 0x94E1, .tanh ⟨true, false, 5⟩ .f16),
    (16, 0xF0E6, .sigm ⟨true, true, 12⟩ .bf16),
    (16, 0x00E8, .erf Guard.none .f32),
    (16, 0x94ED, .gelu ⟨true, false, 5⟩ .f16),
    (16, 0xF0F2, .lse2 ⟨true, true, 12⟩ .bf16),
    (16, 0x00F4, .tab Guard.none .f32),
    (16, 0x94F8, .tload ⟨true, false, 5⟩),
    (16, 0xF0F9, .tbind ⟨true, true, 12⟩),
    (16, 0x0100, .qblk Guard.none .ui),
    (16, 0x9505, .dqblk ⟨true, false, 5⟩ .f16),
    (16, 0xF108, .pk4 ⟨true, true, 12⟩),
    (16, 0x0109, .upk4 Guard.none)] : List (Nat × Nat × Instr)),
    decodeTableWord x.1 x.2.1 = some x.2.2 := by decide +kernel

/-- Words written out from the encodings of R132, R134, R195 to R210. -/
theorem test_decode_segment : ∀ x ∈ ([
    (32, 0x0001958F, .segw ⟨true, false, 5⟩ 1),
    (16, 0xF113, .shfl ⟨true, true, 12⟩ .xor),
    (16, 0x0114, .vote Guard.none .any),
    (32, 0x001495F1, .red ⟨true, false, 5⟩ .max .z64),
    (32, 0x0014F1F2, .scan ⟨true, true, 12⟩ .max .z64),
    (16, 0x0118, .argmax Guard.none .f32),
    (16, 0x951D, .argmin ⟨true, false, 5⟩ .i32),
    (16, 0x010A, .drawm Guard.none),
    (16, 0x950B, .coin ⟨true, false, 5⟩),
    (16, 0xF10C, .dkey ⟨true, true, 12⟩)] : List (Nat × Nat × Instr)),
    decodeTableWord x.1 x.2.1 = some x.2.2 := by decide +kernel

/-- Words written out from the encodings of R132, R134, R211 to R229. -/
theorem test_decode_memory1 : ∀ x ∈ ([
    (16, 0x0123, .ld Guard.none .z16),
    (16, 0x9526, .ldq ⟨true, false, 5⟩),
    (16, 0xF12D, .ldw ⟨true, true, 12⟩ .i64),
    (32, 0x00B20200, .ldF Guard.none 0xb2 .i8),
    (32, 0x00A49606, .ldqF ⟨true, false, 5⟩ 0xa4),
    (32, 0x0056F20A, .ldwF ⟨true, true, 12⟩ 0x56 .i16),
    (16, 0x0133, .lds Guard.none .z16),
    (16, 0x9542, .sts ⟨true, false, 5⟩ .i32),
    (16, 0xF139, .st ⟨true, true, 12⟩ .i16),
    (16, 0x013C, .stq Guard.none),
    (16, 0x954B, .stwWg ⟨true, false, 5⟩ .i64),
    (16, 0xF14E, .stwDev ⟨true, true, 12⟩ .i32),
    (16, 0x0151, .stwSys Guard.none .i16),
    (16, 0x953D, .prf ⟨true, false, 5⟩),
    (16, 0xF13E, .sdrain ⟨true, true, 12⟩),
    (32, 0x00050211, .aadd Guard.none .w64 ⟨.wg, true⟩),
    (32, 0x00069613, .amin32 ⟨true, false, 5⟩ true ⟨.dev, true⟩),
    (32, 0x0007F215, .amin64 ⟨true, true, 12⟩ true ⟨.sys, true⟩),
    (32, 0x00010217, .amax32 Guard.none true ⟨.wg, false⟩),
    (32, 0x00029619, .amax64 ⟨true, false, 5⟩ true ⟨.dev, false⟩),
    (32, 0x0003F21B, .aand ⟨true, true, 12⟩ .w64 ⟨.sys, false⟩),
    (32, 0x0005021D, .aor Guard.none .w64 ⟨.wg, true⟩),
    (32, 0x0006961F, .axor ⟨true, false, 5⟩ .w64 ⟨.dev, true⟩),
    (32, 0x0007F221, .axch ⟨true, true, 12⟩ .w64 ⟨.sys, true⟩)] : List (Nat × Nat × Instr)),
    decodeTableWord x.1 x.2.1 = some x.2.2 := by decide +kernel

/-- Words written out from the encodings of R132, R134, R211 to R229. -/
theorem test_decode_memory2 : ∀ x ∈ ([
    (32, 0x00010223, .acas Guard.none .w64 ⟨.wg, false⟩),
    (32, 0x00029624, .afadd ⟨true, false, 5⟩ ⟨.dev, false⟩)] : List (Nat × Nat × Instr)),
    decodeTableWord x.1 x.2.1 = some x.2.2 := by decide +kernel

/-- Words written out from the encodings of R134, R230 to R238. -/
theorem test_decode_atomic : ∀ x ∈ ([
    (16, 0xF154, .wwait ⟨true, true, 12⟩),
    (16, 0x0155, .wmax Guard.none),
    (16, 0x9556, .wnull ⟨true, false, 5⟩),
    (16, 0xF157, .wexp ⟨true, true, 12⟩),
    (16, 0x0158, .wscp Guard.none)] : List (Nat × Nat × Instr)),
    decodeTableWord x.1 x.2.1 = some x.2.2 := by decide +kernel

/-- Words written out from the encodings of R132, R134, R268 to R318, R339. -/
theorem test_decode_system1 : ∀ x ∈ ([
    (32, 0x00209630, .grow ⟨true, false, 5⟩ 0x20),
    (32, 0x0011F231, .shrink ⟨true, true, 12⟩ 0x11),
    (32, 0x00430232, .mfs Guard.none 0x43),
    (32, 0x002A9633, .mts ⟨true, false, 5⟩ 0x2a),
    (32, 0x00E1F234, .trap ⟨true, true, 12⟩ 0xe1),
    (32, 0x00010235, .watch Guard.none 1),
    (32, 0x00019636, .unwatch ⟨true, false, 5⟩ 1),
    (32, 0x52E1F237, .trcm ⟨true, true, 12⟩ 0x52e1),
    (32, 0x52E10238, .pmark Guard.none 0x52e1),
    (32, 0x52E19639, .sleep ⟨true, false, 5⟩ 0x52e1),
    (16, 0xF160, .tret ⟨true, true, 12⟩),
    (16, 0x0161, .replay Guard.none),
    (16, 0x9562, .kill ⟨true, false, 5⟩),
    (16, 0xF163, .enq ⟨true, true, 12⟩),
    (16, 0x0164, .enqw Guard.none),
    (16, 0x9565, .lsend ⟨true, false, 5⟩),
    (16, 0xF166, .mrecv ⟨true, true, 12⟩),
    (16, 0x0167, .ringput Guard.none),
    (16, 0x9568, .pgmap ⟨true, false, 5⟩),
    (16, 0xF169, .cflush ⟨true, true, 12⟩),
    (16, 0x0170, .cpy Guard.none),
    (16, 0x9571, .cpystat ⟨true, false, 5⟩),
    (16, 0xF172, .mould ⟨true, true, 12⟩),
    (16, 0x0173, .unveil Guard.none)] : List (Nat × Nat × Instr)),
    decodeTableWord x.1 x.2.1 = some x.2.2 := by decide +kernel

/-- Words written out from the encodings of R132, R134, R268 to R318, R339. -/
theorem test_decode_system2 : ∀ x ∈ ([
    (32, 0x0040963A, .cpyscout ⟨true, false, 5⟩ 0x40),
    (16, 0xF174, .accpatch ⟨true, true, 12⟩)] : List (Nat × Nat × Instr)),
    decodeTableWord x.1 x.2.1 = some x.2.2 := by decide +kernel

/-- Words written out from the encodings of R122, R125, R135. -/
theorem test_decode_literal : ∀ x ∈ ([
    (48, 0x89ABCDEF0300, .ldiLit Guard.none 0x89abcdef),
    (48, 0xFFFFFFFECF01, .jmp ⟨true, true, 3⟩ 0xfffffffe),
    (48, 0x000123450302, .call Guard.none 0x00012345),
    (48, 0x00000B2A0303, .draw Guard.none 0x2a 0xb),
    (48, 0x000007F8A704, .mcatch ⟨true, false, 9⟩ 0xf8 7),
    (48, 0x00000F100305, .accld Guard.none 0x10 15),
    (48, 0x000000FF0306, .accst Guard.none 0xff 0),
    (48, 0xDA39600003C1, .endrun true 0x5A3 0x96),
    (48, 0x0000F00003C1, .endrun false 0 0x0F)] : List (Nat × Nat × Instr)),
    decodeTableWord x.1 x.2.1 = some x.2.2 := by decide +kernel

/-- Words written out from the encodings of R137, R321, R323, R324, R325. -/
theorem test_decode_sequencer : ∀ x ∈ ([
    (64, 0x0752969695E1E180, .mWload .b4 .q1 true false 2 0x5a5a5 0x3c3c3),
    (64, 0x0921E48D16AAAA80, .mPass .e5m2 .right false true 3 true 0x12345 0x155 0xaa true),
    (64, 0x0C08000003E00980, .mDrain .bot 0x1f0 9 true),
    (64, 0x101C00000023FF00, .mZero .left 0x011 0x1ff),
    (64, 0x2C185FFFFC040300, .mSave .q3 1 0x7ffff 2 3),
    (64, 0x3000900003FD0000, .mRestore .all 2 0x40000 0x1fe 0x100),
    (64, 0x140000000000000D, .mBarArrive 13),
    (64, 0x150000000000000E, .mBarWait 14),
    (64, 0x1600000000000007, .mBarSync 7),
    (64, 0x1A1234FFFC00FFFD, .mLoop 2 0x1234 3 0xfff0 0xfffd),
    (64, 0x1C00000000008000, .mJmp 0x8000),
    (64, 0x2000000000000000, .mStop),
    (64, 0x268000000006789A, .mFmt 5 0x6789a),
    (64, 0x2800000000000006, .mSlice .h .m)] : List (Nat × Nat × Instr)),
    decodeTableWord x.1 x.2.1 = some x.2.2 := by decide +kernel
/-! Smoke tests of `Instr.wf`: one ill-formed term for each check, refused. -/

theorem test_wf_guard_sense : (Instr.nop ⟨false, true, 0⟩).wf = false := by decide
theorem test_wf_guard_number : (Instr.nop ⟨false, false, 3⟩).wf = false := by decide
theorem test_wf_pick : (Instr.pick Guard.none 7).wf = false := by decide
theorem test_wf_ldk2 : (Instr.ldk2 Guard.none 3).wf = false := by decide
theorem test_wf_ldf2 : (Instr.ldf2 Guard.none 7).wf = false := by decide
theorem test_wf_stf2 : (Instr.stf2 Guard.none 255).wf = false := by decide
theorem test_wf_red : (Instr.red Guard.none .xor .f32).wf = false := by decide
theorem test_wf_scan : (Instr.scan Guard.none .and .f32).wf = false := by decide
theorem test_wf_ldF : (Instr.ldF Guard.none 5 .i64).wf = false := by decide
theorem test_wf_ldwF : (Instr.ldwF Guard.none 5 .i64).wf = false := by decide
theorem test_wf_ldqF : (Instr.ldqF Guard.none 6).wf = false := by decide
theorem test_wf_grow : (Instr.grow Guard.none 33).wf = false := by decide
theorem test_wf_shrink : (Instr.shrink Guard.none 63).wf = false := by decide
theorem test_wf_mfs : (Instr.mfs Guard.none 0x00A).wf = false := by decide
theorem test_wf_mts : (Instr.mts Guard.none 0x044).wf = false := by decide
theorem test_wf_cpyscout : (Instr.cpyscout Guard.none 65).wf = false := by decide
theorem test_wf_mcatch : (Instr.mcatch Guard.none 0xF8 8).wf = false := by decide
theorem test_wf_accld : (Instr.accld Guard.none 0xFF 1).wf = false := by decide
theorem test_wf_accst : (Instr.accst Guard.none 0xF1 15).wf = false := by decide
theorem test_wf_endrun : (Instr.endrun false 1 0).wf = false := by decide
theorem test_wf_wload : (Instr.mWload .i8 .all false false 0 0 1).wf = false := by decide

/-- Words that are no instruction: OP 0x00C is reserved (R131), a guard with E = 0 and G = 1 (R119), `pick` 7 and
`ldf2` of an odd register (R121), the literal LC with N + n - 1 = 256 (R122), a trailer with a reserved bit (R125), a
zero sequencer word (R137), region code 9 (R321) and format code 7 of a weight load (R325). -/
theorem test_decode_refuses : ∀ x ∈ ([(16, 0x000C), (16, 0x0400), (32, 0x0007018D), (32, 0x00070185),
    (48, 0x00000FF10306), (48, 0x0000000103C1), (64, 0), (64, 0x1024000000000000), (64, 0x05C0000000000000)] :
      List (Nat × Nat)), decodeTableWord x.1 x.2 = none := by decide +kernel
/-! ## States that meet the hypotheses of the statements -/

open Sys2Proof.Machine

/-- A run of one `nop` in progress on group slot 0 of core 0: 32 lanes, depth 8, 32 granules, user mode. -/
def busy : State := State.reset.placeRun [0]

/-- The same with the group and its run changed. -/
def busyWith (f : Group → Group) (h : Run → Run) : State :=
  busy.modGroup 0 0 (fun g => { f g with run := (f g).run.map h })

/-- Guarded by predicate 0, which no lane has: every lane guarded off. -/
def off : Guard := ⟨true, false, 0⟩

theorem witness_StepRunsDecoded_run : ∃ c, busy.agenda = [] ∧ busy.cur = some c ∧ c.stopped = false ∧
    decode c.r.code = .ok (.nop Guard.none, plainTrailer) := ⟨_, rfl, rfl, by decide +kernel, by decide +kernel⟩

theorem witness_StepRunsDecoded_group :
    let s : State := { busy with agenda := [⟨3, .group 0 0⟩], focus := none }
    let s1 : State := { ({ s with agenda := [] }.lapse 3) with focus := some (0, 0), seqFocus := none }
    ∃ c, s1.cur = some c ∧ c.stopped = false ∧ decode c.r.code = .ok (.nop Guard.none, plainTrailer) :=
  ⟨_, rfl, by decide +kernel, by decide +kernel⟩

theorem witness_StepRunsDecoded_seq :
    let s := State.reset.placeSeq (8 * 2 ^ 58)
    let s1 : State := { ({ s with agenda := [] }.lapse 0) with focus := none, seqFocus := some (0, 0) }
    s.agenda = [⟨0, .seq 0 0⟩] ∧ ∃ c w t, s1.seqOf 0 0 = some c ∧ c.q.busy = false ∧ s1.seqHalted 0 0 = false ∧
      c.q.wordAt = some (w, t) ∧ decodeSeq w = some .mStop :=
  ⟨rfl, _, _, _, rfl, by decide +kernel, by decide +kernel, rfl, by decide +kernel⟩

theorem witness_StepRunsDecoded_event :
    let s : State := { State.reset with agenda := [⟨0, .event .powerOnReset⟩] }
    s.agenda = ⟨0, .event .powerOnReset⟩ :: [] ∧ isEvent .powerOnReset = true := ⟨rfl, by decide +kernel⟩

theorem witness_EncodingRoundTrip : (Instr.nop Guard.none).wf = true ∧ encode (.nop Guard.none) ≠ [] ∧
    Instr.mStop.wf = true ∧ encodeSeq .mStop = some (8 * 2 ^ 58) ∧ decode [0, 0x0001] = .ok (.nop Guard.none, [0x0001]) := by
  decide +kernel

theorem witness_ExecutionFrame : ∃ c, busy.cur = some c := ⟨_, rfl⟩

theorem witness_GuardRule : (31 : Nat) < 32 := by decide

/-- Depth 8, everything on the working stack: room for the operands of every instruction, `pick 7` included. -/
theorem witness_StackInstructions : ∃ c, busy.cur = some c ∧ 4 ≤ c.r.stk.length ∧ (7 : BitVec 3).toNat + 1 ≤ c.r.stk.length ∧
    c.g.parked = none ∧ c.r.image.dmin ≤ c.r.depth0 := ⟨_, rfl, by decide +kernel⟩

/-- In the handler split, entered at depth 0. -/
theorem witness_StackInstructions_handler :
    let s := busyWith (fun g => { g with parked := some ⟨[], [], [], 0, .slot 0⟩, sup := true }) id
    ∃ c k, s.cur = some c ∧ c.g.parked = some k ∧ k.base + c.r.image.dmin ≤ c.r.depth0 := ⟨_, _, rfl, rfl, by decide +kernel⟩

theorem witness_LoadsOfRegisters : ∃ c, busy.cur = some c ∧ 3 ≤ c.r.stk.length := ⟨_, rfl, by decide +kernel⟩

/-- f254 and f255 lie below 8g and nothing is pending. -/
theorem witness_RegistersOfARun : ∃ c, busy.cur = some c ∧ 2 ≤ c.r.stk.length ∧ (254 : BitVec 8).toNat + 2 ≤ 8 * c.g.fgran ∧
    ∀ p ∈ c.g.pendFrm, ¬((254 : BitVec 8).toNat ≤ p.reg ∧ p.reg < (254 : BitVec 8).toNat + 2) := ⟨_, rfl, by decide +kernel⟩

/-- One granule: f8 lies beyond; f3 is pending. -/
theorem witness_RegistersOfARun_faults :
    let s := busyWith (fun g => { g with fgran := 1, pendFrm := [⟨3, 0⟩] }) id
    ∃ c, s.cur = some c ∧ 8 * c.g.fgran < (8 : BitVec 8).toNat + 1 ∧ (3 : BitVec 8).toNat + 1 ≤ 8 * c.g.fgran ∧
      ∃ p ∈ c.g.pendFrm, p.reg = (3 : BitVec 8).toNat := ⟨_, rfl, by decide +kernel⟩

theorem witness_IntegerAndBitRows : ∃ c, busy.cur = some c ∧ ∀ t, 3 * Claims.wordsOf t ≤ c.r.stk.length ∧
    2 * Claims.wordsOf t + 2 ≤ c.r.stk.length := ⟨_, rfl, fun t => by cases t <;> decide +kernel⟩

theorem witness_Division : ∃ c, busy.cur = some c ∧ ∀ t, 2 * Claims.wordsOf t ≤ c.r.stk.length :=
  ⟨_, rfl, fun t => by cases t <;> decide +kernel⟩

theorem witness_IntegerAndBitRows_setp : ∃ c, busy.cur = some c ∧ 2 * Claims.wordsOf .z64 ≤ c.r.stk.length :=
  ⟨_, rfl, by decide +kernel⟩

theorem witness_ControlTransfers : ∃ c, busy.cur = some c ∧ 2 ≤ c.r.stk.length ∧ 0 < c.g.fgran ∧
    ∀ q ∈ c.g.pendFrm, 2 ≤ q.reg := ⟨_, rfl, by decide +kernel⟩

/-- A group without granules. -/
theorem witness_ControlTransfers_noFrame : ∃ c, (busyWith (fun g => { g with fgran := 0 }) id).cur = some c ∧ c.g.fgran = 0 :=
  ⟨_, rfl, by decide +kernel⟩

theorem witness_GroupActions_user : ∃ c, busy.cur = some c ∧ busy.watchLocked c.g.guest 3 = false ∧ c.g.sup = false :=
  ⟨_, rfl, by decide +kernel⟩

theorem witness_GroupActions_supervisor : ∃ c, (busyWith (fun g => { g with sup := true }) id).cur = some c ∧ c.g.sup = true :=
  ⟨_, rfl, by decide +kernel⟩

/-- Watch unit 2 of guest 0 is locked. -/
theorem witness_GroupActions_locked :
    let s := busy.setCtx 0 { Ctx.initial with watch := [Watch.off, Watch.off, ⟨false, true, true, []⟩, Watch.off] }
    ∃ c, s.cur = some c ∧ s.watchLocked c.g.guest (2 : BitVec 2).toNat = true := ⟨_, rfl, by decide +kernel⟩

/-- Every counter 0, no store and no record: every wait is met; guarded off likewise. -/
theorem witness_WaitingInstructions : ∃ c, busy.cur = some c ∧ c.on off = 0 ∧ c.on Guard.none ≠ 0 ∧
    c.g.ld.toNat ≤ (0 : BitVec 4).toNat ∧ c.g.st.toNat ≤ (0 : BitVec 4).toNat ∧ c.g.cp.toNat ≤ (0 : BitVec 3).toNat ∧
    c.g.tl.toNat ≤ (0 : BitVec 3).toNat ∧ c.g.sq = [] ∧ busy.recs = [] ∧ busy.aq = [] := ⟨_, rfl, by decide +kernel⟩

/-- LD.ct is 1 and the limit 0; an entry stands in the store queue. -/
theorem witness_WaitingInstructions_held :
    let s := busyWith (fun g => { g with ld := 1, sq := [⟨0, 0, 0, 4, 0, 0, 0, none⟩] }) id
    ∃ c, s.cur = some c ∧ c.on Guard.none ≠ 0 ∧ ¬((0 : BitVec 4).toNat = 15 ∨ c.g.ld.toNat ≤ (0 : BitVec 4).toNat) ∧
      s.recs = [] ∧ c.g.sq ≠ [] := ⟨_, rfl, by decide +kernel⟩

theorem witness_FloatResults : ∃ c, busy.cur = some c ∧ 3 ≤ c.r.stk.length := ⟨_, rfl, by decide +kernel⟩
theorem witness_SpecialFunctions : ∃ c, busy.cur = some c ∧ 2 ≤ c.r.stk.length := ⟨_, rfl, by decide +kernel⟩
theorem witness_RoundingAndComparison : ∃ c, busy.cur = some c ∧ 3 ≤ c.r.stk.length := ⟨_, rfl, by decide +kernel⟩
theorem witness_Conversions : ∃ c, busy.cur = some c ∧ 2 ≤ c.r.stk.length := ⟨_, rfl, by decide +kernel⟩
theorem witness_SegmentInstructions : ∃ c, busy.cur = some c ∧ c.r.segw.toNat ≤ 4 ∧ 2 ≤ c.r.stk.length ∧
    (4 : BitVec 3).toNat ≤ 4 ∧ 5 ≤ (5 : BitVec 3).toNat := ⟨_, rfl, by decide +kernel⟩
theorem witness_FloatAndArgReductions : ∃ c, busy.cur = some c ∧ c.r.segw.toNat ≤ 4 ∧ 2 ≤ c.r.stk.length ∧
    RedOp.max ∈ [RedOp.add, .min, .max] := ⟨_, rfl, by decide +kernel⟩
theorem witness_BlockQuantisation : ∃ c, busy.cur = some c ∧ 2 ≤ c.r.stk.length := ⟨_, rfl, by decide +kernel⟩
theorem witness_Draws : ∃ c, busy.cur = some c ∧ 4 ≤ c.r.stk.length ∧ c.r.segw.toNat ≤ 4 := ⟨_, rfl, by decide +kernel⟩

/-- The run in progress of a state that has one. -/
def curOf (s : State) : Cur := s.cur.getD ⟨0, 0, placedGroup [] 0, (busy.cur.map (·.r)).getD
  (Run.fresh (placedGroup [] 0) 0 ⟨0, 0, 0, 0, none, 0, 0, none, false, .nothing, 0, none, none, [], false, false⟩ ⟨0, []⟩ 0)⟩
theorem witness_RoundingModes : ((5 : Nat) : ℚ) * 2 ^ (-3 : Int) ≤ Claims.codeRat .e4m3 Fl.e4m3.maxCode := by
  have h : Fl.e4m3.decode Fl.e4m3.maxCode = .fin false 14 5 := by decide +kernel
  rw [Claims.codeRat, h]; norm_num

/-- A level 1, a level 2 and a level 3 table; the level 3 leaf maps the first GiB onto itself, writable and executable,
local (R242, R243). -/
def tables : List Host.Cell :=
  [(0x1000, 0x01), (0x1001, 0x20), (0x2000, 0x01), (0x2001, 0x30), (0x3000, 0x0F)]

/-- A context with those tables, a handler and a per-thread region. -/
def ctx0 : Ctx := { Ctx.initial with valid := true, asroot := 0x1000, xvec := 0x40000, ptmbase := 0x100000, ptmsize := 0x10000 }

/-- `busy` with the tables of context 0 and partition 0 over the first GiB. -/
def mapped : State := { busy.setCtx 0 ctx0 with mem := tables, dev := { Device.initial with parts := [(0, ⟨1, 1⟩)] } }

/-- `mapped` with one active lane, the group and its run changed. -/
def mappedWith (f : Group → Group) (h : Run → Run) : State :=
  mapped.modGroup 0 0 (fun g => { f g with run := (f g).run.map (fun r => h { r with mask := 1 }) })

/-- Entries that hold a word in lane 0. -/
def ents (ws : List Word) : List Entry := ws.map (fun w => ⟨[w], none⟩)

/-- `mappedWith` a stack, top first. -/
def stacked (ws : List Word) : State := mappedWith id (fun r => { r with stk := ents ws })

/-- Address 0 is mapped, aligned for 16 bytes and writable; the null witness is consumable; f4 to f7 are idle. -/
theorem witness_LoadsAndStores :
    let s := stacked [0, 0, 0, 0, 0, 0]
    let c := curOf s
    s.cur = some c ∧ 6 ≤ c.r.stk.length ∧
    Claims.AddrOk s c (c.on Guard.none) 16 ⟨true, true⟩ true false (Claims.adr c 4) ∧
    Claims.AddrOk s c (c.on Guard.none) 16 ⟨true, true⟩ false true (Claims.adr c 6) ∧
    Claims.AddrOk s c (c.on Guard.none) 8 ⟨false, false⟩ false true (Claims.adr c 4) ∧
    Claims.FrameIdle c (4 : BitVec 8).toNat 4 ∧
    ∀ l < 32, laneOn (c.on Guard.none) l →
      (s.consume c.core c.g (dword (Claims.arg c 4 2 l) (Claims.arg c 4 3 l))).isSome := by
  unfold Claims.AddrOk Claims.FrameIdle; exact ⟨rfl, by and_intros <;> decide +kernel⟩

/-- Address 0 lets a synchronising access through in every scope, whatever the operation. -/
theorem witness_LoadsAndStores_sync : ∃ c, (stacked [0, 0, 0, 0]).cur = some c ∧
    ∀ sc, Claims.SyncOk (stacked [0, 0, 0, 0]) c (c.on Guard.none) sc .plain (Claims.adr c 4) := by
  refine ⟨_, rfl, fun sc l hl hon => ⟨0, 0x0F, ?_⟩⟩
  have h : ∀ l < 32, laneOn (1 : Mask) l → l = 0 := by decide +kernel
  obtain rfl := h l hl hon
  cases sc <;> decide +kernel

/-- `ldq` of address 1. -/
theorem witness_LaneAccessFaults : ∃ c, (stacked [0, 1]).cur = some c ∧
    (Instr.ldq Guard.none, 2, 16) ∈ [(Instr.ldq Guard.none, 2, 16)] ∧
    (∀ l < 32, laneOn (c.on Guard.none) l → (stacked [0, 1]).formOk c.g.guest ⟨true, true⟩ (Claims.adr c 2 l) 16 = true) ∧
    ∃ l < 32, laneOn (c.on Guard.none) l ∧ (Claims.adr c 2 l).toNat % 16 ≠ 0 :=
  ⟨_, rfl, by decide +kernel⟩

/-- The last eight bytes of a workgroup's allocation, without a copy in flight or a store of the run. -/
theorem witness_ScratchpadAccess :
    let s := { stacked [1, 0, 393208] with wgroups := [(wkey 0 0, placedWG 0 0)] }
    ∃ c, s.cur = some c ∧ 3 ≤ c.r.stk.length ∧ c.r.staged = [] ∧ ∀ l < 32, laneOn (c.on Guard.none) l →
      (Claims.arg c 3 0 l).toNat % 8 = 0 ∧ (Claims.arg c 3 0 l).toNat + 8 ≤ (s.allocOf c).1 ∧
      s.scoreHit c.core ((s.allocOf c).2 + (Claims.arg c 3 0 l).toNat) 8 = false := ⟨_, rfl, by decide +kernel⟩

/-- An atomic of 8 bytes in each scope. -/
theorem witness_AtomicsAndWitnesses : ∃ c, (stacked [0, 0, 0, 0, 0, 0]).cur = some c ∧ 6 ≤ c.r.stk.length ∧
    Claims.AddrOk (stacked [0, 0, 0, 0, 0, 0]) c (c.on Guard.none) 8 ⟨false, false⟩ true true (Claims.adr c 6) ∧
    ∀ sc op, Claims.SyncOk (stacked [0, 0, 0, 0, 0, 0]) c (c.on Guard.none) sc op (Claims.adr c 6) := by
  refine ⟨_, rfl, by decide +kernel, by unfold Claims.AddrOk; decide +kernel, fun sc op l hl hon => ⟨0, 0x0F, ?_⟩⟩
  have h : ∀ l < 32, laneOn (1 : Mask) l → l = 0 := by decide +kernel
  obtain rfl := h l hl hon
  cases sc <;> cases op <;> decide +kernel

/-- Two witnesses of device scope and domain 0; one of workgroup scope and another workgroup, which is not consumable. -/
theorem witness_AtomicsAndWitnesses_wit : ∃ c, (stacked [0x80000000, 5, 0x80000000, 3]).cur = some c ∧
    4 ≤ c.r.stk.length ∧ (∀ l < 1, laneOn (c.on Guard.none) l ∧
      (dword (Claims.arg c 4 0 l) (Claims.arg c 4 1 l)).toNat / 2 ^ 62 = 2 ∧
      (dword (Claims.arg c 4 2 l) (Claims.arg c 4 3 l)).toNat / 2 ^ 62 = 2 ∧
      ((stacked [0x80000000, 5, 0x80000000, 3]).consume c.core c.g (dword (Claims.arg c 2 0 l) (Claims.arg c 2 1 l))).isSome) ∧
    (stacked [0x40050000, 5]).consume c.core c.g 0x4005000000000005 = none := ⟨_, rfl, by decide +kernel⟩

/-- Every mode, a register of each class, one that does not exist. -/
theorem witness_SystemRegisters : ∃ c c', (stacked [0, 0]).cur = some c ∧ c.g.sup = false ∧
    (mappedWith (fun g => { g with sup := true }) id).cur = some c' ∧ c'.g.sup = true ∧ 2 ≤ c.r.stk.length ∧
    (0x010 : BitVec 12).toNat = 0x010 ∧ isSysReg 0x00A = false ∧
    (∀ x ∈ (mappedWith (fun g => { g with sup := true }) id).ops, x.2.guest = c'.g.guest →
      x.2.kind ∉ [OpKind.stw, .atomic, .ringput]) := ⟨_, _, rfl, by decide +kernel, rfl, by decide +kernel⟩

/-- An outstanding operation of a kind. -/
def opOfKind (k : OpKind) : Op where
  id := 0
  kind := k
  core := 0
  slot := 0
  guest := 0
  pc := 0
  mask := 1
  lanes := [⟨⟨0, 0, 0, 0, 0⟩, .todo⟩]
  dest := .none
  ctr := none
  size := 4
  ext := .zero
  atom := .add
  sgn := false
  scope := .dev
  wit := false
  gen := 0
  at_ := 0
  status := none
  dropped := false
  saved := false

/-- A synchronising store of the context in flight. -/
theorem witness_SystemRegisters_asgen :
    let s := { mappedWith (fun g => { g with sup := true }) id with ops := [(0, opOfKind .stw)] }
    ∃ c, s.cur = some c ∧ c.g.sup = true ∧ c.on Guard.none ≠ 0 ∧
      ∃ x ∈ s.ops, x.2.guest = c.g.guest ∧ x.2.kind ∈ [OpKind.stw, .atomic, .ringput] := ⟨_, rfl, by decide +kernel⟩

/-- Thirty-two granules held, so that one more is too many. -/
theorem witness_FrameAllotment_full : ∃ c, busy.cur = some c ∧ c.on off = 0 ∧ c.on Guard.none ≠ 0 ∧ busy.growq = [] ∧
    c.r.staged = [] ∧ 32 < c.g.fgran + (1 : BitVec 6).toNat ∧ (32 : BitVec 6).toNat ≤ c.g.fgran ∧
    c.g.fgran < (33 : BitVec 6).toNat ∧ c.g.pendFrm = [] := ⟨_, rfl, by decide +kernel⟩

/-- One granule held and room in the pool; and a pool with none. -/
theorem witness_FrameAllotment_grow :
    let s := busyWith (fun g => { g with fgran := 1, grans := [0] }) id
    let s' := { s with groups := s.groups ++ (List.range 16).map (fun k => (k + 1, { placedGroup [] 0 with fgran := 31 })) }
    ∃ c c', s.cur = some c ∧ s'.cur = some c' ∧ c.g.fgran + (31 : BitVec 6).toNat ≤ 32 ∧
      (31 : BitVec 6).toNat ≤ s.freeGranules c.core ∧ c'.g.fgran + (31 : BitVec 6).toNat ≤ 32 ∧
      s'.freeGranules c'.core < (31 : BitVec 6).toNat := ⟨_, _, rfl, rfl, by decide +kernel⟩

/-- A header address that is aligned and mapped, and one that is not aligned. -/
theorem witness_LaunchesMessagesRings : ∃ c c', (stacked [0, 0, 64]).cur = some c ∧ (stacked [0, 0, 65]).cur = some c' ∧
    3 ≤ c.r.stk.length ∧ c.on off = 0 ∧ Claims.lowest (c.on Guard.none) = some 0 ∧
    aperture (Claims.adr c 3 0) = .global ∧ (Claims.adr c 3 0).toNat % 64 = 0 ∧
    (stacked [0, 0, 64]).translate c.g.guest (Claims.adr c 3 0).toNat .load = .ok (64, 0x0F) ∧
    (Claims.adr c' 3 0).toNat % 64 ≠ 0 ∧
    Claims.AddrOk (stacked [0, 0, 64]) c (c.on Guard.none) 4 ⟨false, false⟩ true true (Claims.adr c 3) ∧
    Claims.SyncOk (stacked [0, 0, 64]) c (c.on Guard.none) .sys .exch (Claims.adr c 3) := by
  refine ⟨_, _, rfl, rfl, by decide +kernel, by decide +kernel, by decide +kernel, by decide +kernel, by decide +kernel,
    by decide +kernel, by decide +kernel, by unfold Claims.AddrOk; decide +kernel, fun l hl hon => ⟨64, 0x0F, ?_⟩⟩
  have h : ∀ l < 32, laneOn (1 : Mask) l → l = 0 := by decide +kernel
  obtain rfl := h l hl hon
  decide +kernel
/-- Tables down to level 5, with a hole for page 0; a pool of one page at 0x80000. -/
def holed (next : Addr) : State :=
  { (mappedWith (fun g => { g with sup := true }) (fun r => { r with stk := ents [1, 0, 0] })).setCtx 0
      { ctx0 with poolbase := 0x80000, poolnext := next, poolend := 0x90000 } with
    mem := [(0x1000, 0x01), (0x1001, 0x20), (0x2000, 0x01), (0x2001, 0x30), (0x3000, 0x01), (0x3001, 0x40),
            (0x4000, 0x01), (0x4001, 0x50)] }

/-- One lane on, a hole at level 5, flags 1: with room in the pool, and with none. -/
theorem witness_PageMapping :
    let s := holed 0x80000
    let c := curOf s
    s.cur = some c ∧ c.g.sup = true ∧ 3 ≤ c.r.stk.length ∧ Memory.wf s.mem = true ∧ s.cmdField c.g.guest 48 4 = 0 ∧
    c.on Guard.none = BitVec.ofNat 32 (2 ^ 0) ∧ s.globalVa c.g.guest (Claims.adr c 3 0) 1 = some 0 ∧
    (Claims.arg c 3 2 0).toNat < 4 ∧ s.walk c.g.guest 0 = .hole 5 0x5000 ∧
    (s.ctx c.g.guest).poolnext.toNat + 65536 ≤ (s.ctx c.g.guest).poolend.toNat ∧
    ((holed 0x90000).ctx 0).poolend.toNat < ((holed 0x90000).ctx 0).poolnext.toNat + 65536 :=
  ⟨rfl, by and_intros <;> decide +kernel⟩

/-- A page that is mapped. -/
theorem witness_PageMapping_mapped :
    let s := mappedWith (fun g => { g with sup := true }) (fun r => { r with stk := ents [1, 0, 0] })
    let c := curOf s
    s.cur = some c ∧ c.g.sup = true ∧ Memory.wf s.mem = true ∧ s.cmdField c.g.guest 48 4 = 0 ∧
    s.globalVa c.g.guest (Claims.adr c 3 0) 1 = some 0 ∧ s.walk c.g.guest 0 = .leaf 0x0F 3 :=
  ⟨rfl, by and_intros <;> decide +kernel⟩

/-- The workgroup of the producer group (W1 0), and of another producer. -/
def withWG (s : State) (prod : Nat) : State :=
  { s with wgroups := [(wkey 0 0, { placedWG 0 0 with prod := prod, groups := [(0, 0)] })] }

/-- A chain of core 0. -/
def chainOf (ph : ChainPhase) : Chain where
  id := 0
  op := 0
  core := 0
  wslot := 0
  slot := 0
  cluster := 0
  guest := 0
  sup := false
  lane := 0
  elem := 0x8000
  index := 0
  phase := ph
  cause := 0
  bytes := []
  moved := 0
  scoutAt := 0
  scoutOff := false
  scout := 0
  after := .fetch
  watchOff := 0
  range := []
  at_ := 0

theorem witness_TransferUnitInstructions :
    let s := withWG (stacked [0, 0]) 0
    let c := curOf s
    s.cur = some c ∧ s.wgroup c.core c.g.wslot = some { placedWG 0 0 with prod := 0, groups := [(0, 0)] } ∧
    2 ≤ c.r.stk.length ∧ s.w1Of c.g = 0 ∧ c.on off = 0 ∧ Claims.lowest (c.on Guard.none) = some 0 ∧ c.r.staged = [] ∧
    s.chains = [] ∧ (withWG (stacked [0, 0]) 1).w1Of c.g ≠ 1 ∧
    8 ≤ (({ s with chains := List.replicate 8 (chainOf .fetch) } : State).chains.filter (fun x => decide (x.core = c.core))).length :=
  ⟨rfl, rfl, by and_intros <;> decide +kernel⟩

/-- A buffer of 128 bytes at address 0, mapped, with no mould bound; bound; overlapped; and no handle free. -/
theorem witness_MouldBinding :
    let s := stacked [128, 0, 0]
    let c := curOf s
    let m : Mould := ⟨true, 0, 128, [], [], 0⟩
    let ms (ms : List Mould) : List Mould := (({ s with ctxs := mset s.ctxs 0 { ctx0 with moulds := ms } } : State).ctx 0).moulds
    s.cur = some c ∧ 3 ≤ c.r.stk.length ∧ Claims.lowest (c.on Guard.none) = some 0 ∧
    ((Claims.adr c 3 0).toNat < 2 ^ 57 ∧ (Claims.adr c 3 0).toNat % 128 = 0 ∧ (Claims.arg c 3 2 0).toNat % 128 = 0 ∧
      0 < (Claims.arg c 3 2 0).toNat ∧ (Claims.arg c 3 2 0).toNat ≤ 2 ^ 28) ∧
    s.mouldFrames c.g.guest 0 128 = some [0] ∧ busy.mouldFrames 0 0 128 = none ∧
    (s.ctx 0).moulds.findIdx? (fun m => !m.bound) = some 0 ∧ (∀ m ∈ (s.ctx 0).moulds, m.bound = false) ∧
    (ms [m]).findIdx? (fun m => m.bound && m.base == 0 && m.len.toNat == 128) = some 0 ∧
    (∀ x ∈ ms (List.replicate 8 { m with base := 256 }), x.bound = true ∧ 128 ≤ x.base.toNat) ∧
    ((ms [{ m with len := 256 }]).findIdx? (fun m => m.bound && m.base == 0 && m.len.toNat == 128) = none ∧
      ∃ x ∈ ms [{ m with len := 256 }], x.bound = true ∧ x.base.toNat < 128 ∧ 0 < x.base.toNat + x.len.toNat) ∧
    ¬(Claims.arg (curOf (stacked [127, 0, 0])) 3 2 0).toNat % 128 = 0 :=
  ⟨rfl, by and_intros <;> decide +kernel⟩

theorem witness_TableAndWatchLoads :
    let s := stacked [0, 0]
    let c := curOf s
    let c' := curOf (stacked [0x80000000, 0])
    s.cur = some c ∧ 2 ≤ c.r.stk.length ∧ c.on off = 0 ∧ Claims.lowest (c.on Guard.none) = some 0 ∧
    aperture (BitVec.ofNat 64 ((Claims.adr c 2 0).toNat / 16 * 16)) ≠ .none ∧
    s.watchLocked c.g.guest (3 : BitVec 2).toNat = false ∧
    s.formOk c.g.guest ⟨true, true⟩ (BitVec.ofNat 64 ((Claims.adr c 2 0).toNat / 128 * 128)) 128 = true ∧
    aperture (BitVec.ofNat 64 ((Claims.adr c' 2 0).toNat / 16 * 16)) = .none ∧
    s.formOk c.g.guest ⟨true, true⟩ (BitVec.ofNat 64 ((Claims.adr c' 2 0).toNat / 128 * 128)) 128 = false :=
  ⟨rfl, by and_intros <;> decide +kernel⟩

/-- Entries 496 to 511 of row 0, f0 to f15; a port with room and a full one; an address outside the array. -/
theorem witness_AccumulatorAccess :
    let s := stacked [0, 0x0001F000]
    let c := curOf s
    let arm : Arming := ⟨0, 0, 0, 0, 0, 0, 1, 1⟩
    s.cur = some c ∧ Claims.FrameIdle c (0 : BitVec 8).toNat ((15 : BitVec 4).toNat + 1) ∧ c.r.staged = [] ∧
    (s.armings.filter (fun a => decide (a.core = c.core))).length < 4 ∧
    ¬(({ s with armings := List.replicate 4 arm } : State).armings.filter (fun a => decide (a.core = c.core))).length < 4 ∧
    Claims.AccOk s c (c.on Guard.none) 16 true (fun l => Claims.arg c 2 0 l) ∧
    Claims.AccOk s c (c.on Guard.none) 16 false (fun l => Claims.arg c 2 0 l) ∧
    2 ≤ c.r.stk.length ∧ ∀ l < 32, laneOn ((curOf (stacked [0x20000])).on Guard.none) l →
      2 ^ 17 ≤ (Claims.arg (curOf (stacked [0x20000])) 1 0 l).toNat := by
  unfold Claims.AccOk Claims.FrameIdle; exact ⟨rfl, by and_intros <;> decide +kernel⟩

/-- The part of the group that `mapped` runs. -/
def part0 : Part := ⟨0, 0xFFFFFFFF, 8, 8, none, 0, 0, none, false, .nothing, 0, none, none, [], false, false⟩

/-- A launch without a header of its own but for what is said. -/
def launch0 (safetab : Addr) (nsafe : Nat) : Launch where
  guest := 0
  hdr := ⟨0, 0, safetab, [1, 1, 1, 1, 1, 1], 0, 1, 0, nsafe, 8, [32, 1, 1, 1, 1, 1], 0, 0, 0, 0, 0, []⟩
  parent := none
  root := 0
  lstart := 0
  prio := 0
  phase := .running
  nextSpan := 0
  quota := .none
  waiter := none
  host := true
  tag := 0
  stage := none
  err := false
  groups := 1
  seqs := 0
  aborted := false

/-- At its trailer with an empty stack: a safe point. -/
theorem witness_TrailerCommits :
    let s := { mappedWith id (fun r => { r with stk := [] }) with launches := [(0, launch0 0x2000 4)] }
    let c := curOf s
    Claims.Plain s c part0 ∧ c.g.sup = false ∧ c.g.parked = none ∧ c.r.staged = [] ∧ c.r.pendMask = 0 ∧
    c.exitDepth = 0 ∧ s.launchOf c.g = some (launch0 0x2000 4) ∧ (3 : BitVec 11).toNat < (launch0 0x2000 4).hdr.nsafe ∧
    s.translate c.g.guest ((launch0 0x2000 4).hdr.safetab + BitVec.ofNat 64 (64 * (3 : BitVec 11).toNat)).toNat .load =
      .ok (0x20C0, 0x0F) ∧ c.r.pendMask ≠ 1 :=
  ⟨⟨rfl, rfl, ⟨rfl, rfl⟩, rfl, ⟨rfl, rfl, rfl⟩, by decide +kernel, ⟨rfl, rfl, rfl, rfl⟩, by decide +kernel, by decide +kernel,
    by decide +kernel⟩, by and_intros <;> decide +kernel⟩

/-- A user-mode group with a handler and its plinth mapped; one without a handler. -/
theorem witness_TakingAnException :
    let s := mapped
    let c := curOf s
    s.cur = some c ∧ dispositionOf cAlign = .handler ∧ c.g.sup = false ∧ (s.ctx c.g.guest).xvec ≠ 0 ∧
    (let s1 := s.rollback c.core c.slot c.r.split .nothing
     ∃ g1, s1.group c.core c.slot = some g1 ∧ (s1.spillParts c.core g1 (g1.splits ++ (g1.pend ++ g1.ovf).map some)).2.2 = none) ∧
    (let s1 := ({ s with mem := [] } : State).rollback c.core c.slot c.r.split .nothing
     ∃ g1, s1.group c.core c.slot = some g1 ∧
       (s1.spillParts c.core g1 (g1.splits ++ (g1.pend ++ g1.ovf).map some)).2.2.isSome = true) ∧
    (busy.ctx 0).xvec = 0 ∧ cIllegal ∈ [cIllegal, cRunForm, cRunHazard] :=
  ⟨rfl, by decide +kernel, by decide +kernel, by decide +kernel, ⟨_, rfl, by decide +kernel⟩, ⟨_, rfl, by decide +kernel⟩,
    by decide +kernel, by decide +kernel⟩

/-- In the handler, `tret` executed, at the depth at which the handler was entered. -/
theorem witness_ReturnFromHandler :
    let k : Parked := ⟨[some { part0 with mask := 1 }, none, none, none], [], [], 8, .slot 0⟩
    let s := mappedWith (fun g => { g with sup := true, parked := some k }) (fun r => { r with staged := [.tret true] })
    let c := curOf s
    Claims.Plain s c part0 ∧ c.g.sup = true ∧ c.r.staged = [.tret true] ∧ c.r.pendMask = 0 ∧ c.g.parked = some k ∧
    c.exitDepth = k.base ∧ k.deliv = .slot 0 ∧ s.recs = [] :=
  ⟨⟨rfl, rfl, ⟨rfl, rfl⟩, rfl, ⟨rfl, rfl, rfl⟩, by decide +kernel, ⟨rfl, rfl, rfl, rfl⟩, by decide +kernel, by decide +kernel,
    by decide +kernel⟩, by and_intros <;> decide +kernel⟩
/-! ### Scheduling -/

/-- The group of `mapped` between runs, at cc 5000, its one part changed by `f` and the group by `h`; a run with one `nop`
stands at 0x8000. -/
def idle (f : Part → Part) (h : Group → Group) : State :=
  { mapped.modGroup 0 0 (fun g => h { g with run := none, splits := [some (f part0), none, none, none] }) with
    focus := none, cc := 5000,
    mem := tables ++ [(0x8000, 0xC0), (0x8001, 0x03), (0x8002, 0xE0), (0x8003, 0xFF), (0x8004, 0x07), (0x8008, 0xC1),
                      (0x8009, 0x03)] }

/-- That run as decoded, and one that reaches eight entries down. -/
def image0 : RunImage := ⟨0x0007FFE0, [0, 0x03C1, 0, 0]⟩
def image8 : RunImage := ⟨placedHeader, [0, 0x03C1, 0, 0]⟩

/-- The group of a state on core 0, slot 0. -/
def grp (s : State) : Group := (s.group 0 0).getD (placedGroup [] 0)

/-- The run at 0x8000 decodes; at 0 there is none. -/
theorem witness_RunDecoding :
    let s := idle (fun p => { p with pc := 0x8000 }) id
    let p := { part0 with pc := 0x8000 }
    s.group 0 0 = some (grp s) ∧ (grp s).idleSplit 0 = some p ∧ 0 < (grp s).splits.length ∧ p.image = none ∧ p.fault = none ∧
    (grp s).tabAddr = none ∧ s.ops = [] ∧ (s.decodeRun 0 (grp s).guest (s.nsafeOf (grp s)) 0x8000).toOption = some image0 ∧
    image0.join = false ∧ (idle id id).decodeRun 0 0 0 0 = .error cRunForm :=
  ⟨rfl, rfl, by and_intros <;> decide +kernel⟩

/-- One group in E since cc 4990, its one split ready with everything resident. -/
theorem witness_IssueSelection :
    let p := { part0 with image := some image8, readyAt := some 4990 }
    let s := idle (fun _ => p) (fun g => { g with inE := some 4990 })
    s.schedIdle 0 0 = true ∧ s.candidates 0 0 = [⟨0, false, 0, 10⟩] ∧ s.group 0 0 = some (grp s) ∧
    (s.boundary 0 0).isNone ∧ (grp s).splits.getD 0 none = some p ∧ p.readyAt.isSome ∧ p.overdue = false ∧
    ∀ k < 4, k ≠ 0 → (grp s).splits.getD k none = none :=
  ⟨by decide +kernel, by decide +kernel, rfl, by and_intros <;> decide +kernel⟩

/-- A pending entry of 1,100 cc, a yield and a sleep that are over, a group in E for 300 cc. -/
theorem witness_SchedulingTimers :
    let p := { part0 with image := some image8, readyAt := some 4700 }
    let s := idle (fun _ => p) (fun g => { g with inE := some 4700, yieldAt := none, pend := [{ part0 with queued := 3900 }] })
    let s' := idle id (fun g => { g with yieldAt := some 4999, sleepAt := some 5000 })
    s.group 0 0 = some (grp s) ∧ (grp s).pend[0]? = some { part0 with queued := 3900 } ∧ 3900 + 1024 ≤ s.cc ∧
    s.touchGroup (gkey 0 0) (grp s) = grp s ∧ (grp s).inE = some 4700 ∧ 4700 + 256 ≤ s.cc ∧
    (grp s').yieldAt = some 4999 ∧ 4999 ≤ s'.cc ∧ (grp s').sleepAt = some 5000 ∧ 5000 ≤ s'.cc :=
  ⟨rfl, by and_intros <;> decide +kernel⟩

/-- A ready split passed over since cc 3000 by a run of split 1; a part held at a JOIN since cc 3000. -/
theorem witness_SchedulingTimers_splits :
    let p := { part0 with image := some image8, readyAt := some 3000 }
    let q := { part0 with pc := 0x8000, held := some 3000 }
    let s := idle (fun _ => p) (fun g => { g with run := some { Run.fresh g 1 part0 image8 3000 with split := 1 } })
    let s' := idle (fun _ => q) id
    s.group 0 0 = some (grp s) ∧ (grp s).idleSplit 0 = some p ∧ p.readyAt = some 3000 ∧ s.ready 0 0 (grp s) 0 p = true ∧
    1024 ≤ p.passed + (s.cc + 1 - max 3000 3000) ∧ 0 < (grp s).splits.length ∧ (grp s').idleSplit 0 = some q ∧
    3000 + 1024 ≤ s'.cc ∧ (grp s').splits.length = 4 ∧ ∀ x ∈ (grp s').parts, x.pc = q.pc → x.depth = q.depth :=
  ⟨rfl, rfl, by and_intros <;> decide +kernel⟩

/-- A split with four entries too few resident, one with four too many, and each transfer done. -/
theorem witness_Preparation :
    let fill := { part0 with image := some image8, res := 4 }
    let spill := { part0 with image := some ⟨0x0027FFE0, [0, 0x03C1, 0, 0]⟩ }
    let s := idle (fun _ => fill) id
    let s' := idle (fun _ => spill) id
    let t (f : Bool) := idle (fun _ => if f then fill else part0) (fun g => { g with port := some ⟨f, 0, 4, 4900, 0, 0xFFFFFFFF, true⟩ })
    s.group 0 0 = some (grp s) ∧ (grp s).ended = false ∧ (grp s).saved = none ∧ (grp s).esc = none ∧ (grp s).port = none ∧
    (grp s).served = some (0, fill) ∧ (grp s).transferOf fill = some (true, 4, 0) ∧ (grp s).run = none ∧
    (grp s').served = some (0, spill) ∧ (grp s').transferOf spill = some (false, 4, 0) ∧
    (grp (t true)).port = some ⟨true, 0, 4, 4900, 0, 0xFFFFFFFF, true⟩ ∧ 4900 + 28 ≤ (t true).cc ∧
    mget (t true).trailAt (gkey 0 0) 0 + 5 ≤ (t true).cc ∧
    ((t true).fillWords 0 0 (grp (t true)) fill 4).toOption.isSome ∧
    ((t false).spillWords 0 (grp (t false)) part0 4).toOption.isSome :=
  ⟨rfl, by and_intros <;> decide +kernel⟩

/-- A record of a store lane of group slot 0. -/
def rec0 (core slot : Nat) : Rec :=
  ⟨core, 0, slot, 0x8000, 1, 0, cPageAbsent, 2, 4, 0, 0, 0, 0, some 3, false, false, true, [(0, 0x40000000)], [(0, 7)], 0, none⟩

/-- A stop asked for; a fault at the header of the next part; a store record. -/
theorem witness_BoundaryDelivery :
    let p := { part0 with res := 0, fault := some (cIllegal, 1, []) }
    let q := { part0 with res := 0 }
    let s := idle id (fun g => { g with dbg := .requested })
    let s' := idle (fun _ => { p with fault := some (cAlign, 1, []) }) id
    let s2 := { idle (fun _ => q) id with recs := [rec0 0 0] }
    s.group 0 0 = some (grp s) ∧ (grp s).ended = false ∧ (grp s).run = none ∧ (grp s).saved = none ∧ (grp s).esc = none ∧
    (grp s).dbg = .requested ∧
    (grp s').dbg = .running ∧ (grp s').preempt = false ∧ (grp s').sup = false ∧ (s'.ctx 0).xvec ≠ 0 ∧
    s'.nextPart 0 0 (grp s') = some (0, { p with fault := some (cAlign, 1, []) }) ∧
    (grp s').splits = (List.replicate 4 none).set 0 (some { p with fault := some (cAlign, 1, []) }) ∧
    (grp s').pend = [] ∧ (grp s').ovf = [] ∧ dispositionOf cAlign = .handler ∧ s'.recs = [] ∧
    s2.nextPart 0 0 (grp s2) = some (0, q) ∧ s2.recs[0]? = some (rec0 0 0) ∧ (rec0 0 0).unf ≠ 0 ∧ (rec0 0 0).hw = some 3 ∧
    dispositionOf (rec0 0 0).cause = .handler :=
  ⟨rfl, by and_intros <;> decide +kernel⟩

/-! ### Stores, homes, loads -/

/-- A state with outstanding operations, numbered from 0. -/
def withOps (s : State) (os : List Op) : State :=
  { s with ops := (List.range os.length).filterMap (fun k => (os[k]?).map (fun o => (k, { o with id := k }))) }

/-- A lane 0 request at an address. -/
def reqAt (va : Addr) : LaneReq := ⟨0, va, 7, 0, 0⟩

/-- An operation of a kind with one lane at an address. -/
def opAt (k : OpKind) (va : Addr) : Op := { opOfKind k with lanes := [⟨reqAt va, .todo⟩] }

/-- A store queue entry of operation 0. -/
def sqAt (va : Addr) : SQEntry := ⟨0, 0, va, 4, 7, 0, 0, none⟩

/-- A store queue entry of operation 0 at a mapped address, and at one that is not mapped. -/
theorem witness_StoresReachTheirHomes_accept :
    let s := withOps (idle id (fun g => { g with sq := [sqAt 0x9000] })) [opAt .store 0x9000]
    let s' := withOps (idle id (fun g => { g with sq := [sqAt 0x40000000] })) [opAt .store 0x40000000]
    s.group 0 0 = some (grp s) ∧ (grp s).ended = false ∧ (grp s).sq[0]? = some (sqAt 0x9000) ∧
    mfind s.ops 0 = some (opAt .store 0x9000) ∧ s.loadAhead 0 0 (grp s) (sqAt 0x9000) = false ∧
    aperture (0x9000 : Addr) = .global ∧ s.translate (grp s).guest 0x9000 .write = .ok (0x9000, 0x0F) ∧
    mfind s'.ops 0 = some (opAt .store 0x40000000) ∧ s'.translate 0 0x40000000 .write = .error cPageAbsent ∧
    s'.loadAhead 0 0 (grp s') (sqAt 0x40000000) = false ∧ laneOn (grp s').live 0 ∧ s'.recs = [] :=
  ⟨rfl, by and_intros <;> decide +kernel⟩

/-- An accepted access of operation 0 at its home. -/
def aqAt (addr : Nat) (act : AQAct) : AQEntry := ⟨addr, BitVec.ofNat 64 addr, 0, act, 0, 0, 0, 0, 0, 0, 0, 0⟩

/-- `idle` with one operation and its access at the home. -/
def homing (k : OpKind) (addr : Nat) (act : AQAct) : State :=
  { withOps (idle id id) [opAt k (BitVec.ofNat 64 addr)] with aq := [aqAt addr act] }

/-- A ring descriptor at 0xA000: base 0x9000, 4 entries, P 2, C 1. -/
def ring : List Host.Cell := [(0xA001, 0x90), (0xA008, 4), (0xA00C, 2), (0xA010, 1)]

/-- A store whose operation is done, a synchronising store, an atomic, and a ring append. -/
theorem witness_StoresReachTheirHomes_home :
    let s := { idle id id with aq := [aqAt 0x9000 (.store [1, 2, 3, 4])] }
    let s1 := homing .stw 0x9000 (.stw [1, 2, 3, 4])
    let s2 := homing .atomic 0x9000 .atomic
    let s3 := { homing .ringput 0xA000 (.ringput 9) with mem := (idle id id).mem ++ ring }
    (s.oldest (0x9000 / 128) = some (0, aqAt 0x9000 (.store [1, 2, 3, 4])) ∧ s.lineBusy (0x9000 / 128) = false ∧
      s.homeUp 0x9000 = true ∧ s.l1 = [] ∧ s.cmdField 0 48 4 = 0 ∧ Claims.Lives s 0 0 ∧ Memory.wf s.mem = true ∧
      (aqAt 0x9000 (.store [1, 2, 3, 4])).gen = (s.ctx 0).asgen ∧ mfind s.ops 0 = none) ∧
    (s1.oldest (0x9000 / 128) = some (0, aqAt 0x9000 (.stw [1, 2, 3, 4])) ∧ mfind s1.ops 0 = some (opAt .stw 0x9000) ∧
      (opAt .stw 0x9000).scope ≠ .wg) ∧
    (s2.oldest (0x9000 / 128) = some (0, aqAt 0x9000 .atomic) ∧ mfind s2.ops 0 = some (opAt .atomic 0x9000) ∧
      (opAt .atomic 0x9000).lanes.find? (fun x => x.req.lane == 0) = some ⟨reqAt 0x9000, .todo⟩) ∧
    (s3.oldest (0xA000 / 128) = some (0, aqAt 0xA000 (.ringput 9)) ∧ mfind s3.ops 0 = some (opAt .ringput 0xA000) ∧ s3.pipes = [] ∧
      powerIn (rdLE s3.mem 0xA008 4) 1 (2 ^ 24) = true ∧ rdLE s3.mem 0xA014 12 = 0 ∧
      (rdLE s3.mem 0xA00C 4 + 2 ^ 32 - rdLE s3.mem 0xA010 4) % 2 ^ 32 < rdLE s3.mem 0xA008 4 ∧
      s3.translate 0 (rdLE s3.mem 0xA000 8 + 4 * (rdLE s3.mem 0xA00C 4 % rdLE s3.mem 0xA008 4)) .write = .ok (0x9008, 0x0F)) := by
  have h : Claims.Lives { idle id id with aq := [aqAt 0x9000 (.store [1, 2, 3, 4])] } 0 0 := by
    intro g hg; cases hg; rfl
  refine ⟨⟨?_, ?_, ?_, ?_, ?_, h, ?_⟩, ?_⟩ <;> and_intros <;> decide +kernel

/-- A line of core 0's L1. -/
def lineOf (line : Nat) (k : LineKind) : L1Line := ⟨0, line, List.replicate 128 5, k, []⟩

/-- A workgroup-scope store whose line is not held, one whose line is; lines of each kind that leave. -/
theorem witness_StoresReachTheirHomes_held :
    let o := { opAt .stw 0x9000 with scope := .wg }
    let s := { withOps (idle id id) [o] with aq := [aqAt 0x9000 (.stw [1, 2, 3, 4])] }
    let s' := { s with l1 := [lineOf (0x9000 / 128) (.held 0 10 0)] }
    let s2 := { idle id id with l1 := [lineOf 1 (.held 0 0 0), lineOf 2 (.priv 0 true 0x100), lineOf 3 (.clean 0 0 0)],
                                cc := Config.lease }
    s.oldest (0x9000 / 128) = some (0, aqAt 0x9000 (.stw [1, 2, 3, 4])) ∧ mfind s.ops 0 = some o ∧ s.l1 = [] ∧
    s.group 0 0 = some (grp s) ∧ s'.heldLine 0 0 (0x9000 / 128) = some (lineOf (0x9000 / 128) (.held 0 10 0)) ∧
    s'.homeUp 0x9000 = true ∧ s'.lineBusy (0x9000 / 128) = false ∧
    (∀ x ∈ s2.l1, ∀ y ∈ s2.l1, y.core = x.core → y.line = x.line → y = x) ∧ (∀ x ∈ s2.l1, x.data.length = 128) ∧
    0 + Config.lease ≤ s2.cc :=
  ⟨by decide +kernel, rfl, rfl, rfl, by decide +kernel, by decide +kernel, by decide +kernel, by decide +kernel,
    by decide +kernel, by simp⟩

/-- A load of a mapped global address, of scratchpad, and of an address that is not mapped; its line in the L1, held, or
not there; a fill at its home; and a faulted lane without a record. -/
theorem witness_LoadsGetTheirBytes :
    let s := withOps (idle id id) [opAt .load 0x9000]
    let hit := { s with l1 := [lineOf (0x9000 / 128) (.clean 0 0 0)] }
    let held := { s with l1 := [lineOf (0x9000 / 128) (.held 0 10 0)] }
    let w := { withOps (idle id id) [opAt .load 0xFF00000000000000] with wgroups := [(wkey 0 0, placedWG 0 0)] }
    let bad := withOps (idle id id) [opAt .load 0x40000000]
    let fill := homing .load 0x9000 (.fill 0)
    let x : OpLane := ⟨reqAt 0x9000, .faulted cPageAbsent⟩
    let lost := withOps (idle id id) [{ opAt .load 0 with lanes := [x] }]
    (mfind s.ops 0 = some (opAt .load 0x9000) ∧
      (opAt .load 0x9000).lanes.find? (fun x => x.req.lane == 0 && x.st == .todo) = some ⟨reqAt 0x9000, .todo⟩ ∧
      s.storeAhead (opAt .load 0x9000) (reqAt 0x9000) = false ∧ aperture (0x9000 : Addr) = .global ∧
      s.translate 0 0x9000 .load = .ok (0x9000, 0x0F) ∧ s.heldLine 0 0 (0x9000 / 128) = none ∧ (grp s).ended = false) ∧
    hit.l1Hit 0 0 (0x9000 / 128) 0 = some (lineOf (0x9000 / 128) (.clean 0 0 0)) ∧
    held.heldLine 0 0 (0x9000 / 128) = some (lineOf (0x9000 / 128) (.held 0 10 0)) ∧
    (aperture (0xFF00000000000000 : Addr) = .scratch ∧ (w.scratchTarget 0 0 0xFF00000000000000 4).isSome ∧
      w.storeAhead (opAt .load 0xFF00000000000000) (reqAt 0xFF00000000000000) = false ∧ w.chains = []) ∧
    (bad.translate 0 0x40000000 .load = .error cPageAbsent ∧ bad.recs = [] ∧ laneOn (grp bad).live 0 ∧
      bad.storeAhead (opAt .load 0x40000000) (reqAt 0x40000000) = false) ∧
    (fill.oldest (0x9000 / 128) = some (0, aqAt 0x9000 (.fill 0)) ∧ fill.homeUp 0x9000 = true ∧ fill.l1 = [] ∧
      mfind fill.ops 0 = some (opAt .load 0x9000) ∧ (aqAt 0x9000 (.fill 0)).gen = (fill.ctx 0).asgen) ∧
    (lost.recs = [] ∧ lost.globalVa 0 x.req.va 4 = some 0x9000) := by
  and_intros <;> decide +kernel

/-- Operations of each kind with an answer, dispatched before this cc. -/
theorem witness_OperationsComplete :
    let acc : Op := { opOfKind .accWrite with lanes := [⟨⟨0, 3, 9, 0, 0⟩, .todo⟩, ⟨⟨0, 65540, 9, 0, 0⟩, .todo⟩] }
    let s := { withOps (idle id id) [{ opOfKind .enq with status := some 1 },
        { opOfKind .mrecv with status := some 1 }, opOfKind .timer, acc] with
      clusters := [(0, { Cluster.initial with user := [some 0, some 0] })] }
    (∀ x ∈ s.ops, x.2.id = x.1 ∧ x.2.at_ < s.cc ∧ x.2.saved = false) ∧ Claims.Lives s 0 0 ∧
    (∀ x ∈ acc.lanes, (s.cluster 0).user.getD (x.req.va.toNat / 65536) none = some acc.guest ∧ x.req.va.toNat / 65536 < 2) ∧
    (acc.lanes.map (fun x => x.req.va.toNat)).Nodup := by
  refine ⟨by decide +kernel, ?_, by decide +kernel, by decide +kernel⟩
  intro g hg; cases hg; rfl

/-- A bank that is loading from 0x9000, and a watch unit whose descriptor stands there. -/
theorem witness_OperationsComplete_images :
    let s := { withOps (idle id id) [opAt (.tload 1) 0x9000] with banks := [(1, ⟨.loading, 0x9000, 0, [], 0, 0⟩)] }
    let s' := withOps (idle id id) [opAt (.watch 2) 0x9000]
    mfind s.ops 0 = some (opAt (.tload 1) 0x9000) ∧ s.storeAhead (opAt (.tload 1) 0x9000) (reqAt 0x9000) = false ∧
    s.group 0 0 = some (grp s) ∧ (grp s).ended = false ∧ mfind s.banks (0 * 2 + 1) = some ⟨.loading, 0x9000, 0, [], 0, 0⟩ ∧
    s.bankBefore 0 1 0 = false ∧ (s.readVa (opAt (.tload 1) 0x9000) (reqAt 0x9000) 0 0x9000 3088).toOption.any (fun x => x.2.isSome) = true ∧
    s'.storeAhead (opAt (.watch 2) 0x9000) (reqAt 0x9000) = false ∧ (s'.ctx 0).watch.length = 4 ∧
    (s'.readVa (opAt (.watch 2) 0x9000) (reqAt 0x9000) 0 0x9000 128).toOption.any (fun x => x.2.isSome) = true :=
  ⟨by decide +kernel, by decide +kernel, rfl, by and_intros <;> decide +kernel⟩
/-! ### The sequencer and the engine -/

/-- A workgroup with 16 KiB of scratchpad, whose sequencer stands at a word, on cluster 0, whose quadrant 0 latches bf16
weights; context 0 uses both row halves. -/
def seqAt (w : DWord) (f : Seq → Seq) (h : WGroup → WGroup) : State :=
  { State.reset.setCtx 0 ctx0 with
    mem := tables, dev := { Device.initial with parts := [(0, ⟨1, 1⟩)] }, cc := 5000, seqFocus := some (0, 0)
    wgroups := [(wkey 0 0, h { placedWG w 0 with seq := some (f { Seq.start 0 with block := some (0, w :: List.replicate 7 0, 0) }),
                                                 groups := [(0, 0)] })]
    clusters := [(0, { Cluster.initial with user := [some 0, some 0], latches := [(0, ⟨.bf16, .q0, .none, 0⟩)] })] }

/-- The sequencer of workgroup slot 0 of core 0. -/
def seqCur (s : State) : SeqCur := (s.seqOf 0 0).getD ⟨0, 0, placedWG 0 0, Seq.start 0⟩

/-- A posted operation of that sequencer. -/
def eop (w : Instr) (granted : Option Nat) : EOp := ⟨7, 0, 0, 0, 0, 0, w, Seq.start 0, none, .bf16, 100, granted, false, [], 0, [], 0⟩

theorem witness_SequencerWords :
    let s := seqAt (8 * 2 ^ 58) id id
    let c := seqCur s
    Claims.AtWord s c ∧ c.q.lc.length = 4 ∧ c.q.o.length = 4 ∧ (1 : BitVec 16) ≠ 0 ∧ c.q.bwait = none ∧ c.q.mark = none ∧ c.q.held = [] ∧ c.q.arrived = false :=
  ⟨⟨rfl, rfl, by decide +kernel, by decide +kernel⟩, by decide +kernel⟩

/-- Barrier 3: the sequencer is not registered; registered and not arrived, with and without an operation of its own;
registered and arrived. -/
theorem witness_SequencerWords_barriers :
    let b : Bar := ⟨3, 1, 6, [], 0, 0⟩
    let s := seqAt 0 id (fun w => { w with bars := [(3, b)] })
    let m := seqAt 0 id (fun w => { w with bars := [(3, b)], sqbar := 8 })
    let a := seqAt 0 id (fun w => { w with bars := [(3, { b with arr := [(memSeq, 6)] })], sqbar := 8 })
    (seqCur s).w.member 3 memSeq = false ∧ (seqCur m).w.member 3 memSeq = true ∧ mfind (seqCur m).w.bars 3 = some b ∧
    m.eops = [] ∧ mfind b.arr memSeq ≠ some b.pn ∧ b.an + 1 < b.en ∧ m.ops = [] ∧
    (let x := { m with eops := [eop .mStop (some 50)], nextId := 8 }
     ∃ e ∈ x.eops, e.core = 0 ∧ e.wslot = 0 ∧ e.granted.isSome ∧ e.id < x.nextId) ∧
    mfind (seqCur a).w.bars 3 = some { b with arr := [(memSeq, 6)] } ∧ 0 < b.en := by
  and_intros <;> decide +kernel

/-- Words that pass their checks, a table with room and a full one; entries and bytes beyond the end. -/
theorem witness_SequencerWords_engine :
    let s := seqAt 0 id id
    let c := seqCur s
    Claims.EntriesOk s c .q0 496 15 true true ∧ (0 : BitVec 19).toNat + 4 * 16 * 64 ≤ 1024 * c.w.sgran ∧
    s.watchHits c.w.guest c.q.waived 0 true true 0xFF00000000000000 4096 = 0 ∧
    s.checkWload c .bf16 .q0 false false 0 0 0 = .ok ∧ s.checkPass c .bf16 .q0 false false 0 false 0 0 1 true = .ok ∧
    s.checkPass c .bf16 .q0 false false 0 true 0 0 1 true = .ok ∧
    (s.eops.filter (fun e => e.cluster == clusterOf c.core && e.granted.isNone)).length < 16 ∧
    (s.ctx c.w.guest).throttled = false ∧
    16 ≤ (({ s with eops := List.replicate 16 (eop .mStop none) } : State).eops.filter
      (fun e => e.cluster == clusterOf c.core && e.granted.isNone)).length ∧
    511 < (496 : BitVec 9).toNat + (16 : BitVec 9).toNat ∧ s.regionOk c .q0 = true ∧
    1024 * c.w.sgran < (0x7FFFF : BitVec 19).toNat + 4 ∧ s.latchOf (clusterOf c.core) c.w.guest .q1 = none := by
  unfold Claims.EntriesOk; and_intros <;> decide +kernel

/-- A sequencer without its block, at a mapped address; at an address that is no multiple of 8; with a resolved record. -/
theorem witness_EngineSteps_fetch :
    let s := seqAt 0 (fun q => { q with block := none, pc := 0x9008 }) id
    let s' := seqAt 0 (fun q => { q with block := none, pc := 0x9004 }) id
    let r := seqAt 0 (fun q => { q with heldRec := true, resolved := some 4 }) id
    s.seqOf 0 0 = some (seqCur s) ∧ s.seqHalted 0 0 = false ∧ (seqCur s).q.busy = false ∧ (seqCur s).q.wordAt = none ∧
    (seqCur s).q.pc.toNat % 8 = 0 ∧ s.translate 0 ((seqCur s).q.pc.toNat / 64 * 64) .load = .ok (0x9000, 0x0F) ∧
    (seqCur s').q.wordAt = none ∧ (seqCur s').q.pc.toNat % 8 ≠ 0 ∧ (seqCur s').q.busy = false ∧
    (seqCur r).q.heldRec = true ∧ (seqCur r).q.resolved = some 4 ∧ r.ops = [] :=
  ⟨rfl, by and_intros <;> decide +kernel⟩

/-- A posted operation alone in its cluster, of each kind; a pass whose latch has gone. -/
theorem witness_EngineSteps_grants :
    let pass : Instr := .mPass .bf16 .q0 false false 0 false 0 0 0 true
    let at_ (w : Instr) : State := { seqAt 0 (fun q => { q with posted := some 7 }) id with eops := [eop w none] }
    let drain := { at_ (.mDrain .q0 0 0 true) with armings := [⟨0, 0, 0, 0, 0, 0, 1, 1⟩, ⟨1, 0, 1, 0, 0, 0, 1, 1⟩] }
    let gone := { at_ pass with clusters := [(0, { Cluster.initial with user := [some 0, some 0] })] }
    (at_ pass).seqOf 0 0 = some (seqCur (at_ pass)) ∧
    ((at_ pass).eops.filter (fun x => x.cluster == (eop pass none).cluster)) = [eop pass none] ∧
    (∀ x ∈ (at_ pass).eops, x.id = (eop pass none).id → x = eop pass none) ∧
    (eop pass none).cluster = clusterOf (eop pass none).core ∧ (seqCur (at_ pass)).w.guest = (eop pass none).guest ∧
    mget (at_ pass).dev.withheld (arrayKey 0) false = false ∧ (at_ pass).armed (eop pass none) = true ∧
    (∀ h < 2, ((at_ pass).cluster 0).user.getD h none = some 0) ∧
    (at_ pass).latchOf 0 0 .q0 = some (eop pass none).wf ∧
    drain.armed (eop (.mDrain .q0 0 0 true) none) = true ∧
    gone.latchOf 0 0 .q0 ≠ some (eop pass none).wf ∧ (seqCur gone).q.stopped = false :=
  ⟨rfl, by and_intros <;> decide +kernel⟩

/-- A granted drain whose first entry is due; a pass whose hold is over; a posted operation of 4,900 cc; a gather that
is over. -/
theorem witness_EngineSteps_rest :
    let d := eop (.mDrain .q0 0 0 true) (some 4000)
    let z := eop (.mZero .q0 0 0) (some 4000)
    let old := eop (.mZero .q0 0 0) none
    let s := { seqAt 0 id id with eops := [d] }
    let t := { seqAt 0 id id with eops := [z] }
    let g := seqAt (2 * 2 ^ 58 + 2 * 2 ^ 54 + 3 * 2 ^ 50 + 2 ^ 45 + 2 ^ 7) (fun q => { q with gathering := some 4000 }) id
    s.eops.find? (fun x => x.id == d.id && x.cluster == d.cluster) = some d ∧ (0 : Nat) = d.done ∧
    4000 + 14 + 0 ≤ s.cc ∧ (d.taken.map (fun a => (a.core, a.slot))).Nodup ∧
    t.eops.find? (fun x => x.id == z.id && x.cluster == z.cluster) = some z ∧ t.mayRetire z = true ∧
    (seqCur t).w.groups ≠ [] ∧ Memory.wf (t.scratchOf 0) = true ∧
    old.granted = none ∧ old.posted + 4096 ≤ 5000 ∧
    (seqCur g).q.gathering = some 4000 ∧ g.seqHalted 0 0 = false ∧
    ((seqCur g).q.wordAt.bind (fun w => decodeSeq w.1)) = some (.mPass .bf16 .q0 false false 0 true 0 0 0 true) ∧
    4000 + (0 : BitVec 9).toNat + 9 ≤ g.cc ∧ g.latchOf (clusterOf 0) (seqCur g).w.guest .q0 = some .bf16 ∧
    g.rangeWatch { seqCur g with q := { (seqCur g).q with gathering := none } }
      (((seqCur g).q.actOp .bf16 .bf16 .q0 false 0 0 1).gatherSpans (gatherRows (g.scratchOf 0) (1024 * (seqCur g).w.sbase) 1))
      [] false false false = .ok := by
  and_intros <;> decide +kernel
/-- The sequencer's arrival on barrier 3 waits for its one operation. -/
theorem witness_EngineSteps_held :
    let z := eop (.mZero .q0 0 0) (some 4000)
    let b : Bar := ⟨3, 1, 6, [], 0, 0⟩
    let t := { seqAt 0 (fun q => { q with held := [(3, 8)] }) (fun w => { w with bars := [(3, b)], sqbar := 8 }) with eops := [z] }
    t.eops.find? (fun x => x.id == z.id && x.cluster == z.cluster) = some z ∧ t.mayRetire z = true ∧
    t.seqOf z.core z.wslot = some (seqCur t) ∧ (seqCur t).w.groups ≠ [] ∧ (seqCur t).q.held = [(3, 8)] ∧
    (∀ x ∈ t.eops, x.core = z.core → x.wslot = z.wslot → x.id ≠ z.id → x.granted.isSome → 8 ≤ x.id) ∧
    (seqCur t).w.member 3 memSeq = true ∧ mfind (seqCur t).w.bars 3 = some b ∧ mfind b.arr memSeq ≠ some b.pn ∧
    b.an + 1 < b.en := by
  and_intros <;> decide +kernel

/-! ### The transfer unit -/

/-- An element of four 4-byte units from 0x9000, its skip word at 0x9100. -/
def elemBytes (dst ctl : Nat) : List Byte :=
  leBytes 8 0 ++ leBytes 8 0x9000 ++ leBytes 8 dst ++ leBytes 8 0x9100 ++ leBytes 4 ctl ++ leBytes 2 3 ++ List.replicate 90 0

/-- A chain at the element that stands at 0xB000. -/
def chainAt (ph : ChainPhase) (bs : List Byte) : Chain := { chainOf ph with elem := 0xB000, bytes := bs, scout := 4 }

/-- That chain and its operation, in a workgroup with 16 KiB of scratchpad. -/
def copying (c : Chain) (bs : List Byte) : State :=
  let s := withWG (withOps (idle id id) [opOfKind (.chain 0)]) 0
  { s with chains := [c], mem := wrBytes s.mem 0xB000 bs }

theorem copying_chainAt (ph : ChainPhase) (bs cs : List Byte) : Claims.ChainAt (copying (chainAt ph bs) cs) (chainAt ph bs) := by
  refine ⟨rfl, fun o ho => ?_⟩
  cases ho
  exact ⟨rfl, fun g hg => by cases hg; rfl⟩

/-- A chain that waits; one at an element to scratchpad, with and without a skip word; one at an element that is ill
formed; one whose element does not translate. -/
theorem witness_TransferUnitSteps_fetch :
    let bs := elemBytes 0xFF00000000000000 0x1028
    let sk := elemBytes 0xFF00000000000000 0x1029
    let s := copying (chainAt .fetch []) bs
    let c := chainAt .fetch []
    let w := copying (chainAt .waiting []) bs
    let e := Elem.ofBytes bs
    let far := { chainAt .fetch [] with elem := 0x40000000 }
    (w.chain 0 = some (chainAt .waiting []) ∧ w.startable (chainAt .waiting []) = true ∧
      (w.chains.filter (fun x => x.cluster == 0 && x.phase != .waiting)).length < 4 ∧ (w.wgroup 0 0).isSome) ∧
    c.elem.toNat % 128 = 0 ∧ s.translate 0 c.elem.toNat .load = .ok (0xB000, 0x0F) ∧ rdBytes s.mem 0xB000 128 = bs ∧
    e.check24 c.sup = none ∧ e.sken = false ∧ (Elem.ofBytes sk).check24 false = none ∧ (Elem.ofBytes sk).sken = true ∧
    s.scratchSides { c with bytes := bs, phase := .check } e = some (none, some (0, 0, 16)) ∧ e.overlaps (none, some (0, 0, 16)) = false ∧
    s.mouldOk 0 e = true ∧ (s.elemWatch { c with bytes := bs, phase := .check } e).1 = 0 ∧
    s.unveilWaits { c with bytes := bs, phase := .check } e = false ∧
    (Elem.ofBytes (elemBytes 0 0)).check24 false = some cCopyForm ∧
    s.scratchSides c (Elem.ofBytes (elemBytes 0xFF0000000007FFF0 0x1028)) = none ∧
    (copying far bs).translate 0 far.elem.toNat .load = .error cPageAbsent ∧ (copying far bs).producerLives far = true ∧
    (copying far bs).recs = [] := by
  and_intros <;> decide +kernel

/-- A skip word of 0 with SENSE 0 skips, with SENSE 1 it does not; the scout has pages to go, and meets one that is not
mapped. -/
theorem witness_TransferUnitSteps_skip :
    let sk := elemBytes 0xFF00000000000000 0x1029
    let no := elemBytes 0xFF00000000000000 0x102B
    let s := copying (chainAt .skip sk) sk
    let m := copying (chainAt .moving sk) sk
    let e := Elem.ofBytes sk
    let f := Elem.ofBytes (elemBytes 0x40000000 0x28)
    s.translate 0 e.skaddr .load = .ok (0x9100, 0x0F) ∧ (rdLE s.mem 0x9100 4 = 0 ∧ e.sense = 0) ∧ (Elem.ofBytes no).sense = 1 ∧
    s.scratchSides { chainAt .skip no with phase := .check } (Elem.ofBytes no) = some (none, some (0, 0, 16)) ∧
    ((s.wgroup 0 0).map (·.bars)) = some [] ∧
    0 < (e.pages (e.units.take 0)).length + 4 ∧ (e.pages e.units)[0]? = some 0 ∧ m.pageFault 0 e 0 = none ∧
    (f.pages f.units)[1]? = some (0x40000000 / 65536) ∧ (m.pageFault 0 f (0x40000000 / 65536)).isSome ∧
    m.producerLives (chainAt .moving sk) = true ∧ m.recs = [] := by
  and_intros <;> decide +kernel

/-- Memories that agree below 0x9000 read alike there. -/
theorem rdLE_low {m m' : Memory} {b : Nat} (h : ∀ x < b, rdByte m x = rdByte m' x) :
    ∀ a n, a + n ≤ b → rdLE m a n = rdLE m' a n := by
  intro a n hn
  have : rdBytes m a n = rdBytes m' a n := by
    simp only [rdBytes]
    exact List.map_congr_left (fun i hi => h _ (by simp at hi; omega))
  simp [rdLE, this]
/-- The chain of the move from 0x9000 to 0xA000. -/
def moveBytes : List Byte := elemBytes 0xA000 0x28
def moving : State := copying (chainAt .moving moveBytes) moveBytes

/-- The page tables of a state hold nothing, leaves, or each other's addresses. -/
def TablesLow (m : Memory) : Prop := ∀ t ∈ [0x1000, 0x2000, 0x3000], ∀ i < 512,
    rdLE m (t + 8 * i) 8 % 2 = 0 ∨ nbits (rdLE m (t + 8 * i) 8) 1 1 = 1 ∨
      nbits (rdLE m (t + 8 * i) 8) 50 8 * 2 ^ 8 ∈ [0x1000, 0x2000, 0x3000]

theorem walkIndex_lt (va level : Nat) : walkIndex va level < 512 := by
  unfold walkIndex nbits; split <;> omega

/-- A memory that agrees with that of a state below 0x9000 translates as it does. -/
theorem walkFrom_low {s : State} {m : Memory} (hT : TablesLow s.mem) (h : ∀ x < 0x9000, rdByte m x = rdByte s.mem x)
    (guest va : Nat) : ∀ fuel table level, table ∈ [0x1000, 0x2000, 0x3000] →
      ({ s with mem := m } : State).walkFrom guest va fuel table level = s.walkFrom guest va fuel table level := by
  intro fuel
  induction fuel with
  | zero => intros; rfl
  | succ n ih =>
    intro table level ht
    have hi := walkIndex_lt va level
    have he : rdLE m (table + 8 * walkIndex va level) 8 = rdLE s.mem (table + 8 * walkIndex va level) 8 :=
      rdLE_low h _ _ (by simp at ht; omega)
    have hn := hT table ht _ hi
    have hl : ∀ e, ({ s with mem := m } : State).leafOk guest e level = s.leafOk guest e level := fun _ => rfl
    simp only [State.walkFrom, he, hl]
    generalize rdLE s.mem (table + 8 * walkIndex va level) 8 = e at hn
    split
    · rfl
    · split
      · rfl
      · split
        · rfl
        · split
          · rename_i h1 h2 _
            exact ih _ _ ((hn.resolve_left h1).resolve_left h2)
          · rfl

theorem apart_of_tables {s : State} {D : Nat → Prop} (hT : TablesLow s.mem) (hr : (s.ctx 0).asroot = 0x1000)
    (hc : (s.ctx 0).cmdPage = 0) (hz : rdLE s.mem 48 4 = 0) (hD : ∀ x, D x → 0x9000 ≤ x) : Claims.Apart s 0 D := by
  intro m hm
  have h : ∀ x < 0x9000, rdByte m x = rdByte s.mem x := fun x hx => hm x (fun hd => by have := hD x hd; omega)
  have hx : ({ s with mem := m } : State).ctx 0 = s.ctx 0 := rfl
  refine ⟨fun va acc => ?_, .inr ?_⟩
  · have hw : ({ s with mem := m } : State).walk 0 va = s.walk 0 va := by
      unfold State.walk
      rw [hx, hr]
      exact walkFrom_low hT h 0 va 5 0x1000 1 (by simp)
    have hl : ({ s with mem := m } : State).lookup 0 va = s.lookup 0 va := by
      unfold State.lookup
      rw [hw]
      rfl
    unfold State.translate
    rw [hl]
    rfl
  · have := rdLE_low h 48 4 (by decide)
    unfold State.cmdField
    rw [hx, hc]
    exact this.trans hz

theorem moving_apart : Claims.Apart moving 0 (fun x => ∃ i < 4, 0xA000 + 4 * i ≤ x ∧ x < 0xA000 + 4 * i + 4) :=
  apart_of_tables (by unfold TablesLow; decide +kernel) (by decide +kernel) (by decide +kernel) (by decide +kernel)
    (fun x ⟨i, hi, h, _⟩ => by omega)

/-- An element between global addresses, and one to scratchpad. -/
theorem witness_TransferUnitSteps_move :
    let e := Elem.ofBytes moveBytes
    let d := Elem.ofBytes (elemBytes 0xFF00000000000000 0x1028)
    Claims.ChainAt moving (chainAt .moving moveBytes) ∧
    Claims.Apart moving 0 (fun x => ∃ i < 4, 0xA000 + 4 * i ≤ x ∧ x < 0xA000 + 4 * i + 4) ∧
    e.units = [(0, 0), (4, 4), (8, 8), (12, 12)] ∧ d.units = e.units ∧ e.srcSide = .glob ∧ e.dstSide = .glob ∧ d.dstSide = .scr ∧
    e.unit = 4 ∧ Memory.wf moving.mem = true ∧ Memory.wf (moving.scratchOf 0) = true ∧ moving.l1 = [] ∧
    (∀ m ∈ (moving.ctx 0).moulds, m.bound = false) ∧ ((moving.wgroup 0 0).map (·.bars)) = some [] ∧
    (∀ i < 4, moving.translate 0 (plusOff e.src (e.units.getD i (0, 0)).1) .load = .ok (0x9000 + 4 * i, 0x0F) ∧
      moving.translate 0 (plusOff e.dst (e.units.getD i (0, 0)).2) .write = .ok (0xA000 + 4 * i, 0x0F) ∧
      moving.scratchTarget 0 0 (BitVec.ofNat 64 (sideAddr .scr d.dst (d.units.getD i (0, 0)).2)) 4 = some (0, 4 * i)) ∧
    ∀ i < 4, ∀ j < 4, (0x9000 + 4 * i + 4 ≤ 0xA000 + 4 * j ∨ 0xA000 + 4 * j + 4 ≤ 0x9000 + 4 * i) ∧
      (i ≠ j → 4 * i + 4 ≤ 4 * j ∨ 4 * j + 4 ≤ 4 * i) :=
  ⟨copying_chainAt .moving moveBytes moveBytes, moving_apart, by and_intros <;> decide +kernel⟩

/-- An `unveil` of a free handle, and of a mould of one page at 0x20000. -/
theorem witness_TransferUnitSteps_unveil :
    let o := opOfKind (.unveil 2)
    let s := withOps (idle id id) [o]
    let m : Mould := ⟨true, 0x20000, 128, [0x20000], [(3, 9)], 0⟩
    let t := s.setCtx 0 { ctx0 with moulds := (List.replicate 8 Mould.free).set 2 m, cmdPage := 0x10000 }
    mfind s.ops 0 = some o ∧ o.at_ < s.cc ∧ Claims.Lives s 0 0 ∧ o.mask ≠ 0 ∧ (s.ctx 0).moulds[2]? = some Mould.free ∧
    Mould.free.bound = false ∧ (t.ctx 0).moulds[2]? = some m ∧ m.bound = true ∧ t.mouldBusy o m = false ∧
    Memory.wf t.mem = true ∧ Memory.wf m.shadow = true ∧ t.l1 = [] ∧ t.cmdField 0 48 4 = 0 ∧ m.frames.Nodup ∧
    (∀ f ∈ m.frames, f % 65536 = 0) ∧ 0 < m.len.toNat ∧
    m.frames.length = (m.base.toNat + m.len.toNat - 1) / 65536 - m.base.toNat / 65536 + 1 ∧
    ∀ f ∈ m.frames, (t.ctx 0).cmdPage.toNat + 52 ≤ f ∨ f + 65536 ≤ (t.ctx 0).cmdPage.toNat + 48 := by
  refine ⟨by decide +kernel, by decide +kernel, fun g hg => by cases hg; rfl, ?_⟩
  and_intros <;> decide +kernel
/-! ### Submissions -/

/-- A launch header: one group of 32 lanes a workgroup, a stage and flags as said; the first width field is `w0`. -/
def hdrBytes (w0 flags stage : Nat) : List Byte :=
  leBytes 8 0x8000 ++ leBytes 8 0 ++ leBytes 8 0 ++ [BitVec.ofNat 8 w0, 0, 0, 0, 0, 0, 0, 1] ++ leBytes 4 0 ++ leBytes 4 16
    ++ [0, 0, BitVec.ofNat 8 flags, 0] ++ leBytes 8 0 ++ leBytes 8 0 ++ leBytes 4 stage ++ List.replicate 64 0

/-- A pipeline of two stages, the headers at 0xC000 and 0xC080, the ring of stage 1 at 0xA000; `nst` is its NSTM field. -/
def pipeBytes (nst : Nat) : List Byte :=
  leBytes 1 nst ++ leBytes 3 0 ++ leBytes 2 4 ++ List.replicate 58 0
    ++ (leBytes 8 0xC000 ++ leBytes 8 0 ++ leBytes 2 0 ++ leBytes 2 0 ++ leBytes 1 1 ++ List.replicate 11 0)
    ++ (leBytes 8 0xC080 ++ leBytes 8 0xA000 ++ leBytes 2 64 ++ leBytes 2 0 ++ leBytes 1 0xFF ++ List.replicate 11 0)
    ++ List.replicate 192 0

/-- No run, but context 0 with its tables, its command page at 0x20000 and a completion ring of four entries at 0x22000. -/
def host : State :=
  { (State.reset.setCtx 0 { ctx0 with cmdPage := 0x20000 }) with
    cc := 5000, dev := { Device.initial with parts := [(0, ⟨BitVec.ofNat 144 (2 ^ 144 - 1), 1⟩)], ready := true }
    mem := wrLE (wrLE tables (0x20000 + 20) 8 0x22000) (0x20000 + 28) 4 4 }

/-- `host` with bytes in memory. -/
def hostWith (m : List (Nat × List Byte)) : State :=
  { host with mem := m.foldl (fun m x => wrBytes m x.1 x.2) host.mem }

/-- `host` with an entry of a kind in the submission ring at 0x21000. -/
def submitted (kind addr : Nat) : State :=
  hostWith [(0x20000, leBytes 8 0x21000 ++ leBytes 4 4 ++ leBytes 4 1), (0x21000, leBytes 8 kind ++ leBytes 8 addr ++ leBytes 8 77),
    (0xC000, hdrBytes 5 0 0)]

theorem witness_Submissions_launch :
    let s := hostWith [(0xC000, hdrBytes 5 0 0)]
    let s' := hostWith [(0xC000, hdrBytes 6 0 0)]
    (s.ctx 0).valid = true ∧ (0xC000 : Addr).toNat % 64 = 0 ∧ s.homeBytes (.host 0) 0 0xC000 128 = some (hdrBytes 5 0 0) ∧
    s.refused 0 (Hdr.ofBytes (hdrBytes 5 0 0)) = false ∧ s'.homeBytes (.host 0) 0 0xC000 128 = some (hdrBytes 6 0 0) ∧
    s'.refused 0 (Hdr.ofBytes (hdrBytes 6 0 0)) = true ∧ Claims.CqRoom s' 0 ∧ (0xC020 : Addr).toNat % 64 ≠ 0 := by
  unfold Claims.CqRoom; and_intros <;> decide +kernel

/-- A pipeline of two stages; one that says it has nine; an abort with nothing running. -/
theorem witness_Submissions_pipeline :
    let s := hostWith [(0xC000, hdrBytes 5 0 0 ++ hdrBytes 5 8 1), (0xB000, pipeBytes 1)]
    let t := hostWith [(0xB000, pipeBytes 8)]
    let p0 : Pipe := ⟨0, pipeBytes 1, [], 77, [], [], false⟩
    s.homeBytes (.host 0) 0 0xB000 320 = some (pipeBytes 1) ∧ p0.wellFormed = true ∧ p0.nst = 2 ∧
    (List.range 2).mapM (s.stageHeader p0) = some [Hdr.ofBytes (hdrBytes 5 0 0), Hdr.ofBytes (hdrBytes 5 8 1)] ∧
    t.homeBytes (.host 0) 0 0xB000 320 = some (pipeBytes 8) ∧ ({ p0 with desc := pipeBytes 8 } : Pipe).wellFormed = false ∧
    Claims.CqRoom t 0 ∧ (t.ctx 0).queue = [] ∧ (t.ctx 0).current = none ∧ t.launches = [] ∧ t.pipes = [] := by
  unfold Claims.CqRoom; and_intros <;> decide +kernel

/-- A running launch of the guest, with its group, and an abort. -/
theorem witness_Submissions_abort :
    let s := { idle id id with launches := [(0, launch0 0 0)] }
    (s.ctx 0).valid = true ∧ (s.ctx 0).queue = [] ∧
    ∀ x ∈ s.groups, x.2.guest = 0 → ∃ l, mfind s.launches x.2.launch = some l ∧ l.guest = 0 := by
  refine ⟨by decide +kernel, by decide +kernel, ?_⟩
  intro x hx _
  cases hx with
  | head => exact ⟨launch0 0 0, rfl, rfl⟩
  | tail _ h => cases h

/-- The guest table at 0x30000 names the guest valid: a ring with nothing new, one with a launch, and a guest not yet read. -/
theorem witness_Submissions_notify :
    let en := List.replicate 57 (0 : Byte) ++ [1]
    let put (s : State) : State := { s with dev := { s.dev with guesttab := 0x30000 }, mem := wrBytes s.mem 0x30000 en }
    let s := put host
    let t := put (submitted 1 0xC000)
    let n := { s with ctxs := [] }
    s.dev.ready = true ∧ (s.ctx 0).valid = true ∧ ((rdBytes s.mem 0x30000 64).getD 57 0).getLsbD 0 = true ∧
    s.cmdField 0 16 4 = s.cmdField 0 12 4 ∧ t.cmdField 0 8 4 ≠ 0 ∧ t.cmdField 0 12 4 = (t.cmdField 0 16 4 + 1) % 2 ^ 32 ∧
    Memory.wf t.mem = true ∧ (rdByte t.mem 0x21000).toNat = 1 ∧ rdLE t.mem 0x21008 8 = 0xC000 ∧
    (let t1 := t.setCmd 0 16 4 1
     t1.homeBytes (.host 0) 0 0xC000 128 = some (hdrBytes 5 0 0) ∧ t1.refused 0 (Hdr.ofBytes (hdrBytes 5 0 0)) = false) ∧
    (t.cmdField 0 16 4 + 1) % 2 ^ 32 = 1 ∧ (s.ctx 0).held = [] ∧ (t.ctx 0).held = [] ∧ (s.dev.admBusy && isReset 1 s.dev.admBlock) = false ∧
    (n.ctx 0).valid = false ∧ rdLE n.mem 16 4 = rdLE n.mem 12 4 := by
  and_intros <;> decide +kernel

/-- An entry that waits for room, which the new head makes. -/
theorem witness_Submissions_ring :
    let s := (host.setCmd 0 32 4 4).modCtx 0 (fun x => { x with cqWait := [List.replicate 24 1] })
    (host.ctx 0).cqWait = [] ∧ (s.ctx 0).valid = true ∧ Memory.wf s.mem = true ∧ (s.ctx 0).cqWait = [List.replicate 24 1] ∧
    (s.cmdField 0 32 4 + 2 ^ 32 - (2 : Word).toNat) % 2 ^ 32 < s.cmdField 0 28 4 ∧
    (s.ctx 0).cmdPage.toNat + 4096 ≤ s.cmdField 0 20 8 := by
  and_intros <;> decide +kernel
/-! ### Launches and stages -/

/-- The header of one group of 32 lanes. -/
def hdr1 : Hdr := Hdr.ofBytes (hdrBytes 5 0 0)

/-- `host` with launches and context 0 changed. -/
def running (ls : AMap Launch) (f : Ctx → Ctx) : State := { host with launches := ls }.modCtx 0 f

/-- A launch whose turn it is; one that is over. -/
theorem witness_LaunchesAndStages_boundary :
    let q := { hdr1.launch 0 4 0 none true 77 with phase := .queued }
    let r := { hdr1.launch 0 4 0 none true 77 with phase := .running, nextSpan := 1 }
    let s := { running [(4, q)] (fun x => { x with queue := [4] }) with l1 := [lineOf 3 (.held 0 0 0)] }
    let t := running [(4, r)] (fun x => { x with current := some 4 })
    s.writesApplied 0 = true ∧ Claims.Unlogged s 0 ∧ Memory.wf s.mem = true ∧ (∀ x ∈ s.l1, x.data.length = 128) ∧
    (s.l1.map (·.line)).Nodup ∧ (∀ x ∈ s.l1, x.line * 128 + 128 ≤ (s.ctx 0).cmdPage.toNat) ∧ (s.ctx 0).valid = true ∧
    (s.ctx 0).current = none ∧ (s.ctx 0).queue.head? = some 4 ∧ t.launchOver 4 r = true ∧ t.writesApplied 0 = true ∧
    Claims.Unlogged t 0 ∧ Claims.CqRoom t 0 ∧ t.l1 = [] := by
  unfold Claims.CqRoom Claims.Unlogged; and_intros <;> decide +kernel

/-- A running launch with a span to place, and an empty core 0. -/
theorem witness_LaunchesAndStages_placement :
    let l := { hdr1.launch 0 4 0 none true 77 with phase := .running }
    let s := running [(4, l)] (fun x => { x with current := some 4 })
    s.stageOf l = none ∧ l.hdr.ext 1 = 1 ∧ l.hdr.ext 2 = 1 ∧ l.hdr.coop = false ∧ s.mayPlace 4 l 0 = true ∧
    s.clusterOk 0 l.hdr.half 0 = true ∧ 0 % 4 ∈ halfCores l.hdr.half ∧ (s.ctx 0).trctl.getLsbD 31 = false ∧
    s.pickWslot 0 = some 0 ∧ s.pickSlot 0 = some 0 ∧ s.pickScratch 0 l.hdr.sgran = some 0 ∧
    l.hdr.fgran ≤ s.freeGranules 0 ∧ s.blockFree 0 0xFE00000000000000 l.hdr.plinth = true := by
  and_intros <;> decide +kernel

/-- An operation 7 of a kind by group slot 0, lane 0 at an address. -/
def op7 (k : OpKind) (va : Addr) : Op := { opAt k va with id := 7 }

/-- A parent launch 4, its group, and a child header at 0xC000; the header refused; the quota spent; the credit in use. -/
theorem witness_LaunchesAndStages_children :
    let p := { hdr1.launch 0 4 0 none true 77 with phase := .running }
    let s (w0 used : Nat) (cr : Bool) (k : OpKind) : State :=
      { idle id (fun g => { g with launch := 4, credit := cr }) with
        launches := [(4, p)], ops := [(7, op7 k 0xC000)],
        ctxs := [(0, { ctx0 with quota := List.replicate 4 (2, used) })],
        mem := wrBytes (idle id id).mem 0xC000 (hdrBytes w0 0 0) }
    let child := { hdr1.launch 0 4 0 (some 4) false 0 with phase := .running, nextSpan := 1, quota := .unit 0, waiter := some 7 }
    (∀ k ∈ [OpKind.enq, .enqw], (s 5 0 false k).storesApplied 0 0 7 = true ∧ mfind (s 5 0 false k).ops 7 = some (op7 k 0xC000)) ∧
    mfind (s 5 0 false .enq).launches 7 = none ∧ mfind (s 5 0 false .enq).launches p.root = some p ∧
    (s 5 0 false .enq).homeBytes (.op 7) 0 0xC000 128 = some (hdrBytes 5 0 0) ∧
    (s 6 0 false .enq).homeBytes (.op 7) 0 0xC000 128 = some (hdrBytes 6 0 0) ∧
    (s 6 0 false .enq).refused 0 (Hdr.ofBytes (hdrBytes 6 0 0)) = true ∧
    (s 5 0 false .enq).refused 0 hdr1 = false ∧ ((s 5 0 false .enq).ctx 0).quota.length = 4 ∧
    ((s 5 1 false .enq).ctx 0).quota.getD hdr1.quotaClass (0, 0) = (2, 1) ∧
    ((s 5 2 false .enq).ctx 0).quota.getD hdr1.quotaClass (0, 0) = (2, 2) ∧
    (grp (s 5 2 true .enqw)).credit = true ∧ (grp (s 5 2 false .enqw)).credit = false ∧
    ({ s 5 1 false .enqw with launches := [(4, p), (9, child)], aq := [] } : State).launchOver 9 child = true := by
  and_intros <;> decide +kernel

/-- A message to mailbox 1 of this package, with room and without; a destination that is no such thing, and one that is
not reached. -/
theorem witness_LaunchesAndStages_messages :
    let s (va : Addr) (n : Nat) : State :=
      { idle id id with ops := [(7, op7 .lsend va)], ctxs := [(0, { ctx0 with mail := [(1, List.replicate n ⟨0, 0, [], false⟩)] })] }
    mfind (s 0x2000 3).ops 7 = some (op7 .lsend 0x2000) ∧ (0x2000 : Addr).toNat < 2 ^ 15 ∧
    (0x2000 : Addr).toNat % 2 ^ 13 = (s 0x2000 3).dev.pkgid.toNat ∧ (mget ((s 0x2000 3).ctx 0).mail 1 []).length < 64 ∧
    64 ≤ (mget ((s 0x2000 64).ctx 0).mail 1 []).length ∧ 2 ^ 15 ≤ (0x8000 : Addr).toNat ∧
    (0x2001 : Addr).toNat % 2 ^ 13 ≠ (s 0x2001 0).dev.pkgid.toNat ∧ (s 0x2001 0).reaches 1 = false := by
  and_intros <;> decide +kernel

/-- The pipeline of `pipeBytes 1`, running; its stage 1 has rings of 64 entries at 0xA000 and 0xA020, the first with `n`
records and the second with none. -/
def piped (n : Nat) : State :=
  let ring (base p : Nat) : List Byte := leBytes 8 base ++ leBytes 4 64 ++ leBytes 4 p ++ List.replicate 16 0
  let s := hostWith [(0xA000, ring 0x9000 n ++ ring 0x9800 0)]
  { s.setCtx 0 ctx0 with pipes := [(3, ⟨0, pipeBytes 1, [4, 5], 77, [(stageKey 1 0, 4000)], [], true⟩)] }

def pipe1 (s : State) : Pipe := (mfind s.pipes 3).getD ⟨0, [], [], 0, [], [], false⟩

theorem witness_LaunchesAndStages_gather :
    let s := piped 40
    let t := piped 5
    s.stageAt 3 1 0 = some (pipe1 s, ⟨0xA000, 0x9000, 64, 40, 0, 0⟩) ∧ Memory.wf s.mem = true ∧
    s.ringOldest 0 ⟨0xA000, 0x9000, 64, 40, 0, 0⟩ 32 = some (List.replicate 32 0) ∧
    t.stageAt 3 1 0 = some (pipe1 t, ⟨0xA000, 0x9000, 64, 5, 0, 0⟩) ∧ mfind (pipe1 t).timer (stageKey 1 0) = some 4000 ∧
    4000 + (pipe1 t).stage 1 16 2 ≤ t.cc ∧ t.ringOldest 0 ⟨0xA000, 0x9000, 64, 5, 0, 0⟩ 5 = some (List.replicate 5 0) := by
  and_intros <;> decide +kernel

/-- The rings lie apart from the tables. -/
theorem piped_apart (n : Nat) (h : TablesLow (piped n).mem) (hz : rdLE (piped n).mem 48 4 = 0) :
    Claims.Apart (piped n) 0 (fun x => 0xA010 ≤ x ∧ x < 0xA014) :=
  apart_of_tables h rfl rfl hz (fun x hx => by omega)

/-- The deeper ring gives 20 of its 40 records to the other. -/
theorem witness_LaunchesAndStages_balance :
    let s := piped 40
    let a : InRing := ⟨0xA000, 0x9000, 64, 40, 0, 0⟩
    let b : InRing := ⟨0xA020, 0x9800, 64, 0, 0, 0⟩
    Claims.Apart s 0 (fun x => 0xA010 ≤ x ∧ x < 0xA014) ∧ s.stageAt 3 1 0 = some (pipe1 s, a) ∧ s.stageAt 3 1 1 = some (pipe1 s, b) ∧ s.dtime.toNat % 4096 = 0 ∧
    s.clusterOk 0 0 0 = true ∧ s.clusterOk 0 0 1 = true ∧ Memory.wf s.mem = true ∧ b.used + (pipe1 s).thresh < a.used ∧
    min (min ((a.used - b.used) / 2) 32) b.free = 20 ∧ s.ringOldest 0 a 20 = some (List.replicate 20 0) ∧
    (∀ i < 20, s.ringPlace 0 b (b.prod + i) = some (0x9800 + 4 * i)) ∧ (a.pa + 32 ≤ b.pa) ∧
    (∀ i < 20, ∀ j < 20, i ≠ j → 0x9800 + 4 * i + 4 ≤ 0x9800 + 4 * j ∨ 0x9800 + 4 * j + 4 ≤ 0x9800 + 4 * i) ∧
    (∀ i < 20, 0x9800 + 4 * i + 4 ≤ a.pa) := by
  refine ⟨piped_apart 40 (by unfold TablesLow; decide +kernel) (by decide +kernel), ?_⟩
  and_intros <;> decide +kernel
/-! ### Pre-emption, firmware, machine checks -/

/-- A TLB entry for the page of 0x9000, of the current generation and of another; a run that advances ASGEN; moves of the
agenda. -/
theorem witness_TranslationCache :
    let x : TlbEntry := ⟨0, 0, 0, 0x0F, 3⟩
    let s := { host with tlb := [x] }
    s.tlb.find? (fun x => x.covers 0 0x9000 (s.ctx 0).asgen) = some x ∧
    (∀ y ∈ [{ x with gen := 1 }], y.guest = 0 → y.gen ≠ (s.ctx 0).asgen) ∧ host.tlb = [] ∧ host.lookup 0 0x9000 = .leaf 0x0F 3 ∧
    (curOf (stacked [])).g.guest = 0 ∧
    ({ s with agenda := [⟨0, .tlbFill 0 0x9000⟩] } : State).agenda = [⟨0, .tlbFill 0 0x9000⟩] := by
  and_intros <;> decide +kernel

/-- R245: a translation in the TLB is used after its leaf is gone, and not under another generation. -/
theorem test_tlb :
    let s := host.tlbFill 0 0x9000
    let t := { s with mem := [] }
    t.lookup 0 0x9000 = .leaf 0x0F 3 ∧ (t.modCtx 0 (fun x => { x with asgen := 1 })).lookup 0 0x9000 = .hole 1 0x1000 := by
  decide +kernel

/-- The unit of launch 4 with the workgroup in slot 0 of core 0. -/
def unit0 : Unit_ := ⟨0, 4, [wkey 0 0], true, [], none⟩

/-- The group of `idle` asked to stop, alone in its workgroup and its unit. -/
def stopping (f : Group → Group) : State :=
  { withWG (idle id (fun g => f { g with preempt := true, launch := 4 })) 0 with units := [(2, unit0)], launches := [(4, launch0 0 0)] }

/-- A unit with a live group; asked for a shrink 2^20 cc ago. -/
theorem witness_PreemptionAndResumption_request :
    let s := stopping id
    let t := { stopping (fun g => { g with gangStop := some 8 }) with units := [(2, { unit0 with shrink := some 0 })], cc := 2 ^ 20 }
    let w := (s.wgroup 0 0).getD (placedWG 0 0)
    mfind s.units 2 = some unit0 ∧ wkey 0 0 ∈ unit0.wgs ∧ mfind s.wgroups (wkey 0 0) = some w ∧ (0, 0) ∈ w.groups ∧
    s.group 0 0 = some (grp s) ∧ (grp s).ended = false ∧ (t.units.map (fun u => u.2.shrink)) = [some 0] ∧ 0 + 2 ^ 20 ≤ t.cc ∧
    (grp t).gangStop.isSome = true := by
  and_intros <;> decide +kernel

/-- A safe record whose live masks name frame register 3. -/
def safe0 : SafeRec := ⟨some 0, leBytes 8 8 ++ List.replicate 40 0 ++ leBytes 8 0x8000 ++ leBytes 8 0, 0, 0, 0, 0⟩

/-- A group that may be saved by flashback, without and with a live register pending; one that set NOFB. -/
theorem witness_PreemptionAndResumption_save :
    let s := stopping (fun g => { g with safe := safe0, nofb := false })
    let t := stopping (fun g => { g with safe := safe0, nofb := false, pendFrm := [⟨3, 9⟩] })
    let v := stopping (fun g => { g with nofb := true })
    (grp s).preempt = true ∧ (grp s).saved = none ∧ (grp s).ended = false ∧ (grp s).run = none ∧ s.quiet 0 0 (grp s) = true ∧
    s.unitOf (wkey 0 (grp s).wslot) = some (2, unit0) ∧ unit0.shrink = none ∧ (grp s).nofb = false ∧ (grp s).runs ≤ 512 ∧
    s.recs = [] ∧ (grp s).sup = false ∧ (grp s).dbg = .running ∧ (grp s).step = false ∧ (grp s).esc = none ∧
    (grp s).pendFrm = [] ∧ (∃ p ∈ (grp t).pendFrm, (grp t).safe.frameLive p.reg = true) ∧ (grp v).nofb = true := by
  and_intros <;> decide +kernel

theorem witness_PreemptionAndResumption_complete :
    let s := { stopping (fun g => { g with saved := some true }) with launches := [(0, launch0 0 0), (4, launch0 0 0)] }
    let w := (s.wgroup 0 0).getD (placedWG 0 0)
    mfind s.units 2 = some unit0 ∧ unit0.wgs = [wkey 0 0] ∧ unit0.asked = true ∧ s.unitStill unit0 = true ∧
    mfind s.wgroups (wkey 0 0) = some w ∧ w.groups = [(0, 0)] ∧ s.group (wkey 0 0 / 16) 0 = some (grp s) ∧
    (grp s).saved = some true ∧ s.l1 = [] ∧ Memory.wf (s.scratchOf 0) = true ∧ s.ops = [] ∧ s.recs = [] ∧
    mfind s.launches w.launch = some (launch0 0 0) ∧
    (s.modCtx 0 (fun x => { x with saveBase := 0x100000, saveSize := 0x100000 })).blockFits 0 0x102000 0x80000 = true := by
  and_intros <;> decide +kernel

/-- A reply to lane 0 of a saved load. -/
theorem witness_PreemptionAndResumption_reply :
    let o := { opAt .load 0x9000 with saved := true, core := 4000, lanes := [⟨reqAt 0x9000, .replied⟩] }
    let s := { host with ops := [(7, { o with id := 7 })] }
    let t := hostWith [(0xA018, [2])]
    let a := { t.modCtx 0 (fun x => { x with saveBase := 0xA000 }) with ops := [(7, { o with id := 7, area := some 1 })] }
    mfind s.ops 7 = some { o with id := 7 } ∧ o.saved = true ∧ ⟨reqAt 0x9000, .replied⟩ ∈ o.lanes ∧
    (o.lanes.map (fun y => y.req.lane)).Nodup ∧ (∀ y ∈ o.lanes, y.req.lane < 32) ∧ Memory.wf s.mem = true ∧ o.area = none ∧
    1 < a.slots 0 ∧ Memory.wf a.mem = true := by
  and_intros <;> decide +kernel

/-- A record and a group that the layouts speak of: a memory in its form, an HW and a count within their fields. -/
theorem witness_SaveAreaLayout :
    Memory.wf host.mem = true ∧ noHw < 2 ^ 16 ∧ (grp (stopping id)).fgran < 2 ^ 8 ∧ (grp (stopping id)).runs < 2 ^ 16 ∧
    (∀ e, (grp (stopping id)).safe.entry = some e → e < 2 ^ 16) ∧ ((grp (stopping id)).frame.map (·.1)).Nodup ∧
    (grp (stopping id)).splits.getD 0 none = some part0 := by
  refine ⟨by decide +kernel, by decide, by decide +kernel, by decide +kernel, fun e h => ?_, by decide +kernel, by decide +kernel⟩
  have : (grp (stopping id)).safe.entry = none := by decide +kernel
  rw [this] at h
  cases h

/-- R367: lane 5 of a store record has its address at byte 64 + 40 and its value at byte 320 + 80; an unpinned record's HW
field is 0xFFFF; KIND 2 stands at byte 17. -/
theorem test_record_image :
    let r : Rec := { rec0 0 0 with unf := 32, addr := [(5, 0x1234)], data := [(5, 0xABCD)] }
    let m := putImage [(7, 9)] 64 832 (r.image noHw)
    rdLE m 168 8 = 0x1234 ∧ rdLE m 464 16 = 0xABCD ∧ rdLE m 100 2 = 0xFFFF ∧ rdByte m 81 = 2 ∧ rdByte m 7 = 9 := by
  decide +kernel

/-- R380: a whole block of a group with lanes 0 to 31 live: KIND 2, LIVE all ones; the first split's mask at byte 96. -/
theorem test_group_image :
    let g := grp (stopping id)
    let m := putImage [] 128 (g.blockLen true) (g.image true)
    rdByte m 128 = 2 ∧ rdLE m 132 4 = g.live.toNat ∧ rdLE m 224 4 = part0.mask.toNat := by
  decide +kernel

/-- The unit of `stopping`, saved whole or by flashback from core 8. -/
def savedUnit (whole : Bool) : Unit_ :=
  { unit0 with wgs := [], saved := [⟨{ placedWG 0 0 with groups := [], sgran := 4 }, none, [], 8, 1, 77, [(5, 9)],
    [⟨0, whole, { grp (stopping id) with saved := some whole, safe := safe0, fgran := 4 }, 4000⟩], [], [], [], [], [], [], none⟩] }

theorem witness_PreemptionAndResumption_resume : ∀ whole,
    let s := { host with units := [(2, savedUnit whole)], launches := [(4, launch0 0 0)] }
    let x := (savedUnit whole).saved.getD 0 ⟨placedWG 0 0, none, [], 0, 0, 0, [], [], [], [], [], [], [], [], none⟩
    let v := x.groups.getD 0 ⟨0, false, grp s, 0⟩
    mfind s.units 2 = some (savedUnit whole) ∧ (savedUnit whole).wgs = [] ∧ (savedUnit whole).saved = [x] ∧ x.groups = [v] ∧
    x.wg.groups = [] ∧ x.arms = [] ∧ x.chains = [] ∧ x.eop = none ∧ s.coresSuit (savedUnit whole) [0] = true ∧
    s.owed v.ghost = false ∧ s.ops = [] ∧ s.recs = [] ∧ v.g.tabAddr = none ∧ (s.ctx v.g.guest).trctl.getLsbD 31 = false ∧
    s.pickWslot 0 = some 0 ∧ s.pickSlot 0 = some 0 ∧ s.pickScratch 0 x.wg.sgran = some 0 ∧ v.g.fgran ≤ s.freeGranules 0 ∧
    Memory.wf x.scratch = true ∧ Memory.wf (s.scratchOf 0) = true ∧ (∀ c ∈ x.scratch, c.1 < 1024 * x.wg.sgran) ∧
    v.whole = whole ∧ v.g.safe.entry = some 0 := by
  intro whole; cases whole <;> and_intros <;> decide +kernel

/-- What firmware holds of an escalated group. -/
def esc0 (referred : Bool) (e : Option (PartRef × Exc)) : Escal := ⟨5, cAtomicPath, 0x9000, 0, referred, false, 0, e⟩

/-- The group of `idle` in firmware's hands, referred to host software as said, at the exception `e`. -/
def escalated (referred : Bool) (e : Option (PartRef × Exc)) (p : Part) : State :=
  { host with groups := (idle (fun _ => p) (fun g => { g with esc := some (esc0 referred e) })).groups,
              launches := [(0, launch0 0 0)], wgroups := (withWG (idle id id) 0).wgroups }

theorem witness_FirmwareAndMachineChecks_firmware :
    let s := escalated false none part0
    let t := escalated true none part0
    s.escGroup 5 = some (0, 0, grp s, esc0 false none) ∧ s.group 0 0 = some (grp s) ∧ (grp s).esc = some (esc0 false none) ∧
    s.recs = [] ∧ (grp s).tabAddr = none ∧ (s.ctx (grp s).guest).trctl.getLsbD 31 = false ∧ Claims.CqRoom s (grp s).guest ∧
    (s.ctx (grp s).guest).valid = true ∧ t.referredAt 0 0x9000 = some (0, 0, grp t, esc0 true none) ∧
    t.escGroup 5 = some (0, 0, grp t, esc0 true none) ∧ s.referredAt 0 0x9000 = none := by
  unfold Claims.CqRoom; and_intros <;> decide +kernel

/-- A run of one `aadd.i32` at device scope with its witness at 0x8000, that faulted ATOMIC_PATH in lane 0; and a run of one
`nop` that says so. -/
theorem witness_FirmwareAndMachineChecks_emulation :
    let i : Instr := .aadd Guard.none .w32 ⟨.dev, true⟩
    let code := [0x03C0, 0xFFE0, 0x0187] ++ encode i ++ [0x03C1, 0x7000, 0]
    let p := { part0 with pc := 0x8000, mask := 1 }
    let x : Exc := ⟨1, 0, 0, cAtomicPath, 0x8000, 1, []⟩
    let put (c : List Half) : State :=
      let s := escalated false (some (.slot 0, x)) p
      { s with mem := wrBytes s.mem 0x8000 (c.flatMap (fun h => leBytes 2 h.toNat)) }
    let s := put code
    let t := put ([0x03C0, 0xFFE0, 0x0187] ++ [0, 0x03C1, 0, 0])
    let m : RunImage := ⟨0x0187FFE0, encode i ++ [0x03C1, 0x7000, 0]⟩
    let q : AtomReq := ⟨Guard.none, .add, .w32, true, ⟨.dev, true⟩⟩
    s.escGroup 5 = some (0, 0, grp s, esc0 false (some (.slot 0, x))) ∧ (grp s).splits.length = 4 ∧
    (grp s).splits.getD 0 none = some p ∧ s.recs = [] ∧ (grp s).tabAddr = none ∧
    (s.decodeRun 0 (grp s).guest (s.nsafeOf (grp s)) p.pc).toOption = some m ∧
    m.onlyAtomic = some (q, 2) ∧ q.lanes ⟨0, 0, grp s, Run.fresh (grp s) 0 p m s.cc⟩ = [⟨0, 0, 0, 0, 0⟩] ∧
    s.translate (grp s).guest 0 .write = .ok (0, 0x0F) ∧ s.l1 = [] ∧ Claims.Unlogged s (grp s).guest ∧
    Memory.wf s.mem = true ∧ laneOn p.mask 0 ∧
    ((t.decodeRun 0 (grp t).guest (t.nsafeOf (grp t)) p.pc).toOption.map (·.onlyAtomic)) = some none := by
  unfold Claims.Unlogged; and_intros <;> decide +kernel

/-- A clean line and a held one; a group of a workgroup; a sequencer; a current launch; a saved unit. -/
theorem witness_FirmwareAndMachineChecks_mchecks :
    let s := { stopping id with l1 := [lineOf 3 (.clean 0 0 0), lineOf 4 (.held 0 10 0)] }
    let q := seqAt 0 id id
    let c := running [(4, launch0 0 0)] (fun x => { x with current := some 4 })
    let u := { host with units := [(2, savedUnit true)] }
    lineOf 3 (.clean 0 0 0) ∈ s.l1 ∧ (grp s).ended = false ∧ s.group 0 0 = some (grp s) ∧
    (s.wgroup 0 0).map (·.groups) = some [(0, 0)] ∧
    s.l1.find? (fun y => y.core == 0 && y.line == 4 && (match y.kind with | .held _ _ _ => true | _ => false)) =
      some (lineOf 4 (.held 0 10 0)) ∧
    q.seqOf 0 0 = some (seqCur q) ∧ (seqCur q).q.stopped = false ∧ (c.ctx 0).current = some 4 ∧
    mfind u.units 2 = some (savedUnit true) ∧ (savedUnit true).saved.length = 1 := by
  and_intros <;> decide +kernel
/-! ### The debugger -/

/-- The group of `idle`, its context's sample ring for core 0 at `desc`: 256 bytes at 0x9000, with `wr` bytes written. -/
def sampled (wr : Nat) (f : Group → Group) : State :=
  let s := idle id f
  { s.setCtx 0 { ctx0 with smpctl := 0x80000006, dbgbase := 0xA000 } with
    mem := wrBytes s.mem 0xA000 (leBytes 8 0x9000 ++ leBytes 4 256 ++ leBytes 4 wr ++ List.replicate 16 0) }

/-- Room for a sample and none; a group between runs, one that stands stopped, one that has yielded. -/
theorem witness_Debugger_samples :
    let s := sampled 0 id
    let t := sampled 256 id
    let r : Ring := ⟨0, (List.range 32).map (0xA000 + ·), 0x9000, 256, 0, 0, 0⟩
    s.group 0 0 = some (grp s) ∧ (grp s).ended = false ∧ (∀ n < 48, n ≠ 0 → s.group 0 n = none) ∧ (s.ctxs.map (·.1)).Nodup ∧
    Claims.Ticks s (s.ctx (grp s).guest).smpctl ∧ (∀ y ∈ s.ctxs, y.1 ≠ (grp s).guest → y.2.smpctl.getLsbD 31 = false) ∧
    (grp s).observed = some (some 0, part0) ∧ Memory.wf s.mem = true ∧
    s.ringAt (grp s).guest ((s.ctx (grp s).guest).dbgbase.toNat + 32 * 0) = some r ∧ r.desc.Nodup ∧ 16 ≤ r.free ∧
    s.ringRoom (grp s).guest r 16 = some ((List.range 16).map (0x9000 + ·)) ∧
    ((List.range 16).map (0x9000 + ·)).Nodup ∧ (∀ a ∈ (List.range 16).map (0x9000 + ·), a ∉ r.desc) ∧
    t.ringAt (grp t).guest ((t.ctx (grp t).guest).dbgbase.toNat + 32 * 0) = some { r with wr := 256 } ∧
    ({ r with wr := 256 } : Ring).free < 16 ∧
    (grp (sampled 0 (fun g => { g with dbg := .stopped 1 }))).dbg = .stopped 1 ∧
    (grp (sampled 0 (fun g => { g with yieldAt := some 9 }))).yieldAt = some 9 := by
  unfold Claims.Ticks; and_intros <;> decide +kernel

/-- DBGSEL names the group of core 0, slot 0; each place of the window that may be written, at its ends; a stopped group
between runs and inside one. -/
theorem witness_Debugger_commands :
    let s := idle id (fun g => { g with dbg := .stopped 1 })
    let t := (mapped.modGroup 0 0 (fun g => { g with dbg := .stopped 1 }))
    let n := (idle id id).modCtx 0 (fun x => { x with dbgsel := 5 })
    Claims.Selected s 0 0 0 (grp s) ∧ (grp s).run = none ∧ Claims.Selected t 0 0 0 (grp t) ∧ (grp t).run.isSome = true ∧
    (n.ctx 0).dbgsel.toNat < 2 ^ 16 ∧ n.group 0 5 = none ∧ n.group 0 0 = some (grp n) ∧
    (grp s).splits.length = 4 ∧ (grp s).dbg = .stopped 1 ∧ (∃ r, (grp t).run = some r ∧ r.image.dmin ≤ r.depth0) ∧
    (∀ off ∈ [0x400, 0x5FC, 0x800, 0xBFC, 0x1000, 0x113C, 0x2000, 0x2000 + 128 * 255], Claims.Writable (grp t) off) ∧
    (∀ off ∈ [0, 0x3FC, 0x600, 0x7FC, 0xC00, 0xFFC, 0x1140, 0x1FFC, 0x2000 + 128 * 256], ¬Claims.Writable (grp t) off) ∧
    (∀ c, (grp (idle id id)).dbg ≠ .stopped c) := by
  unfold Claims.Selected Claims.Writable
  refine ⟨?_, ?_, ?_, ?_, ?_, ?_, ?_, ?_, ?_, ⟨_, rfl, ?_⟩, ?_, ?_, ?_⟩
  case refine_13 => exact fun c h => nomatch h
  all_goals (and_intros <;> decide +kernel)

/-! ### Registers, semaphores, commands -/

/-- A device before READY, with nothing staged and with an image to stage. -/
theorem witness_HostRegisters :
    let s := State.reset
    let e := (host.modCtx 0 (fun x => { x with saveBase := 0xA000 }))
    let t := { e with mem := wrLE e.mem 0xA000 8 24 }
    host.dev.ready = true ∧ host.worn = false ∧ (4 : DWord).getLsbD 2 = true ∧ s.dev.ready = false ∧ s.dev.fwlenSet = false ∧ s.dev.fwaddrSet = false ∧
    (let u := { s.dev with fwaddrSet := true, fwlenSet := true, fwaddr := 0x8000000000030000 }
     u.ready = false ∧ u.fwlenSet = true ∧ u.fwaddrSet = true ∧ u.fwaddr.getLsbD 63 = true) ∧ Memory.wf s.mem = true ∧ s.dev.sema.length = 8 ∧ s.dev.semaLast.length = 8 ∧ s.dev.sema.getD 0 0 = 0 ∧
    ({ s.dev with sema := List.replicate 8 1 } : Device).sema.getD 0 0 ≠ 0 ∧
    s.dev.semaLast.getD 0 0 ≠ 2 ∧ ({ s.dev with semaLast := List.replicate 8 2 } : Device).semaLast.getD 0 0 = 2 ∧
    (t.ctx 0).valid = true ∧ Memory.wf t.mem = true ∧ rdLE t.mem 0xA000 8 = 24 ∧ rdLE t.mem 0xA008 8 = 0 ∧
    ((16 : DWord).toNat + 2 ^ 64 - 0) % 2 ^ 64 ≤ (24 + 2 ^ 64 - 0) % 2 ^ 64 ∧
    (24 + 2 ^ 64 - 0) % 2 ^ 64 < ((25 : DWord).toNat + 2 ^ 64 - 0) % 2 ^ 64 := by
  and_intros <;> decide +kernel

/-- The block of a command: its code and operands. -/
def block (code : Nat) (ops : List Byte) : List Byte := padTo 256 (leBytes 8 code ++ ops)

/-- Port A owns SEMA0, and the block lies at 0x30000 of the package's memory. -/
def given (b : List Byte) : State :=
  let s := hostWith [(0x30000, b)]
  { s with dev := { s.dev with ucieA := true, cold := false, admcmd := 0x8000000000030000, sema := 1 :: List.replicate 7 0 } }

/-- Port A has trained. -/
theorem present_given (b : List Byte) : Claims.Agent (given b) 1 :=
  ⟨.inl rfl, fun h => h.elim (fun h => nomatch h.2) (fun h => nomatch h.1)⟩

theorem given_of {b : List Byte} {code : Nat} (hl : b.length = 256) (hb : blockOk b = true) (hc : fieldLE b 0 8 = code) :
    Claims.Given (given b) 1 code b := by
  have hm : (given b).mem = wrBytes host.mem 0x30000 b := rfl
  have ha : hostForm (given b).dev.admPort (given b).dev.admcmd = 0x30000 := by
    have h : (given b).dev.admcmd = 0x8000000000030000 := rfl
    have p : (given b).dev.admPort = 1 := rfl
    rw [h, p]; decide +kernel
  have h := rdBytes_wrBytes (show Memory.wf host.mem = true by decide +kernel) 0x30000 b
  rw [hl] at h
  refine ⟨rfl, rfl, present_given b, rfl, .inl (show (0x8000000000030000 : DWord).getLsbD 63 = true by decide), ?_, hb, hc⟩
  unfold State.hostBytes
  rw [hm, ha]
  exact h

/-- Contexts, clusters, groups and launches do not matter to it. -/
theorem given_with {s : State} {b : List Byte} {code : Nat} (h : Claims.Given s 1 code b) (cs : AMap Cluster) (xs : AMap Ctx)
    (gs : AMap Group) (ls : AMap Launch) :
    Claims.Given { s with clusters := cs } 1 code b ∧ Claims.Given { s with ctxs := xs } 1 code b ∧
      Claims.Given { s with groups := gs, launches := ls } 1 code b := ⟨h, h, h⟩

theorem given_all (bs : List (List Byte)) (code : Nat)
    (h : ∀ b ∈ bs, b.length = 256 ∧ blockOk b = true ∧ fieldLE b 0 8 = code) : ∀ b ∈ bs, Claims.Given (given b) 1 code b :=
  fun b hb => given_of (h b hb).1 (h b hb).2.1 (h b hb).2.2

theorem witness_AdministrativeCommands_given : ∀ code ∈ [5, 6, 8, 9, 10],
    Claims.Given (given (block code [])) 1 code (block code []) := by
  have h : ∀ code ∈ [5, 6, 8, 9, 10], (block code []).length = 256 ∧ blockOk (block code []) = true ∧
    fieldLE (block code []) 0 8 = code := by decide +kernel
  exact fun c hc => given_of (h c hc).1 (h c hc).2.1 (h c hc).2.2

/-- Agents and blocks that the gate turns away. -/
theorem witness_AdministrativeCommands_gate :
    let s := given (block 3 [])
    s.dev.admBusy = false ∧ s.dev.ready = true ∧ (s.dev.sema.getD 0 0).toNat = 1 ∧ (s.dev.sema.getD 0 0).toNat ≠ 2 ∧
    State.reset.dev.ready = false ∧ State.reset.dev.admBusy = false ∧
    blockOk ((given (block 11 [])).hostBytes (given (block 11 [])).dev.admPort (given (block 11 [])).dev.admcmd 256) = false ∧
    Claims.IsCommand 1 (.setQuota 1) := by
  refine ⟨?_, ?_, ?_, ?_, ?_, ?_, ?_, ?_⟩
  case refine_8 => simp [Claims.IsCommand]
  all_goals decide +kernel

/-- Partition 1 without a unit; index 64; a memory range of partition 0. -/
theorem witness_AdministrativeCommands_partitions :
    let e := block 1 [1]
    let b := block 1 (1 :: List.replicate 31 0 ++ [1])
    (∀ x ∈ [e, b, block 1 [64]], Claims.Given (given x) 1 1 x) ∧ fieldLE e 8 1 = 1 ∧
    (BitVec.ofNat 144 (fieldLE e 16 18) = 0 ∧ BitVec.ofNat 1280 (fieldLE e 40 160) = 0) ∧
    mget host.dev.parts 1 ⟨0, 0⟩ = ⟨0, 0⟩ ∧ host.dev.deferred = [] ∧ 64 ≤ fieldLE (block 1 [64]) 8 1 ∧
    ∃ x ∈ host.dev.parts, x.1 ≠ 1 ∧ x.2.memory &&& BitVec.ofNat 1280 (fieldLE b 40 160) ≠ 0 := by
  refine ⟨given_all _ _ (by decide +kernel), ?_⟩
  and_intros <;> decide +kernel

theorem vacant_given (b : List Byte) (n : Nat) : Claims.Vacant (given b) n := by
  refine ⟨rfl, fun u hu => ?_⟩
  cases hu

/-- Cluster 3 to tenants 5 and 6, whole to 5, and operands out of range; pool sizes of guest 2 and of guest 64. -/
theorem witness_AdministrativeCommands_tenants :
    let a := block 2 [3, 1, 5, 6]
    let w := block 2 [3, 0, 5, 0]
    (∀ b ∈ [a, w, block 2 [144, 0, 5]], Claims.Given (given b) 1 2 b) ∧
    (∀ b ∈ [block 3 [2, 1, 2, 3, 4], block 3 [64]], Claims.Given (given b) 1 3 b) ∧
    (fieldLE a 8 1 < 144 ∧ fieldLE a 9 1 = 1 ∧ fieldLE a 10 1 < 64 ∧ fieldLE a 11 1 < 64 ∧ fieldLE w 9 1 ≤ 1) ∧
    144 ≤ fieldLE (block 2 [144, 0, 5]) 8 1 ∧ 1 < fieldLE (block 2 [3, 2, 5]) 9 1 ∧
    ¬(fieldLE (block 2 [3, 0, 64]) 10 1 < 64 ∨ fieldLE (block 2 [3, 0, 64]) 10 1 = 0xFF) ∧
    fieldLE (block 3 [64]) 8 1 = 64 := by
  refine ⟨given_all _ _ (by decide +kernel), given_all _ _ (by decide +kernel), ?_⟩
  and_intros <;> decide +kernel

/-- Cluster 3 to fence, to restore, and fenced for a fault. -/
theorem witness_AdministrativeCommands_fences :
    let f := block 4 [3, 1]
    let r := block 4 [3, 0]
    let s := { given r with clusters := [(3, { Cluster.initial with fenced := true })] }
    let t := { given r with clusters := [(3, { Cluster.initial with fenced := true, faulty := true })] }
    (Claims.Given (given f) 1 4 f ∧ Claims.Given s 1 4 r ∧ Claims.Given t 1 4 r) ∧ fieldLE f 9 1 = 1 ∧ fieldLE r 9 1 = 0 ∧
    ((given f).cluster 3).fenced = false ∧ (s.cluster 3).faulty = false ∧ (t.cluster 3).faulty = true ∧
    144 ≤ fieldLE (block 4 [144, 0]) 8 1 := by
  have h : (∀ b ∈ [block 4 [3, 1], block 4 [3, 0]], b.length = 256 ∧ blockOk b = true ∧ fieldLE b 0 8 = 4) := by decide +kernel
  have hf := h _ (.head _)
  have hr := h _ (.tail _ (.head _))
  have g := given_of hr.1 hr.2.1 hr.2.2
  refine ⟨⟨given_of hf.1 hf.2.1 hf.2.2, (given_with g _ [] [] []).1, (given_with g _ [] [] []).1⟩, ?_⟩
  and_intros <;> decide +kernel

/-- An update, a report, the health log; resets of the device, of a guest, and of nothing. -/
theorem witness_AdministrativeCommands_resets :
    let d := block 7 [1]
    let g := block 7 [2, 0]
    let s := { given d with ctxs := [] }
    let u : State := { given g with groups := (idle id id).groups, launches := [(0, launch0 0 0)] }
    Claims.Given s 1 7 d ∧ Claims.Given (given d) 1 7 d ∧ Claims.Given (given (block 7 [3])) 1 7 (block 7 [3]) ∧
    Claims.Given u 1 7 g ∧ Claims.CqRoom (given d) 0 ∧ (given (block 6 [])).dev.health = [] ∧
    Memory.wf (given (block 6 [])).mem = true ∧ fieldLE d 8 1 = 1 ∧ s.ctxs = [] ∧
    ((given d).ctxs.map (·.1)).Nodup ∧ ((given d).ctx 0).valid = true ∧
    (∀ x ∈ (given d).ctxs, x.1 ≠ 0 → x.2.valid = false ∧ x.2.cqWait = []) ∧ ((given d).ctx 0).current = none ∧
    fieldLE (block 7 [3]) 8 1 = 3 ∧ fieldLE (block 7 [2, 64]) 9 1 = 64 ∧ fieldLE g 8 1 = 2 ∧ fieldLE g 9 1 = 0 ∧
    (u.ctx 0).queue = [] ∧ (∀ x ∈ u.groups, x.2.guest = 0 → (mfind u.launches x.2.launch).map (·.guest) = some 0) := by
  have h : (∀ b ∈ [block 7 [1], block 7 [2, 0], block 7 [3]], b.length = 256 ∧ blockOk b = true ∧ fieldLE b 0 8 = 7) := by
    decide +kernel
  have hd := h _ (.head _)
  have hg := h _ (.tail _ (.head _))
  have h3 := h _ (.tail _ (.tail _ (.head _)))
  have d := given_of hd.1 hd.2.1 hd.2.2
  have g := given_of hg.1 hg.2.1 hg.2.2
  refine ⟨(given_with d [] _ [] []).2.1, d, given_of h3.1 h3.2.1 h3.2.2, (given_with g [] [] _ _).2.2, ⟨?_, ?_, ?_, ?_⟩, ?_⟩
  all_goals and_intros <;> decide +kernel
/-! ### Link, clock, service life -/

/-- Port 2, trained, with a flit that has failed so often. -/
def linked (bad : Nat) : State :=
  { host with dev := { host.dev with ports := [(2, { Port.initial with trained := true, bad := bad })],
                                     routes := [(7, ⟨2, 1⟩)] } }

/-- The first 252 bytes of a flit. -/
def flitHead (seq type : Nat) : List Byte := leBytes 2 seq ++ leBytes 1 type ++ leBytes 1 3 ++ List.replicate 248 0

/-- A flit of those bytes with a number in the place of the CRC. -/
def flitOf (pre : List Byte) (crc : Nat) : BitVec 2048 := BitVec.ofNat 2048 (leNat (pre ++ leBytes 4 crc))

theorem leNat_lt (b : List Byte) : leNat b < 256 ^ b.length := by
  induction b with
  | nil => simp [leNat]
  | cons x b ih => have := x.isLt; simp only [leNat, List.length_cons, Nat.pow_succ]; omega

theorem leBytes_leNat (b : List Byte) : leBytes b.length (leNat b) = b := by
  induction b with
  | nil => rfl
  | cons x b ih =>
    have := x.isLt
    have h : (x.toNat + 256 * leNat b) / 256 = leNat b := by omega
    have e : BitVec.ofNat 8 (x.toNat + 256 * leNat b) = x := by
      apply BitVec.eq_of_toNat_eq; simp; omega
    simp only [leNat, List.length_cons, leBytes, h, ih, e]

/-- The bytes of such a flit. -/
theorem bytes_flitOf (pre : List Byte) (crc : Nat) (h : pre.length = 252) :
    leBytes 256 (flitOf pre crc).toNat = pre ++ leBytes 4 crc := by
  have hl : (pre ++ leBytes 4 crc).length = 256 := by simp [h]
  have h1 := leNat_lt (pre ++ leBytes 4 crc)
  have h2 := leBytes_leNat (pre ++ leBytes 4 crc)
  rw [hl] at h1 h2
  have h3 : (flitOf pre crc).toNat = leNat (pre ++ leBytes 4 crc) := by
    have e : (2 : Nat) ^ (8 * 256) = (2 ^ 8) ^ 256 := Nat.pow_mul ..
    unfold flitOf
    rw [BitVec.toNat_ofNat]
    exact Nat.mod_eq_of_lt (Nat.lt_of_lt_of_eq h1 e.symm)
  rw [h3, h2]

/-- The CRC of a flit fits exactly when the number in its place is that of the bytes before. -/
theorem witness_LinkAndClock_crc (pre : List Byte) (h : pre.length = 252) (crc : Nat) (hc : crc < 2 ^ 32) :
    let b := leBytes 256 (flitOf pre crc).toNat
    (crc32 (b.take 252)).toNat = fieldLE b 252 4 ↔ crc = (crc32 pre).toNat := by
  simp only [bytes_flitOf pre crc h, fieldLE, ← h, List.take_left, List.drop_left]
  rw [List.take_of_length_le (by simp), leNat_leBytes]
  omega

/-- Heads of flits in sequence of the types 0, 3 and 5, and of one out of sequence; a request applied before. -/
theorem witness_LinkAndClock_flits :
    let s := linked 1
    let old := { s with applied := [(7, 5, 0)] }
    (s.port 2).trained = true ∧ (s.port 2).down = false ∧ (s.port 3).trained = false ∧
    (∀ t ∈ [0, 3, 5], (flitHead 0 t).length = 252 ∧ fieldLE (flitHead 0 t) 0 2 = (s.port 2).recvSeq.toNat ∧
      fieldLE (flitHead 0 t) 2 1 = t) ∧
    fieldLE (flitHead 1 0) 0 2 ≠ (s.port 2).recvSeq.toNat ∧
    old.applied.find? (fun x => x.1 == 7 && x.2.1 == 5) = some (7, 5, 0) ∧
    s.applied.find? (fun x => x.1 == 7 && x.2.1 == 5) = none ∧ backed 0x9000 = true ∧ s.l1 = [] ∧ Memory.wf s.mem = true := by
  and_intros <;> decide +kernel

/-- A port with a flit that has failed 16 times and 17; a store to package 7, which only that port reached. -/
theorem witness_LinkAndClock_ports :
    let s := linked 17
    let down (s : State) : State := s.modPort 2 (fun p => { p with down := true, dist := none })
    let t := { s with groups := (idle id id).groups, aq := [aqAt (8 * 2 ^ 51) (.store [1, 2, 3, 4])] }
    (linked 16).dev.ports.all (fun x => decide (x.2.bad ≤ 16) && decide (x.2.asks ≤ 16)) = true ∧ (s.port 2).trained = true ∧ 17 ≤ (s.port 2).bad ∧ s.far = [] ∧
    s.aq = [] ∧ mfind s.dev.routes 7 = some ⟨2, 1⟩ ∧ t.homeUp (8 * 2 ^ 51) = true ∧ (down t).homeUp (8 * 2 ^ 51) = false ∧
    t.group 0 0 = some (grp t) ∧ laneOn (grp t).live 0 ∧ t.recs = [] := by
  and_intros <;> decide +kernel

/-- Nothing is on its way to the home that a port carries; a route table of zeros, and one with a nonzero reserved byte; every
port of the table trained and not. -/
theorem witness_LinkAndClock_routes :
    let b := block 9 [0, 0, 0, 0, 0, 0, 0, 0x80]
    let s := { given b with mem := wrBytes [] 0x30000 b }
    let t := { s with mem := wrByte s.mem 1 7 }
    (∀ x ∈ (linked 0).dev.routes, ((linked 0).port x.2.port).trained = true) ∧
    (¬∀ x ∈ (linked 0).dev.routes, (({ linked 0 with dev := { (linked 0).dev with ports := [] } } : State).port x.2.port).trained = true) ∧
    hostForm s.dev.admPort (BitVec.ofNat 64 (fieldLE b 8 8)) = 0 ∧ s.mem = [(0x30000, 9), (0x3000F, 0x80)] ∧ rdByte t.mem 1 ≠ 0 ∧
    s.hostBytes s.dev.admPort s.dev.admcmd 256 = b ∧ t.hostBytes t.dev.admPort t.dev.admcmd 256 = b ∧ blockOk b = true ∧ fieldLE b 0 8 = 9 := by
  and_intros <;> decide +kernel

theorem witness_LinkAndClock_table : ∀ p < 8192, rdByte [(0x30000, 9), (0x3000F, 0x80)] (2 * p + 1) = 0 := by
  intro p hp
  have h1 : 2 * p + 1 ≠ 0x30000 := by omega
  have h2 : 2 * p + 1 < 0x30000 := by omega
  simp [rdByte, h1, h2, unlistedByte]

/-- The only port, on a package that is not the reference, with an offset to each side and with none. -/
theorem witness_LinkAndClock_clock :
    let s := linked 0
    let s := { s with dev := { s.dev with pkgid := 9 } }
    let d (t0 t1 t2 t3 : DTime) : Int := ((t1 - t0).toInt + (t2 - t3).toInt) / 2
    (s.port 2).trained = true ∧ (s.port 2).down = false ∧ s.dev.ports = [(2, s.port 2)] ∧ s.isReference = false ∧ 3 < 2 ^ 13 ∧
    s.dev.lastFix + 64 ≤ s.cc ∧ 32 < (d 0 50 50 0).natAbs ∧ 0 < d 0 50 50 0 ∧ d 50 0 0 50 < 0 ∧ d 0 0 0 0 = 0 := by
  and_intros <;> decide +kernel

/-- A lane that has failed before and one that fails next; a cluster not yet fenced. -/
theorem witness_ServiceLife :
    let s := { host with dev := { host.dev with laneFail := [(2, 5)] } }
    mfind host.dev.laneFail 2 = none ∧ mfind s.dev.laneFail (0 * 4 + 2) = some 5 ∧ 5 ≠ 6 ∧ host.units = [] ∧ host.dev.deferred = [] ∧
    (host.cluster 3).fenced = false ∧ Memory.wf host.mem = true := by
  and_intros <;> decide +kernel

/-- The reset state and the state with a run placed both have the form, and step from them. -/
theorem witness_StepKeepsMemoryForm : Memory.wf busy.mem = true ∧ (∃ t, step busy = .next t) ∧
    Memory.wf State.reset.mem = true ∧ ∃ t, step State.reset = .next t := ⟨rfl, ⟨_, rfl⟩, rfl, ⟨_, rfl⟩⟩

/-! ### More states for the clauses of statements -/

/-! Decoding, translation, waiting -/

/-- The last line of the sequencer's encoding (R324). -/
theorem witness_EncodingRoundTrip_seq : decodeSeq (8 * 2 ^ 58) = some .mStop := by decide +kernel

/-- A leaf in the TLB whose frame lies in a range that the context's partition lacks (R416). -/
theorem witness_TranslationCache_out :
    let s := { host with tlb := [⟨0, 0, 0, 0x0F, 3⟩], dev := { host.dev with parts := [] } }
    s.tlb.find? (fun x => x.covers 0 0x9000 (s.ctx 0).asgen) = some ⟨0, 0, 0, 0x0F, 3⟩ ∧ nbits 0x0F 5 4 = 0 ∧
    s.inPartition 0 (nbits 0x0F 50 16 * 2 ^ 16) = false := by decide +kernel

/-- A store whose lane has faulted and has no record yet. -/
theorem witness_WaitingInstructions_fault :
    let o := { opOfKind .store with lanes := [⟨⟨0, 0, 0, 0, 0⟩, .faulted cPageAbsent⟩] }
    let s := { busy with ops := [(0, o)] }
    ∃ c, s.cur = some c ∧ c.on Guard.none ≠ 0 ∧ s.recs = [] ∧ (0, o) ∈ s.ops ∧ o.core = c.core ∧ o.slot = c.slot ∧
      o.kind = .store ∧ ∃ y ∈ o.lanes, y.st = .faulted cPageAbsent := ⟨_, rfl, by decide +kernel⟩

/-- In each format: a NaN that is quiet and one that signals, infinities, a negative argument of `log2`, 1.0, and that they
are apart. -/
theorem witness_FloatResults_special : ∀ q ∈ Claims.sfFormats, let (_, f, one, half, inf, nan, sb) := q
    sb = f.sbit ∧ Claims.nanCode inf sb nan ∧ Claims.nanCode inf sb (inf + 1) ∧ inf + 1 < nan ∧ ¬Claims.nanCode inf sb (sb + inf) ∧
    ¬Claims.nanCode inf sb one ∧ sb < sb + half ∧ sb + half < sb + inf ∧ sb + nan < 2 * sb ∧ one % sb ≤ f.maxCode ∧
    one % sb ≠ 0 ∧ one < sb ∧ (sb + half) % sb ≤ f.maxCode := by
  unfold Claims.nanCode; decide +kernel

/-! Registers, frames, pages, trailers -/

/-- An access in flight that bears the generation to come, and none. -/
theorem witness_SystemRegisters_generation :
    let s := { mappedWith (fun g => { g with sup := true }) id with ops := [(0, { opOfKind .load with gen := 1 })] }
    let c := curOf s
    s.cur = some c ∧ c.on Guard.none ≠ 0 ∧ (s.ctx c.g.guest).asgen + 1 = 1 ∧ opOfKind .load ≠ opOfKind .stw ∧
    (∀ x ∈ s.ops, x.2.kind ∉ [OpKind.stw, .atomic, .ringput]) ∧ (∃ x ∈ s.ops, x.2.guest = c.g.guest ∧ x.2.gen = 1 ∧ ∃ l ∈ x.2.lanes, l.st = .todo) ∧
    s.aq = [] ∧ c.g.sq = [] ∧ (mappedWith (fun g => { g with sup := true }) id).ops = [] := ⟨rfl, by and_intros <;> decide +kernel⟩

/-- 31 granules held, no lane on or n = 0; one pending register in the last of them. -/
theorem witness_FrameAllotment_limits :
    let s := busyWith (fun g => { g with fgran := 31, pendFrm := [⟨247, 0⟩] }) id
    ∃ c, s.cur = some c ∧ c.on off = 0 ∧ c.r.staged = [] ∧ c.g.fgran + (1 : BitVec 6).toNat ≤ 32 ∧ (1 : BitVec 6) ≠ 0 ∧
      (1 : BitVec 6).toNat ≤ c.g.fgran ∧ (∃ p ∈ c.g.pendFrm, 8 * (31 - 1) ≤ p.reg ∧ p.reg < 8 * 31) ∧
      (∀ p ∈ c.g.pendFrm, p.reg < 8 * (31 - 0) ∨ 8 * 31 ≤ p.reg) := ⟨_, rfl, by decide +kernel⟩

/-- The run has mapped nothing before, and no other run of the context has. -/
theorem witness_PageMapping_own :
    let s := holed 0x80000
    let c := curOf s
    (s.withMapped c).isSome = true ∧ (s.withMapped c).map (·.ctxs) = some s.ctxs ∧ (s.withMapped c).map (·.mem) = some s.mem ∧
    s.groups.length = 1 ∧ s.groups.map (·.1) = [gkey c.core c.slot] ∧ s.cmdField c.g.guest 48 4 = 0 ∧
    (∀ e lv, s.walk c.g.guest 0 ≠ .leaf e lv) ∧ (s.ctx 0).poolbase.toNat ≤ (s.ctx 0).poolnext.toNat := by
  refine ⟨by decide +kernel, by decide +kernel, by decide +kernel, by decide +kernel, by decide +kernel, by decide +kernel, ?_, by decide +kernel⟩
  intro e lv h
  have : (holed 0x80000).walk (curOf (holed 0x80000)).g.guest 0 = .hole 5 0x5000 := by decide +kernel
  rw [this] at h; cases h

/-- A buffer that ends at 2^57, and one that runs past it. -/
theorem witness_MouldBinding_formed :
    let s := stacked [128, 0, 0]
    let c := curOf s
    (s.withMoulds c).ctxs = s.ctxs ∧ s.groups.map (·.1) = [gkey c.core c.slot] ∧ 0 < (s.ctx c.g.guest).moulds.length ∧
    (Claims.adr c 3 0).toNat + (Claims.arg c 3 2 0).toNat ≤ 2 ^ 57 ∧
    (let d := curOf (stacked [256, 0x01FFFFFF, 0xFFFFFF80])
     (Claims.adr d 3 0).toNat < 2 ^ 57 ∧ (Claims.adr d 3 0).toNat % 128 = 0 ∧ 2 ^ 57 < (Claims.adr d 3 0).toNat + (Claims.arg d 3 2 0).toNat) := by
  and_intros <;> decide +kernel

/-- An address that no watch unit covers, of a form that loads take; the codes of the three cases of R114. -/
theorem witness_TableAndWatchLoads_good :
    let s := stacked [0, 0]
    let c := curOf s
    s.formOk c.g.guest ⟨true, true⟩ 0 3088 = true ∧ s.watchHits c.g.guest c.watchOff 0 true false 0 3088 = 0 ∧
    s.watchHits c.g.guest c.watchOff 0 true false 0 128 = 0 ∧ aperture (0 : Addr) ≠ .scratch ∧
    ((0x3F800000 : Nat) < 2 ^ 32 ∧ 0xFF800000 % 2 ^ 31 = 0x7F800000 ∧ 0x7F800000 < 0x7F800001 % 2 ^ 31 ∧ 0x3F800000 % 2 ^ 31 < 0x7F800000) := by
  and_intros <;> decide +kernel

theorem witness_AccumulatorAccess_alone : (curOf (stacked [0, 0x0001F000])).r.staged = [] ∧
    ∀ x y z, Staged.mcatch x y z ∉ (curOf (stacked [0, 0x0001F000])).r.staged := by
  have h : (curOf (stacked [0, 0x0001F000])).r.staged = [] := by decide +kernel
  exact ⟨h, fun x y z => by rw [h]; exact List.not_mem_nil⟩

/-- A run at its trailer with items staged. -/
def staging (l : List Staged) (f : Group → Group) (h : Run → Run) : State :=
  { mappedWith f (fun r => h { r with stk := [], staged := l }) with launches := [(0, launch0 0x2000 4)] }

theorem staging_plain (l : List Staged) : Claims.Plain (staging l id id) (curOf (staging l id id)) part0 :=
  ⟨rfl, rfl, ⟨rfl, rfl⟩, rfl, ⟨rfl, rfl, rfl⟩, ⟨(by decide : (1 : Mask) ≠ 0), (by decide : (0xFFFFFFFF : Mask) ≠ 0)⟩,
    ⟨rfl, rfl, rfl, rfl⟩, (by decide +kernel : ((staging [] id id).ctx 0).trctl.getLsbD 31 = false), ⟨(by decide +kernel : (curOf (staging [] id id)).r.image.dmin ≤ (curOf (staging [] id id)).r.depth0), Nat.zero_le _⟩, ⟨List.nodup_nil, List.nodup_nil, List.nodup_nil⟩⟩

/-- A store, a load and `pmark 5` staged, with nothing before commit in the way. -/
theorem witness_TrailerCommits_staged :
    let l : List Staged := [.store 4 [⟨0, 0x9000, 7, 0, 0⟩], .load 4 .zero false (some 3) [⟨0, 0x9000, 0, 0, 0⟩], .pmark 5]
    let s := staging l id id
    let c := curOf s
    Claims.Plain s c part0 ∧ c.g.parked = none ∧ c.r.staged = l ∧ (∀ x ∈ c.r.staged, Claims.ordinary x) ∧
    s.beforeCommit c false 0 0 = .ok [] := by
  refine ⟨staging_plain _, by decide +kernel, rfl, ?_, by decide +kernel⟩
  intro x hx
  have h : x ∈ ([.store 4 [⟨0, 0x9000, 7, 0, 0⟩], .load 4 .zero false (some 3) [⟨0, 0x9000, 0, 0, 0⟩], .pmark 5] : List Staged) := hx
  simp only [List.mem_cons, List.not_mem_nil, or_false] at h
  rcases h with rfl | rfl | rfl <;> trivial

/-- Two results of item 0 on the exit stack, under one entry that is not pending. -/
theorem witness_TrailerCommits_dispatching :
    let s := mappedWith id (fun r => { r with stk := [⟨[1], none⟩, ⟨[], some 0⟩, ⟨[], some 0⟩] })
    let c := curOf s
    s.group c.core c.slot = some c.g ∧ 1 + 2 ≤ c.r.stk.length ∧ c.r.stk.length ≤ c.exitDepth ∧
    ∀ j < 3, ∀ e, c.r.stk[j]? = some e → (e.pend = some 0 ↔ 1 ≤ j ∧ j < 1 + 2) := by
  refine ⟨rfl, by decide +kernel, by decide +kernel, ?_⟩
  intro j hj e he
  have h : ∀ j < 3, ((curOf (mappedWith id (fun r => { r with stk := [⟨[1], none⟩, ⟨[], some 0⟩, ⟨[], some 0⟩] }))).r.stk[j]?).all
      (fun e => decide (e.pend = some 0 ↔ 1 ≤ j ∧ j < 1 + 2)) = true := by decide +kernel
  have := h j hj
  rw [he] at this
  simpa only [Option.all_some, decide_eq_true_eq] using this

/-- A request that `grow 1` stands in the queue for; a scratchpad in its form; barriers where the group is no member, has
arrived, and has not; a workgroup with a sequencer; watch unit 3. -/
theorem witness_TrailerCommits_items :
    let s0 := busyWith (fun g => { g with fgran := 2, grans := [0, 1] }) id
    let c := curOf s0
    let q : GrowReq := ⟨c.core, c.slot, c.r.hpc, c.r.mask, 1, true⟩
    let s := { s0 with growq := [q] }
    let b : Bar := ⟨3, 1, 6, [], 0, 0⟩
    let w : WGroup := { placedWG 0 0 with
      bars := [(3, b), (4, { b with arr := [(0, 6)] }), (5, { b with an := 2 })], bmask := [0, 0, 0, 0, 1, 1]
      seq := some (Seq.start 0), groups := [(0, 0)] }
    let t := { s with wgroups := [(wkey 0 0, w)] }
    s.group c.core c.slot = some c.g ∧ s.growFor c 0 1 = some q ∧ Memory.wf (s.scratchOf c.core) = true ∧
    t.wgroup c.core c.g.wslot = some w ∧ mfind w.bars 3 = some b ∧ b.an + 1 ≠ b.en ∧ b.held = 0 ∧ w.seq = some (Seq.start 0) ∧
    w.member 3 (t.w1Of c.g) = false ∧ w.member 4 (t.w1Of c.g) = true ∧ mfind [(0, 6)] (t.w1Of c.g) = some b.pn ∧ 0 < b.en ∧
    w.member 5 (t.w1Of c.g) = true ∧ 2 + 1 = b.en ∧ (s.ctx c.g.guest).watch[3]? = some Watch.off := by
  and_intros <;> decide +kernel

/-! Divergence, handlers, decoding, delivery -/

/-- `mapped` at a trailer without staged items: its run has the lanes `m` and the successors `succ`; `call` linked lane 1. -/
def dividing (splits : List (Option Part)) (pend ovf : List Part) (m : Mask) (succ : AMap (Option Addr)) : State :=
  mapped.modGroup 0 0 (fun g => { g with
    live := 0x7FF, splits := splits, pend := pend, ovf := ovf
    run := g.run.map (fun r => { r with mask := m, stk := [], staged := [], succ := succ, link := 2 }) })

/-- A part at a PC. -/
def partAt (pc : Addr) (m : Mask) (due : Bool) : Part := { part0 with pc := pc, mask := m, due := due }

/-- Four lanes to three places, with two slots free; all four to the exit, with entries pending; to the fall-through, with a due
entry; and the exit of every live lane. -/
theorem witness_TrailerCommits_divergence :
    let one := dividing [some (partAt 0 0x0F false), some (partAt 0x9000 0x30 false), none, none] [] [] 0x0F
      [(0, some 0x100), (1, some 0x200), (2, none)]
    let full (pend : List Part) (succ : AMap (Option Addr)) : State := dividing [some (partAt 0 0x0F false),
      some (partAt 0x9020 0x30 false), some (partAt 0x9010 0x40 false), some (partAt 0x9020 0x80 false)] pend [] 0x0F succ
    let gone : AMap (Option Addr) := (List.range 4).map (fun l => (l, none))
    let two := full [partAt 0xB000 0x100 false, partAt 0xA000 0x200 false, partAt 0xA000 0x400 false] gone
    let three := full [partAt 0xB000 0x100 false, partAt 0xA000 0x200 true, partAt 0xA000 0x400 false] []
    (∀ s ∈ [one, two, three], s.cur = some (curOf s) ∧ (curOf s).r.staged = [] ∧ (curOf s).r.pendMask = 0 ∧
      (curOf s).g.parked = none ∧ (curOf s).g.sup = false ∧ (curOf s).g.maq = none ∧ (curOf s).g.step = false ∧
      (curOf s).g.stepAsk = none ∧ (curOf s).g.sync = false ∧ (s.ctx (curOf s).g.guest).trctl.getLsbD 31 = false ∧
      (curOf s).g.splits.length = 4 ∧ (curOf s).g.splits[(curOf s).r.split]? = some (some (partAt 0 0x0F false)) ∧
      (curOf s).r.frm = [] ∧ (curOf s).g.pend.length ≤ 8 ∧ (curOf s).g.ovf = []) ∧
    ((curOf one).g.pend = [] ∧ (List.range 4).map (Claims.headsFor (curOf one)) = [some 0x100, some 0x200, none, some 0xC]) ∧
    ((List.range 4).filter (fun n => (curOf two).g.splits[n]? == some none) = [] ∧
      (∀ l < 4, Claims.headsFor (curOf two) l = none) ∧ ((curOf two).g.pend.map (·.due)) = [false, false, false]) ∧
    ((curOf three).g.pend.map (·.due) = [false, true, false] ∧ ∀ l < 4, Claims.headsFor (curOf three) l = some 0xC) ∧
    maskOf (fun l => laneOn (0x0F : Mask) l && !(laneOn (curOf two).r.mask l && decide (Claims.headsFor (curOf two) l = none))) = 0 := by
  and_intros <;> decide +kernel

/-- The handler at its trailer, `x` executed, with the record `r` of the group pinned at index 3. -/
def inHandler (x : Staged) (xcause : Word) (r : Rec) (os : List Op) : State :=
  let k : Parked := ⟨[some { part0 with mask := 1 }, none, none, none], [], [], 8, .slot 0⟩
  let s := mappedWith (fun g => { g with sup := true, parked := some k, xcause := xcause }) (fun r => { r with staged := [x] })
  { withOps s os with recs := [{ r with pinned := true, delivered := true }] }

/-- `replay` of a store record, of a load record, and of the record of a chain that stands stopped. -/
theorem witness_ReturnFromHandler_replay :
    let o := { opAt .load 0x9000 with lanes := [⟨reqAt 0x9000, .faulted cPageAbsent⟩] }
    let st := inHandler .replay (2 * 64 + 3 * 65536) (rec0 0 0) []
    let ld := inHandler .replay (1 * 64 + 3 * 65536) { rec0 0 0 with store := false, kind := 0 } [o]
    let cp := { inHandler .replay (1 * 64 + 3 * 65536) { rec0 0 0 with store := false, kind := 3 } [opOfKind (.chain 0)] with
      chains := [{ chainOf .stopped with after := .moving }] }
    (∀ s ∈ [st, ld, cp], s.cur = some (curOf s) ∧ (curOf s).g.sup = true ∧ (curOf s).r.staged = [.replay] ∧
      (curOf s).r.pendMask = 0 ∧ (curOf s).g.parked.isSome ∧ s.recs.length = 1 ∧
      s.recs.findIdx? (fun x => x.core == (curOf s).core && x.guest == (curOf s).g.guest && x.slot == (curOf s).slot && x.pinned &&
        x.store == decide ((curOf s).g.xcause.toNat / 64 % 4 = 2) &&
        x.hw == some ((curOf s).g.xcause.toNat / 65536 % 32)) = some 0 ∧
      (∀ r ∈ s.recs, r.unf ≠ 0 ∧ r.rslv = 0)) ∧
    mfind ld.ops 0 = some o ∧ laneOn (rec0 0 0).unf 0 = true ∧ (cp.chains.map (·.id)) = [0] := by
  and_intros <;> decide +kernel

theorem witness_ReturnFromHandler_plain :
    let s := inHandler .replay (2 * 64 + 3 * 65536) (rec0 0 0) []
    Claims.Plain s (curOf s) part0 :=
  ⟨rfl, rfl, ⟨rfl, rfl⟩, rfl, ⟨rfl, rfl, rfl⟩, by decide +kernel, ⟨rfl, rfl, rfl, rfl⟩, by decide +kernel, by decide +kernel,
    by decide +kernel⟩

/-- `nop`; `dup` on an empty run stack; a load and then an instruction on its result; too many pushes; five `mcatch`; and the
entries that a load leaves pending. -/
theorem witness_RunDecoding_checks :
    let g := Guard.none
    let shape (is : List Instr) (n : Nat) : List Bool := Claims.shape is (List.replicate n false)
    shape [.ldi g 0, .ldi g 0, .ld g .i32] 0 = [true] ∧ true ∈ (shape [.ldi g 0, .ldi g 0, .ld g .i32] 0).take (stackUse (.drop g)).pops ∧
    (shape [] 0).length < (stackUse (.dup g)).pops ∧ ¬true ∈ (shape [] 0).take (stackUse (.dup g)).pops ∧
    0 + 1 < (shape [.ldi g 0, .ldi g 0] 0).length ∧ shape [.nop g] 0 = [] ∧
    ¬(4 < (List.replicate 4 (Instr.mcatch g 0 0)).length) ∧ 4 < (List.replicate 5 (Instr.mcatch g 0 0)).length ∧
    checkDepths 0 2 1 [.ldi g 0, .ldi g 0, .ld g .i32] = none := by
  decide +kernel

/-- A header with dmin 8 and dmax 1, at 0x8000 of executable memory. -/
theorem witness_RunDecoding_header :
    let s := idle id id
    let s := { s with mem := wrBytes s.mem 0x8000 (leBytes 2 0x03C0 ++ leBytes 4 (8 * 2 ^ 23 + 1 * 2 ^ 19)) }
    headerAddress 0x8000 = true ∧ (s.fetchHalf 0 0 0x8000).toOption = some 0x03C0 ∧
    (s.fetchLit 0 0 (0x8000 + 2)).toOption = some (BitVec.ofNat 32 (8 * 2 ^ 23 + 1 * 2 ^ 19)) ∧ (8 * 2 ^ 23 + 1 * 2 ^ 19) % 8 = 0 ∧
    8 < (8 * 2 ^ 23 + 1 * 2 ^ 19) / 2 ^ 23 % 16 + (8 * 2 ^ 23 + 1 * 2 ^ 19) / 2 ^ 19 % 16 := by
  decide +kernel

/-- The decoding group loads no table; a run of another split at another header. -/
theorem witness_SchedulingTimers_join :
    let q := { part0 with pc := 0x8000, held := some 3000 }
    let s := idle (fun _ => q) (fun g => { g with
      run := some { Run.fresh g 1 part0 image8 3000 with split := 1 }, splits := [some q, some { part0 with pc := 0x9000 }, none, none] })
    (∀ x ∈ s.ops, x.2.kind ≠ .tload noBank) ∧ (idle (fun _ => q) id).group 0 0 = some (grp (idle (fun _ => q) id)) ∧
    (grp (idle (fun _ => q) id)).run = none := by
  decide +kernel

/-- A merged split with entries in excess; a fill that hit the L1, begun before the trailer. -/
theorem witness_Preparation_excess :
    let p := { part0 with excess := [⟨1, 4, 4⟩] }
    let fill := { part0 with image := some image8, res := 4 }
    let t := idle (fun _ => p) (fun g => { g with port := some ⟨false, 0, 4, 4900, 0, 0xFFFFFFFF, true⟩ })
    let u := { idle (fun _ => fill) (fun g => { g with port := some ⟨true, 0, 4, 4900, 0, 0xFFFFFFFF, true⟩ }) with trailAt := [(gkey 0 0, 4920)] }
    (grp t).splits.getD 0 none = some p ∧ 0 < (grp t).splits.length ∧ p.pc = 0 ∧ p.mask = 0xFFFFFFFF ∧ 4900 + 4 ≤ t.cc ∧
    (t.spillWords 0 (grp t) p 4).toOption.isSome ∧ p.excess = ⟨1, 4, 4⟩ :: [] ∧
    mget u.trailAt (gkey 0 0) 0 < 4900 + 24 ∧ 4900 + 28 ≤ u.cc ∧ (u.fillWords 0 0 (grp u) fill 4).toOption.isSome := by
  and_intros <;> decide +kernel

/-- A fault at the next header in supervisor mode. -/
theorem witness_BoundaryDelivery_sup :
    let p := { part0 with res := 0, fault := some (cAlign, 1, []) }
    let s := idle (fun _ => p) (fun g => { g with sup := true })
    s.group 0 0 = some (grp s) ∧ (grp s).dbg = .running ∧ (grp s).preempt = false ∧ (grp s).sup = true ∧
    s.nextPart 0 0 (grp s) = some (0, p) ∧ 0 < (grp s).splits.length ∧ dispositionOf cAlign = .handler := by
  and_intros <;> decide +kernel

/-- A copy's record and a sequencer's, after a load's; and a load's record that the next part awaits: its operation holds the
top entry of the stack. -/
theorem witness_BoundaryDelivery_records :
    let q := { part0 with res := 0, image := some image8 }
    let o := { opAt .load 0x9000 with lanes := [⟨reqAt 0x9000, .faulted cPageAbsent⟩], dest := .stack 7 1 }
    let lr := { rec0 0 0 with store := false, kind := 0 }
    let er (k : BitVec 8) : Rec := { rec0 0 0 with store := false, kind := k, hw := some 4, op := 9 }
    let s (rs : List Rec) : State := { withOps (idle (fun _ => q) (fun g => { g with pendEnt := [⟨7, 1, 0⟩] })) [o] with recs := rs }
    (∀ k ∈ [(3 : BitVec 8), 4], (s [lr, er k]).nextPart 0 0 (grp (s [lr, er k])) = some (0, q) ∧ (s [lr, er k]).recs[1]? = some (er k) ∧
      (er k).hw = some 4 ∧ (er k).unf ≠ 0 ∧ (er k).delivered = false ∧ (er k).pinned = false ∧ (er k).kind = k ∧
      dispositionOf (er k).cause = .handler ∧ lr.kind ≠ 3 ∧ lr.kind ≠ 4 ∧ lr.store = false) ∧
    ((s [lr]).nextPart 0 0 (grp (s [lr])) = some (0, q) ∧ (s [lr]).recs[0]? = some lr ∧ lr.hw = some 3 ∧
      (grp (s [lr])).skew = [] ∧ q.fault = none ∧ q.held = none ∧ (grp (s [lr])).prepFault q = none ∧ isFrq lr = true ∧
      (s [lr]).awaits 0 0 (grp (s [lr])) q lr = true) := by
  and_intros <;> decide +kernel

/-! Memory and the engine -/

/-- The store's address has no place given before; no operation of the lists has a faulted lane; its group is the operation's. -/
theorem witness_StoresReachTheirHomes_order :
    let s := withOps (idle id (fun g => { g with sq := [sqAt 0x8000, sqAt 0x9000] })) [opAt .store 0x9000]
    (grp s).sq[1]? = some (sqAt 0x9000) ∧ (∀ x ∈ (grp s).sq.take 1, s.sameLine 0 (grp s) x.va x.size 0x9000 4 = false) ∧
    (sqAt 0x9000).pa = none ∧ (opAt .store 0x9000).core = 0 ∧ (opAt .store 0x9000).slot = 0 ∧ (opAt .store 0x9000).id = (sqAt 0x9000).op ∧
    (∀ x ∈ (opAt .store 0x9000).lanes, x.st = .todo) := by
  and_intros <;> decide +kernel

/-- The homes of those accesses are of this package and no core holds their lines, the ring's entry's included. -/
theorem witness_StoresReachTheirHomes_near :
    let s := homing .ringput 0xA000 (.ringput 9)
    isRemote 0x9000 = false ∧ isRemote 0xA000 = false ∧ s.l1 = [] ∧ s.cmdField 0 48 4 = 0 ∧ (opAt .stw 0x9000).saved = false ∧
    (opAt .stw 0x9000).core = (aqAt 0x9000 .atomic).core ∧ (opAt .stw 0x9000).slot = (aqAt 0x9000 .atomic).slot ∧
    (0x9008 + 4 ≤ 0xA000) ∧ (s.l1.filter (fun x => x.core == 0)).length < l1Lines := by
  and_intros <;> decide +kernel

/-- Loads: of workgroup scope; that bear such a witness; whose lane has written other bytes of the held line; of a per-thread
address; and one whose lane has no record. -/
theorem witness_LoadsGetTheirBytes_forms :
    let o := { opAt .load 0x9000 with scope := .wg }
    let w := { reqAt 0x9000 with wit := mkWit 1 0 0 }
    let x : L1Line := { lineOf (0x9000 / 128) (.held 0 10 0) with own := [((idle id id).laneKey 0 0 0, 64, 4)] }
    let s := { withOps (idle id id) [opAt .load 0x9000] with l1 := [x] }
    let va : Addr := 0xFE00000000000000
    let t := withOps (idle id id) [opAt .load va]
    let bad := withOps (idle id id) [{ opAt .load 0x9000 with lanes := [⟨reqAt 0x9000, .faulted cPageAbsent⟩] }]
    s.laneKey 0 0 0 = (idle id id).laneKey 0 0 0 ∧ o.scope = .wg ∧ witScope w.wit = 1 ∧ s.heldLine 0 0 (0x9000 / 128) = some x ∧ witScope (reqAt 0x9000).wit ≠ 1 ∧
    (opAt .load 0x9000).scope ≠ .wg ∧ (∀ y ∈ x.own, rangesMeet y.2.1 y.2.2 (0x9000 % 128) 4 = false) ∧
    aperture va = .thread ∧ t.storeAhead (opAt .load va) (reqAt va) = false ∧
    (t.privFill 0 0 (va &&& ~~~(127 : Addr)) .load).toOption.isSome = true ∧
    laneOn (bad.recorded 0) 0 = false ∧ bad.translate 0 0x9000 .load = .ok (0x9000, 0x0F) := by
  and_intros <;> decide +kernel

/-- An `accld` of one entry in each half of the cluster. -/
theorem witness_OperationsComplete_accld :
    let o : Op := { opOfKind .accld with lanes := [⟨⟨0, 3, 0, 0, 0⟩, .todo⟩, ⟨⟨1, 65540, 0, 0, 0⟩, .todo⟩] }
    let s := { idle id id with clusters := [(0, { Cluster.initial with user := [some 0, some 0] })] }
    (∀ x ∈ o.lanes, x.req.va.toNat / 65536 < 2 ∧ (s.cluster (clusterOf o.core)).user.getD (x.req.va.toNat / 65536) none = some o.guest) ∧
    o.at_ < s.cc ∧ o.saved = false := by
  and_intros <;> decide +kernel

/-- A queue with room and a full one, of the sequencer's tenant. -/
theorem witness_SequencerWords_queue :
    let s := seqAt 0 id id
    Claims.InQueue s (seqCur s) < 16 ∧ 16 ≤ Claims.InQueue { s with eops := List.replicate 16 (eop .mStop none) } (seqCur s) := by
  unfold Claims.InQueue; decide +kernel

/-- The block's address lies below 2^57; nothing is throttled; a pair that the latches permit, and one that they do not. -/
theorem witness_EngineSteps_more :
    let s := seqAt 0 (fun q => { q with block := none, pc := 0x9008 }) id
    (seqCur s).q.pc.toNat < 2 ^ 57 ∧ (s.ctx 0).throttled = false ∧ pairOk .bf16 MFmt.bf16.eff = true ∧
    pairOk .bf16 MFmt.i8.eff = false ∧ Claims.InQueue s (seqCur s) < 16 := by
  unfold Claims.InQueue; decide +kernel

/-! The other agents -/

/-- No older chain may start; the scout stands at a page the data engine has not reached, and behind it; no access stands at the
homes of the destination; a barrier that can count the element's arrival. -/
theorem witness_TransferUnitSteps_more :
    let w := copying (chainAt .waiting []) (elemBytes 0xFF00000000000000 0x1028)
    let e := Elem.ofBytes moveBytes
    let b : Bar := ⟨3, 1, 6, [], 0, 0⟩
    let t := { moving with wgroups := [(wkey 0 0, { placedWG 0 0 with bars := [(0, b)], cpbar := 1 })] }
    (∀ x ∈ w.chains, ¬(x.id < (chainAt .waiting []).id)) ∧
    max (e.pages (e.units.take 0)).length 0 < (e.pages (e.units.take 0)).length + (chainAt .moving moveBytes).scout ∧
    max 1 0 = 1 ∧ moving.aq = [] ∧ moving.lineBusy 0x20 = false ∧
    (t.wgroup 0 0).map (fun w => (w.member 0 memTU, mfind w.bars 0)) = some (true, some b) ∧ b.held < 65535 ∧
    mfind b.arr memTU ≠ some b.pn ∧ b.an + 1 < b.en := by
  and_intros <;> decide +kernel

/-- No pipeline of the guest; an entry that waits for a context that has ended. -/
theorem witness_Submissions_more :
    let s := (host.setCmd 0 32 4 4).modCtx 0 (fun x => { x with cqWait := [List.replicate 24 1], valid := false })
    host.pipes = [] ∧ (s.ctx 0).valid = false ∧ (s.ctx 0).cqWait = [List.replicate 24 1] ∧ (List.replicate 24 (1 : Byte)).length = 24 ∧
    (s.cmdField 0 32 4 + 2 ^ 32 - (2 : Word).toNat) % 2 ^ 32 < s.cmdField 0 28 4 ∧ Memory.wf s.mem = true := by
  and_intros <;> decide +kernel

/-- The only message of its group, for package 7 that port 2 reaches; a child whose waiter stands in no save area. -/
theorem witness_LaunchesAndStages_remote :
    let l : State := { idle id id with ops := [(7, op7 .lsend 7)] }
    let s := { l with dev := { l.dev with ports := [(2, { Port.initial with trained := true })], routes := [(7, ⟨2, 1⟩)] } }
    (7 : Nat) < 2 ^ 15 ∧ 7 % 2 ^ 13 ≠ s.dev.pkgid.toNat ∧ s.reaches (7 % 2 ^ 13) = true ∧
    (∀ y ∈ s.ops, y.2.kind = .lsend → ¬(y.2.id < 7)) ∧ (op7 .lsend 7).area = none ∧ (op7 .enqw 0xC000).area = none := by
  and_intros <;> decide +kernel

/-- A group that is not escalated is saved; a core whose scoreboard and edge port are free. -/
theorem witness_PreemptionAndResumption_more :
    (grp (stopping (fun g => { g with saved := some true }))).esc = none ∧ (stopping id).ops = [] ∧ (stopping id).recs = [] ∧
    host.scoreHeld 0 ≤ 8 ∧ host.portHeld 0 ≤ 4 ∧ host.owed 4000 = false := by
  and_intros <;> decide +kernel

/-- A `trap` of number 1 before and after the refill, and of number 2; a context none of whose runs maps pages; ERRCNT at
its end. -/
theorem witness_FirmwareAndMachineChecks_traps :
    let t (info : BitVec 8) (pool : Bool) : State :=
      { host with groups := (idle id (fun g => { g with esc := some { esc0 false none with cause := cTrap, info := info, pool := pool } })).groups }
    (∀ x ∈ [((1 : BitVec 8), false), (1, true), (2, false)], ∃ e, (t x.1 x.2).escGroup 5 = some (0, 0, grp (t x.1 x.2), e) ∧
      (grp (t x.1 x.2)).esc = some e ∧ e.cause = cTrap ∧ e.info = x.1 ∧ e.pool = x.2 ∧ e.referred = false ∧ e.entry = none) ∧
    (t 1 false).mapping 0 = false ∧ (t 1 false).recs = [] ∧ (t 1 false).ops = [] ∧ (host.ctx 0).errcnt ≠ 0xFFFF := by
  refine ⟨?_, by decide +kernel, by decide +kernel, by decide +kernel, by decide +kernel⟩
  intro x hx
  simp only [List.mem_cons, List.not_mem_nil, or_false] at hx
  rcases hx with rfl | rfl | rfl <;> exact ⟨_, rfl, rfl, rfl, rfl, rfl, rfl, rfl⟩

/-- A group that was asked to stop while it stands stopped inside a run. -/
theorem witness_Debugger_more :
    let s := idle id (fun g => { g with dbg := .stopped 1, stopAsk := true })
    Claims.Selected s 0 0 0 (grp s) ∧ (grp s).stopAsk = true ∧ (grp s).esc = none := by
  unfold Claims.Selected; and_intros <;> decide +kernel

/-- A port that has trained, firmware, and a port that has not; an image in the device's memory; a guest's dirty log at 7/8. -/
theorem witness_HostRegisters_agents :
    let s := (given []).setCmd 0 48 4 8 |>.setCmd 0 52 4 7
    Claims.Agent (given []) 1 ∧ Claims.Agent (given []) 3 ∧ Claims.Absent (given []) 2 ∧ (given []).dev.ucieB = false ∧
    (0x8000000000000000 : DWord).getLsbD 63 = true ∧ (s.ctx 0).valid = true ∧ s.cmdField 0 48 4 = 8 ∧
    7 * 8 ≤ 8 * ((s.cmdField 0 52 4 + 2 ^ 32 - s.cmdField 0 56 4) % 2 ^ 32) := by
  unfold Claims.Agent Claims.Absent; and_intros <;> decide +kernel

/-- A command while another is under way; one of an agent that is not there; an update whose image lies in the package, and one in
the host's memory behind a port that is down. -/
theorem witness_AdministrativeCommands_more :
    let s := given (block 5 [])
    let busy := { s with dev := { s.dev with admBusy := true } }
    let gone := { s with dev := { s.dev with ucieA := false } }
    busy.dev.admBusy = true ∧ Claims.Agent busy 1 ∧ Claims.Absent gone 1 ∧ Claims.Reaches s 0x8000000000040000 ∧
    ¬Claims.Reaches gone 0x40000 ∧ Claims.Reaches s 0x40000 ∧ s.dev.cold = false ∧ (∀ e ∈ s.dev.health, e.length = 32) := by
  unfold Claims.Reaches Claims.Agent Claims.Absent; and_intros <;> decide +kernel

/-- A device reset with a full completion ring. -/
theorem witness_AdministrativeCommands_full :
    let d := block 7 [1]
    let s := { given d with mem := wrLE (given d).mem (0x20000 + 32) 4 4 }
    s.cmdField 0 28 4 ≤ (s.cmdField 0 32 4 + 2 ^ 32 - s.cmdField 0 36 4) % 2 ^ 32 ∧ (s.ctx 0).valid = true ∧ (s.ctx 0).cqWait = [] ∧
    (s.ctxs.map (·.1)).Nodup ∧ (∀ x ∈ s.ctxs, x.1 ≠ 0 → x.2.valid = false) ∧ s.dev.cold = false ∧
    s.hostBytes s.dev.admPort s.dev.admcmd 256 = d := by
  and_intros <;> decide +kernel

/-- Requests of package 7: a load, a store and an atomic, not seen before; one known; a line for which an access stands, ones
with an apply and a fill in this cc. -/
theorem witness_LinkAndClock_homes :
    let s := linked 0
    let r (k : Config.LinkKind) : Config.LinkRequest := ⟨7, 5, 0, k, 0x9000, 4, 1, 0⟩
    let known := { s with applied := [(7, 5, 3)] }
    let stands := { s with aq := [aqAt 0x9000 (.store [1, 2, 3, 4])] }
    let same := { s with lastApply := [(0x9000 / 128, s.cc)] }
    let filled := { s with lastFill := [(0x9000 / 128, s.cc)] }
    (∀ k ∈ [Config.LinkKind.load, .store true, .atomic 0 true], s.applied.find? (fun x => x.1 == (r k).pkg && x.2.1 == (r k).num) = none ∧
      backed (r k).addr = true) ∧
    known.applied.find? (fun x => x.1 == 7 && x.2.1 == 5) = some (7, 5, 3) ∧ s.aq = [] ∧ s.lastApply = [] ∧ s.lineBusy (0x9000 / 128) = false ∧ s.l1 = [] ∧
    (∀ x ∈ s.ctxs, Claims.Unlogged s x.1) ∧ Memory.wf s.mem = true ∧ (∃ e ∈ stands.aq, e.addr / 128 = 0x9000 / 128) ∧
    mfind same.lastApply (0x9000 / 128) = some same.cc ∧ filled.lineBusy (0x9000 / 128) = true := by
  unfold Claims.Unlogged; and_intros <;> decide +kernel

/-- A store and an atomic of operation 0 that package 1 has been sent as request 9. -/
theorem witness_LinkAndClock_answers :
    let far := 2 ^ 51 + 0x9000
    let a := { homing .atomic far .atomic with sent := [⟨9, 0, 0, some 2⟩] }
    let s := { idle id id with aq := [aqAt far (.store [1, 2, 3, 4])], sent := [⟨9, 0, 0, some 2⟩] }
    isRemote far = true ∧ a.aq = [aqAt far .atomic] ∧ a.sent = [⟨9, (aqAt far .atomic).op, (aqAt far .atomic).lane, some 2⟩] ∧ a.far = [] ∧
    s.aq = [aqAt far (.store [1, 2, 3, 4])] ∧ s.ops = [] ∧ Memory.wf s.mem = true ∧ mfind a.ops 0 = some (opAt .atomic (BitVec.ofNat 64 far)) ∧
    (opAt .atomic (BitVec.ofNat 64 far)).lanes.find? (fun x => x.req.lane == 0) = some ⟨reqAt (BitVec.ofNat 64 far), .todo⟩ ∧
    (opAt .atomic (BitVec.ofNat 64 far)).size ≤ [(1 : Byte), 2, 3, 4].length := by
  and_intros <;> decide +kernel

/-- The owner of the access is in its slot, and, of another workgroup, is gone. -/
theorem witness_LinkAndClock_owner :
    let e := aqAt (8 * 2 ^ 51) (.store [1, 2, 3, 4])
    let s := { linked 17 with groups := (idle id id).groups, aq := [e] }
    let t := { s with aq := [{ e with owner := 0x100 }] }
    s.group e.core e.slot = some (grp s) ∧ (grp s).wid = e.owner ∧ (grp s).launch = e.launch ∧ (grp s).ended = false ∧
    laneOn (grp s).live e.lane ∧ (grp t).wid ≠ 0x100 := by
  and_intros <;> decide +kernel

/-- A cluster at the ceiling, whatever that is; a cluster one step below it, where the ceiling is not 0. -/
theorem witness_ServiceLife_volts :
    let at_ (v : Nat) : State := { host with clusters := [(3, { Cluster.initial with volts := v })] }
    (((at_ Config.voltCeiling).cluster 3).volts = Config.voltCeiling ∧ ((at_ Config.voltCeiling).cluster 3).fenced = false) ∧
    (0 < Config.voltCeiling → ((at_ 0).cluster 3).volts < Config.voltCeiling) ∧ (∀ m, Claims.Vacant (at_ 0) m) :=
  ⟨⟨rfl, rfl⟩, id, fun m => ⟨rfl, fun u hu => by cases hu⟩⟩

/-! ### States that reach another package, and more clauses -/

/-- A state whose second GiB of virtual addresses lies on package 7, which port 2 reaches. -/
def away (s : State) : State :=
  { s with mem := wrByte (wrByte s.mem 0x3008 0x1F) 0x300E 0x38
           dev := { s.dev with ports := [(2, { Port.initial with trained := true })], routes := [(7, ⟨2, 1⟩)] } }

/-- The leaf of those addresses, and the place of a byte at an offset there. -/
def leaf7 : Nat := 0x1F + 7 * 2 ^ 51
def onSeven (x : Nat) : Nat := 8 * 2 ^ 51 + x

/-- A line of it that a unit has asked for, and that has come. -/
def gotten (who : FarUser) (x : Nat) : Far := ⟨3, who, 0, 0x40000000, onSeven x, [], some (List.replicate 128 5), none⟩

/-- Values of either sign in range; a tie between two codes of e4m3, 17 and 18 eighths. -/
theorem witness_RoundingModes_ties :
    |(-1 : ℚ) * (5 : Nat) * 2 ^ (-3 : Int)| ≤ Claims.codeRat .e4m3 Fl.e4m3.maxCode ∧
    (Fl.e4m3.round .rn false 17 0 false).1 = 0x58 ∧ (Fl.e4m3.round .rn true 19 0 false).1 = 0xDA ∧
    (Fl.e4m3.round .rd true 17 0 false).1 = 0xD9 := by
  have h : Fl.e4m3.decode Fl.e4m3.maxCode = .fin false 14 5 := by decide +kernel
  refine ⟨?_, by decide +kernel, by decide +kernel, by decide +kernel⟩
  rw [Claims.codeRat, h]; norm_num

/-- A run that has staged an advance of ASGEN, and an access that bears the generation after the next. -/
theorem witness_SystemRegisters_advanced :
    let s := { mappedWith (fun g => { g with sup := true }) (fun r => { r with staged := [.asgen] }) with
      ops := [(0, { opOfKind .load with gen := 2 })] }
    let c := curOf s
    s.cur = some c ∧ c.r.staged.length = 1 ∧ (s.ctx c.g.guest).asgen + BitVec.ofNat 12 (1 + 1) = 2 ∧
    (∃ x ∈ s.ops, x.2.guest = c.g.guest ∧ x.2.gen = 2) := ⟨rfl, by and_intros <;> decide +kernel⟩

/-- A header whose last byte lies on a page that is not mapped; one in the scratchpad. -/
theorem witness_LaunchesMessagesRings_faults :
    let s := stacked [0, 0, 0x3FFFFFC0]
    let c := curOf s
    let t := curOf (stacked [0, 0xFF000000, 0])
    (Claims.adr c 3 0).toNat % 64 = 0 ∧ s.translate c.g.guest (Claims.adr c 3 0).toNat .load = .ok (0x3FFFFFC0, 0x0F) ∧
    s.translate c.g.guest ((Claims.adr c 3 0).toNat + 127) .load = .error cPageAbsent ∧ aperture (Claims.adr c 3 0) = .global ∧
    (stacked [0, 0, 64]).translate c.g.guest (64 + 127) .load = .ok (191, 0x0F) ∧ Claims.lowest (t.on Guard.none) = some 0 ∧
    aperture (Claims.adr t 3 0) ≠ .global := by
  and_intros <;> decide +kernel

/-- Two lanes, whose pages are mapped one after the other; a reserved flag; an address in no translated aperture; a missing table
above level 5; a malformed entry. -/
theorem witness_PageMapping_several :
    let s := { holed 0x80000 with mem := (holed 0x80000).mem }
    let t := (s.setCtx 0 { ctx0 with poolbase := 0x80000, poolnext := 0x80000, poolend := 0xA0000 }).modGroup 0 0 (fun g =>
      { g with run := g.run.map (fun r => { r with mask := 3, stk := [⟨[1, 1], none⟩, ⟨[0, 0], none⟩, ⟨[0, 0x10000], none⟩] }) })
    let c := curOf t
    let f : Nat → State := fun l => if l = 0 then t else if l = 1 then Claims.mapsPage t 0 (0x5000, 0x80000, 0x80007)
      else Claims.mapsPage (Claims.mapsPage t 0 (0x5000, 0x80000, 0x80007)) 0 (0x5008, 0x90000, 0x90007)
    t.cur = some c ∧ c.on Guard.none = 3 ∧ Claims.pageFor (f 0) 0 (Claims.adr c 3 0) 1 = (1, some (0x5000, 0x80000, 0x80007)) ∧
    Claims.pageFor (f 1) 0 (Claims.adr c 3 1) 1 = (1, some (0x5008, 0x90000, 0x90007)) ∧ (∀ l ≤ 2, (f l).cmdField 0 48 4 = 0) ∧
    (Claims.pageFor (f 2) 0 (Claims.adr c 3 1) 1).1 = 2 ∧
    4 ≤ (4 : Nat) ∧ s.globalVa 0 0xFF00000000000000 1 = none ∧ s.globalVa 0 0xFE00000000010000 1 = none ∧
    s.walk 0 0x40000000 = .hole 3 0x3008 ∧ ({ s with mem := wrByte s.mem 0x4008 5 } : State).walk 0 0x200000 = .bad :=
  ⟨rfl, by and_intros <;> decide +kernel⟩

/-- Two lanes, the second beyond the array; 16 entries that run beyond entry 511. -/
theorem witness_AccumulatorAccess_mixed :
    let s := mapped.modGroup 0 0 (fun g => { g with run := g.run.map (fun r => { r with
      mask := 3, stk := [⟨[0, 0x20000], none⟩, ⟨[0, 0x0001F100], none⟩] }) })
    let c := curOf s
    s.cur = some c ∧ 2 ≤ c.r.stk.length ∧ c.on Guard.none = 3 ∧ (Claims.arg c 1 0 0).toNat < 2 ^ 17 ∧ 2 ^ 17 ≤ (Claims.arg c 1 0 1).toNat ∧
    512 < (0x0001F100 : Nat) / 256 % 512 + 16 := ⟨rfl, by and_intros <;> decide +kernel⟩

/-- A safe point whose table entry lies on another package, before and after its line has come. -/
theorem witness_TrailerCommits_far :
    let s := away { mappedWith id (fun r => { r with stk := [] }) with launches := [(0, launch0 0x40009000 4)] }
    let c := curOf s
    let who : FarUser := .group (gkey c.core c.slot)
    Claims.Plain s c part0 ∧ c.r.staged = [] ∧ c.r.pendMask = 0 ∧ c.exitDepth = 0 ∧ s.launchOf c.g = some (launch0 0x40009000 4) ∧
    s.translate c.g.guest ((0x40009000 : Addr) + BitVec.ofNat 64 (64 * (3 : BitVec 11).toNat)).toNat .load = .ok (onSeven 0x90C0, leaf7) ∧
    s.farBytes who (onSeven 0x90C0) 64 = none ∧
    ({ s with far := [gotten who 0x9080] } : State).farBytes who (onSeven 0x90C0) 64 = some (List.replicate 64 5) :=
  ⟨⟨rfl, rfl, ⟨rfl, rfl⟩, rfl, ⟨rfl, rfl, rfl⟩, by decide +kernel, ⟨rfl, rfl, rfl, rfl⟩, by decide +kernel, by decide +kernel,
    by decide +kernel⟩, by and_intros <;> decide +kernel⟩

/-- A bank is free for the group's table; MXFLAGS has been raised in this cc. -/
theorem witness_TrailerCommits_tables :
    let s := mappedWith id id
    let c := curOf s
    let w := { placedWG 0 0 with seq := some { Seq.start 0 with mxflags := 3, mxAt := s.cc, mxNew := 2 }, groups := [(0, 0)] }
    s.bankFree c.core c.slot = some 0 ∧ c.g.tab ≠ some 0 ∧
    ({ s with wgroups := [(wkey 0 0, w)] } : State).wgroup c.core c.g.wslot = some w ∧ (w.seq.map (·.mxAt)) = some s.cc := by
  and_intros <;> decide +kernel

/-- The save area has room for the group's block behind its record slots. -/
theorem witness_TakingAnException_block :
    let s := mapped.modCtx 0 (fun x => { x with saveBase := 0x100000, saveSize := 0x200000 })
    let c := curOf s
    let s1 := s.rollback c.core c.slot c.r.split .nothing
    s1.blockFits c.g.guest (lineUp (s1.slotAddr c.g.guest (s1.slots c.g.guest))) (c.g.blockLen true) = true := by
  decide +kernel

/-- `idle` with its part at a JOIN at 0x8000, and another part. -/
def joining (f : Part → Part) (q : Part) : State :=
  let s := idle (fun p => f { p with pc := 0x8000 }) (fun g => { g with splits := g.splits.set 1 (some q) })
  { s with mem := wrByte s.mem 0x8002 0xF0 }

/-- A part below the JOIN; one that stands at it at the same depth; one at another depth; code on another package. -/
theorem witness_RunDecoding_join :
    let m : RunImage := ⟨0x0007FFF0, [0, 0x03C1, 0, 0]⟩
    let p : Part := { part0 with pc := 0x8000, mask := 1, queued := 4990 }
    let q : Part := { part0 with mask := 2, image := some m }
    let s (q : Part) := joining (fun p => { p with mask := 1, queued := 4990 }) q
    let below := s { q with pc := 0x100 }
    let same := s { q with pc := 0x8000, res := 4 }
    let skew := s { q with pc := 0x8000, depth := 4, res := 4 }
    let far := away (idle (fun p => { p with pc := 0x40009000 }) id)
    (∀ t ∈ [below, same, skew], t.group 0 0 = some (grp t) ∧ (grp t).idleSplit 0 = some p ∧ (grp t).splits.length = 4 ∧
      (grp t).tabAddr = none ∧ t.ops = [] ∧ (t.decodeRun 0 (grp t).guest (t.nsafeOf (grp t)) p.pc).toOption = some m) ∧ m.join = true ∧
    p.image = none ∧ p.fault = none ∧ p.clear = false ∧ below.cc < p.queued + 1024 ∧ (∃ x ∈ (grp below).parts, x.pc.toNat < p.pc.toNat) ∧
    (∀ x ∈ (grp same).parts, ¬x.pc.toNat < p.pc.toNat) ∧ (∀ x ∈ (grp same).partsAt p.pc, x.depth = p.depth) ∧
    (∃ x ∈ (grp skew).partsAt p.pc, x.depth ≠ p.depth) ∧
    far.decodeRun 0 0 (far.nsafeOf (grp far)) 0x40009000 = .error cFarCode ∧ (grp far).idleSplit 0 = some { part0 with pc := 0x40009000 } := by
  and_intros <;> decide +kernel

/-- Parts of unequal depths that have been released at a header. -/
theorem witness_BoundaryDelivery_skew :
    let p : Part := { part0 with pc := 0x8000, mask := 1, res := 0 }
    let q : Part := { part0 with pc := 0x8000, mask := 2, depth := 4, res := 0 }
    let s := idle (fun _ => p) (fun g => { g with splits := g.splits.set 1 (some q), skew := [0x8000] })
    s.group 0 0 = some (grp s) ∧ (grp s).dbg = .running ∧ (grp s).preempt = false ∧ (grp s).sup = false ∧ (s.ctx (grp s).guest).xvec ≠ 0 ∧
    (s.nextPart 0 0 (grp s)).isSome = true ∧ (∀ x ∈ (grp s).parts, x.res = 0 ∧ x.excess = []) ∧ (grp s).skew = 0x8000 :: [] ∧
    p ∈ (grp s).partsAt 0x8000 ∧ q ∈ (grp s).partsAt 0x8000 ∧ p.depth ≠ q.depth ∧ s.recs = [] := by
  and_intros <;> decide +kernel

/-- A store that waits behind a load of its lane to the same bytes; one whose lane's earlier store is to be sent again. -/
theorem witness_StoresReachTheirHomes_waits :
    let s := withOps (idle id (fun g => { g with sq := [{ sqAt 0x9000 with op := 5 }] })) [opAt .load 0x9000]
    let t := { idle id (fun g => { g with sq := [sqAt 0x9000] }) with aq := [{ aqAt 0x9000 (.store [1, 2, 3, 4]) with gen := 9 }] }
    s.staleAhead 0 0 (grp s) { sqAt 0x9000 with op := 5 } = false ∧ s.loadAhead 0 0 (grp s) { sqAt 0x9000 with op := 5 } = true ∧
    t.staleAhead 0 0 (grp t) (sqAt 0x9000) = true ∧ isRemote 0x9008 = false := by
  and_intros <;> decide +kernel

/-- A dirty per-thread line of another package's page. -/
theorem witness_StoresReachTheirHomes_far :
    let x := lineOf (onSeven 0x9000 / 128) (.priv 0 true 0x100)
    let s := { away (idle id id) with l1 := [x] }
    x ∈ s.l1 ∧ isRemote (x.line * 128) = true ∧ s.coming x = false ∧ x.data.length = 128 ∧ Claims.Unlogged s 0 ∧
    (∀ a ∈ s.l1, ∀ b ∈ s.l1, a.core = b.core → a.line = b.line → a = b) ∧ isRemote ((lineOf 2 (.priv 0 true 0x100)).line * 128) = false := by
  unfold Claims.Unlogged; and_intros <;> decide +kernel

/-- A load that meets bytes which its own lane has written into the held line; a private line that is there; a fill in the cc of
an apply. -/
theorem witness_LoadsGetTheirBytes_own :
    let x : L1Line := { lineOf (0x9000 / 128) (.held 0 10 0) with own := [((idle id id).laneKey 0 0 0, 0, 4)] }
    let va : Addr := 0xFE00000000000000
    let t := withOps (idle id id) [opAt .load va]
    let fill := homing .load 0x9000 (.fill 0)
    (∃ w ∈ x.own, w.1 = (idle id id).laneKey (opAt .load 0x9000).core (opAt .load 0x9000).slot 0 ∧
      rangesMeet w.2.1 w.2.2 (0x9000 % 128) 4 = true) ∧
    (match t.privFill 0 0 (va &&& ~~~(127 : Addr)) .load with | .ok s' => s'.privHere 0 0 (va &&& ~~~(127 : Addr)) | .error _ => false) = true ∧
    mfind fill.lastApply (0x9000 / 128) ≠ some fill.cc ∧
    mfind ({ fill with lastApply := [(0x9000 / 128, fill.cc)] } : State).lastApply (0x9000 / 128) = some fill.cc := by
  and_intros <;> decide +kernel

/-- A table at an address of another package; one that is not mapped. -/
theorem witness_OperationsComplete_images_wait :
    let o (va : Addr) := opAt (.tload 1) va
    let s (va : Addr) := { away (withOps (idle id id) [o va]) with banks := [(1, ⟨.loading, va, 0, [], 0, 0⟩)] }
    (match (s 0x40009000).readVa (o 0x40009000) (reqAt 0x40009000) 0 0x40009000 3088 with | .ok x => x.2 == none | .error _ => false) = true ∧
    (match (s 0x80000000).readVa (o 0x80000000) (reqAt 0x80000000) 0 0x80000000 3088 with | .ok _ => 0 | .error k => k) = cPageAbsent ∧
    (s 0x80000000).bankBefore 0 1 0 = false ∧ (o 0x80000000).dropped = false ∧ laneOn (grp (s 0x80000000)).live 0 ∧ (s 0x80000000).recs = [] ∧
    (s 0x80000000).storeAhead (o 0x80000000) (reqAt 0x80000000) = false := by
  and_intros <;> decide +kernel

/-- A sequencer's block on another package, before and after its line has come; a pass whose indices or rows leave the allocation. -/
theorem witness_EngineSteps_far :
    let s := away (seqAt 0 (fun q => { q with block := none, pc := 0x40009008 }) id)
    let who : FarUser := .seq (wkey 0 0)
    let g := seqAt (2 * 2 ^ 58 + 2 * 2 ^ 54 + 3 * 2 ^ 50 + 2 ^ 45 + 2 ^ 7) (fun q => { q with gathering := some 4000 }) id
    let c := seqCur g
    s.seqOf 0 0 = some (seqCur s) ∧ s.seqHalted 0 0 = false ∧ (seqCur s).q.busy = false ∧ (seqCur s).q.wordAt = none ∧
    s.translate 0 ((seqCur s).q.pc.toNat / 64 * 64) .load = .ok (onSeven 0x9000, leaf7) ∧ s.farBytes who (onSeven 0x9000) 64 = none ∧
    ({ s with far := [gotten who 0x9000] } : State).farBytes who (onSeven 0x9000) 64 = some (List.replicate 64 5) ∧
    c.outside [(1024 * c.w.sgran, 4)] = true ∧ c.outside [(0, 4)] = false := by
  and_intros <;> decide +kernel

/-- A chain at an element, and at a skip word, of another package; an element address beyond 2^57. -/
theorem witness_TransferUnitSteps_far :
    let c : Chain := { chainOf .fetch with elem := 0x40009000 }
    let s := away { idle id id with chains := [c] }
    let t := { s with far := [gotten (.chain 0) 0x9000] }
    s.chain c.id = some c ∧ c.elem.toNat % 128 = 0 ∧ c.index < 2 ^ 20 ∧
    s.translate c.guest c.elem.toNat .load = .ok (onSeven 0x9000, leaf7) ∧ s.farBytes (.chain c.id) (onSeven 0x9000) 128 = none ∧
    t.farBytes (.chain c.id) (onSeven 0x9000) 128 = some (List.replicate 128 5) ∧ s.farBytes (.chain c.id) (onSeven 0x9100) 4 = none ∧
    2 ^ 57 ≤ (0x0200000000000000 : Addr).toNat ∧ (0x0200000000000000 : Addr).toNat % 128 = 0 := by
  and_intros <;> decide +kernel

/-- An element of one unit, on its way to another package. -/
theorem witness_TransferUnitSteps_remote :
    let s := away moving
    isRemote (onSeven 0x9000) = true ∧ s.homeUp (onSeven 0x9000) = true ∧ s.far = [] ∧ (∀ m ∈ (s.ctx 0).moulds, m.bound = false) ∧
    s.translate 0 0x40009000 .write = .ok (onSeven 0x9000, leaf7) := by
  and_intros <;> decide +kernel

/-- A header on another package; at an address that is not mapped. -/
theorem witness_Submissions_far :
    let s := away host
    (s.ctx 0).valid = true ∧ (0x40009000 : Addr).toNat % 64 = 0 ∧ (s.homeWait (.host 0) 0 0x40009000 128).isSome = true ∧
    s.homePlaces 0 0x80000000 128 = none ∧ (0x80000000 : Addr).toNat % 64 = 0 ∧ (s.ctx 0).held = [] := by
  and_intros <;> decide +kernel

/-- A launch whose turn it is while a dirty per-thread line of its context lies on another package. -/
theorem witness_LaunchesAndStages_away :
    let q := { hdr1.launch 0 4 0 none true 77 with phase := .queued }
    let x := lineOf (onSeven 0x9000 / 128) (.priv 0 true 0x100)
    let s := { away (running [(4, q)] (fun x => { x with queue := [4] })) with l1 := [x] }
    s.writesApplied 0 = true ∧ Claims.Unlogged s 0 ∧ Memory.wf s.mem = true ∧ x ∈ s.l1 ∧ x.kind = .priv q.guest true 0x100 ∧
    isRemote (x.line * 128) = true ∧ (s.ctx 0).valid = true ∧ (s.ctx 0).current = none ∧ (s.ctx 0).queue.head? = some 4 ∧
    (s.ctx 0).cmdPage.toNat + 4096 ≤ x.line * 128 ∧ q.stage = none ∧ mfind s.launches 4 = some q := by
  unfold Claims.Unlogged; and_intros <;> decide +kernel

/-- A referred group whose order to resume has waited, and one for which a reply is still owed; firmware that holds a group and may
advance ASGEN. -/
theorem witness_FirmwareAndMachineChecks_orders :
    let t := (escalated true none part0).modCtx 0 (fun x => { x with held := [(3, 0x9000, 77)] })
    let o := { opAt .load 0x9000 with id := 7, saved := true, core := ghostOf 5, lanes := [⟨reqAt 0x9000, .queued⟩] }
    let w := { escalated true none part0 with ops := [(7, o)] }
    t.escGroup 5 = some (0, 0, grp t, esc0 true none) ∧ (t.ctx 0).held = [(3, (esc0 true none).addr, 77)] ∧ Claims.CqRoom t 0 ∧
    t.referredAt 0 (esc0 true none).addr = some (0, 0, grp t, esc0 true none) ∧ (t.ctx 0).valid = true ∧
    w.referredAt 0 0x9000 = some (0, 0, grp w, esc0 true none) ∧ w.mayResume 0 (grp w) (esc0 true none) = false ∧
    (let s := escalated false none part0
     (grp s).esc.isSome = true ∧ s.mapping 0 = false ∧ s.asgenWaits 0 1 = false ∧ 0x9000 % 8 = 0 ∧ backed 0x9000 = true ∧
       Memory.wf s.mem = true) := by
  unfold Claims.CqRoom; and_intros <;> decide +kernel

/-- A workgroup whose groups have ended; a cluster half whose user has no running sequencer there; a context without a launch. -/
theorem witness_FirmwareAndMachineChecks_idle :
    let s := { host with wgroups := (withWG (idle id id) 0).wgroups.map (fun x => (x.1, { x.2 with seq := none })), clusters := [(0, { Cluster.initial with user := [some 0, none] })] }
    Claims.CqRoom s 0 ∧ (s.ctx 0).current = none ∧ (∃ w, s.wgroup 0 0 = some w ∧ w.guest = 0 ∧ s.groupsOver 0 w = true) ∧
    (s.cluster 0).user.getD 0 none = some 0 ∧ (∀ x ∈ s.wgroups, x.2.seq.map (·.stopped) ≠ some false) := by
  unfold Claims.CqRoom
  refine ⟨by and_intros <;> decide +kernel, by decide +kernel, ⟨_, rfl, by decide +kernel, by decide +kernel⟩, by decide +kernel, by decide +kernel⟩

/-- A device reset under way that waits for room; all contexts ended and their entries written. -/
theorem witness_AdministrativeCommands_pending :
    let s := { given (block 7 [1]) with dev := { (given (block 7 [1])).dev with admBusy := true, admBlock := block 7 [1], cold := false } }
    let t := { s with ctxs := [] }
    s.dev.admBusy = true ∧ isReset 1 s.dev.admBlock = true ∧ t.ctxs = [] ∧ t.dev.cold = false ∧ t.dev.staged = none := by
  and_intros <;> decide +kernel

/-- A head of a time flit; what was in flight on a port, and the port that another route names; an answer for a chain. -/
theorem witness_LinkAndClock_again :
    let e := aqAt (onSeven 0x9000) (.store [1, 2, 3, 4])
    let s0 := linked 17
    let s := { s0 with aq := [e], sent := [⟨9, e.op, e.lane, some 2⟩]
                       dev := { s0.dev with ports := s0.dev.ports ++ [(3, { Port.initial with trained := true })], routes := [(7, ⟨3, 1⟩)] } }
    let s1 := s.modPort 2 (fun p => { p with down := true, dist := none })
    let f : Far := { gotten (.chain 0) 0x9000 with answer := none, port := some 2 }
    (flitHead 0 4).length = 252 ∧ fieldLE (flitHead 0 4) 2 1 = 4 ∧ isRemote e.addr = true ∧ 17 ≤ (s.port 2).bad ∧ (s.port 2).trained = true ∧
    mfind s.dev.routes (pkgOf e.addr) = some ⟨3, 1⟩ ∧ s1.homeUp e.addr = true ∧ s.far = [] ∧
    f.num = 3 ∧ f.answer = none ∧ f.bytes = [] ∧ f.who = .chain 0 ∧ { f with bytes := [1] }.bytes ≠ [] ∧
    s0.l1 = [] := by
  and_intros <;> decide +kernel

end Sys2Proof.Tests
end

/-! # Service life (O58): service-life events, vacated clusters and power-on -/

namespace Sys2Proof.Machine

/-! ## Sparse maps and byte fields -/

/-- A binding just made stands in the map. -/
theorem mem_mset {α : Type} (m : AMap α) (k : Nat) (v : α) : (k, v) ∈ mset m k v := by
  induction m with
  | nil => simp [mset]
  | cons x m ih =>
    simp only [mset]
    split_ifs <;> simp [ih]

/-- A map with a binding just made is not empty. -/
@[simp] theorem isEmpty_mset {α : Type} (m : AMap α) (k : Nat) (v : α) : (mset m k v).isEmpty = false :=
  List.isEmpty_eq_false_iff_exists_mem.2 ⟨_, mem_mset m k v⟩

/-- A binding just made decides a search for any binding. -/
theorem any_mset {α : Type} {m : AMap α} {k : Nat} {v : α} {p : Nat × α → Bool} (h : p (k, v) = true) :
    (mset m k v).any p = true :=
  List.any_eq_true.2 ⟨_, mem_mset m k v, h⟩

/-- The field that stands between two parts of a byte list. -/
theorem fieldLE_append (xs ys zs : List Byte) : fieldLE (xs ++ ys ++ zs) xs.length ys.length = leNat ys := by
  simp [fieldLE]

/-! ## Clusters -/

/-- The cores 0 to 575 stand on the 144 clusters (R9, R11). -/
theorem clusterOf_lt {core : Nat} (h : core < 576) : clusterOf core < 144 := by
  rw [clusterOf]; omega

/-- A cluster read after a change of one. -/
theorem cluster_modCluster (s : State) (n m : Nat) (f : Cluster → Cluster) :
    (s.modCluster n f).cluster m = if m = n then f (s.cluster n) else s.cluster m := by
  by_cases h : m = n <;> simp [State.cluster, State.modCluster, mget, mfind_mset, h]

@[simp] theorem cluster_modCluster_same (s : State) (n : Nat) (f : Cluster → Cluster) :
    (s.modCluster n f).cluster n = f (s.cluster n) := by simp [cluster_modCluster]

theorem cluster_modCluster_other (s : State) {n m : Nat} (f : Cluster → Cluster) (h : m ≠ n) :
    (s.modCluster n f).cluster m = s.cluster m := by simp [cluster_modCluster, h]

@[simp] theorem cluster_modDev (s : State) (f : Device → Device) (n : Nat) : (s.modDev f).cluster n = s.cluster n := rfl
@[simp] theorem cluster_refresh (s : State) (n : Nat) : s.refresh.cluster n = s.cluster n := rfl

/-! ## The health log (R409) -/

/-- An entry of the health log: DTIME, kind, unit, filled with zeros to 32 bytes. -/
def healthEntry (time : DTime) (kind unit : Nat) : List Byte :=
  leBytes 6 time.toNat ++ [BitVec.ofNat 8 kind] ++ leBytes 2 unit ++ leBytes 23 0

@[simp] theorem logHealth_mem (s : State) (kind unit : Nat) : (s.logHealth kind unit).mem = s.mem := rfl
@[simp] theorem logHealth_worn (s : State) (kind unit : Nat) : (s.logHealth kind unit).worn = s.worn := rfl
@[simp] theorem logHealth_impaired (s : State) (kind unit : Nat) : (s.logHealth kind unit).impaired = s.impaired := rfl
@[simp] theorem cluster_logHealth (s : State) (kind unit n : Nat) : (s.logHealth kind unit).cluster n = s.cluster n := rfl
@[simp] theorem logHealth_health (s : State) (kind unit : Nat) :
    (s.logHealth kind unit).dev.health = s.dev.health ++ [healthEntry s.dtime kind unit] := rfl

theorem length_healthEntry (time : DTime) (kind unit : Nat) : (healthEntry time kind unit).length = 32 := by
  simp [healthEntry]

theorem healthEntry_time (time : DTime) (kind unit : Nat) : fieldLE (healthEntry time kind unit) 0 6 = time.toNat := by
  have h := fieldLE_append [] (leBytes 6 time.toNat) ([BitVec.ofNat 8 kind] ++ leBytes 2 unit ++ leBytes 23 0)
  have ht : time.toNat < 256 ^ 6 := time.isLt
  rw [length_leBytes, leNat_leBytes, Nat.mod_eq_of_lt ht] at h
  simpa [healthEntry] using h

theorem healthEntry_kind (time : DTime) {kind : Nat} (unit : Nat) (h : kind < 256) :
    fieldLE (healthEntry time kind unit) 6 1 = kind := by
  have hf := fieldLE_append (leBytes 6 time.toNat) [BitVec.ofNat 8 kind] (leBytes 2 unit ++ leBytes 23 0)
  simpa [healthEntry, leNat, Nat.mod_eq_of_lt h] using hf

theorem healthEntry_unit (time : DTime) (kind : Nat) {unit : Nat} (h : unit < 2 ^ 16) :
    fieldLE (healthEntry time kind unit) 7 2 = unit := by
  have hf := fieldLE_append (leBytes 6 time.toNat ++ [BitVec.ofNat 8 kind]) (leBytes 2 unit) (leBytes 23 0)
  have hu : unit < 256 ^ 2 := h
  rw [length_leBytes, leNat_leBytes, Nat.mod_eq_of_lt hu] at hf
  simpa [healthEntry] using hf

/-- What an added entry of the health log says. -/
theorem logged_of_health {s t : State} {kind unit : Nat} (hk : kind < 256) (hu : unit < 2 ^ 16)
    (h : t.dev.health = s.dev.health ++ [healthEntry s.dtime kind unit]) : Claims.Logged s t kind unit :=
  ⟨_, h, length_healthEntry _ _ _, healthEntry_time _ _ _, healthEntry_kind _ _ hk, healthEntry_unit _ _ hu⟩

/-! ## The status fields (R407, R427) -/

@[simp] theorem restat_mem (s : State) : s.restat.mem = s.mem := rfl
@[simp] theorem cluster_restat (s : State) (n : Nat) : s.restat.cluster n = s.cluster n := rfl
@[simp] theorem restat_health (s : State) : s.restat.dev.health = s.dev.health := rfl
@[simp] theorem restat_laneMap (s : State) : s.restat.dev.laneMap = s.dev.laneMap := rfl
@[simp] theorem restat_degraded (s : State) : s.restat.dev.degraded = s.impaired := rfl
@[simp] theorem restat_replaceReq (s : State) : s.restat.dev.replaceReq = (s.dev.replaceReq || s.worn) := rfl

theorem openClusters_le (s : State) : s.openClusters ≤ 144 :=
  (List.length_filter_le _ _).trans (by simp)

theorem impaired_of_laneFail {s : State} (h : s.dev.laneFail.isEmpty = false) : s.impaired = true := by
  rw [State.impaired, h]; simp

theorem impaired_of_spared {s : State} (h : s.dev.spared.isEmpty = false) : s.impaired = true := by
  rw [State.impaired, h]; simp

theorem worn_of_laneFail {s : State} (h : s.dev.laneFail.isEmpty = false) : s.worn = true := by
  rw [State.worn, h]; simp

theorem worn_of_spareOut {s : State} (h : s.dev.spareOut = true) : s.worn = true := by
  rw [State.worn, h]; simp

/-- The status fields just computed follow from the units at hand. -/
theorem counted_restat (s : State) : Claims.Counted s.restat.refresh := by
  refine ⟨?_, rfl⟩
  show (BitVec.ofNat 8 s.openClusters).toNat = s.openClusters
  exact Nat.mod_eq_of_lt (by have := openClusters_le s; omega)

/-! ## Clusters on which nothing stands -/

theorem unitsOn_of_vacant {s : State} {n : Nat} (h : Claims.Vacant s n) (p : Nat → WGroup → Bool) :
    s.unitsOn [n] p = [] := by
  obtain ⟨-, hu⟩ := h
  refine List.filter_eq_nil_iff.2 fun u hm hp => ?_
  obtain ⟨k, hk, hp⟩ := List.any_eq_true.1 hp
  have hon : clusterOf (k / 16) = n := by simpa using (Bool.and_eq_true_iff.1 hp).1
  exact hu u hm k hk hon

/-- The state with other clusters being vacated and other marks on its units: all that vacating clusters changes where nothing
stands on them. -/
def State.marked (s : State) (l : List Nat) (us : AMap Unit_) : State :=
  { s.modDev (fun d => { d with leaving := l }) with units := us }

@[simp] theorem marked_mem (s : State) (l : List Nat) (us : AMap Unit_) : (s.marked l us).mem = s.mem := rfl
@[simp] theorem marked_dtime (s : State) (l : List Nat) (us : AMap Unit_) : (s.marked l us).dtime = s.dtime := rfl
@[simp] theorem marked_health (s : State) (l : List Nat) (us : AMap Unit_) : (s.marked l us).dev.health = s.dev.health := rfl
@[simp] theorem cluster_marked (s : State) (l : List Nat) (us : AMap Unit_) (n : Nat) : (s.marked l us).cluster n = s.cluster n := rfl

theorem vacate_of_vacant {s : State} {n : Nat} (h : Claims.Vacant s n) (shrink : Bool) (p : Nat → WGroup → Bool) :
    s.vacate shrink [n] p = s.marked (s.dev.leaving ++ [n].filter (fun m => !s.dev.leaving.contains m)) s.units := by
  have hm (l : List Nat) : Claims.Vacant (s.modDev (fun d => { d with leaving := l })) n := h
  have hu := unitsOn_of_vacant (hm (s.dev.leaving ++ [n].filter (fun m => !s.dev.leaving.contains m))) p
  exact congrArg (List.foldl (State.askOut shrink) _) hu

/-- Where nobody is owed a shrink, no guest is told of one. -/
theorem vacated_of_noneDeferred {s : State} (h : s.dev.deferred = []) (on : List Nat) :
    s.vacated on = s.marked (s.vacated on).dev.leaving (s.vacated on).units := by
  simp [State.vacated, State.marked, State.modDev, h]

/-- Where nothing stands on a cluster and nobody is owed a shrink, what waits for that happens at once. -/
theorem whenVacant_of_vacant {s : State} {n : Nat} (h : Claims.Vacant s n) (shrink : Bool) (p : Nat → WGroup → Bool)
    (f : State → State) : ∃ l us, s.whenVacant shrink [n] p f = f (s.marked l us) := by
  have hm (l : List Nat) : Claims.Vacant (s.marked l s.units) n := h
  have hn (l : List Nat) := vacated_of_noneDeferred (hm l).1 [n]
  simp only [State.whenVacant, vacate_of_vacant h, unitsOn_of_vacant (hm _), List.isEmpty_nil, if_true]
  rw [hn]
  exact ⟨_, _, rfl⟩

/-! ## A cluster fenced for a fault (R426, R427) -/

/-- Cluster `n`, and no other, is fenced for a fault; the log, the status fields and the request for a replacement say so. -/
structure FencedForFault (s t : State) (n : Nat) : Prop where
  mem : t.mem = s.mem
  here : t.cluster n = { s.cluster n with fenced := true, faulty := true }
  others : ∀ k, k ≠ n → t.cluster k = s.cluster k
  logged : Claims.Logged s t 2 n
  counted : Claims.Counted t
  replace : t.dev.replaceReq = true

/-- A faulty cluster calls for a replacement. -/
theorem worn_modCluster {s : State} {n : Nat} {f : Cluster → Cluster} (h : (f (s.cluster n)).faulty = true) :
    (s.modCluster n f).worn = true := by
  have hc : (mset s.clusters n (f (s.cluster n))).any (fun x => x.2.faulty) = true := any_mset h
  simp [State.worn, State.modCluster, hc]

/-- A cluster after it has been fenced for a fault. -/
def Cluster.faultFenced (k : Cluster) : Cluster := { k with fenced := true, faulty := true }

theorem fence_eq_of_vacant {s : State} {n : Nat} (h : Claims.Vacant s n) :
    ∃ l us, s.fence n true = (((s.marked l us).modCluster n Cluster.faultFenced).logHealth 2 n).restat := by
  have hf : (fun k : Cluster => { k with fenced := true, faulty := k.faulty || true }) = Cluster.faultFenced := by
    funext k; simp [Cluster.faultFenced]
  rw [State.fence, hf]
  exact whenVacant_of_vacant h true _ _

/-- A vacant cluster is fenced at once. -/
theorem fence_of_vacant {s : State} {n : Nat} (hn : n < 144) (h : Claims.Vacant s n) :
    FencedForFault s (s.fence n true).refresh n := by
  obtain ⟨l, us, hf⟩ := fence_eq_of_vacant h
  have hw : ((s.marked l us).modCluster n Cluster.faultFenced).worn = true := worn_modCluster rfl
  rw [hf]
  exact {
    mem := by simp
    here := by simp [Cluster.faultFenced]
    others := fun k hk => by simp [cluster_modCluster_other _ _ hk]
    logged := logged_of_health (by omega) (by omega) (by simp)
    counted := counted_restat _
    replace := by simp [hw] }

/-! ## Lanes (R425; log 75) -/

/-- With a lane mapped out, the logical lanes stand on the others in ascending order. -/
theorem laneMapOf_some {lane : Nat} (h : lane < 33) : laneMapOf (some lane) = (List.range 33).eraseIdx lane := by
  have hf : (List.range 33).filter (fun l => some l != some lane) = (List.range 33).eraseIdx lane := by
    have he := (List.nodup_range (n := 33)).erase_getElem lane (by simpa using h)
    rw [List.getElem_range] at he
    rw [← he, List.nodup_range.erase_eq_filter]
    simp [bne]
  rw [laneMapOf, hf]
  exact List.take_of_length_le (by simp [List.length_eraseIdx, h])

theorem length_laneMapOf {lane : Nat} (h : lane < 33) : (laneMapOf (some lane)).length = 32 := by
  simp [laneMapOf_some h, List.length_eraseIdx, h]

theorem laneMapOf_lane {lane l : Nat} (h : lane < 33) (hl : l < 32) :
    (laneMapOf (some lane)).getD l 0 = if l < lane then l else l + 1 := by
  rw [laneMapOf_some h, List.getD_eq_getElem _ _ (by simp [List.length_eraseIdx, h, hl]), List.getElem_eraseIdx]
  split_ifs <;> simp

/-- What follows the first failed lane of a scheduler, once the scheduler is empty. -/
def State.mapOut (s : State) (core sched lane : Nat) : State :=
  ((s.modDev (fun d => { d with laneFail := mset d.laneFail (core * 4 + sched) lane
                                laneMap := mset d.laneMap (core * 4 + sched) (laneMapOf (some lane)) })).logHealth
    3 (clusterOf core)).restat

@[simp] theorem mapOut_mem (s : State) (core sched lane : Nat) : (s.mapOut core sched lane).mem = s.mem := by simp [State.mapOut]

@[simp] theorem mapOut_laneMap (s : State) (core sched lane : Nat) :
    mfind (s.mapOut core sched lane).dev.laneMap (core * 4 + sched) = some (laneMapOf (some lane)) :=
  mfind_mset_same _ _ _

theorem mapOut_counted (s : State) (core sched lane : Nat) : Claims.Counted (s.mapOut core sched lane).refresh :=
  counted_restat _

@[simp] theorem mapOut_degraded (s : State) (core sched lane : Nat) : (s.mapOut core sched lane).dev.degraded = true :=
  impaired_of_laneFail (isEmpty_mset _ _ _)

@[simp] theorem mapOut_replaceReq (s : State) (core sched lane : Nat) : (s.mapOut core sched lane).dev.replaceReq = true :=
  Bool.or_eq_true_iff.2 (.inr (worn_of_laneFail (isEmpty_mset _ _ _)))

/-! ## The weakest cluster at the voltage ceiling (R428; log 52) -/

/-- An unfenced cluster at the ceiling. -/
def State.AtCeiling (s : State) (m : Nat) : Prop :=
  m < 144 ∧ (s.cluster m).fenced = false ∧ Config.voltCeiling ≤ (s.cluster m).volts

/-- A state of the choice, with free values used up, and a cluster at the ceiling chosen. -/
def State.Chooses (s : State) (acc : State × Nat × Option Nat) : Prop :=
  (∃ fr, acc.1 = { s with fresh := fr }) ∧ s.AtCeiling acc.2.1

/-- The cluster that is chosen stands at the ceiling; the choice uses up free values alone (log 2). -/
theorem weakest_atCeiling {s : State} {n : Nat} (h : s.AtCeiling n) :
    ∃ fr m, s.weakest n = ({ s with fresh := fr }, m) ∧ s.AtCeiling m := by
  unfold State.weakest
  extract_lets at_
  have hat (m : Nat) (hm : m ∈ at_) : s.AtCeiling m := by
    simpa [at_, State.AtCeiling] using hm
  split
  · next m hm => exact ⟨s.fresh, m, rfl, hat m (List.mem_of_find?_eq_some hm)⟩
  · next r _ _ =>
    have hr : s.Chooses r := by
      refine List.foldlRecOn (motive := s.Chooses) at_ _ ⟨⟨s.fresh, rfl⟩, h⟩ ?_
      rintro acc ⟨⟨fr, hfr⟩, hc⟩ m hm
      have hw : acc.1.freeWord.1 = { s with fresh := fr + 1 } := by rw [hfr]; rfl
      dsimp only
      split
      · exact ⟨⟨_, hw⟩, hat m hm⟩
      · exact ⟨⟨_, hw⟩, hc⟩
    obtain ⟨⟨fr, hfr⟩, hc⟩ := hr
    exact ⟨fr, r.2.1, by rw [← hfr], hc⟩

/-! ## Power-on (R431, R432) -/

/-- Zeroing the package's memory leaves that of hosts and of other packages. -/
theorem rdByte_zeroLocal {m : Memory} (h : Memory.wf m = true) (a : Nat) :
    rdByte (zeroLocal m) a = if physSpan ≤ a then rdByte m a else 0 := by
  simpa [zeroLocal, unlistedByte] using rdByte_filterFrom m none (fun a => decide (physSpan ≤ a)) a h

end Sys2Proof.Machine

namespace Sys2Proof.Claims

open Sys2Proof.Machine

/-! ## Issue slots and corrected errors (R20, R424) -/

theorem exec_issueSlotWithholding (s : State) (core : Nat) {sched : Nat} (on : Bool) (h : sched < 4) :
    exec (.issueSlotWithholding core sched on) s =
      .next (s.modDev (fun d => { d with withheld := mset d.withheld (core * 4 + sched) on })).refresh := by
  simp only [exec, execIssueSlotWithholding, event_next, if_pos h]

theorem exec_correctedError (s : State) (n : Nat) :
    exec (.correctedError n) s = .next (s.modCluster n (fun k => { k with ce := k.ce + 1 })).refresh := rfl

theorem services (s : State) : Services s := by
  refine ⟨fun core sched on h => ⟨_, exec_issueSlotWithholding s core on h, rfl, rfl, mget_mset_same _ _ _ _, ?_⟩,
    fun n => ⟨_, exec_correctedError s n, rfl, rfl, by simp, fun m hm => by simp [cluster_modCluster_other _ _ hm]⟩⟩
  rintro rfl
  simp [State.schedIdle, State.modDev]

/-! ## Lanes that fail (R425, R427) -/

theorem exec_laneTestFail_first {s : State} {core sched lane : Nat} (hl : lane < 33)
    (hn : mfind s.dev.laneFail (core * 4 + sched) = none) :
    exec (.laneTestFail core sched lane) s = .next (s.whenVacant false [clusterOf core]
      (fun c w => w.onSched core sched c) (fun s => s.mapOut core sched lane)).refresh := by
  simp only [exec, execLaneTestFail, event_next, hn, if_neg (Nat.not_le.2 hl)]
  rfl

theorem exec_laneTestFail_second {s : State} {core sched lane l : Nat}
    (hn : mfind s.dev.laneFail (core * 4 + sched) = some l) (hl : l ≠ lane) :
    exec (.laneTestFail core sched lane) s = .next (s.fence (clusterOf core) true).refresh := by
  simp only [exec, execLaneTestFail, event_next, hn, if_neg hl]

/-- The first lane of a scheduler that fails is mapped out. -/
theorem laneTestFail_first {s : State} {core sched lane : Nat} (hl : lane < 33) (hv : Vacant s (clusterOf core))
    (hn : mfind s.dev.laneFail (core * 4 + sched) = none) :
    Leads (.laneTestFail core sched lane) s (fun t => t.mem = s.mem ∧
      (∃ m, mfind t.dev.laneMap (core * 4 + sched) = some m ∧ m.length = 32 ∧ ∀ l < 32, m.getD l 0 = if l < lane then l else l + 1) ∧
      Counted t ∧ t.dev.degraded = true ∧ t.dev.replaceReq = true) := by
  obtain ⟨l, us, hw⟩ := whenVacant_of_vacant hv false (fun c w => w.onSched core sched c) (fun s => s.mapOut core sched lane)
  refine ⟨_, exec_laneTestFail_first hl hn, ?_⟩
  rw [hw]
  exact ⟨by simp, ⟨laneMapOf (some lane), by simp, length_laneMapOf hl, fun l h => laneMapOf_lane hl h⟩,
    mapOut_counted _ _ _ _, by simp, by simp⟩

/-- A second one fences the cluster. -/
theorem laneTestFail_second {s : State} {core sched lane l : Nat} (hc : core < 576) (hv : Vacant s (clusterOf core))
    (hn : mfind s.dev.laneFail (core * 4 + sched) = some l) (hl : l ≠ lane) :
    Leads (.laneTestFail core sched lane) s (fun t =>
      t.mem = s.mem ∧ t.cluster (clusterOf core) = { s.cluster (clusterOf core) with fenced := true, faulty := true } ∧
      Logged s t 2 (clusterOf core) ∧ Counted t ∧ t.dev.replaceReq = true) := by
  have hf := fence_of_vacant (clusterOf_lt hc) hv
  exact ⟨_, exec_laneTestFail_second hn hl, hf.mem, hf.here, hf.logged, hf.counted, hf.replace⟩

/-! ## Spared rows (R426, R427) -/

theorem exec_dramSpare (s : State) (bank : Nat) (last : Bool) :
    exec (.dramSpare bank last) s = .next ((s.modDev (fun d => { d with
      spared := mset d.spared bank (mget d.spared bank 0 + 1), spareOut := d.spareOut || last })).logHealth 4 bank).restat.refresh := rfl

theorem dramSpare_leads (s : State) {bank : Nat} (last : Bool) (h : bank < 2 ^ 16) :
    Leads (.dramSpare bank last) s (fun t => t.mem = s.mem ∧ Logged s t 4 bank ∧ t.dev.degraded = true ∧
      (last = true → t.dev.replaceReq = true)) := by
  refine ⟨_, exec_dramSpare s bank last, rfl, logged_of_health (by omega) h rfl, ?_, ?_⟩
  · exact impaired_of_spared (isEmpty_mset _ _ _)
  · exact fun hl => Bool.or_eq_true_iff.2 (.inr (worn_of_spareOut (Bool.or_eq_true_iff.2 (.inr hl))))

/-! ## Voltage margins (R428; log 52) -/

theorem exec_patinaCheck_enough (s : State) (n : Nat) : exec (.patinaCheck n false) s = .next s.refresh := rfl

theorem exec_patinaCheck_step {s : State} {n : Nat} (hf : (s.cluster n).fenced = false)
    (hv : (s.cluster n).volts < Config.voltCeiling) :
    exec (.patinaCheck n true) s =
      .next ((s.modCluster n (fun k => { k with volts := k.volts + 1 })).logHealth 1 n).refresh := by
  simp [exec, execPatinaCheck, event_next, hf, hv]

theorem exec_patinaCheck_ceiling {s : State} {n : Nat} (hf : (s.cluster n).fenced = false)
    (hv : Config.voltCeiling ≤ (s.cluster n).volts) :
    exec (.patinaCheck n true) s = .next ((s.weakest n).1.fence (s.weakest n).2 true).refresh := by
  simp [exec, execPatinaCheck, event_next, hf, Nat.not_lt.2 hv]

theorem patinaCheck_step {s : State} {n : Nat} (hn : n < 144) (hf : (s.cluster n).fenced = false)
    (hv : (s.cluster n).volts < Config.voltCeiling) :
    Leads (.patinaCheck n true) s (fun t => t.mem = s.mem ∧
      t.cluster n = { s.cluster n with volts := (s.cluster n).volts + 1 } ∧ Logged s t 1 n ∧
      ∀ m, m ≠ n → t.cluster m = s.cluster m) :=
  ⟨_, exec_patinaCheck_step hf hv, rfl, by simp, logged_of_health (by omega) (by omega) rfl,
    fun m hm => by simp [cluster_modCluster_other _ _ hm]⟩

theorem patinaCheck_ceiling {s : State} {n : Nat} (hn : n < 144) (hf : (s.cluster n).fenced = false)
    (hv : Config.voltCeiling ≤ (s.cluster n).volts) (ha : ∀ m, Vacant s m) :
    Leads (.patinaCheck n true) s (fun t => t.mem = s.mem ∧ ∃ m < 144, (s.cluster m).fenced = false ∧
      Config.voltCeiling ≤ (s.cluster m).volts ∧ t.cluster m = { s.cluster m with fenced := true, faulty := true } ∧
      (∀ k, k ≠ m → t.cluster k = s.cluster k) ∧ Logged s t 2 m ∧ Counted t ∧ t.dev.replaceReq = true) := by
  obtain ⟨fr, m, hw, hm, hmf, hmv⟩ := weakest_atCeiling ⟨hn, hf, hv⟩
  have h : FencedForFault { s with fresh := fr } _ m := fence_of_vacant hm (ha m)
  refine ⟨_, exec_patinaCheck_ceiling hf hv, ?_⟩
  rw [hw]
  exact ⟨h.mem, m, hm, hmf, hmv, h.here, h.others, h.logged, h.counted, h.replace⟩

theorem ageing (s : State) : Ageing s :=
  ⟨fun _ _ _ _ hl hv => ⟨laneTestFail_first hl hv, fun _ hn hne hc => laneTestFail_second hc hv hn hne⟩,
    fun _ last h => dramSpare_leads s last h,
    fun n hn => ⟨⟨_, exec_patinaCheck_enough s n, rfl, rfl, rfl⟩, patinaCheck_step hn, patinaCheck_ceiling hn⟩⟩

/-! ## Power-on (R407, R431, R432) -/

/-- After a power-on no image is staged, and boot waits for one. -/
theorem exec_powerOnReset (s : State) : exec .powerOnReset s = .next (s.afresh (zeroLocal s.mem)).refresh := rfl

theorem powersOn (s : State) : PowersOn s := by
  intro h
  have hm (a : Nat) := rdByte_zeroLocal h a
  exact ⟨_, exec_powerOnReset s, fun a ha => (hm a).trans (if_neg (Nat.not_le.2 ha)), fun a ha => (hm a).trans (if_pos ha),
    rfl, rfl, rfl, rfl, rfl, rfl, rfl, rfl, rfl, rfl, rfl⟩

/-! ## O58 -/

/-- Settles O58: each event of the service life does what its rule says, and a power-on clears the package. -/
theorem serviceLife : Obligations.ServiceLife :=
  fun s => ⟨services s, ageing s, powersOn s⟩

end Sys2Proof.Claims

/-! # Guards, steps and the frame of a run (O3, O5, O6) -/

namespace Sys2Proof.Machine

/-! ## The cc between two movers (R250) -/

@[simp] theorem State.lapse_cc (s : State) (n : Nat) : (s.lapse n).cc = s.cc + n := by
  simp only [State.lapse]
  split <;> rfl

/-- Where no correction comes due, the cc pass as they are. -/
theorem lapse_plain {s : State} {n : Nat}
    (h : n = 0 ∨ min s.dev.timeDue.natAbs (min (s.cc + n - s.dev.lastFix) (n + 63) / 64) = 0) : s.lapse n = s.pass n := by
  simp only [State.lapse, if_pos h]

/-- Else the corrections that come due move DTIME, one step each. -/
theorem lapse_fix {s : State} {n k : Nat}
    (hk : k = min s.dev.timeDue.natAbs (min (s.cc + n - s.dev.lastFix) (n + 63) / 64)) (h : ¬(n = 0 ∨ k = 0)) :
    (s.lapse n).dtime = (if 0 < s.dev.timeDue then s.dtime + BitVec.ofNat 48 n + BitVec.ofNat 48 k
        else s.dtime + BitVec.ofNat 48 n - BitVec.ofNat 48 k) ∧
      (s.lapse n).dev.lastFix = s.cc + n ∧
      (s.lapse n).dev.timeDue = if 0 < s.dev.timeDue then s.dev.timeDue - k else s.dev.timeDue + k := by
  subst hk
  simp only [State.lapse, if_neg h]
  exact ⟨rfl, rfl, rfl⟩

theorem lapse_noneDue {s : State} (h : s.dev.timeDue = 0) (n : Nat) : s.lapse n = s.pass n := lapse_plain (.inr (by simp [h]))

/-- A lapse corrects DTIME by at most one step for each 64 cc begun, and by no more than is due. -/
theorem lapse_corrects (s : State) (n : Nat) : ∃ k, k ≤ (n + 63) / 64 ∧ k ≤ n ∧ k ≤ s.dev.timeDue.natAbs ∧
    (s.lapse n).dtime = (if 0 < s.dev.timeDue then s.dtime + BitVec.ofNat 48 (n + k) else s.dtime + BitVec.ofNat 48 (n - k)) ∧
    (0 < k → (s.lapse n).dev.lastFix = s.cc + n ∧ (s.lapse n).dev.timeDue.natAbs = s.dev.timeDue.natAbs - k) := by
  generalize hk : min s.dev.timeDue.natAbs (min (s.cc + n - s.dev.lastFix) (n + 63) / 64) = k
  by_cases h : n = 0 ∨ k = 0
  · exact ⟨0, by omega, by omega, by omega, by simp [lapse_plain (hk ▸ h), State.pass], fun h0 => absurd h0 (by omega)⟩
  · obtain ⟨hd, hf, ht⟩ := lapse_fix hk.symm h
    have hle : k ≤ n := by omega
    refine ⟨k, by omega, hle, by omega, ?_, fun _ => ⟨hf, ?_⟩⟩
    · rw [hd, BitVec.ofNat_add, ← BitVec.add_assoc]
      congr 1
      obtain ⟨d, rfl⟩ := Nat.exists_eq_add_of_le hle
      rw [Nat.add_sub_cancel_left, Nat.add_comm k d, BitVec.ofNat_add, ← BitVec.add_assoc, BitVec.add_sub_cancel]
    · rw [ht]
      split <;> omega

/-! ## What is fetched (R77, R126, R323) -/

/-- The state in which the fetched instruction of a run is executed: one at which the run holds goes on from now (log 31). -/
def State.begun (s : State) (c : Cur) (i : Instr) (n : Nat) : State :=
  if c.r.holding then s.putRun c { c.r with start := max c.r.start s.cc } else s.latch c i n

theorem fetchRun_decoded {s : State} {c : Cur} {i : Instr} {rest : List Half} (hc : s.cur = some c) (hs : c.stopped = false)
    (hd : decode c.r.code = .ok (i, rest)) : s.fetchRun = (s.begun c i (c.r.code.length - rest.length), some i) := by
  by_cases hh : c.r.holding <;> simp [State.fetchRun, hc, hs, hd, State.begun, hh]

theorem fetchSeq_decoded {s : State} {core wslot t : Nat} {c : SeqCur} {w : DWord} {i : Instr} (hc : s.seqOf core wslot = some c)
    (hb : c.q.busy = false) (hh : s.seqHalted core wslot = false) (hw : c.q.wordAt = some (w, t)) (hd : decodeSeq w = some i) :
    s.fetchSeq core wslot = (s.passTo t, some i) := by
  simp [State.fetchSeq, hc, hb, hh, hw, hd]

theorem step_of_fetch {s t : State} {i : Instr} (h : s.fetch = (t, some i)) : step s = exec i t := by simp [step, h]

/-! ## Beginning and completing an instruction of a run (R77, R140, R401) -/

theorem group_putRun {s : State} {c : Cur} (h : s.cur = some c) (r : Run) :
    (s.putRun c r).group c.core c.slot = some { c.g with run := some r } := by
  simp [State.putRun, group_modGroup, (cur_eq_some.1 h).2.1]

/-- Step mode changes no other group, and nothing but groups. -/
theorem stepStop_groups (s : State) (c : Cur) : s.stepStop c = { s with groups := (s.stepStop c).groups } := by
  unfold State.stepStop
  split <;> rfl

theorem group_stepStop (s : State) (c : Cur) (j k : Nat) : (s.stepStop c).group j k =
    if c.g.step ∧ gkey j k = gkey c.core c.slot then (s.group c.core c.slot).map (fun g =>
      { g with dbg := .stopped cStep, stopAsk := g.stopAsk || decide (g.dbg = .requested) }) else s.group j k := by
  unfold State.stepStop
  split <;> simp [*, group_modGroup]

end Sys2Proof.Machine

namespace Sys2Proof.Claims

open Sys2Proof.Machine

/-! ## O3, O5, O6 -/

/-- Settles O6: the bit of the guard's mask, by the four guards. -/
theorem guardRule : Obligations.GuardRule := by
  intro c gd l hl
  obtain ⟨e, sn, p⟩ := gd
  cases e <;> cases sn <;> simp [Cur.on, laneOn, hl]

/-- Settles O3: what is fetched for each head of the agenda, and the cc that pass before it. -/
theorem stepRunsDecoded : Obligations.StepRunsDecoded := by
  refine ⟨?run, ?group, ?seq, ?event, fun s n => ⟨s.lapse_cc n, fun h => by rw [lapse_noneDue h]; rfl, lapse_corrects s n⟩⟩
  case run =>
    intro s c i rest ha hc hs hd
    exact step_of_fetch (by simp only [State.fetch, ha]; exact fetchRun_decoded hc hs hd)
  case group =>
    intro s s1 c i rest n core slot more ha h1 hc hs hd
    subst h1
    exact step_of_fetch (by simp only [State.fetch, ha]; exact fetchRun_decoded hc hs hd)
  case seq =>
    intro s s1 c i w n t core wslot more ha h1 hc hb hh hw hd
    subst h1
    exact step_of_fetch (by simp only [State.fetch, ha]; exact fetchSeq_decoded hc hb hh hw hd)
  case event =>
    intro s i n more ha he
    exact step_of_fetch (by simp [State.fetch, ha, he])

theorem latch_frame {s : State} {c : Cur} (hc : s.cur = some c) (i : Instr) (n : Nat) :
    ∃ c', (s.latch c i n).cur = some c' ∧ c'.core = c.core ∧ c'.slot = c.slot ∧
      c'.g = { c.g with run := some c'.r } ∧
      c'.r = { c.r with ilen := n, start := c'.r.start, co := c'.r.co, first := false, wrote := c'.r.wrote,
                        lastOp := c'.r.lastOp, holding := false } ∧
      s.latch c i n = { s with groups := (s.latch c i n).groups, cc := (s.latch c i n).cc, dtime := (s.latch c i n).dtime } ∧
      s.cc ≤ (s.latch c i n).cc ∧ c'.r.start ≤ (s.latch c i n).cc ∧
      ∀ k, k ≠ gkey c.core c.slot → mfind (s.latch c i n).groups k = mfind s.groups k := by
  refine ⟨_, cur_putRun hc _, rfl, rfl, rfl, rfl, rfl, ?_, ?_, fun k hk => ?_⟩
  · exact Nat.le_add_right _ _
  · exact Nat.sub_le_iff_le_add'.1 (Nat.le_refl _)
  · change mfind (mmod s.groups _ _) k = _
    simp [mfind_mmod, hk]

theorem done_frame {s : State} {c : Cur} (hc : s.cur = some c) (r : Run) :
    done s c r = { s with groups := (done s c r).groups } ∧
    (done s c r).group c.core c.slot =
      some { c.g with run := some r, dbg := if c.g.step then .stopped cStep else c.g.dbg,
                      stopAsk := c.g.stopAsk || (c.g.step && decide (c.g.dbg = .requested)) } ∧
    ∀ k, k ≠ gkey c.core c.slot → mfind (done s c r).groups k = mfind s.groups k := by
  refine ⟨?_, ?_, fun k hk => ?_⟩
  · exact stepStop_groups _ c
  · rw [done, group_stepStop, group_putRun hc]
    cases c.g.step <;> simp
  · unfold done State.stepStop
    split <;> simp [State.putRun, State.modGroup, mfind_mmod, hk]

/-- Settles O5: beginning an instruction marks its run, and `done` changes the group in focus alone. -/
theorem executionFrame : Obligations.ExecutionFrame :=
  ⟨fun _ _ i n hc => latch_frame hc i n, fun _ _ r hc => done_frame hc r⟩

end Sys2Proof.Claims

/-! # The hold mark of a run that completes its instruction (O9, O13, O14, O16, O25, O27, O29, O32, O33) -/

namespace Sys2Proof.Machine

/-! ## A run that holds at its instruction -/

@[simp] theorem Run.advance_holding (r : Run) (lat : Nat) : (r.advance lat).holding = false := rfl

/-- The run of a placed instruction, holding at it as after `execWait` answered `.hold`. -/
def holdingRun : Run := { (placedGroup [] 0).run.get rfl with holding := true }

/-- The group of that run, in either mode. -/
def holdingGroup (sup : Bool) : Group := { placedGroup [] 0 with sup := sup, run := some holdingRun }

def holdingCur (sup : Bool) : Cur := ⟨0, 0, holdingGroup sup, holdingRun⟩

/-- A machine with that group alone, in focus. -/
def holdingState (sup : Bool) : State := { State.reset.setGroup 0 0 (holdingGroup sup) with focus := some (0, 0) }

/-- A guard that is on in no lane of that run: on where predicate 0 is set, and it is set in none. -/
def guardOff : Guard := ⟨true, false, 0⟩

theorem holdingCur_off (sup : Bool) : (holdingCur sup).on guardOff = 0 := by
  cases sup <;> decide

/-! ## No lane guarded on -/

theorem lanesOf_zero : lanesOf 0 = [] := by decide

theorem acts_off {c : Cur} {gd : Guard} (h : c.on gd = 0) : c.acts gd = none := by
  rw [Cur.acts, h, lowLane, lanesOf_zero]
  rfl

theorem maskOf_none {p : Nat → Bool} (h : ∀ l, p l = false) : maskOf p = 0 := by
  obtain rfl : p = fun _ => false := funext h
  decide

/-- The checks of R218 pass where there is no lane to check. -/
theorem checkScratch_off (c : Cur) (s : State) (n : Nat) (off : Nat → Nat) (f : Unit → Res) :
    c.checkScratch s 0 n off f = f () := by
  have h (p : Nat → Bool) : maskOf (fun l => laneOn 0 l && p l) = 0 := maskOf_none (by simp [laneOn])
  simp only [Cur.checkScratch, h, lanesOf_zero, ne_eq, not_true_eq_false, if_false, List.find?_nil]

theorem mapPages_off (s : State) (guest : Nat) (va : Nat → Addr) (fl : Nat → Word) :
    s.mapPages guest (lanesOf 0) va fl = (s, [], []) := by
  rw [lanesOf_zero]
  rfl

/-- A counter limit of 15, or 7, waits for nothing (R167). -/
theorem limitsOk_free (g : Group) : g.limitsOk 15 15 7 7 = true := by simp [Group.limitsOk, limitOk]

end Sys2Proof.Machine

namespace Sys2Proof.Claims

open Sys2Proof.Machine

/-! ## How the instructions complete -/

/-- Two completions of one instruction leave one run. -/
theorem done_injective {s s' : State} {c : Cur} {r r' : Run} (hc : s.cur = some c) (hc' : s'.cur = some c)
    (h : done s c r = done s' c r') : r = r' := by
  have hg := (done_frame hc r).2.1
  rw [h, (done_frame hc' r').2.1] at hg
  simpa using congrArg Group.run (Option.some.inj hg).symm

/-- The instruction completes in `s`: the run goes on past it. -/
def Completes (i : Instr) (s : State) (c : Cur) : Prop := ∃ (r : Run) (lat : Nat), exec i s = .next (done s c (r.advance lat))

/-- However the state after it is described, an instruction that completes leaves no hold mark. -/
theorem Completes.clears {i : Instr} {s : State} {c : Cur} {r' : Run} (h : Completes i s c) (hc : s.cur = some c)
    (he : exec i s = .next (done s c r')) : r'.holding = false := by
  obtain ⟨r, lat, hr⟩ := h
  rw [hr] at he
  rw [← done_injective hc hc (Host.Outcome.next.inj he), Run.advance_holding]

/-- `Moved` lists every part that may change, and the hold mark is none of them: an instruction that completes in a run that
held at it does not leave a run `r'` that has `Moved` but for parts listed apart. -/
theorem Completes.not_moved {i : Instr} {s : State} {c : Cur} {r' r'' : Run} (h : Completes i s c) (hc : s.cur = some c)
    (hh : c.r.holding = true) (he : exec i s = .next (done s c r')) (hm : Moved c.r r'') (hr : r''.holding = r'.holding) : False := by
  have hk : r''.holding = c.r.holding := by rw [hm]
  simp [hr, h.clears hc he, hh] at hk

theorem Completes.not_laneWise {i : Instr} {s : State} {c : Cur} {on : Mask} {a b : Nat} {f : Nat → List Word → List Word}
    {fl : BitVec 6} (h : Completes i s c) (hc : s.cur = some c) (hh : c.r.holding = true) : ¬LaneWise i s c on a b f fl :=
  fun ⟨_, he, hm, _⟩ => h.not_moved hc hh he hm rfl

theorem Completes.not_stages {i : Instr} {s : State} {c : Cur} {a : Nat} {new : List Staged} {fb : Bool}
    (h : Completes i s c) (hc : s.cur = some c) (hh : c.r.holding = true) : ¬Stages i s c a new fb :=
  fun ⟨_, he, hm, _⟩ => h.not_moved hc hh he hm rfl

section
variable {s : State} {c : Cur} (hc : s.cur = some c)
include hc

theorem completes_of_ok {i : Instr} {f : Cur → Res} {r : Run} {lat : Nat} (hi : exec i s = s.runInstr f) (hf : f c = .ok s r lat) :
    Completes i s c := ⟨r, lat, by rw [hi, runInstr_ok hc hf]; rfl⟩

theorem completes_yield (gd : Guard) : Completes (.yield gd) s c :=
  ⟨_, _, show execYield gd s = _ from runInstr_ok hc rfl⟩

theorem completes_stx (gd : Guard) (x : BitVec 2) : Completes (.stx gd x) s c :=
  ⟨_, _, show execStx gd x s = _ from runInstr_ok hc rfl⟩

theorem completes_frsq (gd : Guard) : Completes (.frsq gd) s c :=
  ⟨_, _, show execFrsq gd s = _ from laneInstr_next hc gd 1 1 16 _⟩

theorem completes_wait_free (gd : Guard) : Completes (.wait gd ⟨15, 15, 7, 7⟩) s c :=
  completes_of_ok hc rfl (if_pos (Bool.or_eq_true_iff.2 (.inr (limitsOk_free c.g))))

variable {gd : Guard} (ho : c.on gd = 0)
include ho

theorem completes_sts_off (w : StW) : Completes (.sts gd w) s c :=
  completes_of_ok hc rfl (by simp only [ho, checkScratch_off]; rfl)

theorem completes_grow_off {n : BitVec 6} (hn : c.granules + n.toNat ≤ 32) : Completes (.grow gd n) s c :=
  completes_of_ok hc rfl (by simp only [if_neg (Nat.not_lt.2 hn), acts_off ho]; rfl)

theorem completes_mould_off : Completes (.mould gd) s c := completes_of_ok hc rfl (by simp only [acts_off ho]; rfl)

theorem completes_tload_off : Completes (.tload gd) s c := completes_of_ok hc rfl (by simp only [acts_off ho]; rfl)

theorem completes_pgmap_off {s1 : State} (hs : c.g.sup = true) (he : s.stagedElsewhere c isPgmap = false) (hm : s.withMapped c = some s1) :
    Completes (.pgmap gd) s c :=
  completes_of_ok hc rfl (by simp only [hs, he, hm, ho, mapPages_off]; rfl)

end

/-! ## The refutations: `Moved` keeps the hold mark, and an instruction that completes clears it -/

/-- Refutes O13: the mark of a run that holds at its instruction is gone once `yield` completes, and `Stages` says that it stays. -/
theorem not_groupActions : ¬ Obligations.GroupActions := by
  intro h
  obtain ⟨hy, -⟩ := h (holdingState false) (holdingCur false) guardOff rfl
  exact (completes_yield rfl _).not_stages rfl rfl hy

/-- Refutes O14: a `wait` at which the run held, and whose limits are met, completes and leaves no hold mark, where the
statement says that the mark stays. -/
theorem not_waitingInstructions : ¬ Obligations.WaitingInstructions := by
  intro h
  obtain ⟨hw, -⟩ := h (holdingState false) (holdingCur false) guardOff ⟨15, 15, 7, 7⟩ rfl
  obtain ⟨r', he, hm, -⟩ := hw (.inr ⟨.inl rfl, .inl rfl, .inl rfl, .inl rfl⟩)
  exact (completes_wait_free rfl _).not_moved rfl rfl he hm rfl

/-- Refutes O9: `stx` in a run that holds leaves no hold mark, where the statement says that the mark stays. -/
theorem not_registersOfARun : ¬ Obligations.RegistersOfARun := by
  rintro ⟨-, h⟩
  obtain ⟨-, hx, -⟩ := h (holdingState false) (holdingCur false) guardOff rfl (by decide)
  obtain ⟨r', he, hm, -⟩ := hx 0
  exact (completes_stx rfl _ _).not_moved rfl rfl he hm rfl

/-- Refutes O16: `frsq` in a run that holds leaves no hold mark, where `LaneWise` says that the mark stays. -/
theorem not_specialFunctions : ¬ Obligations.SpecialFunctions := by
  rintro ⟨h, -⟩
  exact (completes_frsq rfl guardOff).not_laneWise rfl rfl
    (h (holdingState false) (holdingCur false) guardOff rfl _ (List.mem_append_right _ (List.mem_singleton_self _)) (by decide))

/-- Refutes O25: `sts` with no lane on, in a run that holds, leaves no hold mark, where `Stages` says that the mark stays. -/
theorem not_laneAccessFaultsAndScratchpad : ¬ Obligations.LaneAccessFaultsAndScratchpad := by
  rintro ⟨-, h⟩
  obtain ⟨-, hs⟩ := h (holdingState false) (holdingCur false) guardOff rfl
  refine (completes_sts_off rfl (holdingCur_off false) .i8).not_stages rfl rfl
    (hs (.i8, 1, 1) (by decide) (by decide) fun l _ hl => ?_)
  rw [holdingCur_off] at hl
  simp [laneOn] at hl

/-- Refutes O27: `grow` of no granules in a run that holds leaves no hold mark, where the statement says that the mark stays. -/
theorem not_frameAllotment : ¬ Obligations.FrameAllotment := by
  intro h
  obtain ⟨-, -, hg, -⟩ := h (holdingState false) (holdingCur false) guardOff 0 rfl
  obtain ⟨r', he, hm, -⟩ := hg (by decide) (.inr rfl)
  exact (completes_grow_off rfl (holdingCur_off _) (by decide)).not_moved rfl rfl he hm rfl

/-- Refutes O29: `pgmap` with no lane on, in a run that holds, leaves no hold mark, where the statement says that the mark stays. -/
theorem not_pageMapping : ¬ Obligations.PageMapping := by
  rintro ⟨-, -, h⟩
  obtain ⟨hg, -⟩ := h (holdingState true) (holdingState true) (holdingCur true) guardOff rfl rfl (by decide) rfl (by decide)
    (by simp [holdingState, State.setGroup, mset, State.reset, holdingCur])
  obtain ⟨st, pages, ⟨r', he, hm, -⟩, -⟩ := hg (.inl rfl)
  exact (completes_pgmap_off rfl (holdingCur_off true) rfl (by decide) rfl).not_moved rfl rfl he hm rfl

/-- Refutes O32: `mould` with no lane on, in a run that holds, leaves no hold mark, where `LaneWise` says that the mark stays. -/
theorem not_mouldBinding : ¬ Obligations.MouldBinding := by
  rintro ⟨h, -⟩
  exact (completes_mould_off rfl (holdingCur_off false)).not_laneWise rfl rfl
    (h (holdingState false) (holdingCur false) guardOff rfl (by decide) (holdingCur_off false))

/-- Refutes O33: `tload` with no lane on, in a run that holds, leaves no hold mark, where `Stages` says that the mark stays. -/
theorem not_tableAndWatchLoads : ¬ Obligations.TableAndWatchLoads := by
  rintro ⟨-, h⟩
  obtain ⟨-, hl, -⟩ := h (holdingState false) (holdingCur false) guardOff rfl
  exact (completes_tload_off rfl (holdingCur_off false)).not_stages rfl rfl (hl (by decide) (holdingCur_off false))

end Sys2Proof.Claims

/-! # A split beyond the fourth (O38) -/

namespace Sys2Proof.Machine

/-- The upkeep keeps four split slots. -/
theorem splits_refresh_beyond {s : State} {core slot n : Nat} {g : Group} (hg : s.refresh.group core slot = some g) (hn : 4 ≤ n) :
    g.splits.getD n none = none := by
  rw [group_refresh, Option.map_eq_some_iff] at hg
  obtain ⟨g0, -, rfl⟩ := hg
  simp [State.touchGroup, List.getD, hn]

theorem decodeRun_badAddress {s : State} {core guest nsafe : Nat} {pc : Addr} (h : headerAddress pc = false) :
    s.decodeRun core guest nsafe pc = .error cRunForm := by
  simp [State.decodeRun, h]
  rfl

/-- A part at an address where no header stands. -/
def oddPart : Part := ⟨1, 0xFFFFFFFF, 0, 0, none, 0, 0, none, false, .nothing, 0, none, none, [], false, false⟩

/-- A group with a fifth split slot, in which that part stands. -/
def fiveSplits : Group :=
  { Group.fresh 0 0 0 0 0xFFFFFFFF 0 0 64 32 with splits := [none, none, none, none, some oddPart] }

end Sys2Proof.Machine

namespace Sys2Proof.Claims

open Sys2Proof.Machine

/-- Refutes O38: the list of a group's splits is not held to four in its hypotheses, and of a split beyond the fourth the upkeep
after `runDecode` leaves nothing, where the statement says that the refused header stands there as a fault. -/
theorem not_runDecoding : ¬ Obligations.RunDecoding := by
  rintro ⟨-, h⟩
  obtain ⟨-, -, -, hk⟩ := h (State.reset.setGroup 0 0 fiveSplits) 0 0 4 fiveSplits oddPart rfl rfl (by decide) rfl rfl rfl (by simp [State.reset])
  obtain ⟨t, g', q, he, hg, hq, -⟩ := hk cRunForm (decodeRun_badAddress (by decide)) (by decide)
  obtain rfl := Host.Outcome.next.inj he
  rw [splits_refresh_beyond hg (by decide)] at hq
  cases hq

end Sys2Proof.Claims

/-! # A status that is delivered into a full L1 (O45) -/

namespace Sys2Proof.Machine

/-! ## Plinth words and completion leave memory alone but for the line that makes room -/

theorem plinthWrite_of_fill {s s1 : State} {core guest idx : Nat} {pb : Addr} (m : Mask) (v : Lanes)
    (h : s.privFill core guest (plinthLine pb idx) .write = .ok s1) :
    ∃ s2, s.plinthWrite core guest pb idx m v = .ok s2 ∧ s2.mem = s1.mem ∧ s2.groups = s1.groups := by
  refine ⟨_, by rw [State.plinthWrite, h]; rfl, ?_⟩
  refine foldl_keeps (fun s2 => s2.mem = s1.mem ∧ s2.groups = s1.groups)
    (fun s l => s.privStore core guest (plinthLine pb idx) (4 * l) (leBytes 4 (laneAt v l).toNat)) (fun _ _ h => h) _ ⟨rfl, rfl⟩

/-- A group that has not ended keeps its slot. -/
theorem returnGroup_mem_of_live {s : State} {core slot : Nat} (h : ∀ g, s.group core slot = some g → g.ended = false) :
    (s.returnGroup core slot).mem = s.mem := by
  unfold State.returnGroup
  split
  · rfl
  · rename_i g hg
    simp [h g hg]

@[simp] theorem lower_ended (g : Group) (c : Option Ctr) : (g.lower c).ended = g.ended := by
  rcases c with _ | _ | _ | _ | _ <;> rfl

theorem completeOp_mem_of_live {s : State} {id : Nat} (h : ∀ o, mfind s.ops id = some o → ∀ g, s.group o.core o.slot = some g → g.ended = false) :
    (s.completeOp id).mem = s.mem := by
  unfold State.completeOp
  cases ho : mfind s.ops id with
  | none => rfl
  | some o =>
    refine returnGroup_mem_of_live fun g hg => ?_
    rw [group_modGroup, if_pos rfl] at hg
    obtain ⟨g0, hg0, rfl⟩ := Option.map_eq_some_iff.1 hg
    simpa [lower_ended] using h o ho g0 hg0

theorem privFill_miss {s : State} {core guest g pa e : Nat} {va : Addr} {acc : Access}
    (hd : ¬(acc = .write ∧ s.privDenied core guest va = true)) (ha : s.l1.any (fun x => x.isPriv core guest va) = false)
    (hv : s.threadVa guest va 128 = some g) (ht : s.translate guest g acc = .ok (pa, e)) (hr : isRemote pa = false) :
    s.privFill core guest va acc = .ok { s.l1Room core with
      l1 := ⟨core, pa / 128, (s.l1Room core).homeLine (pa / 128), .priv guest false va, []⟩ :: (s.l1Room core).l1 } := by
  simp only [State.privFill, if_neg hd, ha, hv, ht, hr]
  rfl

/-! ## A full L1 -/

/-- A dirty per-thread line whose frame is line 0 of memory. -/
def dirtyLine : L1Line := ⟨0, 0, [1], .priv 0 true 0, []⟩

/-- One lane at depth 1 with no entry resident. -/
def spilledGroup : Group :=
  { Group.fresh 0 0 0 0 1 0 0 16 0 with splits := [some ⟨0, 1, 1, 0, none, 0, 0, none, false, .nothing, 0, none, none, [], false, false⟩, none, none, none] }

/-- An `enq` of that lane whose status is known. -/
def answeredOp : Op := ⟨0, .enq, 0, 0, 0, 0, 1, [], .stack 0 1, none, 0, .zero, .add, false, .wg, false, 0, 0, some 0, false, false, none⟩

/-- The group's plinth lies in host memory; `l` is what stands in the L1s. -/
def crowdedState (l : List L1Line) : State := { State.reset with
  cc := 1, l1 := l, groups := [(0, spilledGroup)], ops := [(0, answeredOp)], tlb := [⟨0, 0, 0, 36, 5⟩],
  ctxs := [(0, { Ctx.initial with ptmsize := 1024 })], dev := { Device.initial with ucieA := true } }

theorem dirtyLine_elsewhere : dirtyLine.isPriv 0 0 (plinthLine 0 0) = false := rfl

section
variable {l : List L1Line} (hl : ∀ x ∈ l, x = dirtyLine)
include hl

theorem crowded_filter {p : L1Line → Bool} (hp : p dirtyLine = true) : l.filter p = l :=
  List.filter_eq_self.2 fun x hx => by rw [hl x hx, hp]

/-- Whichever line leaves a full L1, memory gets its byte. -/
theorem crowdedState_room (hn : l1Lines ≤ l.length) : ((crowdedState l).l1Room 0).mem = [(0, 1)] ∧
    ((crowdedState l).l1Room 0).groups = [(0, spilledGroup)] := by
  have hm : (crowdedState l).l1.filter (fun x => x.core == 0) = l := crowded_filter hl rfl
  have ho : l.filter (fun x => x.evictable && !(crowdedState l).coming x) = l := crowded_filter hl rfl
  simp only [State.l1Room, hm, ho, if_neg (Nat.not_lt.2 hn)]
  generalize (crowdedState l).freeWord.2.toNat % l.length = k
  have hk : ∀ x ∈ l.drop k ++ l.take k, x = dirtyLine := fun x hx =>
    hl x ((List.mem_append.1 hx).elim List.mem_of_mem_drop List.mem_of_mem_take)
  have hne : l.drop k ++ l.take k ≠ [] := by
    intro h
    have := congrArg List.length h
    simp only [List.length_append, List.length_drop, List.length_take, List.length_nil, l1Lines] at this hn
    omega
  obtain ⟨x, xs, hx⟩ := List.exists_cons_of_ne_nil hne
  rw [hx, show x = dirtyLine from hk x (hx ▸ List.mem_cons_self ..)]
  exact ⟨rfl, rfl⟩

theorem crowdedState_fill (hn : l1Lines ≤ l.length) :
    ∃ s1, (crowdedState l).privFill 0 0 (plinthLine 0 0) .write = .ok s1 ∧ s1.mem = [(0, 1)] ∧
      s1.groups = [(0, spilledGroup)] := by
  have hv : (crowdedState l).threadVa 0 (plinthLine 0 0) 128 = some 512 := by
    simp [State.threadVa, State.ctx, crowdedState, mget, mfind, plinthLine, Ctx.initial]
  have ht : (crowdedState l).translate 0 512 .write = .ok (hostAddr 512, 36) := rfl
  have ha : l.any (fun x => x.isPriv 0 0 (plinthLine 0 0)) = false :=
    List.any_eq_false.2 fun x hx => by simp only [hl x hx, dirtyLine_elsewhere, Bool.false_eq_true, not_false_eq_true]
  have hd : (crowdedState l).privDenied 0 0 (plinthLine 0 0) = false := by
    simp only [State.privDenied, hv, ht, Bool.and_false]
  exact ⟨_, privFill_miss (fun h => Bool.false_ne_true (hd.symm.trans h.2)) ha hv ht (by decide), crowdedState_room hl hn⟩

end

theorem crowdedState_completes (l : List L1Line) : exec (.operationComplete 0) (crowdedState l) =
    .next (((crowdedState l).putEntry 0 0 0 0 0).completeOp 0).refresh := rfl

theorem crowdedState_putEntry (l : List L1Line) : (crowdedState l).putEntry 0 0 0 0 0 =
    match (crowdedState l).plinthWrite 0 0 0 0 1 (mkLanes (fun _ => 0)) with
    | .ok s' => s'
    | .error _ => crowdedState l := rfl

end Sys2Proof.Machine


namespace Sys2Proof.Claims

open Sys2Proof.Machine

/-- Refutes O45: an answer to an entry that is not resident goes to the plinth; where the L1 is full, the line that makes room for
the plinth's is written back, and memory is not as it was. -/
theorem not_operationsComplete : ¬ Obligations.OperationsComplete := by
  intro h
  have hs : ∀ x ∈ List.replicate l1Lines dirtyLine, x = dirtyLine := fun x => List.eq_of_mem_replicate
  obtain ⟨hq, -⟩ := (h (crowdedState (List.replicate l1Lines dirtyLine))).1 0 answeredOp rfl rfl (by decide) rfl
    (fun g hg => by cases hg; rfl)
  obtain ⟨t, he, hm, -⟩ := hq 0 (.inl rfl) rfl
  obtain ⟨s1, hf, h1, hg1⟩ := crowdedState_fill hs (by simp)
  obtain ⟨s2, hw, h2, hg⟩ := plinthWrite_of_fill 1 (mkLanes (fun _ => 0)) hf
  rw [crowdedState_completes, crowdedState_putEntry, hw] at he
  obtain rfl := Host.Outcome.next.inj he
  have hc : (s2.completeOp 0).mem = s2.mem := completeOp_mem_of_live fun o _ g hgr => by
    rw [State.group, hg, hg1, mfind] at hgr
    split at hgr <;> cases hgr
    rfl
  rw [State.refresh_mem, hc, h2, h1] at hm
  cases hm

end Sys2Proof.Claims

/-! # A promotion that an overflow entry brings (O35) -/

namespace Sys2Proof.Machine

/-- A part of one lane at a PC. -/
def lonePart (lane pc : Nat) (due : Bool) : Part :=
  ⟨BitVec.ofNat 64 pc, BitVec.ofNat 32 (2 ^ lane), 0, 0, none, 0, 0, none, due, .nothing, 0, none, none, [], false, false⟩

/-- Four splits, eight pending entries in the hardware list, none of them due, and an overflow entry that is. -/
def queuedGroup : Group :=
  { Group.fresh 0 0 0 0 0x1FFF 0 0 16 0 with
    splits := [some (lonePart 0 100 false), some (lonePart 1 200 false), some (lonePart 2 300 false), some (lonePart 3 400 false)]
    pend := (List.range 8).map (fun k => lonePart (4 + k) (500 + 100 * k) false)
    ovf := [lonePart 12 1300 true] }

/-- The run of split 0, whose one lane has exited. -/
def exitRun : Run := { Run.fresh queuedGroup 0 (lonePart 0 100 false) ⟨0, []⟩ 0 with succ := [(0, none)] }

def exitCur : Cur := ⟨0, 0, { queuedGroup with run := some exitRun }, exitRun⟩

def exitState : State := { State.reset.setGroup 0 0 exitCur.g with focus := some (0, 0) }

theorem exitCur_newParts (now : Nat) : exitCur.newParts now = [] := by
  have h : exitCur.succs = [] := by
    have : lanesOf (exitCur.r.mask &&& ~~~exitCur.exiting) = [] := by decide
    simp [Cur.succs, this]
  simp [Cur.newParts, h]

theorem exitState_before : exitState.beforeCommit exitCur false 0 0 = .ok [] := by decide

/-- The lowest pending entry takes the slot; the overflow entry comes into the hardware list, is due, and takes the slot from it. -/
theorem exitState_commit : ((exitState.commitRun exitCur false 0 []).group 0 0).map
    (fun g => (g.pend ++ g.ovf).map (fun p => p.pc.toNat)) = some [600, 700, 800, 900, 1000, 1100, 1200, 500] := by
  rw [State.commitRun, group_refresh, Option.map_map]
  simp only [exitCur_newParts]
  decide +kernel

theorem exitState_endrun : exec (.endrun false 0 0) exitState = .next (exitState.commitRun exitCur false 0 []) := by
  have hc : exitState.cur = some exitCur := rfl
  change execEndrun false 0 0 exitState = _
  simp only [execEndrun, hc]
  rw [show (0 : BitVec 11).toNat = 0 from rfl, exitState_before]

end Sys2Proof.Machine

namespace Sys2Proof.Claims

open Sys2Proof.Machine

/-- All lanes of the run exit: it has no successor. -/
theorem exitCur_divided {ps : List (Addr × Mask × Nat)} (h : Divided exitCur ps) : ps = [] := by
  obtain ⟨-, hl, -⟩ := h
  refine List.eq_nil_iff_forall_not_mem.2 fun x hx => ?_
  obtain ⟨-, ⟨l, h32, hon⟩, hall⟩ := hl x hx
  have key : ∀ l < 32, laneOn exitCur.r.mask l = true → headsFor exitCur l = none := by decide
  have h := hall l h32
  rw [hon, eq_comm, Bool.and_eq_true] at h
  simpa [key l h32 h.1] using h.2

/-- Refutes O35: an overflow entry whose promotion is due, which the hypotheses on the hardware list do not exclude, comes into that
list as the lowest pending entry takes the slot that the exiting lanes left, and takes that slot from it at the same trailer. -/
theorem not_trailerCommits : ¬ Obligations.TrailerCommits := by
  rintro ⟨-, -, -, -, h⟩
  obtain ⟨t, he, -, hs⟩ := h exitState exitCur (lonePart 0 100 false) 0 rfl rfl (by decide) rfl rfl rfl rfl rfl rfl rfl rfl rfl
    (by decide) (by decide) (by decide) (by decide) (.inr (by decide))
  obtain rfl := Host.Outcome.next.inj (exitState_endrun.symm.trans he)
  obtain ⟨g', ps, hg, hd, -, -, -, -, hleft, -⟩ := hs (by decide)
  obtain ⟨-, hp⟩ := hleft (by decide) (exitCur_divided hd)
  have hlow : ∀ y ∈ exitCur.g.pend, 500 ≤ y.pc.toNat := by decide
  obtain ⟨-, hq⟩ := hp 0 (lonePart 4 500 false) rfl fun j y hy => ⟨hlow y (List.mem_of_getElem? hy), fun _ => Nat.zero_le j⟩
  have hq := congrArg (List.map (fun x => x.1.toNat)) hq
  rw [List.map_map] at hq
  have hc := exitState_commit
  rw [show State.group _ 0 0 = some g' from hg] at hc
  exact absurd (hq.symm.trans (Option.some.inj hc)) (by decide)

end Sys2Proof.Claims

/-! # A whole save while the group's table is loaded on its behalf (O51) -/

namespace Sys2Proof.Machine

/-- A resumed group that awaits its table, is asked to stop, and has set the no-flashback flag. -/
def awaitingGroup : Group := { Group.fresh 0 0 0 0 1 0 0 16 0 with preempt := true, nofb := true, tabAddr := some 0 }

/-- Its unit, and the load that the core makes on its behalf. -/
def awaitingState : State := { State.reset with
  groups := [(0, awaitingGroup)], units := [(0, ⟨0, 0, [0], true, [], none⟩)], ops := [(0, awaitingGroup.behalfOp 0 0 0 0 0 0 0)] }

/-- The save gives the load up (R190). -/
theorem awaitingState_saved : ∃ t, exec (.groupSave 0 0) awaitingState = .next t ∧ t.ops = [] := ⟨_, rfl, rfl⟩

end Sys2Proof.Machine

namespace Sys2Proof.Claims

open Sys2Proof.Machine

/-- Refutes O51: a whole save gives up the table load that the core makes on the group's behalf (R190), so an operation goes, where
the statement says that a whole save leaves the operations as they are. -/
theorem not_preemptionAndResumption : ¬ Obligations.PreemptionAndResumption := by
  intro h
  obtain ⟨-, hs, -⟩ := h awaitingState
  obtain ⟨-, -, hw⟩ := hs 0 0 0 awaitingGroup ⟨0, 0, [0], true, [], none⟩ rfl rfl rfl rfl rfl (by decide) rfl rfl
  obtain ⟨t, he, -, -, ho⟩ := hw fun hf => absurd hf.1 (by decide)
  obtain ⟨t', he', ho'⟩ := awaitingState_saved
  obtain rfl := Host.Outcome.next.inj (he.symm.trans he')
  rw [ho'] at ho
  cases ho

end Sys2Proof.Claims


/-! # The choice of a group and of its split (O39) -/

namespace Sys2Proof.Machine

/-- The element that is better than every other one, and than which none is, is picked. -/
theorem pickBy_best {α : Type} {better : α → α → Bool} {b : α} {xs : List α} (hb : b ∈ xs)
    (h : ∀ y ∈ xs, y ≠ b → better b y = true ∧ better y b = false) (hs : better b b = false) : pickBy better xs = some b := by
  have keeps : ∀ ys : List α, (∀ y ∈ ys, better y b = false) → ys.foldl (fun b y => if better y b then y else b) b = b := by
    intro ys hy
    induction ys with
    | nil => rfl
    | cons y ys ih =>
      rw [List.foldl_cons, hy y (by simp)]
      exact ih fun z hz => hy z (by simp [hz])
  have least : ∀ y ∈ xs, better y b = false := fun y hy => by
    by_cases e : y = b
    · rw [e, hs]
    · exact (h y hy e).2
  have finds : ∀ (ys : List α) (a : α), b ∈ a :: ys → a ∈ xs → ys ⊆ xs →
      ys.foldl (fun b y => if better y b then y else b) a = b := by
    intro ys
    induction ys with
    | nil => intro a hm _ _; exact (List.mem_singleton.1 hm).symm
    | cons y ys ih =>
      intro a hm ha hys
      rw [List.cons_subset] at hys
      by_cases e : a = b
      · subst e
        exact keeps _ fun z hz => least z (by rcases List.mem_cons.1 hz with rfl | hz; exacts [hys.1, hys.2 hz])
      · by_cases f : y = b
        · subst f
          rw [List.foldl_cons, if_pos (h a ha e).1]
          exact keeps _ fun z hz => least z (hys.2 hz)
        · have hm' : b ∈ ys := by simpa [Ne.symm e, Ne.symm f] using hm
          rw [List.foldl_cons]
          refine ih _ (List.mem_cons_of_mem _ hm') ?_ hys.2
          split
          exacts [hys.1, ha]
  cases xs with
  | nil => simp at hb
  | cons x xs => exact congrArg some (finds xs x hb (by simp) (by simp))

theorem candBefore_irrefl (x : Cand) : candBefore x x = false := by simp [candBefore]

/-- The order of R360, said by cases. -/
theorem candBefore_of {b y : Cand} (h : (b.starved = true ∧ y.starved = false) ∨ (b.starved = y.starved ∧
    ((b.starved = false ∧ y.prio < b.prio) ∨
      ((b.starved = true ∨ b.prio = y.prio) ∧ (y.waited < b.waited ∨ (b.waited = y.waited ∧ b.slot < y.slot)))))) :
    candBefore b y = true ∧ candBefore y b = false := by
  obtain ⟨bn, bs, bp, bw⟩ := b
  obtain ⟨yn, ys, yp, yw⟩ := y
  cases bs <;> cases ys <;> simp [candBefore] at h ⊢ <;> omega

theorem splitBefore_irrefl (x : Nat × Part) : splitBefore x x = false := by simp [splitBefore]

/-- With neither split passed over too long, the lower PC ranks first, and the lower slot of equals (R61). -/
theorem splitBefore_of {n k : Nat} {p q : Part} (hp : p.overdue = false) (hq : q.overdue = false)
    (h : p.pc.toNat < q.pc.toNat ∨ (p.pc = q.pc ∧ n < k)) : splitBefore (n, p) (k, q) = true ∧ splitBefore (k, q) (n, p) = false := by
  have e : p.pc = q.pc ↔ p.pc.toNat = q.pc.toNat := BitVec.toNat_inj.symm
  have e' : q.pc = p.pc ↔ q.pc.toNat = p.pc.toNat := BitVec.toNat_inj.symm
  simp only [splitBefore, hp, hq, e] at h ⊢
  simp [e, e']
  omega

/-- The occupied split slots, read one by one. -/
theorem mem_slots {g : Group} {k : Nat} {q : Part} : (k, q) ∈ g.slots ↔ k < 4 ∧ g.splits.getD k none = some q := by
  simp only [Group.slots, List.mem_filterMap, List.mem_range, Option.map_eq_some_iff, Prod.mk.injEq]
  constructor
  · rintro ⟨j, hj, p, hp, rfl, rfl⟩
    exact ⟨hj, hp⟩
  · rintro ⟨hk, hq⟩
    exact ⟨k, hk, q, hq, rfl, rfl⟩

/-- The ready split that ranks before every other one is next. -/
theorem nextSplit_best {g : Group} {n : Nat} {p : Part} (hn : n < 4) (hp : g.splits.getD n none = some p) (hr : p.readyAt.isSome)
    (ho : p.overdue = false) (h : ∀ k q, k < 4 → k ≠ n → g.splits.getD k none = some q → q.readyAt.isSome →
      q.overdue = false ∧ (p.pc.toNat < q.pc.toNat ∨ (p.pc = q.pc ∧ n < k))) : g.nextSplit = some (n, p) := by
  refine pickBy_best (List.mem_filter.2 ⟨mem_slots.2 ⟨hn, hp⟩, hr⟩) ?_ (splitBefore_irrefl _)
  rintro ⟨k, q⟩ hy hne
  obtain ⟨hm, hq⟩ := List.mem_filter.1 hy
  obtain ⟨hk, hs⟩ := mem_slots.1 hm
  have hkn : k ≠ n := fun e => hne (by subst e; rw [hp] at hs; rw [Option.some.inj hs])
  obtain ⟨hqo, hpq⟩ := h k q hk hkn hs hq
  exact splitBefore_of ho hqo hpq

/-- The upkeep leaves the run in focus; of its group it changes what it keeps up. -/
theorem cur_refresh {s : State} {c : Cur} (h : s.cur = some c) :
    s.refresh.cur = some { c with g := s.touchGroup (gkey c.core c.slot) c.g } := by
  obtain ⟨hf, hg, hr⟩ := cur_eq_some.1 h
  exact cur_eq_some.2 ⟨hf, by simp [group_refresh, hg], hr⟩

/-- A group whose yield, if any, is over where another of its scheduler has been chosen. -/
def Group.yieldEnded (core sched slot key : Nat) (g : Group) : Group :=
  if key / 64 = core ∧ (key % 64) / 12 = sched ∧ key % 64 ≠ slot then { g with yieldAt := none } else g

@[simp] theorem yieldEnded_run (core sched slot key : Nat) (g : Group) : (g.yieldEnded core sched slot key).run = g.run := by
  unfold Group.yieldEnded; split <;> rfl

theorem group_endYields (s : State) (core sched slot j k : Nat) :
    (s.endYields core sched slot).group j k = (s.group j k).map (Group.yieldEnded core sched slot (gkey j k)) := by
  rw [State.group, State.group, ← mfind_map s.groups (Group.yieldEnded core sched slot) (gkey j k)]
  congr 1
  refine List.map_congr_left fun x _ => ?_
  unfold Group.yieldEnded
  split <;> rfl

/-- The run of a chosen split stands in focus. -/
theorem cur_startRun (s : State) (core slot : Nat) (g : Group) (n : Nat) (p : Part) (m : RunImage) :
    ∃ g', (s.startRun core slot g n p m).cur = some ⟨core, slot, g', Run.fresh g n p m s.cc⟩ := by
  have hgroup : ∃ g', (s.startRun core slot g n p m).group core slot = some g' ∧ g'.run = some (Run.fresh g n p m s.cc) := by
    change ∃ g', ((s.setGroup core slot _).endYields core (slot / 12) slot).group core slot = some g' ∧ _
    rw [group_endYields, group_setGroup, if_pos rfl]
    exact ⟨_, rfl, by simp⟩
  obtain ⟨g', hg, hr⟩ := hgroup
  exact ⟨g', cur_eq_some.2 ⟨rfl, hg, hr⟩⟩

/-- An idle scheduler issues its best candidate. -/
theorem exec_issueSelect_best {s : State} {core sched : Nat} {b : Cand} (hi : s.schedIdle core sched = true)
    (hb : b ∈ s.candidates core sched)
    (h : ∀ y ∈ s.candidates core sched, y ≠ b → candBefore b y = true ∧ candBefore y b = false) :
    exec (.issueSelect core sched) s = .next (s.issue core b.slot).refresh := by
  show execIssueSelect core sched s = _
  simp only [execIssueSelect, State.event, hi, pickBy_best hb h (candBefore_irrefl b), Bool.not_true, Bool.false_eq_true, if_false]

end Sys2Proof.Machine

namespace Sys2Proof.Claims
open Sys2Proof.Machine

/-- Settles O39: the best candidate and the best split are the ones `pickBy` finds, and the run that begins is `Run.fresh`. -/
theorem issueSelection : Obligations.IssueSelection := by
  intro s core sched b g n p m hi hb hbest hg hbd hp hn hr hm ho hsplit
  have hx := exec_issueSelect_best hi hb fun y hy hne => candBefore_of (hbest y hy hne)
  have hissue : s.issue core b.slot = s.startRun core b.slot g n p m := by
    simp only [State.issue, hbd, hg, nextSplit_best hn hp hr ho hsplit, hm]
  obtain ⟨g', hc⟩ := cur_startRun s core b.slot g n p m
  rw [hissue] at hx
  refine ⟨_, _, hx, rfl, cur_refresh hc, rfl, rfl, rfl, rfl, rfl, rfl, rfl, rfl, rfl, ?_, rfl, ?_⟩
  · simp [Run.fresh, RunImage.dmin]
  · intro k l hk
    rw [RunImage.dmin] at hk
    simp [Run.fresh, List.getD_eq_getElem?_getD, hk]

end Sys2Proof.Claims


/-! # What writes to memory, trace packets and private lines leave unchanged -/

namespace Sys2Proof.Machine

/-- The state without memory, devices, L1 lines, requests in flight, trace rings, contexts and groups. -/
def State.still (s : State) : State :=
  { s with mem := [], dev := State.reset.dev, fresh := 0, l1 := [], sent := [], far := [], lastTrace := [], ctxs := [], groups := [] }

/-- Two contexts differ at most in whether the dirty log throttles them (R419). -/
def Ctx.Alike (x y : Ctx) : Prop := y = { x with throttled := y.throttled }

/-- Two groups differ at most in whether they owe SYNC packets (R396). -/
def Group.Alike (g h : Group) : Prop := h = { g with sync := h.sync }

/-- `t` is `s` after writes to memory, requests to other packages, L1 traffic and trace packets. -/
structure Quiet (s t : State) : Prop where
  still : t.still = s.still
  ctx : ∀ n, (s.ctx n).Alike (t.ctx n)
  group : ∀ j k, Option.Rel Group.Alike (s.group j k) (t.group j k)

theorem Group.Alike.refl (g : Group) : g.Alike g := rfl

theorem Group.Alike.trans {g h i : Group} (a : g.Alike h) (b : h.Alike i) : g.Alike i := by
  unfold Group.Alike at a b ⊢
  rw [b, a]

theorem Ctx.Alike.trans {x y z : Ctx} (a : x.Alike y) (b : y.Alike z) : x.Alike z := by
  unfold Ctx.Alike at a b ⊢
  rw [b, a]

/-- Groups and contexts untouched: only the rest has to be compared. -/
theorem quiet_of {s t : State} (h : t.still = s.still) (hc : t.ctxs = s.ctxs) (hg : t.groups = s.groups) : Quiet s t where
  still := h
  ctx n := by
    have e : t.ctx n = s.ctx n := by simp only [State.ctx, hc]
    rw [e]; rfl
  group j k := by
    have e : t.group j k = s.group j k := by simp only [State.group, hg]
    rw [e]
    cases s.group j k with
    | none => exact .none
    | some g => exact .some rfl

namespace Quiet

theorem refl (s : State) : Quiet s s := quiet_of rfl rfl rfl

theorem trans {s t u : State} (a : Quiet s t) (b : Quiet t u) : Quiet s u where
  still := b.still.trans a.still
  ctx n := (a.ctx n).trans (b.ctx n)
  group j k := by
    have ha := a.group j k
    have hb := b.group j k
    revert ha hb
    generalize s.group j k = x, t.group j k = y, u.group j k = z
    intro ha hb
    cases ha with
    | none => exact hb
    | some h => cases hb with | some h' => exact .some (h.trans h')

theorem foldl {β : Type} {f : State → β → State} (hf : ∀ s x, Quiet s (f s x)) (xs : List β) (s : State) : Quiet s (xs.foldl f s) :=
  foldl_keeps (Quiet s) f (fun _ x h => h.trans (hf _ x)) xs (refl s)

/-- The group of a slot is there afterwards, alike. -/
theorem of_group {s t : State} (h : Quiet s t) {core slot : Nat} {g : Group} (hg : s.group core slot = some g) :
    ∃ g', t.group core slot = some g' ∧ g.Alike g' := by
  have hr := h.group core slot
  rw [hg] at hr
  generalize t.group core slot = y at hr
  cases hr with
  | some h => exact ⟨_, rfl, h⟩

end Quiet

/-! ## Requests and rings -/

theorem quiet_putRequest (s : State) (pkg : Nat) (r : Config.LinkRequest) : Quiet s (s.putRequest pkg r).1 := by
  unfold State.putRequest
  split
  · split
    · exact quiet_of rfl rfl rfl
    · exact .refl s
  · exact .refl s

theorem quiet_farGo (s : State) (f : Far) : Quiet s (s.farGo f) := by
  unfold State.farGo
  split
  · exact .refl s
  · exact (quiet_putRequest s _ _).trans (quiet_of rfl rfl rfl)

theorem quiet_farAdd (s : State) (who : FarUser) (guest : Nat) (va : Addr) (addr : Nat) (bs : List Byte) :
    Quiet s (s.farAdd who guest va addr bs) :=
  Quiet.trans (t := { s.nextNum.1 with far := s.nextNum.1.far ++ [⟨s.nextNum.2, who, guest, va, addr, bs, none, none⟩] })
    (quiet_of rfl rfl rfl) (quiet_farGo _ _)

theorem quiet_farAsk (s : State) (who : FarUser) (guest : Nat) (va : Addr) (line : Nat) : Quiet s (s.farAsk who guest va line) := by
  unfold State.farAsk
  split
  exacts [.refl s, quiet_farAdd ..]

theorem quiet_farStore (s : State) (who : FarUser) (guest : Nat) (va : Addr) (addr : Nat) (bs : List Byte) :
    Quiet s (s.farStore who guest va addr bs) := Quiet.foldl (fun _ _ => quiet_farAdd ..) _ _

theorem quiet_putAt (s : State) (guest : Nat) (as : List Nat) (bs : List Byte) : Quiet s (s.putAt guest as bs) :=
  Quiet.trans (t := { s with mem := wrAt s.mem as bs }) (quiet_of rfl rfl rfl) (Quiet.foldl (fun _ _ => quiet_farStore ..) _ _)

theorem quiet_ringField (s : State) (r : Ring) (o v : Nat) : Quiet s (s.ringField r o v) := quiet_putAt ..

/-! ## Trace packets -/

theorem quiet_setSync (s : State) (guest : Nat) (p : Nat → Bool) : Quiet s (s.setSync guest p) where
  still := rfl
  ctx _ := rfl
  group j k := by
    let f : Nat → Group → Group := fun key g => if g.guest = guest && p (key / 64) then { g with sync := true } else g
    have hm : (s.setSync guest p).group j k = (s.group j k).map (f (gkey j k)) := by
      rw [State.group, State.group, ← mfind_map s.groups f (gkey j k)]
      congr 1
      refine List.map_congr_left fun x _ => ?_
      dsimp only [f]
      split <;> rfl
    rw [hm]
    cases s.group j k with
    | none => exact .none
    | some g =>
      refine .some ?_
      dsimp only [f]
      split <;> rfl

theorem quiet_traceItem (s : State) (guest core : Nat) (last : Option Nat) (p : Packet) :
    Quiet s (s.traceItem guest core last p).1 := by
  unfold State.traceItem
  split
  · exact .refl s
  extract_lets gap time delta n body item need
  split
  · split
    · rename_i r _ _ as _ _
      have h : Quiet s ((s.putAt guest as item).ringField r 12 ((r.wr + item.length) % 2 ^ 32)) :=
        (quiet_putAt ..).trans (quiet_ringField ..)
      dsimp only
      split
      · exact h.trans ((quiet_ringField ..).trans (quiet_setSync ..))
      · exact h
    · exact quiet_ringField ..
  · exact quiet_ringField ..

theorem quiet_traceItems (s : State) (guest core : Nat) (last : Option Nat) (ps : List Packet) :
    Quiet s (s.traceItems guest core last ps).1 := by
  induction ps generalizing s last with
  | nil => exact .refl _
  | cons p ps ih => exact (quiet_traceItem s guest core last p).trans (ih _ _)

/-- Either of two results is quiet. -/
theorem quiet_either {β : Type} {c : Prop} [Decidable c] {s : State} {x y : State × β} (hx : Quiet s x.1) (hy : Quiet s y.1) :
    Quiet s (if c then x else y).1 := by
  split
  exacts [hx, hy]

theorem quiet_trace (s : State) (guest core slot split type : Nat) (payload : List Byte) :
    Quiet s (s.trace guest core slot split type payload) := by
  unfold State.trace
  extract_lets key
  split
  · exact .refl s
  split
  · exact quiet_of rfl rfl rfl
  dsimp only
  refine (quiet_either (x := State.traceItem _ _ _ _ _) (y := State.traceItems _ _ _ _ _) ?_ ?_).trans (quiet_of rfl rfl rfl)
  · exact quiet_traceItem ..
  · exact (quiet_ringField ..).trans ((quiet_ringField ..).trans (quiet_traceItems ..))

theorem quiet_traceSlots (s : State) (core slot : Nat) (ns : List Nat) : Quiet s (s.traceSlots core slot ns) := by
  refine Quiet.foldl (fun t n => ?_) _ _
  split
  · split
    · exact quiet_trace ..
    · exact .refl t
  · exact .refl t

/-! ## Private lines -/

theorem quiet_logPage {s t : State} {guest pa : Nat} (h : s.logPage guest pa = some t) : Quiet s t := by
  unfold State.logPage at h
  dsimp only at h
  split at h
  · cases h; exact .refl s
  split at h
  · cases h
  cases h
  refine ⟨rfl, fun n => ?_, fun j k => ?_⟩
  · by_cases e : n = guest
    · subst e
      simp [State.modCtx, State.setCtx, State.ctx, State.setCmd, Ctx.Alike]
    · simp [State.modCtx, State.setCtx, State.ctx, State.setCmd, mget_mset_other _ _ _ e, Ctx.Alike]
  · exact (Quiet.refl s).group j k

theorem quiet_writeBack (s : State) (x : L1Line) : Quiet s (s.writeBack x) := by
  unfold State.writeBack
  split
  · split
    · exact quiet_farStore ..
    · exact quiet_of rfl rfl rfl
  · exact quiet_of rfl rfl rfl
  · exact .refl s

theorem quiet_writeBackLog {s t : State} {x : L1Line} (h : s.writeBackLog x = some t) : Quiet s t := by
  unfold State.writeBackLog at h
  split at h
  · cases h; exact .refl s
  · cases h; exact .refl s
  · obtain ⟨u, hu, rfl⟩ := Option.map_eq_some_iff.1 h
    exact (quiet_logPage hu).trans (quiet_writeBack u x)

theorem quiet_l1Room (s : State) (core : Nat) : Quiet s (s.l1Room core) := by
  unfold State.l1Room
  extract_lets mine out r k
  split
  · exact .refl s
  cases h : (out.drop k ++ out.take k).findSome? (fun x => (r.1.writeBackLog x).map (fun s => s.dropLine x)) with
  | none => exact .refl s
  | some t =>
    obtain ⟨x, -, hx⟩ := List.exists_of_findSome?_eq_some h
    obtain ⟨u, hu, rfl⟩ := Option.map_eq_some_iff.1 hx
    have hr : Quiet s r.1 := quiet_of rfl rfl rfl
    have hd : Quiet u (u.dropLine x) := quiet_of rfl rfl rfl
    exact (hr.trans (quiet_writeBackLog hu)).trans hd

theorem quiet_privFill {s t : State} {core guest : Nat} {va : Addr} {acc : Access} (h : s.privFill core guest va acc = .ok t) :
    Quiet s t := by
  unfold State.privFill at h
  split at h
  · cases h
  split at h
  · cases h; exact .refl s
  split at h
  · cases h
  split at h
  · cases h
  dsimp only at h
  cases h
  refine (quiet_l1Room s core).trans (Quiet.trans (t := if _ then _ else _) ?_ (quiet_of rfl rfl rfl))
  split
  exacts [quiet_farAsk .., .refl _]

theorem quiet_privStore (s : State) (core guest : Nat) (va : Addr) (off : Nat) (bs : List Byte) :
    Quiet s (s.privStore core guest va off bs) := quiet_of rfl rfl rfl

theorem quiet_keepOvf (s : State) (core slot : Nat) : Quiet s (s.keepOvf core slot) := by
  unfold State.keepOvf
  split
  · exact .refl s
  refine Quiet.foldl (fun t x => ?_) _ _
  dsimp only
  split
  · rename_i u hu
    exact (quiet_privFill hu).trans (quiet_privStore ..)
  · exact .refl t

end Sys2Proof.Machine


/-! # The time limits of parts and groups (O40) -/

namespace Sys2Proof.Machine

/-- An event that changes one group leaves it changed and then touched. -/
theorem group_event_modGroup {s : State} {core slot : Nat} {g : Group} (hg : s.group core slot = some g) (f : Group → Group) :
    (s.modGroup core slot f).refresh.group core slot = some ((s.modGroup core slot f).touchGroup (gkey core slot) (f g)) := by
  simp [group_refresh, group_modGroup, hg]

/-! ## Readiness is not a matter of the group's own entry in the table of groups -/

theorem any_mset_unseen {α : Type} {p : Nat × α → Bool} {k : Nat} (hp : ∀ v, p (k, v) = false) (m : AMap α) (v : α) :
    (mset m k v).any p = m.any p := by
  induction m with
  | nil => simp [mset, hp]
  | cons x m ih =>
    obtain ⟨a, b⟩ := x
    unfold mset
    split
    · simp [hp]
    · split
      · rename_i h
        subst h
        simp [hp]
      · simp [ih]

theorem any_mmod_unseen {α : Type} {p : Nat × α → Bool} {k : Nat} (hp : ∀ v, p (k, v) = false) (m : AMap α) (f : α → α) :
    (mmod m k f).any p = m.any p := by
  unfold mmod
  split
  · exact any_mset_unseen hp m _
  · rfl

/-- The bank that a group may take does not depend on the group itself. -/
theorem bankFree_modGroup (s : State) {core slot j k : Nat} (f : Group → Group) (h : gkey j k = gkey core slot) :
    (s.modGroup core slot f).bankFree j k = s.bankFree j k := by
  have hb (t : Nat) : (mmod s.groups (gkey core slot) f).any (fun x => x.1 / 64 == j && x.1 != gkey j k && x.2.tab == some t) =
      s.groups.any (fun x => x.1 / 64 == j && x.1 != gkey j k && x.2.tab == some t) :=
    any_mmod_unseen (fun v => by simp [h]) s.groups f
  unfold State.bankFree State.bankFor State.modGroup
  simp only [hb]

theorem ready_modGroup (s : State) {core slot j k : Nat} (f : Group → Group) (h : gkey j k = gkey core slot) (g : Group) (n : Nat)
    (p : Part) : (s.modGroup core slot f).ready j k g n p = s.ready j k g n p := by
  have hw : (s.modGroup core slot f).waitOver j k g p = s.waitOver j k g p := by
    unfold State.waitOver
    rw [bankFree_modGroup s f h]
    rfl
  unfold State.ready
  rw [hw]
  rfl

theorem touchSplit_modGroup (s : State) {core slot j k : Nat} (f : Group → Group) (h : gkey j k = gkey core slot) (g : Group) (n : Nat)
    (p : Part) : (s.modGroup core slot f).touchSplit j k g n p = s.touchSplit j k g n p := by
  unfold State.touchSplit
  rw [ready_modGroup s f h]
  rfl

/-- What a promotion leaves: a record that waits for its queue waits as before. -/
theorem deliveryWaits_starved {s : State} {core slot : Nat} {g : Group} {f : Group → Group} (hg : s.group core slot = some g)
    (hf : f g = { g with starved := true }) (x : Group) :
    (s.modGroup core slot f).deliveryWaits core slot x = s.deliveryWaits core slot x := by
  have hstuck (c : Ctr) : (s.modGroup core slot f).stuck core slot c = s.stuck core slot c := by
    unfold State.stuck
    rw [group_modGroup, if_pos rfl, hg, Option.map_some, hf]
    rfl
  have hawaits (p : Part) (r : Rec) : (s.modGroup core slot f).awaits core slot x p r = s.awaits core slot x p r := by
    unfold State.awaits State.outOfReach
    simp only [hstuck]
    rfl
  have hdue (p : Part) : (s.modGroup core slot f).headerDue core slot x p = s.headerDue core slot x p := by
    unfold State.headerDue
    simp only [hawaits]
    rfl
  have hnext : (s.modGroup core slot f).nextPart core slot x = s.nextPart core slot x := by
    unfold State.nextPart
    simp only [hdue]
  have hrec : (s.modGroup core slot f).dueRec core slot x = s.dueRec core slot x := by
    unfold State.dueRec
    simp only [hnext, hawaits]
    rfl
  unfold State.deliveryWaits
  rw [hrec]
  rfl

/-- The splits after the upkeep. -/
theorem splits_touchGroup (s : State) (core slot : Nat) (g : Group) (hs : slot < 64) :
    (s.touchGroup (gkey core slot) g).splits = (List.range 4).map (fun n => (g.splits.getD n none).map
      (fun p => if g.running n then p else s.touchSplit core slot g n p)) := by
  have hd : gkey core slot / 64 = core := by simp only [gkey]; omega
  have hm : gkey core slot % 64 = slot := by simp only [gkey]; omega
  simp only [State.touchGroup, hd, hm]

theorem inEnow_key (s : State) (core slot : Nat) (g : Group) (hs : slot < 64) : s.inEnow (gkey core slot) g =
    (g.run.isNone && g.yieldAt.isNone && g.sleepAt.isNone && !(s.ctx g.guest).throttled
      && g.splits.any (fun o => match o with | some p => p.readyAt.isSome | none => false) && !s.deliveryWaits core slot g) := by
  have hd : gkey core slot / 64 = core := by simp only [gkey]; omega
  have hm : gkey core slot % 64 = slot := by simp only [gkey]; omega
  simp only [State.inEnow, hd, hm] <;> rfl

/-- A promoted group that stays in E stays promoted. -/
theorem starved_touchGroup {s : State} {core slot u : Nat} {g : Group} {f : Group → Group} (hs : slot < 64)
    (hg : s.group core slot = some g) (hf : f g = { g with starved := true }) (ht : s.touchGroup (gkey core slot) g = g)
    (hu : g.inE = some u) : ((s.modGroup core slot f).touchGroup (gkey core slot) { g with starved := true }).starved = true := by
  have hin : s.inEnow (gkey core slot) { g with splits := (s.touchGroup (gkey core slot) g).splits } = true := by
    have hE := congrArg Group.inE ht
    rw [hu] at hE
    by_contra hn
    simp only [State.touchGroup] at hE hn
    rw [if_neg hn] at hE
    cases hE
  have hsp : ((s.modGroup core slot f).touchGroup (gkey core slot) { g with starved := true }).splits =
      (s.touchGroup (gkey core slot) g).splits := by
    rw [splits_touchGroup _ _ _ _ hs, splits_touchGroup _ _ _ _ hs]
    simp only [touchSplit_modGroup s f rfl]
    rfl
  have hin' : (s.modGroup core slot f).inEnow (gkey core slot)
      { g with starved := true, splits := ((s.modGroup core slot f).touchGroup (gkey core slot) { g with starved := true }).splits } = true := by
    rw [hsp, inEnow_key _ _ _ _ hs, deliveryWaits_starved hg hf]
    rw [inEnow_key _ _ _ _ hs] at hin
    exact hin
  exact Bool.and_eq_true_iff.2 ⟨hin', rfl⟩

/-- Whether a split is ready is not a matter of its place in the queue of ready splits. -/
theorem ready_modSplit_due (s : State) (core slot : Nat) (g : Group) (n k : Nat) (p : Part) (f : Part → Part) :
    s.ready core slot (g.modSplit k f) n { p with due := true } = s.ready core slot g n p := rfl

/-! ## Release at a JOIN -/

theorem getD_map_range {α : Type} (f : Nat → Option α) (j : Nat) :
    ((List.range 4).map f).getD j none = if j < 4 then f j else none := by
  by_cases h : j < 4 <;> simp [List.getD_eq_getElem?_getD, h]

/-- One split alone, in slot `k` and with the lanes `m`, stands at a PC. -/
structure Group.Alone (g : Group) (pc : Addr) (k : Nat) (m : Mask) : Prop where
  length : g.splits.length = 4
  stands : ∃ q, g.splits.getD k none = some q ∧ q.pc = pc ∧ q.held = none ∧ q.mask = m
  only : ∀ j x, g.splits.getD j none = some x → x.pc = pc → j = k
  listed : ∀ x ∈ g.pend ++ g.ovf, x.pc ≠ pc

namespace Group.Alone

variable {g h : Group} {pc : Addr} {k : Nat} {m : Mask}

/-- The part that stands there, alone. -/
theorem parts (a : g.Alone pc k m) : ∃ q, g.splits.getD k none = some q ∧ q.pc = pc ∧ q.held = none ∧ q.mask = m ∧
    ∀ x ∈ g.parts, x.pc = pc → x = q := by
  obtain ⟨q, hq, hpc, hh, hm⟩ := a.stands
  refine ⟨q, hq, hpc, hh, hm, fun x hx hxpc => ?_⟩
  simp only [Group.parts, List.append_assoc, List.mem_append (s := g.splits.filterMap id)] at hx
  rcases hx with hx | hx
  · obtain ⟨o, ho, rfl⟩ := List.mem_filterMap.1 hx
    obtain ⟨j, hj⟩ := List.mem_iff_getElem?.1 ho
    have hjd : g.splits.getD j none = some x := by simp [List.getD_eq_getElem?_getD, hj]
    rw [a.only j x hjd hxpc, hq] at hjd
    exact (Option.some.inj hjd).symm
  · exact absurd hxpc (a.listed x hx)

/-- Splits changed one by one, that keep PC, lanes and release. -/
theorem mapped (a : g.Alone pc k m) (hl : h.splits.length = 4) {f : Nat → Part → Part}
    (hs : ∀ j, h.splits.getD j none = (g.splits.getD j none).map (f j))
    (hf : ∀ j p, (f j p).pc = p.pc ∧ (f j p).held = p.held ∧ (f j p).mask = p.mask)
    (hx : ∀ x ∈ h.pend ++ h.ovf, x.pc ≠ pc) : h.Alone pc k m where
  length := hl
  stands := by
    obtain ⟨q, hq, hpc, hh, hm⟩ := a.stands
    obtain ⟨fpc, fh, fm⟩ := hf k q
    exact ⟨f k q, by rw [hs, hq]; rfl, fpc.trans hpc, fh.trans hh, fm.trans hm⟩
  only j x hj hxpc := by
    rw [hs] at hj
    obtain ⟨y, hy, rfl⟩ := Option.map_eq_some_iff.1 hj
    exact a.only j y hy ((hf j y).1.symm.trans hxpc)
  listed := hx

theorem alike (a : g.Alone pc k m) (e : g.Alike h) : h.Alone pc k m := by
  rw [e]
  exact ⟨a.length, a.stands, a.only, a.listed⟩

theorem refill (a : g.Alone pc k m) (now : Nat) : (g.refill now).Alone pc k m := by
  refine ⟨a.length, a.stands, a.only, fun x hx => ?_⟩
  have hl := a.listed
  simp only [List.mem_append] at hl
  simp only [Group.refill, List.mem_append, List.mem_map] at hx
  rcases hx with (hx | ⟨y, hy, rfl⟩) | hx
  · exact hl x (.inl hx)
  · exact hl y (.inr (List.mem_of_mem_take hy))
  · exact hl x (.inr (List.mem_of_mem_drop hx))

theorem markClear (a : g.Alone pc k m) : g.markClear.Alone pc k m := by
  refine a.mapped (f := fun _ p => if p.image.isNone && g.lowestAt p.pc then { p with clear := true } else p)
    (by simp [Group.markClear, a.length]) (fun j => ?_) (fun j p => ?_) a.listed
  · simp only [Group.markClear, List.getD_eq_getElem?_getD, List.getElem?_map]
    cases g.splits[j]? <;> rfl
  · split <;> exact ⟨rfl, rfl, rfl⟩

theorem touched (a : g.Alone pc k m) (s : State) (key : Nat) : (s.touchGroup key g).Alone pc k m := by
  refine a.mapped (f := fun n p => if g.running n then p else s.touchSplit (key / 64) (key % 64) g n p) (by simp [State.touchGroup])
    (fun j => ?_) (fun j p => ?_) a.listed
  · simp only [State.touchGroup, getD_map_range]
    split
    · rfl
    · have : g.splits.getD j none = none := by
        rw [List.getD_eq_getElem?_getD, List.getElem?_eq_none (by rw [a.length]; omega)]; rfl
      rw [this]; rfl
  · dsimp only [State.touchSplit]
    split
    · exact ⟨rfl, rfl, rfl⟩
    · split <;> exact ⟨rfl, rfl, rfl⟩

/-- A pending entry takes a free slot. -/
theorem takes (a : g.Alone pc k m) {n i : Nat} {p : Part} (hn : g.splits.getD n none = none) (hp : g.pend[i]? = some p) (now : Nat) :
    Alone { g with splits := lset g.splits n (some { p with queued := now, due := false }), pend := g.pend.eraseIdx i } pc k m := by
  have hpm : p ∈ g.pend := List.mem_of_getElem? hp
  have hother (j : Nat) (h : n ≠ j) : (lset g.splits n (some { p with queued := now, due := false })).getD j none = g.splits.getD j none := by
    simp [lset, List.getD_eq_getElem?_getD, List.getElem?_set_ne h]
  refine ⟨by simp [lset, a.length], ?_, fun j x hj hx => ?_, fun x hx => ?_⟩
  · obtain ⟨q, hq, h⟩ := a.stands
    refine ⟨q, ?_, h⟩
    rw [← hq]
    exact hother k fun e => by rw [← e, hn] at hq; cases hq
  · by_cases e : n = j
    · subst e
      exfalso
      have : x = { p with queued := now, due := false } := by
        simp only [lset, List.getD_eq_getElem?_getD, List.getElem?_set_self', Option.map_eq_map] at hj
        cases h : g.splits[n]? with
        | none => simp [h] at hj
        | some o => simpa [h] using hj.symm
      subst this
      exact a.listed p (List.mem_append_left _ hpm) hx
    · exact a.only j x ((hother j e).symm.trans hj) hx
  · refine a.listed x ?_
    rcases List.mem_append.1 hx with hx | hx
    · exact List.mem_append_left _ (List.mem_of_mem_eraseIdx hx)
    · exact List.mem_append_right _ hx

theorem fillSlots (fuel now : Nat) (a : g.Alone pc k m) : (Group.fillSlots fuel now g).1.Alone pc k m := by
  induction fuel generalizing g with
  | zero => exact a
  | succ fuel ih =>
    unfold Group.fillSlots
    split
    · rename_i n i hn _
      split
      · exact a
      · rename_i p hp
        have hfree : g.splits.getD n none = none := Option.isNone_iff_eq_none.1 (List.find?_some (p := fun n => (g.splits.getD n none).isNone) hn)
        exact ih ((a.takes hfree hp now).refill now)
    · exact a

end Group.Alone

/-- Outside the split of a run in progress, the parts at a PC are all the parts at it. -/
theorem partsAt_eq_parts {g : Group} {pc : Addr} (hl : g.splits.length = 4)
    (hr : ∀ r q, g.run = some r → g.splits.getD r.split none = some q → q.pc ≠ pc) :
    g.partsAt pc = g.parts.filter (fun x => x.pc == pc) := by
  have hs : g.splits.filterMap id = (List.range 4).filterMap (fun n => g.splits.getD n none) := by
    have hmap : g.splits = (List.range 4).map (fun n => g.splits.getD n none) := by
      refine List.ext_getElem (by simp [hl]) fun j h1 h2 => ?_
      simp [List.getD_eq_getElem?_getD, h1]
    conv_lhs => rw [hmap]
    simp [List.filterMap_map]
  unfold Group.partsAt Group.idleParts Group.parts
  simp only [List.filter_append, hs, List.filter_filterMap]
  congr 2
  refine List.filterMap_congr fun n _ => ?_
  unfold Group.idleSplit Group.running
  cases hrun : g.run with
  | none => simp
  | some r =>
    by_cases e : r.split = n
    · subst e
      cases hq : g.splits.getD r.split none with
      | none => simp
      | some q => simp [Option.filter, hr r q hrun hq]
    · simp [e]

/-- What stands in an idle split at a PC is found. -/
theorem idleSplit_mem_partsAt {g : Group} {n : Nat} {p : Part} (hp : g.idleSplit n = some p) (hn : n < 4) : p ∈ g.partsAt p.pc := by
  refine List.mem_filter.2 ⟨?_, by simp⟩
  unfold Group.idleParts
  rw [List.append_assoc]
  exact List.mem_append_left _ (List.mem_filterMap.2 ⟨n, List.mem_range.2 hn, hp⟩)

theorem idleSplit_eq_some {g : Group} {n : Nat} {p : Part} (hp : g.idleSplit n = some p) :
    g.running n = false ∧ g.splits.getD n none = some p := by
  unfold Group.idleSplit at hp
  split at hp
  · cases hp
  · rename_i h
    exact ⟨by simpa using h, hp⟩

/-- One split written over the others' slots stands alone where none of them is at its PC. -/
theorem alone_of_merged {g : Group} {pc : Addr} {k : Nat} {m : Mask} {q : Part} {f : Nat → Option Part}
    (hs : g.splits = lset ((List.range 4).map f) k (some q)) (hk : k < 4) (hq : q.pc = pc) (hh : q.held = none)
    (hm : q.mask = m) (hf : ∀ j < 4, ∀ x, f j = some x → x.pc ≠ pc) (hx : ∀ x ∈ g.pend ++ g.ovf, x.pc ≠ pc) : g.Alone pc k m where
  length := by simp [hs, lset]
  stands := ⟨q, by simp [hs, lset, List.getD_eq_getElem?_getD, hk], hq, hh, hm⟩
  only j x hj hxpc := by
    by_contra hne
    have e : g.splits.getD j none = ((List.range 4).map f).getD j none := by
      simp [hs, lset, List.getD_eq_getElem?_getD, List.getElem?_set_ne (Ne.symm hne)]
    rw [e, getD_map_range] at hj
    split at hj
    · exact hf j ‹_› x hj hxpc
    · cases hj
  listed := hx

/-- A split of the group at the PC that is not idle is none of them, with no run of the group at the PC. -/
theorem idleSplit_of_pc {g : Group} {j : Nat} {x : Part} (hj : g.splits.getD j none = some x)
    (hr : ∀ r q, g.run = some r → g.splits.getD r.split none = some q → q.pc ≠ x.pc) : g.idleSplit j = some x := by
  unfold Group.idleSplit Group.running
  cases hrun : g.run with
  | none => simpa using hj
  | some r =>
    have hne : r.split ≠ j := fun e => hr r x hrun (by rw [e]; exact hj) rfl
    simpa [hne] using hj

/-- A release of parts of equal depth leaves one split at the PC, with the lanes of them all (R62). -/
theorem release_alone {g : Group} {n : Nat} {p : Part} (hp : g.idleSplit n = some p) (hn : n < 4)
    (hd : ∀ x ∈ g.partsAt p.pc, x.depth = p.depth)
    (hr : ∀ r q, g.run = some r → g.splits.getD r.split none = some q → q.pc ≠ p.pc) :
    ∃ k, (g.release p.pc).Alone p.pc k ((g.partsAt p.pc).foldl (fun m p => m ||| p.mask) 0) := by
  have hmem := idleSplit_mem_partsAt hp hn
  unfold Group.release
  extract_lets ps here
  have hhere : here n = true := by simp [here, hp]
  cases hf : (List.range 4).find? here with
  | none => exact absurd hhere (List.find?_eq_none.1 hf n (List.mem_range.2 hn))
  | some k =>
    have hk4 : k < 4 := List.mem_range.1 (List.mem_of_find?_eq_some hf)
    cases hps : ps with
    | nil => rw [show g.partsAt p.pc = [] from hps] at hmem; cases hmem
    | cons p0 rest =>
      have hp0 : p0 ∈ g.partsAt p.pc := by rw [show g.partsAt p.pc = p0 :: rest from hps]; simp
      have heq : (p0 :: rest).all (fun p => p.depth == p0.depth) = true := by
        rw [← hps, List.all_eq_true]
        intro x hx
        simp [hd x hx, hd p0 hp0]
      refine ⟨k, ?_⟩
      simp only [heq, if_true]
      rw [show g.partsAt p.pc = p0 :: rest from hps]
      refine alone_of_merged rfl hk4 ?_ rfl (congrArg (List.foldl (fun m p => m ||| p.mask) 0) hps) (fun j _ x hj hx => ?_) fun x hx => ?_
      · simpa using (List.mem_filter.1 hp0).2
      · split at hj
        · cases hj
        · rename_i hno
          exact hno (by simp [here, idleSplit_of_pc hj (by rw [hx]; exact hr), hx])
      · simp only [List.mem_append, List.mem_filter, bne_iff_ne] at hx
        exact hx.elim (·.2) (·.2)

/-- Pending entries take free slots elsewhere. -/
theorem fillAt_alone {s : State} {core slot : Nat} {g : Group} {pc : Addr} {k : Nat} {m : Mask} (hg : s.group core slot = some g)
    (a : g.Alone pc k m) : ∃ g', (s.fillAt core slot).group core slot = some g' ∧ g'.Alone pc k m := by
  unfold State.fillAt
  simp only [hg]
  split
  · exact ⟨g, hg, a⟩
  · have hq := (quiet_traceSlots (s.setGroup core slot (Group.fillSlots 4 s.cc (g.refill s.cc)).1.markClear) core slot
      (Group.fillSlots 4 s.cc (g.refill s.cc)).2).trans (quiet_keepOvf _ core slot)
    obtain ⟨g', hg', e⟩ := hq.of_group (by rw [group_setGroup, if_pos rfl])
    exact ⟨g', hg', (((a.refill s.cc).fillSlots 4 s.cc).markClear).alike e⟩

theorem group_releaseJoin {s : State} {core slot : Nat} {g : Group} (hg : s.group core slot = some g) (pc : Addr) :
    ∃ g', (s.releaseJoin core slot pc).group core slot = some g' ∧ (g.release pc).Alike g' := by
  have hset : (s.setGroup core slot (g.release pc)).group core slot = some (g.release pc) := by rw [group_setGroup, if_pos rfl]
  refine Quiet.of_group ?_ hset
  unfold State.releaseJoin
  simp only [hg]
  split
  · split
    · split
      exacts [quiet_trace .., .refl _]
    · exact .refl _
  · exact .refl _

/-- A release leaves one part at the PC, in a split, whatever comes into the other slots. -/
theorem releaseAt_alone {s : State} {core slot : Nat} {g : Group} {pc : Addr} {k : Nat} {m : Mask} (hg : s.group core slot = some g)
    (a : (g.release pc).Alone pc k m) : ∃ g', (s.releaseAt core slot pc).group core slot = some g' ∧ g'.Alone pc k m := by
  obtain ⟨g', hg', e⟩ := group_releaseJoin hg pc
  unfold State.releaseAt
  simp only [hg']
  split
  · exact ⟨g', hg', a.alike e⟩
  · exact fillAt_alone hg' (a.alike e)

end Sys2Proof.Machine

namespace Sys2Proof.Claims
open Sys2Proof.Machine

/-- Settles O40: each time limit is one change of the group; the upkeep that follows keeps a promotion because it finds the
group in E as before, and what stands alone at a JOIN stays alone while the other slots are filled. -/
theorem schedulingTimers : Obligations.SchedulingTimers := by
  intro s core slot n g hg
  refine ⟨fun p hp hq => ?_, fun u hu hc => ?_, fun u hu hc => ?_, fun u ht hs hu hc => ?_, fun p r u hp hn hs hr hu hrdy hover hl => ?_,
    fun p u hp hn hl hu hc hd hr => ?_⟩
  · refine ⟨_, _, rfl, group_event_modGroup hg _, ?_⟩
    change g.pend.modify n _ = _
    rw [List.modify_eq_set_getElem?, hp]
    simp [hq]
  · refine ⟨_, _, rfl, group_event_modGroup hg _, ?_⟩
    simp only [hu, hc, if_true]
    rfl
  · refine ⟨_, _, rfl, group_event_modGroup hg _, ?_⟩
    simp only [hu, hc, if_true]
    rfl
  · obtain ⟨f, hx, hf⟩ : ∃ f, exec (.starvationPromotion core slot) s = .next (s.modGroup core slot f).refresh ∧
        f g = { g with starved := true } := by
      have h256 : 256 ≤ s.cc - u := by omega
      exact ⟨_, rfl, by simp [hu, h256]⟩
    exact ⟨_, _, hx, by rw [group_event_modGroup hg f, hf], starved_touchGroup hs hg hf ht hu⟩
  · obtain ⟨hrun, hsp⟩ := idleSplit_eq_some hp
    have hx : exec (.splitPassedOverExpiry core slot n) s =
        .next (s.modGroup core slot (fun g => g.modSplit n (fun p => { p with due := true }))).refresh := by
      show execSplitPassedOverExpiry core slot n s = _
      simp only [execSplitPassedOverExpiry, State.event, hg, hp, hr, hu, hover, if_true]
    refine ⟨_, _, { p with due := true, readyAt := some (p.readyAt.getD s.cc) }, hx, group_event_modGroup hg _, ?_, rfl, rfl⟩
    rw [splits_touchGroup _ _ _ _ hs, getD_map_range, if_pos hn]
    have hmod : (g.modSplit n (fun p => { p with due := true })).splits.getD n none = some { p with due := true } := by
      simp [Group.modSplit, lset, List.getD_eq_getElem?_getD, hl] at hsp ⊢
      simp [hsp]
    have hnr : (g.modSplit n (fun p => { p with due := true })).running n = false := hrun
    rw [hmod, Option.map_some, hnr, if_neg Bool.false_ne_true, touchSplit_modGroup s _ rfl, State.touchSplit, ready_modSplit_due,
      if_pos hrdy]
  · have hat := partsAt_eq_parts hl hr
    obtain ⟨k, ha⟩ := release_alone hp hn (fun x hx => by
      rw [hat] at hx
      exact hd x (List.mem_filter.1 hx).1 (by simpa using (List.mem_filter.1 hx).2)) hr
    obtain ⟨g', hg', ha'⟩ := releaseAt_alone hg ha
    have hx : exec (.joinReleaseTimeout core slot n) s = .next (s.releaseAt core slot p.pc).refresh := by
      show execJoinReleaseTimeout core slot n s = _
      simp only [execJoinReleaseTimeout, State.event, hg, hp, hu, hc, if_true]
    obtain ⟨q, hq, hpc, hh, hm, honly⟩ := (ha'.touched (s.releaseAt core slot p.pc) (gkey core slot)).parts
    refine ⟨_, _, k, q, hx, by rw [group_refresh, hg']; rfl, hq, hpc, hh, ?_, honly⟩
    rw [hm, hat, List.foldl_map]

end Sys2Proof.Claims


/-! # Groups and contexts while a group is stopped or ends -/

namespace Sys2Proof.Machine

/-- The groups and the contexts. -/
def State.roster (s : State) : AMap Group × AMap Ctx := (s.groups, s.ctxs)

theorem group_of_roster {s t : State} (h : t.roster = s.roster) (j k : Nat) : t.group j k = s.group j k :=
  congrArg (fun x : AMap Group × AMap Ctx => mfind x.1 (gkey j k)) h

theorem ctx_of_roster {s t : State} (h : t.roster = s.roster) (n : Nat) : t.ctx n = s.ctx n := by
  have hc : t.ctxs = s.ctxs := congrArg Prod.snd h
  simp only [State.ctx, hc]

theorem roster_foldl {β : Type} {f : State → β → State} (hf : ∀ s x, (f s x).roster = s.roster) (xs : List β) (s : State) :
    (xs.foldl f s).roster = s.roster := foldl_keeps (fun t => t.roster = s.roster) f (fun t x h => (hf t x).trans h) xs rfl

/-! ## Granules, banks and records -/

@[simp] theorem roster_growGrant (core : Nat) (fuel : Nat) (s : State) : (State.growGrant s core fuel).roster = s.roster := by
  induction fuel generalizing s with
  | zero => rfl
  | succ fuel ih =>
    unfold State.growGrant
    split
    · rfl
    · split
      · exact ih _
      · rfl

@[simp] theorem roster_granulesBack (s : State) (core : Nat) : (s.granulesBack core).roster = s.roster := roster_growGrant ..

@[simp] theorem roster_growLeave (s : State) (core slot : Nat) : (s.growLeave core slot).roster = s.roster := roster_growGrant ..

@[simp] theorem roster_emptyBank (s : State) (id : Nat) : (s.emptyBank id).roster = s.roster := rfl

@[simp] theorem roster_unbind (s : State) (core : Nat) (tab : Option Nat) : (s.unbind core tab).roster = s.roster := by
  cases tab <;> rfl

@[simp] theorem roster_refillRecs (s : State) (core guest : Nat) (store : Bool) : (s.refillRecs core guest store).roster = s.roster := by
  unfold State.refillRecs
  split <;> rfl

@[simp] theorem roster_dropRecs (s : State) (p : Rec → Bool) : (s.dropRecs p).roster = s.roster :=
  roster_foldl (fun t _ => roster_refillRecs t _ _ _) _ _

@[simp] theorem roster_dropBehalf (s : State) (core slot : Nat) : (s.dropBehalf core slot).roster = s.roster := by
  unfold State.dropBehalf
  split
  · rfl
  · rw [roster_dropRecs]
    rfl

@[simp] theorem roster_writeSlot (s : State) (guest k : Nat) (cs : List Host.Cell) : (s.writeSlot guest k cs).roster = s.roster := by
  unfold State.writeSlot
  split <;> rfl

@[simp] theorem roster_spillRec (s : State) (i hw : Nat) : (s.spillRec i hw).roster = s.roster := by
  unfold State.spillRec
  split
  · rfl
  · exact roster_writeSlot ..

@[simp] theorem roster_spillOp (s : State) (core id : Nat) (owner : DWord) (live : Mask) : (s.spillOp core id owner live).roster = s.roster := by
  unfold State.spillOp
  split
  · rfl
  · exact roster_writeSlot ..

@[simp] theorem roster_recordAll (s : State) (core ghost : Nat) (g : Group) : (s.recordAll core ghost g).roster = s.roster := by
  unfold State.recordAll
  rw [roster_foldl fun t _ => roster_spillOp ..]
  refine roster_foldl (fun t i => ?_) _ _
  split
  · split
    exacts [roster_spillRec .., rfl]
  · rfl

@[simp] theorem roster_detach (s : State) (core slot ghost : Nat) (g : Group) (mine : Op → Bool) :
    (s.detach core slot ghost g mine).roster = s.roster := by
  unfold State.detach
  rw [roster_foldl fun t _ => roster_refillRecs ..]
  exact roster_recordAll ..

/-! ## What stopping a group changes of it -/

/-- The group with its table binding given up and no run in progress, as an escalation saves it. -/
def Group.stood (g : Group) (tab : Option Nat) (a : Option Addr) : Group := { g with run := none, tab := tab, tabAddr := a }

/-- The group escalated: firmware holds it (R373). -/
def Group.escalated (g : Group) (e : Escal) : Group := { g with esc := some e }

theorem group_releaseTable {s : State} {core slot : Nat} {g : Group} (hg : s.group core slot = some g) :
    ∃ tab a, (s.releaseTable core slot).group core slot = some { g with tab := tab, tabAddr := a } := by
  unfold State.releaseTable
  simp only [hg]
  split
  · exact ⟨g.tab, g.tabAddr, by rw [group_of_roster (roster_dropBehalf ..), hg]⟩
  · exact ⟨none, _, by rw [group_modGroup, if_pos rfl, group_of_roster (roster_unbind ..), hg]; rfl⟩

/-- The state in which an escalation writes the group's save block. -/
def State.standing (s : State) (core slot : Nat) : State :=
  ((s.newId.1.growLeave core slot).releaseTable core slot).modGroup core slot (fun g => { g with run := none })

theorem group_standing {s : State} {core slot : Nat} {g : Group} (hg : s.group core slot = some g) :
    ∃ tab a, (s.standing core slot).group core slot = some (g.stood tab a) := by
  have h1 : (s.newId.1.growLeave core slot).group core slot = some g := by
    rw [group_of_roster (roster_growLeave ..)]
    exact hg
  obtain ⟨tab, a, h2⟩ := group_releaseTable h1
  exact ⟨tab, a, by rw [State.standing, group_modGroup, if_pos rfl, h2]; rfl⟩

@[simp] theorem roster_keepBlock (s : State) (core slot : Nat) : (s.keepBlock core slot).1.roster = s.roster := by
  unfold State.keepBlock
  dsimp only
  split
  · rfl
  · split <;> rfl

/-- What firmware learns of an escalation. -/
def State.escal (s : State) (core slot : Nat) (cause : Cause) (info : BitVec 8) (entry : Option (PartRef × Exc)) : Escal :=
  ⟨s.nextId, cause, ((s.standing core slot).keepBlock core slot).2.1, ((s.standing core slot).keepBlock core slot).2.2, false, false,
    info, entry⟩

/-- An escalation, from the state in which the save block is written. -/
theorem escalate_eq {s : State} {core slot : Nat} {g : Group} (hg : (s.standing core slot).group core slot = some g) (cause : Cause)
    (info : BitVec 8) (entry : Option (PartRef × Exc)) : s.escalate core slot cause info entry =
      (((s.standing core slot).keepBlock core slot).1.detach core slot (ghostOf s.nextId) g (fun o => o.awaited core slot)).modGroup core slot
        (fun g => g.escalated (s.escal core slot cause info entry)) := by
  have hk : ((s.standing core slot).keepBlock core slot).1.group core slot = some g := by
    rw [group_of_roster (roster_keepBlock ..), hg]
  unfold State.escal
  unfold State.standing at hk ⊢
  simp only [State.newId] at hk ⊢
  simp only [State.escalate, State.newId, hk]
  rfl

/-- An escalated group stands in its slot, with the cause. -/
theorem group_escalate {s : State} {core slot : Nat} {g : Group} (hg : s.group core slot = some g) (cause : Cause)
    (info : BitVec 8) (entry : Option (PartRef × Exc)) : ∃ tab a, (s.standing core slot).group core slot = some (g.stood tab a) ∧
      (s.escalate core slot cause info entry).group core slot =
        some ((g.stood tab a).escalated (s.escal core slot cause info entry)) := by
  obtain ⟨tab, a, hs⟩ := group_standing hg
  refine ⟨tab, a, hs, ?_⟩
  rw [escalate_eq hs, group_modGroup, if_pos rfl, group_of_roster (roster_detach ..), group_of_roster (roster_keepBlock ..), hs]
  rfl

end Sys2Proof.Machine


/-! # Taking an exception (O36) -/

namespace Sys2Proof.Machine

/-! ## Rollback -/

/-- The group without its parts, the run in progress, step mode and SYNC packets owed. -/
def Group.regs (g : Group) : Group :=
  { g with splits := [], pend := [], ovf := [], run := none, step := false, stepAsk := none, sync := false }

theorem Group.Alike.regs {g h : Group} (a : g.Alike h) : h.regs = g.regs := by
  unfold Group.Alike at a
  rw [a]
  rfl

/-- Filling free slots moves parts about, and the run in progress, if any, goes on. -/
theorem regs_fillSlots (fuel now : Nat) (g : Group) :
    (Group.fillSlots fuel now g).1.regs = g.regs ∧ (Group.fillSlots fuel now g).1.run = g.run := by
  induction fuel generalizing g with
  | zero => exact ⟨rfl, rfl⟩
  | succ fuel ih =>
    unfold Group.fillSlots
    split
    · split
      · exact ⟨rfl, rfl⟩
      · obtain ⟨h, hr⟩ := ih _
        exact ⟨h.trans rfl, hr⟩
    · exact ⟨rfl, rfl⟩

theorem group_fillAt {s : State} {core slot : Nat} {g : Group} (hg : s.group core slot = some g) :
    ∃ g', (s.fillAt core slot).group core slot = some g' ∧ g'.regs = g.regs ∧ g'.run = g.run := by
  unfold State.fillAt
  simp only [hg]
  split
  · exact ⟨g, hg, rfl, rfl⟩
  · obtain ⟨g', hg', e⟩ := ((quiet_traceSlots (s.setGroup core slot (Group.fillSlots 4 s.cc (g.refill s.cc)).1.markClear) core slot
      (Group.fillSlots 4 s.cc (g.refill s.cc)).2).trans (quiet_keepOvf _ core slot)).of_group (by rw [group_setGroup, if_pos rfl])
    obtain ⟨h, hr⟩ := regs_fillSlots 4 s.cc (g.refill s.cc)
    have hm : (Group.fillSlots 4 s.cc (g.refill s.cc)).1.markClear.regs = (Group.fillSlots 4 s.cc (g.refill s.cc)).1.regs := rfl
    refine ⟨g', hg', (e.regs.trans hm).trans (h.trans rfl), ?_⟩
    rw [e]
    exact hr

/-- Filling free slots changes the group's parts; the rest of the state is as after writes and trace packets. -/
theorem fillAt_frame (s : State) (core slot : Nat) :
    (s.fillAt core slot).still = s.still ∧ ∀ n, (s.ctx n).Alike ((s.fillAt core slot).ctx n) := by
  unfold State.fillAt
  split
  · exact ⟨rfl, fun _ => rfl⟩
  · split
    · exact ⟨rfl, fun _ => rfl⟩
    · rename_i g _ _
      have h := (quiet_traceSlots (s.setGroup core slot (Group.fillSlots 4 s.cc (g.refill s.cc)).1.markClear) core slot
        (Group.fillSlots 4 s.cc (g.refill s.cc)).2).trans (quiet_keepOvf _ core slot)
      exact ⟨h.still.trans rfl, h.ctx⟩

/-- The group of a run that rolls back, at its header again (R81). -/
def Group.back (g : Group) (now n : Nat) (w : WaitOn) : Group :=
  { (g.stepNow.passOver now).modSplit n (fun p => { p with wait := w, readyAt := none }) with run := none }

theorem regs_back (g : Group) (now n : Nat) (w : WaitOn) : (g.back now n w).regs = g.regs := by
  have hp : (g.stepNow.passOver now).regs = g.stepNow.regs := by
    unfold Group.passOver
    split <;> rfl
  exact hp.trans rfl

/-- A rollback, before pending entries take free slots. -/
theorem rollback_eq (s : State) (core slot n : Nat) (w : WaitOn) : ∃ s' : State, s.rollback core slot n w = s'.fillAt core slot ∧
    s'.group core slot = (s.group core slot).map (fun g => g.back s.cc n w) ∧ s'.ctxs = s.ctxs ∧ s'.recs = s.recs ∧ s'.ops = s.ops := by
  refine ⟨_, rfl, ?_, rfl, rfl, rfl⟩
  have ht : (s.trailed core slot).group core slot = (s.group core slot).map Group.stepNow :=
    (group_modGroup { s with trailAt := _ } core slot core slot Group.stepNow).trans (if_pos rfl)
  rw [group_modGroup, if_pos rfl, ht, Option.map_map]
  rfl

/-- The group of a run rolled back stands with its registers as they were. -/
theorem group_rollback {s : State} {core slot : Nat} {g : Group} (hg : s.group core slot = some g) (n : Nat) (w : WaitOn) :
    ∃ g', (s.rollback core slot n w).group core slot = some g' ∧ g'.regs = g.regs ∧ g'.run = none := by
  obtain ⟨s', e, hs', -⟩ := rollback_eq s core slot n w
  rw [hg] at hs'
  obtain ⟨g', hg', h, hr⟩ := group_fillAt hs'
  exact ⟨g', by rw [e, hg'], h.trans (regs_back ..), hr⟩

/-- A rollback leaves contexts, records and operations as they were, but for throttling. -/
theorem rollback_frame (s : State) (core slot n : Nat) (w : WaitOn) :
    (∀ k, (s.ctx k).Alike ((s.rollback core slot n w).ctx k)) ∧ (s.rollback core slot n w).recs = s.recs ∧
      (s.rollback core slot n w).ops = s.ops := by
  obtain ⟨s', e, -, hc, hr, ho⟩ := rollback_eq s core slot n w
  obtain ⟨hs, hx⟩ := fillAt_frame s' core slot
  have hctx (k : Nat) : s'.ctx k = s.ctx k := by simp only [State.ctx, hc]
  rw [e]
  exact ⟨fun k => hctx k ▸ hx k, (congrArg State.recs hs).trans hr, (congrArg State.ops hs).trans ho⟩

/-! ## Entering the handler -/

theorem quiet_plinthWrite {s t : State} {core guest : Nat} {pb : Addr} {idx : Nat} {m : Mask} {v : Lanes}
    (h : s.plinthWrite core guest pb idx m v = .ok t) : Quiet s t := by
  unfold State.plinthWrite at h
  cases hf : s.privFill core guest (plinthLine pb idx) .write with
  | error k => rw [hf] at h; cases h
  | ok u =>
    rw [hf] at h
    cases h
    exact (quiet_privFill hf).trans (Quiet.foldl (fun _ _ => quiet_privStore ..) _ _)

theorem quiet_spillFrom {s t : State} {core : Nat} {g : Group} {m : Mask} {lo n : Nat} (h : s.spillFrom core g m lo n = .ok t) :
    Quiet s t := by
  unfold State.spillFrom at h
  revert h
  generalize List.range n = xs
  induction xs generalizing s with
  | nil => intro h; cases h; exact .refl _
  | cons x xs ih =>
    intro h
    rw [List.foldlM_cons] at h
    cases hp : s.plinthWrite core g.guest g.pb (lo + x) m (mget g.win ((lo + x) % 8) []) with
    | error k => rw [hp] at h; cases h
    | ok u => rw [hp] at h; exact (quiet_plinthWrite hp).trans (ih h)

theorem quiet_spillPart (core : Nat) (g : Group) (fuel : Nat) (s : State) (p : Part) : Quiet s (s.spillPart core g fuel p).1 := by
  induction fuel generalizing s p with
  | zero => exact .refl s
  | succ fuel ih =>
    unfold State.spillPart
    split
    · exact .refl s
    · dsimp only
      split
      · exact .refl s
      · rename_i u hu
        exact (quiet_spillFrom hu).trans (ih u _)

theorem quiet_spillParts (core : Nat) (g : Group) (ps : List (Option Part)) (s : State) : Quiet s (s.spillParts core g ps).1 := by
  induction ps generalizing s with
  | nil => exact .refl s
  | cons o ps ih =>
    cases o with
    | none => exact ih s
    | some p =>
      unfold State.spillParts
      dsimp only
      split
      · exact quiet_spillPart ..
      · exact (quiet_spillPart ..).trans (ih _)

/-- The depth above every part, where the handler's entries start (R278). -/
def Group.deepest (g : Group) : Nat := g.parts.foldl (fun n p => max n p.depth) 0

/-- A part as it is parked. -/
def Part.parked (p : Part) : Part := { p with res := 0, readyAt := none, excess := [] }

/-- The group in its handler (R278). -/
def Group.handling (g : Group) (deliv : PartRef) (e : Exc) (xvec : Addr) : Group :=
  { g.writeX e with
    sup := true, run := none
    parked := some ⟨g.splits.map (Option.map Part.parked), g.pend.map Part.parked, g.ovf.map Part.parked, g.deepest, deliv⟩
    splits := [some (handlerSplit xvec e.mask g.deepest), none, none, none], pend := [], ovf := [] }

/-- With every part spilled the group stands in its handler. -/
theorem group_enterHandler {s s' : State} {core slot : Nat} {g : Group} {ps : List (Option Part)} (hg : s.group core slot = some g)
    (h : s.spillParts core g (g.splits ++ (g.pend ++ g.ovf).map some) = (s', ps, none)) (deliv : PartRef) (e : Exc) :
    (s.enterHandler core slot deliv e).group core slot = some (g.handling deliv e (s.ctx g.guest).xvec) := by
  have hq : Quiet s s' := by
    have := quiet_spillParts core g (g.splits ++ (g.pend ++ g.ovf).map some) s
    rwa [h] at this
  unfold State.enterHandler
  simp only [hg, h]
  rw [group_setGroup, if_pos rfl]
  have hx (n : Nat) : ((s'.trace (g.writeX e).guest core slot n 8
      (leBytes 4 (g.writeX e).xcause.toNat ++ leBytes 4 e.mask.toNat)).ctx g.guest).xvec = (s.ctx g.guest).xvec := by
    rw [(hq.trans (quiet_trace ..)).ctx g.guest]
  exact congrArg (fun x => some (g.handling deliv e x)) (hx _)

/-- At a spill that faults the group escalates, with the registers written. -/
theorem group_enterHandler_fault {s s' : State} {core slot : Nat} {g : Group} {ps : List (Option Part)} {k : Cause}
    (hg : s.group core slot = some g)
    (h : s.spillParts core g (g.splits ++ (g.pend ++ g.ovf).map some) = (s', ps, some k)) (deliv : PartRef) (e : Exc) :
    ∃ g' x tab a, g.Alike g' ∧ (s.enterHandler core slot deliv e).group core slot =
      some ((((g'.withParts ps).writeX e).stood tab a).escalated x) ∧ x.cause = k := by
  have hq : Quiet s s' := by
    have := quiet_spillParts core g (g.splits ++ (g.pend ++ g.ovf).map some) s
    rwa [h] at this
  obtain ⟨g', hg', ha⟩ := hq.of_group hg
  obtain ⟨tab, a, -, he⟩ := group_escalate (s := s'.modGroup core slot (fun g => (g.withParts ps).writeX e))
    (by rw [group_modGroup, if_pos rfl, hg']; rfl) k 0 (some (deliv, e))
  have hx : s.enterHandler core slot deliv e =
      (s'.modGroup core slot (fun g => (g.withParts ps).writeX e)).escalate core slot k 0 (some (deliv, e)) := by
    unfold State.enterHandler
    simp only [hg, h]
  exact ⟨g', _, tab, a, ha, hx ▸ he, rfl⟩

theorem deliver_handler {s : State} {core slot : Nat} {g : Group} (hg : s.group core slot = some g) (deliv : PartRef) {e : Exc}
    (hd : dispositionOf e.cause = .handler) (hs : g.sup = false) (hx : (s.ctx g.guest).xvec ≠ 0) :
    s.deliver core slot deliv e = s.enterHandler core slot deliv e := by
  simp only [State.deliver, hg, hd, hs, Bool.false_eq_true, if_false, if_neg hx]

theorem deliver_escalates {s : State} {core slot : Nat} {g : Group} (hg : s.group core slot = some g) (deliv : PartRef) {e : Exc}
    (hd : dispositionOf e.cause = .handler) (h : g.sup = true ∨ (s.ctx g.guest).xvec = 0) :
    s.deliver core slot deliv e = s.escalate core slot e.cause e.info none := by
  rcases h with h | h <;> simp [State.deliver, hg, hd, h]

end Sys2Proof.Machine


namespace Sys2Proof.Machine

/-! ## Where an escalation writes its save block -/

theorem mem_of_mfind {α : Type} {m : AMap α} {k : Nat} {v : α} (h : mfind m k = some v) : (k, v) ∈ m := by
  induction m with
  | nil => cases h
  | cons x m ih =>
    obtain ⟨a, b⟩ := x
    by_cases e : k = a
    · subst e
      simp [mfind] at h
      simp [h]
    · exact List.mem_cons_of_mem _ (ih (by simpa [mfind, e] using h))

/-- A change of an entry that a test does not see. -/
theorem all_mset_unseen {α : Type} {q : Nat × α → Bool} {m : AMap α} {k : Nat} {v w : α} (h : mfind m k = some v)
    (hq : q (k, w) = q (k, v)) : (mset m k w).all q = m.all q := by
  induction m with
  | nil => cases h
  | cons x m ih =>
    obtain ⟨a, b⟩ := x
    unfold mset
    split
    · have hv : ((a, b) :: m).all q = true → q (k, v) = true := fun hm => List.all_eq_true.1 hm _ (mem_of_mfind h)
      rw [List.all_cons, hq]
      cases hm : ((a, b) :: m).all q with
      | false => simp
      | true => simp [hv hm]
    · split
      · rename_i e
        subst e
        have : b = v := by simpa [mfind] using h
        subst this
        simp [hq]
      · rename_i e
        rw [List.all_cons, List.all_cons, ih (by simpa [mfind, e] using h)]

theorem all_mmod_unseen {α : Type} {q : Nat × α → Bool} (m : AMap α) (k : Nat) (f : α → α) (hq : ∀ v, q (k, f v) = q (k, v)) :
    (mmod m k f).all q = m.all q := by
  unfold mmod
  split
  · exact all_mset_unseen ‹_› (hq _)
  · rfl

/-- A group's change that leaves its escalation leaves the places of save blocks. -/
theorem blocks_modGroup (s : State) (core slot : Nat) (f : Group → Group) (hf : ∀ g, (f g).esc = g.esc) (p : Nat × Nat → Bool) :
    (s.modGroup core slot f).blocks.all p = s.blocks.all p := by
  have h := all_mmod_unseen s.groups (gkey core slot) f (q := fun x => match x.2.esc with
    | some e => if e.len = 0 then true else p (e.addr.toNat, e.len)
    | none => true) (fun v => by simp only [hf])
  have hall (m : AMap Group) : (m.filterMap (fun x => match x.2.esc with
      | some e => if e.len = 0 then none else some (e.addr.toNat, e.len)
      | none => none)).all p = m.all (fun x => match x.2.esc with
      | some e => if e.len = 0 then true else p (e.addr.toNat, e.len)
      | none => true) := by
    induction m with
    | nil => rfl
    | cons x m ih =>
      rw [List.filterMap_cons, List.all_cons, ← ih]
      cases x.2.esc with
      | none => simp
      | some e => by_cases h0 : e.len = 0 <;> simp [h0]
  unfold State.blocks
  rw [List.all_append, List.all_append]
  exact congrArg₂ (· && ·) rfl ((hall _).trans (h.trans (hall _).symm))

theorem growGrant_eq (core : Nat) (fuel : Nat) (s : State) : ∃ q, State.growGrant s core fuel = { s with growq := q } := by
  induction fuel generalizing s with
  | zero => exact ⟨s.growq, rfl⟩
  | succ fuel ih =>
    unfold State.growGrant
    split
    · exact ⟨s.growq, rfl⟩
    · split
      · obtain ⟨q, hq⟩ := ih { s with growq := _ }
        exact ⟨q, hq⟩
      · exact ⟨s.growq, rfl⟩

/-- What decides where a save block is written: memory, contexts, units, and the blocks that stand. -/
def State.SameRoom (s t : State) : Prop :=
  t.mem = s.mem ∧ t.ctxs = s.ctxs ∧ ∀ p, t.blocks.all p = s.blocks.all p

/-- With no operation in flight, standing still leaves the room for save blocks. -/
theorem standing_room {s : State} (core slot : Nat) (ho : s.ops = []) :
    s.SameRoom (s.standing core slot) ∧ (s.standing core slot).ops = s.ops ∧ (s.standing core slot).recs = s.recs := by
  have hrun (t : State) (h : s.SameRoom t) : s.SameRoom (t.modGroup core slot (fun g => { g with run := none })) :=
    ⟨h.1, h.2.1, fun p => (blocks_modGroup t core slot (fun g => { g with run := none }) (fun _ => rfl) p).trans (h.2.2 p)⟩
  obtain ⟨q, hq⟩ := growGrant_eq core (s.growq.filter (fun q => !(q.core == core && q.slot == slot))).length
    { s.newId.1 with growq := s.growq.filter (fun q => !(q.core == core && q.slot == slot)) }
  have hgrow : s.newId.1.growLeave core slot = { s.newId.1 with growq := q } := hq
  unfold State.standing State.releaseTable
  rw [hgrow]
  split
  · exact ⟨hrun _ ⟨rfl, rfl, fun _ => rfl⟩, rfl, rfl⟩
  · split
    · have hd : ({ s.newId.1 with growq := q } : State).dropBehalf core slot = { s.newId.1 with growq := q } := by
        unfold State.dropBehalf
        change (match s.ops.find? _ with | none => _ | some x => _) = _
        rw [ho]
        rfl
      rw [hd]
      exact ⟨hrun _ ⟨rfl, rfl, fun _ => rfl⟩, rfl, rfl⟩
    · refine ⟨hrun _ ⟨rfl, rfl, fun p => ?_⟩, rfl, rfl⟩
      rw [blocks_modGroup]
      · rfl
      · exact fun _ => rfl

/-- Where blocks fit is decided by the room alone. -/
theorem blockFits_room {s t : State} (h : s.SameRoom t) (guest a n : Nat) : t.blockFits guest a n = s.blockFits guest a n := by
  obtain ⟨hm, hc, hb⟩ := h
  unfold State.blockFits State.slotAddr State.slots State.ctx
  simp only [hm, hc, hb]

theorem slotAddr_room {s t : State} (h : s.SameRoom t) (guest : Nat) :
    t.slotAddr guest (t.slots guest) = s.slotAddr guest (s.slots guest) := by
  obtain ⟨hm, hc, -⟩ := h
  simp only [State.slotAddr, State.slots, State.ctx, hm, hc]

/-- What fits lies at a multiple of 128, behind the record area and inside the save area (R379). -/
theorem blockFits_bounds {s : State} {guest a n : Nat} (h : s.blockFits guest a n = true) :
    a % 128 = 0 ∧ s.slotAddr guest (s.slots guest) ≤ a ∧ a + n ≤ (s.ctx guest).saveBase.toNat + (s.ctx guest).saveSize.toNat := by
  simp only [State.blockFits, Bool.and_eq_true, beq_iff_eq, decide_eq_true_eq] at h
  exact ⟨h.1.1.1, h.1.1.2, h.1.2⟩

/-- The place chosen fits, and one is chosen where the first place behind the record area fits. -/
theorem blockPlace_spec (s : State) (guest n k : Nat) :
    (∀ a, s.blockPlace guest n k = some a → s.blockFits guest a n = true) ∧
    (s.blockFits guest (lineUp (s.slotAddr guest (s.slots guest))) n = true → s.blockPlace guest n k ≠ none) := by
  unfold State.blockPlace
  extract_lets x lo hi
  constructor
  · intro a h
    split at h
    · cases h
    · exact List.find?_some (p := fun a => s.blockFits guest a n) h
  · intro h
    obtain ⟨-, -, hhi⟩ := blockFits_bounds h
    rw [if_neg (show ¬hi < lo + n from Nat.not_lt.2 hhi)]
    intro hnone
    exact List.find?_eq_none.1 hnone lo (by simp) h

/-- With nothing recorded and nothing in flight, a detachment writes no byte. -/
theorem mem_detach_nil {s : State} (ho : s.ops = []) (hr : s.recs = []) (core slot ghost : Nat) (g : Group) (mine : Op → Bool) :
    (s.detach core slot ghost g mine).mem = s.mem := by
  simp [State.detach, State.dropBanks, State.recordAll, ho, hr]

/-- A group's save block is written where it fits, and nothing is where the first place behind the record area does not do. -/
theorem keepBlock_cases {s : State} {core slot : Nat} {g : Group} (hg : s.group core slot = some g) :
    (∃ a, s.blockFits g.guest a (g.blockLen true) = true ∧ (s.keepBlock core slot).1.mem = putImage s.mem a (g.blockLen true) (g.image true) ∧
      (s.keepBlock core slot).2 = (BitVec.ofNat 64 a, g.blockLen true)) ∨
    (s.blockFits g.guest (lineUp (s.slotAddr g.guest (s.slots g.guest))) (g.blockLen true) = false ∧
      (s.keepBlock core slot).1.mem = s.mem ∧ (s.keepBlock core slot).2.2 = 0) := by
  have hf : s.freeBlock.1.group core slot = some g := hg
  obtain ⟨hsome, hnone⟩ := blockPlace_spec s g.guest (g.blockLen true) (s.freeBlock.2.toNat / 128)
  change ∀ a, s.freeBlock.1.blockPlace _ _ _ = some a → _ at hsome
  change _ → s.freeBlock.1.blockPlace _ _ _ ≠ none at hnone
  cases hp : s.freeBlock.1.blockPlace g.guest (g.blockLen true) (s.freeBlock.2.toNat / 128) with
  | some a =>
    have e : s.keepBlock core slot =
        ({ s.freeBlock.1 with mem := putImage s.freeBlock.1.mem a (g.blockLen true) (g.image true) }, BitVec.ofNat 64 a, g.blockLen true) := by
      simp only [State.keepBlock, hf, hp]
    have hm : s.freeBlock.1.mem = s.mem := rfl
    rw [e]
    refine .inl ⟨a, hsome a hp, ?_, ?_⟩
    · dsimp only
      rw [hm]
    · dsimp only
  | none =>
    have e : s.keepBlock core slot = (s.freeBlock.1, s.freeBlock.2, 0) := by
      simp only [State.keepBlock, hf, hp]
    rw [e]
    refine .inr ⟨Bool.eq_false_iff.2 fun h => hnone h hp, rfl, rfl⟩

theorem ops_recs_keepBlock (s : State) (core slot : Nat) :
    (s.keepBlock core slot).1.ops = s.ops ∧ (s.keepBlock core slot).1.recs = s.recs := by
  unfold State.keepBlock
  dsimp only
  split
  · exact ⟨rfl, rfl⟩
  · split <;> exact ⟨rfl, rfl⟩

/-- What an escalation with nothing recorded and nothing in flight writes: the save block where one fits, else no byte. -/
theorem escalate_mem {s : State} {core slot : Nat} {g : Group} (ho : s.ops = []) (hr : s.recs = [])
    {tab : Option Nat} {a : Option Addr} (hs : (s.standing core slot).group core slot = some (g.stood tab a)) (cause : Cause)
    (info : BitVec 8) (entry : Option (PartRef × Exc)) :
    (∃ b, s.blockFits g.guest b (g.blockLen true) = true ∧ (s.escal core slot cause info entry).len = g.blockLen true ∧
      (s.escal core slot cause info entry).addr = BitVec.ofNat 64 b ∧
      (s.escalate core slot cause info entry).mem = putImage s.mem b (g.blockLen true) ((g.stood tab a).image true)) ∨
    (s.blockFits g.guest (lineUp (s.slotAddr g.guest (s.slots g.guest))) (g.blockLen true) = false ∧
      (s.escal core slot cause info entry).len = 0 ∧ (s.escalate core slot cause info entry).mem = s.mem) := by
  obtain ⟨hroom, hops, hrecs⟩ := standing_room core slot ho (s := s)
  obtain ⟨hko, hkr⟩ := ops_recs_keepBlock (s.standing core slot) core slot
  have hmem : (s.escalate core slot cause info entry).mem = ((s.standing core slot).keepBlock core slot).1.mem := by
    rw [escalate_eq hs]
    exact mem_detach_nil (hko.trans (hops.trans ho)) (hkr.trans (hrecs.trans hr)) ..
  rw [hmem, ← slotAddr_room hroom, ← hroom.1, ← blockFits_room hroom]
  rcases keepBlock_cases hs with ⟨b, hfit, hm, hb⟩ | ⟨hfit, hm, hb⟩
  · exact .inl ⟨b, (blockFits_room hroom ..).symm.trans hfit, congrArg Prod.snd hb, congrArg Prod.fst hb, hm⟩
  · exact .inr ⟨hfit, hb, hm⟩

end Sys2Proof.Machine


namespace Sys2Proof.Machine

/-! ## The end of a group -/

/-- The context has CTXERR set. -/
def State.Marked (n : Nat) (s : State) : Prop := (s.ctx n).ctxerr = true

/-- The context has CTXERR set and the group, where it still has its slot, has ended with no live lane. -/
def State.Over (n core slot : Nat) (s : State) : Prop :=
  s.Marked n ∧ ∀ g, s.group core slot = some g → g.ended = true ∧ g.live = 0

theorem Quiet.marked {n : Nat} {s t : State} (q : Quiet s t) (h : s.Marked n) : t.Marked n := by
  unfold State.Marked at h ⊢
  rw [q.ctx n]
  exact h

theorem Quiet.over {n core slot : Nat} {s t : State} (q : Quiet s t) (h : s.Over n core slot) : t.Over n core slot := by
  refine ⟨q.marked h.1, fun g hg => ?_⟩
  have hr := q.group core slot
  rw [hg] at hr
  generalize hy : s.group core slot = y at hr
  cases hr with
  | some e =>
    obtain ⟨he, hl⟩ := h.2 _ hy
    rw [e]
    exact ⟨he, hl⟩

theorem marked_of_roster {n : Nat} {s t : State} (h : s.Marked n) (e : t.roster = s.roster) : t.Marked n := by
  unfold State.Marked at h ⊢
  rw [ctx_of_roster e]
  exact h

theorem over_of_roster {n core slot : Nat} {s t : State} (h : s.Over n core slot) (e : t.roster = s.roster) : t.Over n core slot :=
  ⟨marked_of_roster h.1 e, fun g hg => h.2 g (by rw [← group_of_roster e, hg])⟩

theorem marked_withMem {n : Nat} {s : State} (h : s.Marked n) (m : Memory) : State.Marked n { s with mem := m } := h

theorem marked_ops {n : Nat} {s : State} (h : s.Marked n) (o : AMap Op) (a : List Arming) :
    State.Marked n { s with ops := o, armings := a } := h

theorem marked_modWG {n : Nat} {s : State} (h : s.Marked n) (core wslot : Nat) (f : WGroup → WGroup) : (s.modWG core wslot f).Marked n := h

theorem marked_setGroup {n : Nat} {s : State} (h : s.Marked n) (core slot : Nat) (g : Group) : (s.setGroup core slot g).Marked n := h

theorem marked_launchErr {n : Nat} {s : State} (h : s.Marked n) (launch : Nat) : (s.launchErr launch).Marked n := h

theorem over_ops {n core slot : Nat} {s : State} (h : s.Over n core slot) (o : AMap Op) : State.Over n core slot { s with ops := o } := h

theorem over_eops {n core slot : Nat} {s : State} (h : s.Over n core slot) (o : List EOp) : State.Over n core slot { s with eops := o } := h

theorem over_modWG {n core slot : Nat} {s : State} (h : s.Over n core slot) (j w : Nat) (f : WGroup → WGroup) :
    (s.modWG j w f).Over n core slot := h

theorem marked_setCtx {n k : Nat} {s : State} {c : Ctx} (hc : n = k → c.ctxerr = true) (h : s.Marked n) : (s.setCtx k c).Marked n := by
  unfold State.Marked State.ctx at h ⊢
  unfold State.setCtx
  by_cases e : n = k
  · subst e
    simp [hc rfl]
  · simpa [mget_mset_other _ _ _ e] using h

theorem marked_modCtx {n : Nat} {s : State} (h : s.Marked n) (k : Nat) {f : Ctx → Ctx} (hf : ∀ x, x.ctxerr = true → (f x).ctxerr = true) :
    (s.modCtx k f).Marked n := marked_setCtx (fun e => hf _ (e ▸ h)) h

/-- An error entry sets CTXERR of its context (R377). -/
theorem marked_errorEntry (s : State) (n : Nat) (a : Addr) (owner : DWord) (cause : Cause) (source core : Nat) :
    (s.errorEntry n a owner cause source core).Marked n := by
  unfold State.errorEntry
  extract_lets c base errw clr now s1
  have h1 : s1.Marked n := by
    unfold State.Marked
    simp [s1, State.setCtx, State.ctx]
  split
  · exact marked_withMem h1 _
  · exact marked_modCtx (marked_withMem h1 _) _ fun _ h => h

theorem marked_errorEntry_of {n : Nat} {s : State} (h : s.Marked n) (k : Nat) (a : Addr) (owner : DWord) (cause : Cause) (source core : Nat) :
    (s.errorEntry k a owner cause source core).Marked n := by
  by_cases e : n = k
  · subst e
    exact marked_errorEntry ..
  · unfold State.errorEntry
    extract_lets c base errw clr now s1
    have h1 : s1.Marked n := marked_setCtx (fun h => absurd h e) h
    split
    · exact marked_withMem h1 _
    · exact marked_modCtx (marked_withMem h1 _) _ fun _ h => h

theorem marked_storeErrors {n : Nat} {s : State} (h : s.Marked n) (mine : Rec → Bool) (launch core : Nat) :
    (s.storeErrors mine launch core).Marked n :=
  foldl_keeps (State.Marked n) _ (fun _ _ h => marked_launchErr (marked_errorEntry_of h ..) _) _ h

/-! What returns when a group has ended -/

theorem roster_endWorkgroup (s : State) (core wslot : Nat) : (s.endWorkgroup core wslot).roster = s.roster := by
  unfold State.endWorkgroup
  dsimp only
  split <;> rfl

theorem roster_wgroupGone (s : State) (core wslot : Nat) : (s.wgroupGone core wslot).roster = s.roster := by
  unfold State.wgroupGone
  split
  · split
    exacts [roster_endWorkgroup .., rfl]
  · rfl

theorem roster_perfWait (s : State) (cluster tenant : Nat) : (s.perfWait cluster tenant).roster = s.roster := by
  unfold State.perfWait
  dsimp only
  split <;> rfl

theorem over_mdel {n core slot : Nat} {s : State} (h : s.Over n core slot) (k : Nat) : State.Over n core slot { s with groups := mdel s.groups k } := by
  refine ⟨h.1, fun g hg => h.2 g ?_⟩
  change mfind (mdel s.groups k) (gkey core slot) = some g at hg
  rw [mfind_mdel] at hg
  split at hg
  · cases hg
  · exact hg

theorem over_returnGroup {n core slot : Nat} {s : State} (h : s.Over n core slot) (j k : Nat) : (s.returnGroup j k).Over n core slot := by
  unfold State.returnGroup
  split
  · exact h
  · split
    · refine over_of_roster (over_of_roster ?_ (roster_wgroupGone ..)) (roster_granulesBack ..)
      exact over_of_roster (over_mdel h (gkey j k)) rfl
    · exact h

/-- A change of groups that ends none and revives none. -/
theorem over_modGroup {n core slot : Nat} {s : State} (h : s.Over n core slot) (j k : Nat) {f : Group → Group}
    (hf : ∀ g, (f g).ended = g.ended ∧ (f g).live = g.live) : (s.modGroup j k f).Over n core slot := by
  refine ⟨h.1, fun g hg => ?_⟩
  rw [group_modGroup] at hg
  split at hg
  · rename_i e
    obtain ⟨x, hx, rfl⟩ := Option.map_eq_some_iff.1 hg
    obtain ⟨he, hl⟩ := hf x
    rw [he, hl]
    exact h.2 x (by rw [← hx, State.group, State.group, e])
  · exact h.2 g hg

theorem ended_lower (g : Group) (c : Option Ctr) : (g.lower c).ended = g.ended ∧ (g.lower c).live = g.live := by
  cases c with
  | none => exact ⟨rfl, rfl⟩
  | some c => cases c <;> exact ⟨rfl, rfl⟩

theorem over_completeOp {n core slot : Nat} {s : State} (h : s.Over n core slot) (id : Nat) : (s.completeOp id).Over n core slot := by
  unfold State.completeOp
  split
  · exact h
  · rename_i o _
    dsimp only
    refine over_returnGroup (over_modGroup (over_ops h _) _ _ ?_) _ _
    exact fun g => ended_lower g o.ctr

theorem over_settleOp {n core slot : Nat} {s : State} (h : s.Over n core slot) (id : Nat) : (s.settleOp id).Over n core slot := by
  unfold State.settleOp
  split
  · exact h
  · split
    · exact over_completeOp (over_of_roster h (roster_emptyBank ..)) _
    · exact h

theorem quiet_releaseHeld (s : State) (core wslot : Nat) : Quiet s (s.releaseHeld core wslot) := by
  refine Quiet.foldl (fun t x => ?_) _ _
  split
  · rename_i u hu
    exact (quiet_writeBackLog hu).trans (quiet_of rfl rfl rfl)
  · exact .refl t

theorem over_freeWorkgroup {n core slot : Nat} {s : State} (h : s.Over n core slot) (j w : Nat) : (s.freeWorkgroup j w).Over n core slot := by
  unfold State.freeWorkgroup
  split
  · exact h
  · split
    · exact h
    · dsimp only
      exact over_eops (over_of_roster ((quiet_releaseHeld ..).over (over_modWG h ..)) (roster_perfWait ..)) _

/-- A group with no live lane left has ended (R165). -/
theorem over_endGroup {n : Nat} {s : State} (h : s.Marked n) (core slot : Nat) : (s.endGroup core slot).Over n core slot := by
  unfold State.endGroup
  split
  · rename_i hg
    exact ⟨h, fun g e => by rw [hg] at e; cases e⟩
  extract_lets w1 s1 s2 s3 arms s4 s5 s6 s7 s8 mine
  have h1 : s1.Marked n := by
    dsimp only [s1]
    split
    · exact marked_of_roster h rfl
    · exact h
  have h2 : s2.Marked n := marked_of_roster h1 (by simp only [s2, roster_dropBehalf, roster_unbind]; exact roster_growLeave ..)
  have h4 : s4.Marked n := marked_of_roster (marked_storeErrors h2 ..) (roster_dropRecs ..)
  have h8 : s8.Over n core slot := by
    refine ⟨marked_setGroup (marked_modWG (marked_modWG (marked_ops h4 ..) ..) ..) ..,  fun x hx => ?_⟩
    rw [group_setGroup, if_pos rfl] at hx
    cases hx
    exact ⟨rfl, rfl⟩
  exact over_returnGroup (over_freeWorkgroup (foldl_keeps (State.Over n core slot) _ (fun _ id h => over_settleOp h id) _ h8) _ _) _ _

/-- A group that an error ends has ended, and CTXERR of its context is set (R377). -/
theorem over_endError (s : State) (core slot : Nat) (g : Group) (a : Addr) (cause : Cause) (source : Nat) :
    (s.endError core slot g a cause source true).Over g.guest core slot := by
  have he : (s.errorEntry g.guest a g.wid cause source core).Marked g.guest := marked_errorEntry ..
  have hc : ((s.errorEntry g.guest a g.wid cause source core).countError g.guest).Marked g.guest := marked_modCtx he _ fun _ h => h
  exact over_endGroup (marked_launchErr hc g.launch) core slot

theorem over_killGroup {s : State} {core slot : Nat} {g : Group} (hg : s.group core slot = some g) (a : Addr) (cause : Cause) (source : Nat)
    (packet : Option Nat) : (s.killGroup core slot a cause source packet).Over g.guest core slot := by
  unfold State.killGroup
  simp only [hg]
  exact over_endError ..

/-! ## The exception -/

theorem mfind_filter {α : Type} (m : AMap α) (p : Nat → Bool) (k : Nat) :
    mfind (m.filter (fun x => p x.1)) k = if p k then mfind m k else none := by
  induction m with
  | nil => simp [mfind]
  | cons x m ih =>
    obtain ⟨a, b⟩ := x
    by_cases e : k = a
    · subst e
      by_cases hp : p k <;> simp [mfind, hp, ih]
    · by_cases ha : p a <;> simp [mfind, ha, e, ih]

theorem mfind_handling_xaddr (g : Group) (deliv : PartRef) (e : Exc) (xvec : Addr) (l : Nat) :
    mfind (g.handling deliv e xvec).xaddr l = if laneOn e.mask l then mfind e.addr l else none := by
  change mfind (e.addr.filter (fun x => laneOn e.mask x.1)) l = _
  exact mfind_filter e.addr (laneOn e.mask) l

/-- Entering the handler leaves the registers of the run. -/
theorem handling_registers (g : Group) (deliv : PartRef) (e : Exc) (xvec : Addr) :
    (g.handling deliv e xvec).frame = g.frame ∧ (g.handling deliv e xvec).uni = g.uni ∧ (g.handling deliv e xvec).prd = g.prd ∧
      (g.handling deliv e xvec).win = g.win ∧ (g.handling deliv e xvec).aflags = g.aflags := ⟨rfl, rfl, rfl, rfl, rfl⟩

theorem le_deepest {g : Group} {p : Part} (hp : p ∈ g.parts) : p.depth ≤ g.deepest := by
  unfold Group.deepest
  have mono : ∀ (xs : List Part) (n : Nat), n ≤ xs.foldl (fun n p => max n p.depth) n := by
    intro xs
    induction xs with
    | nil => exact fun n => Nat.le_refl n
    | cons x xs ih => exact fun n => Nat.le_trans (Nat.le_max_left ..) (ih _)
  revert hp
  generalize 0 = n
  induction g.parts generalizing n with
  | nil => intro h; cases h
  | cons x xs ih =>
    intro h
    rcases List.mem_cons.1 h with rfl | h
    · exact Nat.le_trans (Nat.le_max_right ..) (mono xs _)
    · exact ih _ h

theorem xcauseOf_plain (cause : Cause) : xcauseOf 0 0 0 cause = cause.setWidth 32 := by
  simp [xcauseOf, BitVec.ofNat_toNat]

end Sys2Proof.Machine

namespace Sys2Proof.Claims
open Sys2Proof.Machine

/-- Settles O36: the rollback keeps the registers of the group and its context, so that the disposition is decided as before it;
spills and trace packets keep the group, and a save block is written where `blockPlace` finds room. -/
theorem takingAnException : Obligations.TakingAnException := by
  intro s c cause m xa hc x s1 t
  obtain ⟨-, hg, -⟩ := cur_eq_some.1 hc
  obtain ⟨g1, hg1, hregs, hrun⟩ := group_rollback hg c.r.split .nothing
  obtain ⟨hctx, hrecs, hops⟩ := rollback_frame s c.core c.slot c.r.split .nothing
  have hk {α : Type} (f : Machine.Group → α) : f g1.regs = f c.g.regs := congrArg f hregs
  have hguest : g1.guest = c.g.guest := hk Group.guest
  have hsup : g1.sup = c.g.sup := hk Group.sup
  have hregs' : g1.frame = c.g.frame ∧ g1.uni = c.g.uni ∧ g1.prd = c.g.prd ∧ g1.win = c.g.win ∧ g1.aflags = c.g.aflags :=
    ⟨hk Group.frame, hk Group.uni, hk Group.prd, hk Group.win, hk Group.aflags⟩
  have hxvec : (s1.ctx g1.guest).xvec = x.xvec := by rw [hguest, hctx]
  refine ⟨fun hd hs hx g2 s2 ps hg2 hsp => ?_, fun hd hs hx g2 s2 ps k hg2 hsp => ?_, fun hd hs => ?_, fun hcause => ?_⟩
  · obtain rfl : g1 = g2 := Option.some.inj (hg1.symm.trans hg2)
    have ht : t = s1.enterHandler c.core c.slot (.slot c.r.split) ⟨0, 0, 0, cause, c.r.hpc, m, xa⟩ :=
      deliver_handler hg1 _ hd (hsup.trans hs) (hxvec ▸ hx)
    have hg' := group_enterHandler hg1 hsp (.slot c.r.split) ⟨0, 0, 0, cause, c.r.hpc, m, xa⟩
    rw [ht]
    refine ⟨_, handlerSplit (s1.ctx g1.guest).xvec m g1.deepest, _, hg', rfl, rfl, xcauseOf_plain cause, rfl, rfl,
      mfind_handling_xaddr g1 _ _ _, rfl, rfl, rfl, hxvec, rfl, rfl, fun p hp => le_deepest hp, rfl, rfl, rfl, ?_, ?_⟩
    rotate_left
    · obtain ⟨h1, h2, h3, h4, h5⟩ :=
        handling_registers g1 (.slot c.r.split) ⟨0, 0, 0, cause, c.r.hpc, m, xa⟩ (s1.ctx g1.guest).xvec
      rw [h1, h2, h3, h4, h5]
      exact hregs'
    rw [List.map_map]
    refine List.map_congr_left fun o _ => ?_
    cases o <;> rfl
  · obtain rfl : g1 = g2 := Option.some.inj (hg1.symm.trans hg2)
    have ht : t = s1.enterHandler c.core c.slot (.slot c.r.split) ⟨0, 0, 0, cause, c.r.hpc, m, xa⟩ :=
      deliver_handler hg1 _ hd (hsup.trans hs) (hxvec ▸ hx)
    obtain ⟨g', e, tab, a, halike, hg', he⟩ := group_enterHandler_fault hg1 hsp (.slot c.r.split) ⟨0, 0, 0, cause, c.r.hpc, m, xa⟩
    have hsup' : g'.sup = g1.sup := by rw [halike]
    rw [ht]
    exact ⟨_, e, hg', rfl, he, rfl, hsup'.trans (hsup.trans hs), xcauseOf_plain cause, rfl, rfl⟩
  · have ht : t = s1.escalate c.core c.slot cause 0 none :=
      deliver_escalates hg1 _ hd (by rw [hsup, hxvec]; exact hs)
    obtain ⟨tab, a, hst, hg'⟩ := group_escalate hg1 cause 0 none
    rw [ht]
    refine ⟨_, _, hg', rfl, rfl, rfl, hsup, fun hr ho => ?_⟩
    have hmem := escalate_mem (hops.trans ho) (hrecs.trans hr) hst cause 0 none
    rw [hguest] at hmem
    rcases hmem with ⟨b, hfit, hlen, haddr, hm⟩ | ⟨hno, hlen, hm⟩
    · have hne : g1.blockLen true ≠ 0 := by simp [Group.blockLen]
      obtain ⟨h128, hlo, hhi⟩ := blockFits_bounds hfit
      refine ⟨fun h => absurd (hlen ▸ h) hne, fun _ => hlen ▸ hne, fun _ => ⟨hlen, b, haddr, h128, hlo, hlen ▸ hhi, ?_⟩⟩
      rw [hlen]
      exact hm
    · exact ⟨fun _ => hm, fun h => absurd (h.symm.trans hno) (by decide), fun h => absurd hlen h⟩
  · have hd : dispositionOf cause = .end_ := by
      unfold dispositionOf
      exact if_pos (by simpa using hcause)
    have ht : t = s1.killGroup c.core c.slot c.r.hpc cause 0 (some c.r.split) := by
      simp only [t, State.preciseFault, State.deliver, s1] at hg1 ⊢
      simp only [hg1, hd]
    obtain ⟨herr, hover⟩ := over_killGroup hg1 c.r.hpc cause 0 (some c.r.split)
    rw [ht, ← hguest]
    exact ⟨herr, hover⟩

end Sys2Proof.Claims


/-! # What is delivered at a run boundary (O42) -/

namespace Sys2Proof.Machine

/-! ## Handlers entered with nothing resident -/

/-- Nothing of the part stands in the window. -/
def Part.Spilled (p : Part) : Prop := p.res = 0 ∧ p.excess = []

/-- Parts with nothing resident need no spill. -/
theorem spillParts_spilled {ps : List (Option Part)} (h : ∀ p, some p ∈ ps → p.Spilled) (s : State) (core : Nat) (g : Group) :
    s.spillParts core g ps = (s, ps, none) := by
  induction ps with
  | nil => rfl
  | cons o ps ih =>
    have ih' := ih fun p hp => h p (List.mem_cons_of_mem _ hp)
    cases o with
    | none => simp only [State.spillParts, ih']
    | some p =>
      obtain ⟨hr, he⟩ := h p (by simp)
      have hz : p.res + (p.excess.map (·.n)).sum = 0 := by simp [hr, he]
      simp only [State.spillParts, hz, State.spillPart, ih']

theorem spillParts_parts {g : Group} (h : ∀ p ∈ g.parts, p.Spilled) (s : State) (core : Nat) :
    s.spillParts core g (g.splits ++ (g.pend ++ g.ovf).map some) = (s, g.splits ++ (g.pend ++ g.ovf).map some, none) := by
  refine spillParts_spilled (fun p hp => h p ?_) s core g
  unfold Group.parts
  simp only [List.mem_append, List.mem_map, List.mem_filterMap] at hp ⊢
  rcases hp with hp | ⟨q, hq, e⟩
  · exact .inl (.inl ⟨_, hp, rfl⟩)
  · cases e
    exact hq.elim (fun h => .inl (.inr h)) .inr

/-- The group stands in its handler after the upkeep. -/
structure Group.Handles (g : Group) (e : Exc) (xvec : Addr) : Prop where
  sup : g.sup = true
  xpc : g.xpc = e.xpc
  xmask : g.xmask = e.mask
  xcause : g.xcause = xcauseOf e.idx e.info e.cls e.cause
  splits : ∃ h, g.splits = [some h, none, none, none] ∧ h.pc = xvec ∧ h.mask = e.mask

theorem handles_handling (s : State) (key : Nat) (g : Group) (deliv : PartRef) (e : Exc) (xvec : Addr) :
    (s.touchGroup key (g.handling deliv e xvec)).Handles e xvec := by
  refine ⟨rfl, rfl, rfl, rfl, s.touchSplit (key / 64) (key % 64) (g.handling deliv e xvec) 0 (handlerSplit xvec e.mask g.deepest), ?_, ?_, ?_⟩
  · rfl
  · unfold State.touchSplit
    split <;> rfl
  · unfold State.touchSplit
    split <;> rfl

theorem recs_trace (s : State) (guest core slot split type : Nat) (payload : List Byte) :
    (s.trace guest core slot split type payload).recs = s.recs := by
  have h : (s.trace guest core slot split type payload).still.recs = s.still.recs := congrArg State.recs (quiet_trace ..).still
  exact h

/-- A delivery to a group in user mode with a handler and nothing resident: the group enters its handler, and the records stay. -/
theorem deliver_handles {s : State} {core slot : Nat} {g : Group} (hg : s.group core slot = some g) (hs : g.sup = false)
    (hx : (s.ctx g.guest).xvec ≠ 0) (hp : ∀ p ∈ g.parts, p.Spilled) (deliv : PartRef) {e : Exc}
    (hd : dispositionOf e.cause = .handler) :
    ∃ g', (s.deliver core slot deliv e).refresh.group core slot = some g' ∧ g'.Handles e (s.ctx g.guest).xvec ∧
      (s.deliver core slot deliv e).refresh.recs = s.recs := by
  have hsp := spillParts_parts hp s core
  have hgh := group_enterHandler hg hsp deliv e
  rw [deliver_handler hg deliv hd hs hx]
  refine ⟨_, by rw [group_refresh, hgh]; rfl, handles_handling .., ?_⟩
  change (s.enterHandler core slot deliv e).recs = s.recs
  unfold State.enterHandler
  simp only [hg, hsp]
  exact recs_trace ..

/-- A delivery escalates in supervisor mode (R282). -/
theorem deliver_escalated {s : State} {core slot : Nat} {g : Group} (hg : s.group core slot = some g) (hs : g.sup = true)
    (deliv : PartRef) {e : Exc} (hd : dispositionOf e.cause = .handler) :
    ∃ g' x, (s.deliver core slot deliv e).refresh.group core slot = some g' ∧ g'.esc = some x ∧ x.cause = e.cause ∧ g'.sup = true := by
  obtain ⟨tab, a, -, hg'⟩ := group_escalate hg e.cause e.info none
  rw [deliver_escalates hg deliv hd (.inl hs)]
  exact ⟨(s.escalate core slot e.cause e.info none).touchGroup (gkey core slot) ((g.stood tab a).escalated _), _,
    by rw [group_refresh, hg']; rfl, rfl, rfl, hs⟩

/-! ## Records due -/

/-- No record of a group, none due. -/
theorem oldestRec_none {s : State} {core slot : Nat} {q : Rec → Bool}
    (h : ∀ r ∈ s.recs, r.core = core → r.slot = slot → r.delivered = false → r.pinned = false → r.unf ≠ 0 → q r = false) :
    s.oldestRec core slot q = none := by
  unfold State.oldestRec
  rw [List.findIdx?_eq_none_iff]
  intro r hr
  by_contra hd
  simp only [Rec.dueTo, Bool.not_eq_false, Bool.and_eq_true, beq_iff_eq, Bool.not_eq_true', bne_iff_ne] at hd
  obtain ⟨⟨⟨⟨⟨hc, hs⟩, hdl⟩, hp⟩, hu⟩, hq⟩ := hd
  rw [h r hr hc hs hdl hp hu] at hq
  cases hq

/-- The first record that is due and meets the condition is the oldest. -/
theorem oldestRec_first {s : State} {core slot i : Nat} {q : Rec → Bool} {r : Rec} (hi : s.recs[i]? = some r)
    (hr : r.core = core ∧ r.slot = slot ∧ r.delivered = false ∧ r.pinned = false ∧ r.unf ≠ 0) (hq : q r = true)
    (h : ∀ (j : Nat) (x : Rec), j < i → s.recs[j]? = some x →
      (x.core = core ∧ x.slot = slot ∧ x.delivered = false ∧ x.pinned = false ∧ x.unf ≠ 0) → ¬q x = true) :
    s.oldestRec core slot q = some i := by
  obtain ⟨hlt, hget⟩ := List.getElem?_eq_some_iff.1 hi
  unfold State.oldestRec
  rw [List.findIdx?_eq_some_iff_getElem]
  refine ⟨hlt, ?_, fun j hj hdue => ?_⟩
  · obtain ⟨hc, hs, hd, hp, hu⟩ := hr
    simp [Rec.dueTo, hget, hc, hs, hd, hp, hq]
    exact hu
  · simp only [Rec.dueTo, Bool.and_eq_true, beq_iff_eq, Bool.not_eq_true', bne_iff_ne] at hdue
    obtain ⟨⟨⟨⟨⟨hc, hs⟩, hd⟩, hp⟩, hu⟩, hx⟩ := hdue
    exact h j _ hj (List.getElem?_eq_getElem (by omega)) ⟨hc, hs, hd, hp, hu⟩ hx

/-! ## The boundary -/

/-- A boundary at which something is delivered. -/
theorem exec_boundary {s t : State} {core slot : Nat} (h : s.boundary core slot = some t) :
    exec (.runBoundaryDelivery core slot) s = .next t.refresh := by
  show execRunBoundaryDelivery core slot s = _
  simp only [execRunBoundaryDelivery, State.event, h, Option.getD_some]

section
variable {s : State} {core slot n : Nat} {g : Group} {p : Part} (hg : s.group core slot = some g) (he : g.ended = false)
  (hr : g.run = none) (hv : g.saved = none) (hx : g.esc = none) (hd : g.dbg = .running) (hp : g.preempt = false)
  (hn : s.nextPart core slot g = some (n, p))

include hg he hr hv hx hd hp hn

theorem boundary_sup (hs : g.sup = true) : s.boundary core slot = s.deliverAt core slot g n p := by
  simp [State.boundary, hg, he, hr, hv, hx, hd, hp, hn, hs]

/-- In user mode store records come first, then those of copies and sequencers, then STACK_SKEW, then the header (R364). -/
theorem boundary_user (hs : g.sup = false) : s.boundary core slot =
    match s.oldestRec core slot (fun r => r.store) with
    | some i => s.deliverRec core slot n p i
    | none => match s.oldestRec core slot (fun r => r.kind == 3 || r.kind == 4) with
      | some i => s.deliverRec core slot n p i
      | none => match g.skew with
        | pc :: _ => some (s.deliverSkew core slot g pc)
        | [] => s.deliverAt core slot g n p := by
  simp [State.boundary, hg, he, hr, hv, hx, hd, hp, hn, hs] <;> rfl

end

/-- A record in a hardware entry is delivered from there. -/
theorem deliverRec_hardware {s : State} {core slot n i k : Nat} {g : Group} {p : Part} {r : Rec} (hg : s.group core slot = some g)
    (hs : g.sup = false) (hx : (s.ctx g.guest).xvec ≠ 0) (hi : s.recs[i]? = some r) (hk : r.hw = some k) :
    s.deliverRec core slot n p i = some (({ s with recs := s.recs.modify i (fun r => { r with pinned := true, delivered := true }) } : State).deliver
      core slot (.slot n) ⟨if r.store then 2 else 1, k, 0, r.cause, p.pc, (r.lanes p).1, (r.lanes p).2⟩) := by
  simp only [State.deliverRec, hi, hg, hs, State.toHardware, hk]
  rw [if_neg]
  simpa using hx

/-- A header's fault is delivered with the fault gone from it. -/
theorem group_deliverHeader {s : State} {core slot : Nat} {g : Group} (hg : s.group core slot = some g) (n : Nat) :
    (s.modGroup core slot (fun g => g.modSplit n (fun p => { p with fault := none }))).group core slot =
      some (g.modSplit n (fun p => { p with fault := none })) := by
  rw [group_modGroup, if_pos rfl, hg]
  rfl

/-- The one part of a group. -/
theorem parts_lone {g : Group} {n : Nat} {p : Part} (hs : g.splits = (List.replicate 4 none).set n (some p)) (hp : g.pend = [])
    (ho : g.ovf = []) : ∀ q ∈ g.parts, q = p := by
  intro q hq
  simp only [Group.parts, hs, hp, ho, List.append_nil] at hq
  obtain ⟨o, hmem, rfl⟩ := List.mem_filterMap.1 hq
  rcases List.mem_or_eq_of_mem_set hmem with h | h
  · cases List.eq_of_mem_replicate h
  · exact Option.some.inj h

theorem splits_modSplit_lone {g : Group} {n : Nat} {p : Part} (hn : n < 4) (hs : g.splits = (List.replicate 4 none).set n (some p))
    (f : Part → Part) : (g.modSplit n f).splits = (List.replicate 4 none).set n (some (f p)) := by
  have hget : g.splits.getD n none = some p := by simp [hs, List.getD_eq_getElem?_getD, hn]
  change g.splits.set n ((g.splits.getD n none).map f) = _
  rw [hget, hs, List.set_set]
  rfl

/-- The part at a header of STACK_SKEW meets the header afresh. -/
def Part.again (pc : Addr) (p : Part) : Part := if p.pc = pc then { p with image := none, held := none } else p

/-- The group that delivers STACK_SKEW, its parts there meeting the header afresh (R63). -/
def Group.askew (g : Group) (pc : Addr) : Group :=
  { g with skew := g.skew.filter (· != pc), splits := g.splits.map (Option.map (Part.again pc)), pend := g.pend.map (Part.again pc),
           ovf := g.ovf.map (Part.again pc) }

theorem spilled_again {p : Part} (h : p.Spilled) (pc : Addr) : (p.again pc).Spilled := by
  unfold Part.again
  split <;> exact h

theorem spilled_askew {g : Group} (h : ∀ p ∈ g.parts, p.Spilled) (pc : Addr) : ∀ p ∈ (g.askew pc).parts, p.Spilled := by
  have hparts : (g.askew pc).parts = g.parts.map (Part.again pc) := by
    simp only [Group.parts, Group.askew, List.map_append, List.filterMap_map, List.map_filterMap]
    rfl
  intro p hp
  rw [hparts] at hp
  obtain ⟨q, hq, rfl⟩ := List.mem_map.1 hp
  exact spilled_again (h q hq) pc

/-- STACK_SKEW with unequal depths is delivered at the header, with the lanes of all that stand there. -/
theorem deliverSkew_unequal {s : State} {core slot : Nat} {g : Group} {pc : Addr} {p q : Part} (hg : s.group core slot = some g)
    (hp : p ∈ g.partsAt pc) (hq : q ∈ g.partsAt pc) (hne : p.depth ≠ q.depth) : ∃ (s' : State) (d : PartRef),
      s'.group core slot = some (g.askew pc) ∧ s'.ctxs = s.ctxs ∧ s.deliverSkew core slot g pc =
        s'.deliver core slot d ⟨0, 0, 0, cStackSkew, pc, (g.partsAt pc).foldl (fun m p => m ||| p.mask) 0, []⟩ := by
  have hall : (g.partsAt pc).all (fun p => (g.partsAt pc).all (fun q => p.depth == q.depth)) = false := by
    rw [Bool.eq_false_iff]
    intro h
    exact hne (by simpa using List.all_eq_true.1 (List.all_eq_true.1 h p hp) q hq)
  unfold State.deliverSkew
  simp only [hall, Bool.false_eq_true, if_false]
  refine ⟨_, _, ?_, ?_, rfl⟩
  · rw [group_modGroup, if_pos rfl, group_modGroup, if_pos rfl, hg]
    rfl
  · rfl

/-- The lanes of a record's delivery: those of the part for a sequencer's, else its own (R365). -/
theorem lanes_fst (r : Rec) (p : Part) : (r.lanes p).1 = if r.kind = 4 then p.mask else r.unf := by
  unfold Rec.lanes
  split <;> rfl

/-- XCAUSE of a record delivered (R269). -/
theorem xcauseOf_record {k : Nat} (hk : k < 32) (cls : Nat) (cause : Cause) :
    xcauseOf k 0 cls cause = BitVec.ofNat 32 (cause.toNat + 64 * cls + 65536 * k) := by
  have h : cause.toNat + cls * 2 ^ 6 + (0 : BitVec 8).toNat * 2 ^ 8 + k % 32 * 2 ^ 16 = cause.toNat + 64 * cls + 65536 * k := by
    rw [Nat.mod_eq_of_lt hk, show (0 : BitVec 8).toNat = 0 from rfl]
    omega
  exact congrArg (BitVec.ofNat 32) h

/-- The lanes of any of several parts. -/
theorem laneOn_union (ps : List Part) (l : Nat) :
    laneOn (ps.foldl (fun m p => m ||| p.mask) 0) l = true ↔ ∃ x ∈ ps, laneOn x.mask l = true := by
  have h : ∀ m : Mask, laneOn (ps.foldl (fun m p => m ||| p.mask) m) l = true ↔ laneOn m l = true ∨ ∃ x ∈ ps, laneOn x.mask l = true := by
    induction ps with
    | nil => simp
    | cons p ps ih =>
      intro m
      rw [List.foldl_cons, ih]
      simp [laneOn, or_assoc]
  rw [h]
  simp [laneOn]

end Sys2Proof.Machine

namespace Sys2Proof.Claims
open Sys2Proof.Machine

/-- Settles O42: the order of deliveries is that of `boundary`, and a delivery with nothing resident enters the handler with
the registers of its exception. -/
theorem boundaryDelivery : Obligations.BoundaryDelivery := by
  intro s core slot g hg he hr hv hx
  refine ⟨fun hd => ?_, fun n p f hd hp hs hn hlen hf hdisp => ?_, fun n p f hd hp hs hxv hn4 hn hsp hpe hov hres hex hsk hf hdisp hno => ?_,
    fun pc more p q hd hp hs hxv hn hsp hsk hpm hqm hne hno => ?_, ?_⟩
  · have hb : s.boundary core slot = some (s.modGroup core slot (fun g => { g with dbg := .stopped cDebugStop })) := by
      simp [State.boundary, hg, he, hr, hv, hx, hd]
    exact ⟨_, _, exec_boundary hb, group_event_modGroup hg _, rfl, rfl, rfl⟩
  · have hb : s.boundary core slot = some (s.deliverHeader core slot n p f) := by
      rw [boundary_sup hg he hr hv hx hd hp hn hs]
      simp only [State.deliverAt, hf]
    obtain ⟨g', e, hg', hesc, hcause, hsup⟩ := deliver_escalated (group_deliverHeader hg n) hs (.slot n)
      (e := ⟨0, 0, 0, f.1, p.pc, f.2.1, f.2.2⟩) hdisp
    exact ⟨_, g', e, exec_boundary hb, hg', hesc, hcause, hsup⟩
  · have hnone (q : Machine.Rec → Bool) : s.oldestRec core slot q = none :=
      oldestRec_none fun r hr hc hsl => absurd ⟨hc, hsl⟩ (hno r hr)
    have hb : s.boundary core slot = some (s.deliverHeader core slot n p f) := by
      rw [boundary_user hg he hr hv hx hd hp hn hs]
      simp only [hnone, hsk, State.deliverAt, hf]
    have hparts := parts_lone (splits_modSplit_lone hn4 hsp (fun p => { p with fault := none })) hpe hov
    obtain ⟨g', hg', h, -⟩ := deliver_handles (group_deliverHeader hg n) hs hxv (fun q hq => by rw [hparts q hq]; exact ⟨hres, hex⟩) (.slot n)
      (e := ⟨0, 0, 0, f.1, p.pc, f.2.1, f.2.2⟩) hdisp
    obtain ⟨q, hq, hqpc, hqm⟩ := h.splits
    exact ⟨_, g', q, exec_boundary hb, hg', h.sup, h.xpc, h.xmask, h.xcause.trans (xcauseOf_plain _), hq, hqpc, hqm⟩
  · have hnone (q : Machine.Rec → Bool) : s.oldestRec core slot q = none :=
      oldestRec_none fun r hr hc hsl => absurd ⟨hc, hsl⟩ (hno r hr)
    obtain ⟨⟨n, w⟩, hnw⟩ := Option.isSome_iff_exists.1 hn
    have hb : s.boundary core slot = some (s.deliverSkew core slot g pc) := by
      rw [boundary_user hg he hr hv hx hd hp hnw hs]
      simp only [hnone, hsk]
    obtain ⟨s', d, hg1, hctx, hdel⟩ := deliverSkew_unequal hg hpm hqm hne
    have hc : s'.ctx g.guest = s.ctx g.guest := by simp only [State.ctx, hctx]
    obtain ⟨g', hg', h, -⟩ := deliver_handles hg1 hs (hc ▸ hxv) (spilled_askew (fun x hx => hsp x hx) pc) d
      (e := ⟨0, 0, 0, cStackSkew, pc, (g.partsAt pc).foldl (fun m p => m ||| p.mask) 0, []⟩)
      (show dispositionOf cStackSkew = .handler by decide)
    obtain ⟨q, hq, hqpc, hqm⟩ := h.splits
    rw [hdel] at hb
    exact ⟨_, g', q, exec_boundary hb, hg', h.sup, h.xpc, h.xcause.trans (xcauseOf_plain _), fun l _ => by rw [h.xmask]; exact laneOn_union _ l,
      hq, hqpc.trans (congrArg Machine.Ctx.xvec hc), hqm.trans h.xmask.symm⟩
  · intro due engine n p i r k hd hp hs hxv hn4 hn hsp hpe hov hres hex hi hdue hk hk32 hdisp first delivers
    have hdel (h : s.boundary core slot = s.deliverRec core slot n p i) : delivers (if r.store then 2 else 1) (r.lanes p).1 := by
      rw [deliverRec_hardware hg hs hxv hi hk] at h
      obtain ⟨g', hg', hh, hrecs⟩ := deliver_handles
        (s := { s with recs := s.recs.modify i (fun r => { r with pinned := true, delivered := true }) }) hg hs hxv
        (fun q hq => by rw [parts_lone hsp hpe hov q hq]; exact ⟨hres, hex⟩) (.slot n)
        (e := ⟨if r.store then 2 else 1, k, 0, r.cause, p.pc, (r.lanes p).1, (r.lanes p).2⟩) hdisp
      refine ⟨_, g', exec_boundary h, hg', ?_, hh.sup, hh.xpc, hh.xmask, hh.xcause.trans (xcauseOf_record hk32 ..)⟩
      rw [hrecs]
      simp [hi]
    have hmem : r ∈ s.recs := List.mem_of_getElem? hi
    have huser := boundary_user hg he hr hv hx hd hp hn hs
    have hnostore (h : ∀ x ∈ s.recs, due x → x.store = false) : s.oldestRec core slot (fun r => r.store) = none :=
      oldestRec_none fun x hx hc hsl hdl hpi hu => h x hx ⟨hc, hsl, hdl, hpi, hu⟩
    refine ⟨fun hfirst hkind => ?_, fun hno hfirst => ?_, fun hno hsk hf hh hpf hfirst => ?_⟩
    · have h := hdel (by rw [huser, oldestRec_first hi hdue hfirst.1 hfirst.2])
      rw [if_pos hfirst.1, lanes_fst, if_neg hkind] at h
      exact h
    · have hold : s.oldestRec core slot (fun r => r.kind == 3 || r.kind == 4) = some i :=
        oldestRec_first hi hdue (by simpa [engine] using hfirst.1) fun j x hj hxj hdx => by
          simpa [engine] using hfirst.2 j x hj hxj hdx
      have h := hdel (by rw [huser, hnostore hno, hold])
      rw [hno r hmem hdue] at h
      rw [lanes_fst] at h
      exact h
    · have hengine : s.oldestRec core slot (fun r => r.kind == 3 || r.kind == 4) = none :=
        oldestRec_none fun x hx hc hsl hdl hpi hu => by simpa [engine] using (hno x hx ⟨hc, hsl, hdl, hpi, hu⟩).2
      have hold : s.oldestRec core slot (fun r => isFrq r && s.awaits core slot g p r) = some i :=
        oldestRec_first hi hdue (by simpa using hfirst.1) fun j x hj hxj hdx => by simpa using hfirst.2 j x hj hxj hdx
      have h := hdel (by
        rw [huser, hnostore fun x hx hdx => (hno x hx hdx).1, hengine]
        simp only [hsk, State.deliverAt, hf, hh, Option.isSome_none, Bool.false_eq_true, if_false, hpf, hold])
      rw [(hno r hmem hdue).1] at h
      rw [lanes_fst, if_neg fun e => (hno r hmem hdue).2 (.inr e)] at h
      exact h

end Sys2Proof.Claims


/-! # Child launches and messages (O50) -/

namespace Sys2Proof.Machine

/-! ## Statuses -/

/-- A status stands in the operation; nothing but memory changes besides. -/
theorem putStatus_spec {s : State} {id : Nat} {o : Op} (ho : mfind s.ops id = some o) (v : Word) :
    mfind (s.putStatus id v).ops id = some { o with status := some v } ∧ (s.putStatus id v).launches = s.launches ∧
      (s.putStatus id v).ctxs = s.ctxs ∧ (s.putStatus id v).dev = s.dev ∧ (s.putStatus id v).groups = s.groups ∧
      (o.area = none → (s.putStatus id v).mem = s.mem) := by
  unfold State.putStatus
  simp only [ho]
  split
  · exact ⟨mfind_mset_same .., rfl, rfl, rfl, rfl, fun _ => rfl⟩
  · rename_i k hk
    unfold State.patchSlot
    split
    · exact ⟨mfind_mset_same .., rfl, rfl, rfl, rfl, fun h => by rw [hk] at h; cases h⟩
    · exact ⟨mfind_mset_same .., rfl, rfl, rfl, rfl, fun _ => rfl⟩

theorem mget_of_ctxs {s t : State} (h : t.ctxs = s.ctxs) (n : Nat) : t.ctx n = s.ctx n := by simp only [State.ctx, h]

theorem ctx_setCtx_same (s : State) (n : Nat) (c : Ctx) : (s.setCtx n c).ctx n = c := by simp [State.ctx, State.setCtx]

/-- A credit or unit given back, or taken, leaves operations, launches and memory. -/
theorem returnQuota_frame (s : State) (guest : Nat) (q : Quota) : (s.returnQuota guest q).ops = s.ops ∧
    (s.returnQuota guest q).launches = s.launches ∧ (s.returnQuota guest q).mem = s.mem := by
  cases q <;> exact ⟨rfl, rfl, rfl⟩

/-- A credit or unit given back. -/
theorem returnQuota_spec (s : State) (guest : Nat) (q : Quota) :
    (∀ k x, q = .unit k → (s.ctx guest).quota[k]? = some x → ((s.returnQuota guest q).ctx guest).quota[k]? = some (x.1, x.2 - 1)) ∧
    (∀ core slot g, q = .credit core slot → s.group core slot = some g →
      (s.returnQuota guest q).group core slot = some { g with credit := false }) := by
  constructor
  · rintro k x rfl hx
    have e : (s.returnQuota guest (.unit k)).ctx guest = (s.ctx guest).modQuota k (· - 1) := ctx_setCtx_same ..
    rw [e]
    simp [Ctx.modQuota, hx]
  · rintro core slot g rfl hg
    change (s.modGroup core slot (fun g => { g with credit := false })).group core slot = _
    rw [group_modGroup, if_pos rfl, hg]
    rfl

end Sys2Proof.Machine

namespace Sys2Proof.Claims
open Sys2Proof.Machine

/-- What a child launch that has ended leaves: its unit or credit back, and its waiter answered. -/
def afterChild (s : State) (l : Launch) : State :=
  match l.waiter with
  | some w => (s.returnQuota l.guest l.quota).putStatus w (if l.err then 4 else 1)
  | none => s.returnQuota l.guest l.quota

theorem afterChild_frame (s : State) (l : Launch) (h : ∀ w o, l.waiter = some w → mfind s.ops w = some o → o.area = none) :
    (afterChild s l).mem = s.mem ∧ (afterChild s l).launches = s.launches ∧
      (afterChild s l).ctxs = (s.returnQuota l.guest l.quota).ctxs ∧ (afterChild s l).groups = (s.returnQuota l.guest l.quota).groups ∧
      ∀ w o, l.waiter = some w → mfind s.ops w = some o → ∃ o', mfind (afterChild s l).ops w = some o' ∧
        o'.status = some (if l.err then 4 else 1) := by
  obtain ⟨hops, hlau, hmem⟩ := returnQuota_frame s l.guest l.quota
  unfold afterChild
  cases hw : l.waiter with
  | none => exact ⟨hmem, hlau, rfl, rfl, fun w o e => by cases e⟩
  | some w =>
    cases ho : mfind s.ops w with
    | none =>
      have hno : mfind (s.returnQuota l.guest l.quota).ops w = none := by rw [hops, ho]
      have e (v : Word) : (s.returnQuota l.guest l.quota).putStatus w v = s.returnQuota l.guest l.quota := by
        simp only [State.putStatus, hno]
      dsimp only
      rw [e]
      refine ⟨hmem, hlau, rfl, rfl, fun w' o e' h' => ?_⟩
      cases e'
      rw [ho] at h'
      cases h'
    | some o =>
      have ho' : mfind (s.returnQuota l.guest l.quota).ops w = some o := by rw [hops, ho]
      obtain ⟨h1, h2, h3, -, h5, h6⟩ := putStatus_spec ho' (if l.err then 4 else 1)
      refine ⟨(h6 (h w o hw ho)).trans hmem, h2.trans hlau, h3, h5, fun w' o' e' _ => ?_⟩
      cases e'
      exact ⟨_, h1, rfl⟩

/-- A group of a slot before the upkeep, after it. -/
theorem groupIs_refresh {t : State} {core slot : Nat} {g : Machine.Group} {p : Machine.Group → Prop} (hg : t.group core slot = some g)
    (hp : p (t.touchGroup (gkey core slot) g)) : GroupIs t.refresh core slot p :=
  ⟨_, by rw [group_refresh, hg]; rfl, hp⟩

theorem childLaunchesEnd (s : State) : ChildLaunchesEnd s := by
  intro n l hl hpar hover hout harea
  have hx : exec (.childLaunchEnd n) s =
      .next ({ afterChild s l with launches := mdel (afterChild s l).launches n } : State).refresh := by
    show execChildLaunchEnd n s = _
    have hp : l.parent.isNone = false := by simpa using hpar
    simp only [execChildLaunchEnd, State.event, hl, hover, hp]
    rw [if_neg]
    · rfl
    · simp only [Bool.not_true, Bool.or_false, Bool.false_or, Bool.and_eq_true, not_and, Bool.not_eq_true]
      intro _
      rw [List.any_eq_false]
      intro e he
      by_cases hn : e.launch = n
      · obtain ⟨u, hu⟩ := hout e he hn
        simp [hu]
      · simp [hn]
  obtain ⟨hmem, hlau, hctx, hgrp, hans⟩ := afterChild_frame s l harea
  obtain ⟨hunit, hcredit⟩ := returnQuota_spec s l.guest l.quota
  refine ⟨_, hx, hmem, ?_, hans, fun k q hk hq => ?_, fun core slot g hq hg => ?_⟩
  · change mfind (mdel _ n) n = none
    rw [mfind_mdel, if_pos rfl]
  · change ((afterChild s l).ctx l.guest).quota[k]? = _
    rw [mget_of_ctxs hctx]
    exact hunit k q hk hq
  · have hg' : (afterChild s l).group core slot = some { g with credit := false } := by
      have := hcredit core slot g hq hg
      simpa only [State.group, hgrp] using this
    exact groupIs_refresh (t := { afterChild s l with launches := mdel (afterChild s l).launches n }) hg' rfl

/-- A header that is read: nothing on its way from another package. -/
theorem homeWait_none {s : State} {who : FarUser} {guest va n : Nat} {b : List Byte} (h : s.homeBytes who guest va n = some b) :
    s.homeWait who guest va n = none := by
  simp [State.homeWait, h]

/-- The state once a header has been read. -/
def headerRead (s : State) (op : Nat) : State := s.farDone (.op op)

/-- What reading a header comes to (R289, R357). -/
theorem exec_enqHeaderRead {s : State} {op : Nat} {o : Op} {g : Group} {p : Launch} {b : List Byte} (ho : mfind s.ops op = some o)
    (hst : o.status = none) (hk : o.kind = .enq ∨ o.kind = .enqw) (hl : mfind s.launches op = none)
    (hs : s.storesApplied o.core o.slot op = true) (hg : s.group o.core o.slot = some g) (hp : mfind s.launches g.launch = some p)
    (hb : s.homeBytes (.op op) o.guest (o.req 0).va.toNat 128 = some b) :
    exec (.enqHeaderRead op) s = .next (State.refresh (
      if s.refused o.guest (Hdr.ofBytes b) then (headerRead s op).putStatus op 3
      else if (s.ctx o.guest).quotaFree (Hdr.ofBytes b).quotaClass then
        (if o.kind = .enq
          then ((headerRead s op).queueChild o p g.launch (Hdr.ofBytes b) (.unit (Hdr.ofBytes b).quotaClass)).putStatus op 1
          else (headerRead s op).queueChild o p g.launch (Hdr.ofBytes b) (.unit (Hdr.ofBytes b).quotaClass))
      else if o.kind = .enqw ∧ g.credit = false then
        (headerRead s op).queueChild o p g.launch (Hdr.ofBytes b) (.credit o.core o.slot)
      else (headerRead s op).putStatus op 2)) := by
  show execEnqHeaderRead op s = _
  have hkind : (o.kind == .enq || o.kind == .enqw) = true := by rcases hk with h | h <;> simp [h]
  have hany : s.anyGroup o.core o.slot = some g := by simp only [State.anyGroup, hg]
  simp only [execEnqHeaderRead, State.event, ho, hkind, hst, hl, hs, hany, homeWait_none hb, hp, hb, Bool.not_true, Option.isSome_none,
    Bool.or_false, Bool.false_eq_true, if_false] <;> rfl

/-- A child launch as it stands in the queue. -/
def childOf (o : Op) (p r : Launch) (pid : Nat) (h : Hdr) (q : Quota) : Launch :=
  { h.launch o.guest p.root (min h.prio p.prio) (some pid) false 0 with
    lstart := r.lstart, phase := .running, quota := q, waiter := if o.kind = .enqw then some o.id else none }

/-- A child launch queued on a unit of its class. -/
theorem queueChild_unit {s : State} {o : Op} {p r : Launch} (hr : mfind s.launches p.root = some r) (pid : Nat) (h : Hdr) (k : Nat) :
    mfind (s.queueChild o p pid h (.unit k)).launches o.id = some (childOf o p r pid h (.unit k)) ∧
      (s.queueChild o p pid h (.unit k)).ops = s.ops ∧
      (s.queueChild o p pid h (.unit k)).ctx o.guest = (s.ctx o.guest).modQuota k (· + 1) := by
  unfold State.queueChild
  simp only [hr]
  exact ⟨mfind_mset_same .., rfl, ctx_setCtx_same ..⟩

/-- A child launch queued on the credit of its group. -/
theorem queueChild_credit {s : State} {o : Op} {p r : Launch} (hr : mfind s.launches p.root = some r) (pid : Nat) (h : Hdr)
    {core slot : Nat} {g : Machine.Group} (hg : s.group core slot = some g) :
    mfind (s.queueChild o p pid h (.credit core slot)).launches o.id = some (childOf o p r pid h (.credit core slot)) ∧
      (s.queueChild o p pid h (.credit core slot)).ops = s.ops ∧
      (s.queueChild o p pid h (.credit core slot)).group core slot = some { g with credit := true } := by
  unfold State.queueChild
  simp only [hr]
  refine ⟨mfind_mset_same .., rfl, ?_⟩
  exact (group_modGroup _ core slot core slot _).trans ((if_pos rfl).trans (by
    change (s.group core slot).map _ = _
    rw [hg]
    rfl))

theorem childLaunches (s : State) : ChildLaunches s := by
  intro op o g p r b ho hid hst hlo hsa hg hp hr hb hq h q status child
  have hx (hk : o.kind = .enq ∨ o.kind = .enqw) := exec_enqHeaderRead ho hst hk hlo hsa hg hp hb
  have hans (v : Word) : ((headerRead s op).putStatus op v).refresh.launches = s.launches ∧
      status ((headerRead s op).putStatus op v).refresh (some v) := by
    obtain ⟨h1, h2, -⟩ := putStatus_spec (s := headerRead s op) ho v
    exact ⟨h2, _, h1, rfl⟩
  have hcls : h.quotaClass < (s.ctx o.guest).quota.length := by
    rw [hq]
    exact Nat.mod_lt _ (by decide)
  have hfree : (s.ctx o.guest).quotaFree h.quotaClass = decide (q.2 < q.1) := rfl
  have hchild (t : State) (qt : Quota) (ht : mfind t.launches op = some (childOf o p r g.launch h qt)) : child t := by
    refine ⟨_, ht, rfl, rfl, rfl, rfl, rfl, rfl, rfl, rfl, ?_⟩
    change (if o.kind = .enqw then some o.id else none).isSome = true ↔ _
    split <;> simp [*]
  refine ⟨fun hk href => ?_, fun hk href hlt => ?_, fun href hge => ⟨fun hk => ?_, fun hk hc => ?_, fun hk hc => ?_⟩⟩
  · have hx := hx hk
    rw [if_pos href] at hx
    exact ⟨_, hx, hans 3⟩
  · have hx := hx hk
    obtain ⟨h1, h2, h3⟩ := queueChild_unit (s := headerRead s op) (o := o) hr g.launch h h.quotaClass
    have hquota : ((s.ctx o.guest).modQuota h.quotaClass (· + 1)).quota.getD h.quotaClass (0, 0) = (q.1, q.2 + 1) := by
      simp [Machine.Ctx.modQuota, List.getD_eq_getElem?_getD, hcls, q]
    rw [if_neg (by rw [href]; decide), if_pos (by rw [hfree]; exact decide_eq_true hlt)] at hx
    by_cases he : o.kind = .enq
    · rw [if_pos he] at hx
      obtain ⟨g1, g2, g3, -⟩ := putStatus_spec (id := op) (o := o) (by rw [h2]; exact ho) 1
      refine ⟨_, hx, hchild _ _ ((congrArg (mfind · op) g2).trans (hid ▸ h1)), ?_, ?_⟩
      · change (State.ctx (State.putStatus _ _ _) o.guest).quota.getD _ _ = _
        rw [mget_of_ctxs g3, h3]
        exact hquota
      · exact ⟨_, g1, by rw [if_pos he]⟩
    · rw [if_neg he] at hx
      refine ⟨_, hx, hchild _ _ (hid ▸ h1), ?_, ?_⟩
      · change (State.ctx (State.queueChild _ _ _ _ _ _) o.guest).quota.getD _ _ = _
        rw [h3]
        exact hquota
      · exact ⟨o, (congrArg (mfind · op) h2).trans ho, by rw [if_neg he, hst]⟩
  · have hx := hx (.inl hk)
    rw [if_neg (by rw [href]; decide), if_neg (by rw [hfree]; simpa using hge), if_neg (by rw [hk]; simp)] at hx
    exact ⟨_, hx, hans 2⟩
  · have hx := hx (.inr hk)
    rw [if_neg (by rw [href]; decide), if_neg (by rw [hfree]; simpa using hge), if_neg (by rw [hc]; simp)] at hx
    exact ⟨_, hx, hans 2⟩
  · have hx := hx (.inr hk)
    rw [if_neg (by rw [href]; decide), if_neg (by rw [hfree]; simpa using hge), if_pos ⟨hk, hc⟩] at hx
    obtain ⟨h1, h2, h3⟩ := queueChild_credit (s := headerRead s op) (o := o) hr g.launch h hg
    exact ⟨_, hx, hchild _ _ (hid ▸ h1), ⟨o, (congrArg (mfind · op) h2).trans ho, hst⟩, groupIs_refresh h3 rfl⟩

/-! ## Messages -/

/-- A message stored in a mailbox of this package. -/
def delivered (s : State) (o : Op) : State :=
  let x := s.ctx o.guest
  let d := (o.req 0).va.toNat
  s.setCtx o.guest { x with mail := mset x.mail (nbits d 14 13) (mget x.mail (nbits d 14 13) [] ++
    [⟨s.dev.pkgid, BitVec.ofNat 2 o.size, o.lanes.map (fun y => y.req.val.setWidth 32), o.wit⟩]) }

/-- A message that has set out to another package. -/
def sentAway (s : State) (o : Op) : State :=
  let d := (o.req 0).va.toNat
  let m : Config.LinkMessage := ⟨o.guest, nbits d 14 13, s.dev.pkgid, BitVec.ofNat 2 o.size,
    o.lanes.map (fun y => y.req.val.setWidth 32), o.wit⟩
  match mfind s.dev.routes (nbits d 12 0) with
  | some t => s.sendFlit t.port 3 (Config.linkPackMessage m)
  | none => s

/-- What the delivery of a message comes to (R290). -/
theorem exec_messageDelivery {s : State} {op : Nat} {o : Op} (ho : mfind s.ops op = some o) (hk : o.kind = .lsend) (hst : o.status = none)
    (he : ∀ y ∈ s.ops, y.2.kind = .lsend → y.2.core = o.core → y.2.slot = o.slot → y.2.id < op → y.2.status.isSome) :
    exec (.messageDelivery op) s = .next (State.refresh (
      if nbits (o.req 0).va.toNat 31 15 ≠ 0 then s.putStatus op 3
      else if nbits (o.req 0).va.toNat 12 0 = s.dev.pkgid.toNat then
        if 64 ≤ (mget (s.ctx o.guest).mail (nbits (o.req 0).va.toNat 14 13) []).length then s.putStatus op 2
        else (delivered s o).putStatus op 1
      else if !s.reaches (nbits (o.req 0).va.toNat 12 0) then s.putStatus op 3
      else ((sentAway s o).freeWord.1).putStatus op (if (sentAway s o).freeWord.2.getLsbD 0 then 2 else 1))) := by
  have hearly : s.ops.any (fun x => x.2.kind == .lsend && x.2.core == o.core && x.2.slot == o.slot
      && decide (x.2.id < op) && x.2.status.isNone && (x.2.req 0).va.toNat == (o.req 0).va.toNat) = false := by
    rw [List.any_eq_false]
    intro y hy h
    simp only [Bool.and_eq_true, beq_iff_eq, decide_eq_true_eq, Option.isNone_iff_eq_none] at h
    obtain ⟨⟨⟨⟨⟨h1, h2⟩, h3⟩, h4⟩, h5⟩, -⟩ := h
    have := he y hy h1 h2 h3 h4
    rw [h5] at this
    cases this
  show execMessageDelivery op s = _
  simp only [execMessageDelivery, State.event, ho, hk, hst, hearly, bne_self_eq_false, Option.isSome_none, Bool.or_false,
    Bool.false_eq_true, if_false] <;> rfl

/-- Only the port of a message's route changes as it sets out. -/
theorem sentAway_spec {s : State} {o : Op} (h : s.reaches (nbits (o.req 0).va.toNat 12 0) = true) :
    ∃ r, mfind s.dev.routes (nbits (o.req 0).va.toNat 12 0) = some r ∧ (sentAway s o).ops = s.ops ∧ (sentAway s o).ctxs = s.ctxs ∧
      ((sentAway s o).port r.port).out.length = (s.port r.port).out.length + 1 := by
  unfold State.reaches at h
  split at h
  · rename_i r hr
    refine ⟨r, hr, ?_⟩
    unfold sentAway
    simp only [hr]
    refine ⟨rfl, rfl, ?_⟩
    simp [State.sendFlit, State.modPort, State.modDev, State.port, State.freeByte]
  · cases h

theorem messagesArrive (s : State) : MessagesArrive s := by
  intro op o ho hid hk hst harea d x box status hd he
  have hx := exec_messageDelivery ho hk hst he
  have hhi : nbits d 31 15 = 0 ↔ d < 2 ^ 15 := by simp only [nbits]; omega
  have hpkg : nbits d 12 0 = d % 2 ^ 13 := by simp [nbits]
  have hbox : nbits d 14 13 = d / 2 ^ 13 % 4 := by simp [nbits]
  have hans {t : State} (ht : mfind t.ops op = some o) (v : Word) : status (t.putStatus op v).refresh v :=
    ⟨_, (putStatus_spec ht v).1, rfl⟩
  have hctx {t : State} (ht : mfind t.ops op = some o) (v : Word) : (t.putStatus op v).refresh.ctxs = t.ctxs :=
    (putStatus_spec ht v).2.2.1
  change exec (.messageDelivery op) s = .next (State.refresh (if nbits d 31 15 ≠ 0 then _ else if nbits d 12 0 = _ then
    if 64 ≤ (mget x.mail (nbits d 14 13) []).length then _ else _ else if !s.reaches (nbits d 12 0) then _ else _)) at hx
  rw [hpkg, hbox] at hx
  refine ⟨fun hbig => ?_, fun hlt hhere => ⟨fun hroom => ?_, fun hfull => ?_⟩, fun hlt haway => ⟨fun hno => ?_, fun hyes => ?_⟩⟩
  · rw [if_pos (fun e => absurd (hhi.1 e) (by omega))] at hx
    exact ⟨_, hx, hctx ho 3, hans ho 3⟩
  · have ho' : mfind (delivered s o).ops op = some o := ho
    rw [if_neg (not_not.2 (hhi.2 hlt)), if_pos hhere, if_neg (Nat.not_le.2 hroom)] at hx
    refine ⟨_, hx, (putStatus_spec ho' 1).2.2.2.2.2 harea, hans ho' 1,
      ⟨s.dev.pkgid, BitVec.ofNat 2 o.size, o.lanes.map (fun y => y.req.val.setWidth 32), o.wit⟩, ?_, rfl, rfl⟩
    have hc : ((delivered s o).putStatus op 1).refresh.ctx o.guest = (delivered s o).ctx o.guest := mget_of_ctxs (hctx ho' 1) _
    rw [hc]
    simp only [delivered, ctx_setCtx_same]
    change mget (mset x.mail (nbits d 14 13) (mget x.mail (nbits d 14 13) [] ++ _)) _ _ = _
    rw [hbox, mget_mset_same]
  · rw [if_neg (not_not.2 (hhi.2 hlt)), if_pos hhere, if_pos hfull] at hx
    exact ⟨_, hx, hctx ho 2, hans ho 2⟩
  · rw [if_neg (not_not.2 (hhi.2 hlt)), if_neg haway, if_pos (by rw [hno]; rfl)] at hx
    exact ⟨_, hx, hctx ho 3, hans ho 3⟩
  · rw [if_neg (not_not.2 (hhi.2 hlt)), if_neg haway, if_neg (by rw [hyes]; decide)] at hx
    obtain ⟨r, hr, hops, hctxs, hout⟩ := sentAway_spec (s := s) (o := o) (by rw [show nbits (o.req 0).va.toNat 12 0 = d % 2 ^ 13 from hpkg]; exact hyes)
    have ho' : mfind (sentAway s o).freeWord.1.ops op = some o := (congrArg (mfind · op) hops).trans ho
    refine ⟨_, hx, (hctx ho' _).trans hctxs, ?_, r, by rw [← hpkg]; exact hr, ?_⟩
    · have := hans ho' (if (sentAway s o).freeWord.2.getLsbD 0 then 2 else 1)
      by_cases hb : (sentAway s o).freeWord.2.getLsbD 0 = true
      · rw [if_pos hb] at this ⊢
        exact .inr this
      · rw [if_neg hb] at this ⊢
        exact .inl this
    · have hdev : ((sentAway s o).freeWord.1.putStatus op (if (sentAway s o).freeWord.2.getLsbD 0 then 2 else 1)).dev = (sentAway s o).dev :=
        (putStatus_spec ho' _).2.2.2.1
      change (mget (State.putStatus _ _ _).dev.ports r.port Port.initial).out.length = _
      rw [hdev]
      exact hout

end Sys2Proof.Claims


/-! # Stage pipelines (O50) -/

namespace Sys2Proof.Machine

/-! ## What translation rests on besides memory -/

/-- Two states that have the same TLB, contexts, partitions and links, and reach the same packages. -/
structure SameCharts (s t : State) : Prop where
  tlb : t.tlb = s.tlb
  ctxs : t.ctxs = s.ctxs
  parts : t.dev.parts = s.dev.parts
  ucieA : t.dev.ucieA = s.dev.ucieA
  ucieB : t.dev.ucieB = s.dev.ucieB
  reaches : ∀ pkg, t.reaches pkg = s.reaches pkg

theorem SameCharts.refl (s : State) : SameCharts s s := ⟨rfl, rfl, rfl, rfl, rfl, fun _ => rfl⟩

theorem SameCharts.trans {s t u : State} (h : SameCharts s t) (k : SameCharts t u) : SameCharts s u :=
  ⟨k.tlb.trans h.tlb, k.ctxs.trans h.ctxs, k.parts.trans h.parts, k.ucieA.trans h.ucieA, k.ucieB.trans h.ucieB,
    fun pkg => (k.reaches pkg).trans (h.reaches pkg)⟩

/-- Everything that translation rests on but memory is in these fields. -/
theorem SameCharts.of {s t : State} (ht : t.tlb = s.tlb) (hc : t.ctxs = s.ctxs) (hd : t.dev.parts = s.dev.parts)
    (ha : t.dev.ucieA = s.dev.ucieA) (hb : t.dev.ucieB = s.dev.ucieB) (hr : t.dev.routes = s.dev.routes)
    (hp : ∀ n, (mfind t.dev.ports n).map (fun p => p.trained && !p.down) = (mfind s.dev.ports n).map (fun p => p.trained && !p.down)) :
    SameCharts s t where
  tlb := ht
  ctxs := hc
  parts := hd
  ucieA := ha
  ucieB := hb
  reaches pkg := by
    unfold State.reaches
    rw [hr]
    cases mfind s.dev.routes pkg with
    | none => rfl
    | some r =>
      have := hp r.port
      dsimp only
      cases h : mfind t.dev.ports r.port <;> cases k : mfind s.dev.ports r.port <;> simp_all

/-- A flit leaves on a port as it is. -/
theorem sameCharts_sendFlit (s : State) {n : Nat} {p : Port} (hp : mfind s.dev.ports n = some p) (type : Nat) (bs : List Byte) :
    SameCharts s (s.sendFlit n type bs) := by
  refine .of rfl rfl rfl rfl rfl rfl (fun k => ?_)
  change (mfind (mset s.dev.ports n _) k).map _ = _
  rw [mfind_mset]
  split
  · rename_i h
    simp [h, hp, State.port, mget, State.freeByte]
  · rfl

/-- A request goes out only where its package is reached. -/
theorem sameCharts_putRequest (s : State) (pkg : Nat) (r : Config.LinkRequest) : SameCharts s (s.putRequest pkg r).1 := by
  unfold State.putRequest
  split
  · rename_i x hx
    split
    · rename_i h
      simp only [State.reaches, hx] at h
      split at h
      · rename_i p hp
        exact sameCharts_sendFlit s hp _ _
      · cases h
    · exact .refl s
  · exact .refl s

theorem sameCharts_farGo (s : State) (f : Far) : SameCharts s (s.farGo f) := by
  unfold State.farGo
  split
  · exact .refl _
  · exact (sameCharts_putRequest _ _ _).trans (.of rfl rfl rfl rfl rfl rfl (fun _ => rfl))

theorem sameCharts_farAdd (s : State) (who : FarUser) (guest : Nat) (va : Addr) (addr : Nat) (bs : List Byte) :
    SameCharts s (s.farAdd who guest va addr bs) :=
  SameCharts.trans (t := { s.nextNum.1 with far := s.nextNum.1.far ++ [⟨s.nextNum.2, who, guest, va, addr, bs, none, none⟩] })
    (.of rfl rfl rfl rfl rfl rfl (fun _ => rfl)) (sameCharts_farGo _ _)

theorem sameCharts_farStore (s : State) (who : FarUser) (guest : Nat) (va : Addr) (addr : Nat) (bs : List Byte) :
    SameCharts s (s.farStore who guest va addr bs) :=
  foldl_keeps (SameCharts s) _ (fun _ _ h => h.trans (sameCharts_farAdd ..)) _ (.refl s)

theorem sameCharts_putHome (s : State) (guest addr : Nat) (bs : List Byte) : SameCharts s (s.putHome guest addr bs) := by
  unfold State.putHome
  have h : SameCharts s { s with mem := wrBytes s.mem addr bs } := .of rfl rfl rfl rfl rfl rfl (fun _ => rfl)
  split
  · exact h.trans (sameCharts_farStore ..)
  · exact h

theorem mem_putHome (s : State) (guest addr : Nat) (bs : List Byte) : (s.putHome guest addr bs).mem = wrBytes s.mem addr bs := by
  unfold State.putHome
  split
  · exact State.farStore_mem ..
  · rfl

theorem pipes_farGo (s : State) (f : Far) : (s.farGo f).pipes = s.pipes := by
  unfold State.farGo State.putRequest
  split
  · rfl
  · dsimp only
    split
    · split <;> rfl
    · rfl

theorem pipes_farAdd (s : State) (who : FarUser) (guest : Nat) (va : Addr) (addr : Nat) (bs : List Byte) :
    (s.farAdd who guest va addr bs).pipes = s.pipes := pipes_farGo _ _

theorem pipes_putHome (s : State) (guest addr : Nat) (bs : List Byte) : (s.putHome guest addr bs).pipes = s.pipes := by
  unfold State.putHome
  split
  · exact foldl_keeps (fun t => t.pipes = s.pipes) _ (fun _ _ h => (pipes_farAdd ..).trans h) _ rfl
  · rfl

namespace SameCharts

variable {s t : State} (h : SameCharts s t)

include h

theorem ctx (guest : Nat) : t.ctx guest = s.ctx guest := by simp only [State.ctx, h.ctxs]

theorem inPartition (guest pa : Nat) : t.inPartition guest pa = s.inPartition guest pa := by
  simp only [State.inPartition, h.ctx, h.parts]

theorem leafOk (guest e level : Nat) : t.leafOk guest e level = s.leafOk guest e level := by
  simp only [State.leafOk, h.inPartition]

theorem walkFrom (guest va : Nat) (fuel table level : Nat) :
    t.walkFrom guest va fuel table level = ({ s with mem := t.mem } : State).walkFrom guest va fuel table level := by
  have hl (e level : Nat) : ({ s with mem := t.mem } : State).leafOk guest e level = s.leafOk guest e level := rfl
  induction fuel generalizing table level with
  | zero => rfl
  | succ fuel ih => simp only [State.walkFrom, h.leafOk, hl, ih]

/-- They translate alike from the same memory. -/
theorem translate (guest va : Nat) (acc : Access) :
    t.translate guest va acc = ({ s with mem := t.mem } : State).translate guest va acc := by
  have hlook : t.lookup guest va = ({ s with mem := t.mem } : State).lookup guest va := by
    simp only [State.lookup, State.walk, h.tlb, h.ctx, h.inPartition, h.walkFrom]
    rfl
  simp only [State.translate, hlook, h.reaches, h.ucieA, h.ucieB]
  rfl

end SameCharts

end Sys2Proof.Machine

namespace Sys2Proof.Claims

open Sys2Proof.Machine

/-! ## Gathering -/

theorem mem_stageTouch (s : State) : s.stageTouch.mem = s.mem := rfl

/-- Bringing the timers up to date leaves the gathered groups. -/
theorem gathered_touchPipe (s : State) (p : Pipe) (stage cluster : Nat) : (s.touchPipe p).gathered stage cluster = p.gathered stage cluster := by
  unfold State.touchPipe
  split <;> rfl

theorem pipe_stageTouch (s : State) (pipe : Nat) : mfind s.stageTouch.pipes pipe = (mfind s.pipes pipe).map s.touchPipe :=
  mfind_map s.pipes (fun _ => s.touchPipe) pipe

theorem mem_ringTake (s : State) (r : InRing) (n : Nat) :
    (s.ringTake r n).mem = wrLE s.mem (r.pa + 16) 4 ((r.cons + n) % 2 ^ 32) := mem_putHome ..

theorem pipe_of_stageAt {s : State} {pipe stage cluster : Nat} {p : Pipe} {r : InRing} (h : s.stageAt pipe stage cluster = some (p, r)) :
    mfind s.pipes pipe = some p := by
  unfold State.stageAt at h
  split at h
  · cases h
  · rename_i q hq
    split at h
    · cases h
    · obtain ⟨x, -, hx⟩ := Option.map_eq_some_iff.1 h
      cases hx
      exact hq

/-- The oldest records become a gathered group, and C advances (R354). -/
theorem gather_took {s : State} {pipe stage cluster n : Nat} {p : Pipe} {r : InRing} {ws : List Word} (hp : mfind s.pipes pipe = some p)
    (hwf : Memory.wf s.mem = true) (hws : s.ringOldest p.guest r n = some ws) :
    rdLE (s.gather pipe p stage cluster n r).refresh.mem (r.pa + 16) 4 = (r.cons + n) % 2 ^ 32 ∧
    ∃ p', mfind (s.gather pipe p stage cluster n r).refresh.pipes pipe = some p' ∧
      p'.gathered stage cluster = p.gathered stage cluster ++ [ws] := by
  simp only [State.gather, hws, State.refresh_mem, State.refresh_pipes]
  constructor
  · rw [mem_stageTouch]
    change rdLE (s.ringTake r n).mem _ _ = _
    rw [mem_ringTake, rdLE_wrLE hwf]
    omega
  · rw [pipe_stageTouch]
    change ∃ p', (mfind (mmod (s.ringTake r n).pipes pipe _) pipe).map _ = _ ∧ _
    have hpipe : mfind (s.ringTake r n).pipes pipe = some p := by rw [State.ringTake, pipes_putHome, hp]
    rw [mfind_mmod, if_pos rfl, hpipe]
    exact ⟨_, rfl, (gathered_touchPipe _ _ _ _).trans (mget_mset_same _ _ _ _)⟩

theorem stagesGather (s : State) : StagesGather s := by
  intro pipe stage cluster p r hat hwf
  have hp := pipe_of_stageAt hat
  constructor
  · intro ws hn hws
    refine ⟨(s.gather pipe p stage cluster 32 r).refresh, ?_, gather_took hp hwf hws⟩
    change execStageGather pipe stage cluster s = _
    simp only [execStageGather, State.event, hat, hn, if_true]
  · intro u ws hu hlate hn hws
    refine ⟨(s.gather pipe p stage cluster (min r.used 32) r).refresh, ?_, gather_took hp hwf hws⟩
    change execStageGatherTimeout pipe stage cluster s = _
    simp only [execStageGatherTimeout, State.event, hat, hu, hlate, hn, and_self, if_true]

/-! ## Balancing -/

/-- Words put at their places, one after another. -/
def putWords (m : Memory) (xs : List (Nat × Word)) : Memory := xs.foldl (fun m x => wrLE m x.1 4 x.2.toNat) m

theorem wf_putWords {m : Memory} (h : Memory.wf m = true) (xs : List (Nat × Word)) : Memory.wf (putWords m xs) = true := by
  induction xs generalizing m with
  | nil => exact h
  | cons x xs ih => exact ih (wf_wrLE h ..)

/-- Words put elsewhere leave a field. -/
theorem rdLE_putWords_other {m : Memory} (h : Memory.wf m = true) (xs : List (Nat × Word)) {a n : Nat}
    (hd : ∀ x ∈ xs, a + n ≤ x.1 ∨ x.1 + 4 ≤ a) : rdLE (putWords m xs) a n = rdLE m a n := by
  induction xs generalizing m with
  | nil => rfl
  | cons x xs ih =>
    have hx := ih (wf_wrLE h x.1 4 x.2.toNat) (fun y hy => hd y (List.mem_cons_of_mem _ hy))
    exact hx.trans (rdLE_wrLE_other h _ _ _ _ _ (hd x List.mem_cons_self))

/-- Words put at places apart from each other stand there. -/
theorem rdLE_putWords {m : Memory} (h : Memory.wf m = true) (xs : List (Nat × Word))
    (hd : xs.Pairwise (fun x y => x.1 + 4 ≤ y.1 ∨ y.1 + 4 ≤ x.1)) {x : Nat × Word} (hx : x ∈ xs) :
    rdLE (putWords m xs) x.1 4 = x.2.toNat := by
  induction xs generalizing m with
  | nil => cases hx
  | cons y ys ih =>
    obtain ⟨hy, hys⟩ := List.pairwise_cons.1 hd
    have hwf := wf_wrLE h y.1 4 y.2.toNat
    rcases List.mem_cons.1 hx with rfl | hx
    · refine (rdLE_putWords_other hwf ys hy).trans ((rdLE_wrLE h ..).trans ?_)
      exact Nat.mod_eq_of_lt x.2.isLt
    · exact ih hwf hys hx

theorem mem_putHomes (s : State) (guest : Nat) (xs : List (Nat × Word)) :
    (xs.foldl (fun (s : State) x => s.putHome guest x.1 (leBytes 4 x.2.toNat)) s).mem = putWords s.mem xs := by
  induction xs generalizing s with
  | nil => rfl
  | cons x xs ih =>
    refine (ih _).trans ?_
    rw [mem_putHome]
    rfl

theorem mapM_some {α β : Type} {f : α → Option β} {g : α → β} {xs : List α} (h : ∀ x ∈ xs, f x = some (g x)) :
    xs.mapM f = some (xs.map g) := by
  induction xs with
  | nil => rfl
  | cons x xs ih =>
    rw [List.mapM_cons, h x List.mem_cons_self, ih (fun y hy => h y (List.mem_cons_of_mem _ hy))]
    rfl

theorem length_of_mapM {α β : Type} {f : α → Option β} {xs : List α} {ys : List β} (h : xs.mapM f = some ys) : ys.length = xs.length := by
  induction xs generalizing ys with
  | nil => cases h; rfl
  | cons x xs ih =>
    simp only [List.mapM_cons, Option.bind_eq_bind, Option.bind_eq_some_iff, Option.pure_def] at h
    obtain ⟨y, -, zs, hzs, h⟩ := h
    cases h
    simp [ih hzs]

/-- Records appended at places where the ring's tail stands. -/
theorem ringAdd_mem {t : State} {guest : Nat} {b : InRing} {ws : List Word} {dp : Nat → Nat}
    (h : ∀ i < ws.length, t.ringPlace guest b (b.prod + i) = some (dp i)) :
    ∃ u, t.ringAdd guest b ws = some u ∧
      u.mem = wrLE (putWords t.mem (((List.range ws.length).map dp).zip ws)) (b.pa + 12) 4 ((b.prod + ws.length) % 2 ^ 32) := by
  have hp := mapM_some (f := fun k => t.ringPlace guest b (b.prod + k)) (g := dp) (xs := List.range ws.length)
    (fun i hi => h i (List.mem_range.1 hi))
  simp only [State.ringAdd, hp]
  refine ⟨_, rfl, ?_⟩
  rw [mem_putHome, mem_putHomes]
  rfl

/-- Taking records from a ring leaves the places of another, where C lies apart from the tables. -/
theorem ringPlace_ringTake {s : State} {guest n : Nat} {a b : InRing} (hwf : Memory.wf s.mem = true)
    (h : Apart s guest (fun x => a.pa + 16 ≤ x ∧ x < a.pa + 20)) (i : Nat) :
    (s.ringTake a n).ringPlace guest b i = s.ringPlace guest b i := by
  have hm (x : Nat) (hx : ¬(a.pa + 16 ≤ x ∧ x < a.pa + 20)) : rdByte (s.ringTake a n).mem x = rdByte s.mem x := by
    rw [mem_ringTake, wrLE, rdByte_wrBytes hwf, if_neg (by simpa using hx)]
  have hs : SameCharts s (s.ringTake a n) := sameCharts_putHome ..
  have ht (va : Nat) : (s.ringTake a n).translate guest va .write = s.translate guest va .write :=
    (hs.translate guest va .write).trans ((h _ hm).1 va .write)
  simp only [State.ringPlace, ht]

/-- What balancing comes to where the first ring is the deeper one by more than the threshold. -/
theorem balance_deeper {s u : State} {guest thresh : Nat} {a b : InRing} {ws : List Word} (hd : b.used + thresh < a.used)
    (hws : s.ringOldest guest a (min (min ((a.used - b.used) / 2) 32) b.free) = some ws)
    (hu : (s.ringTake a (min (min ((a.used - b.used) / 2) 32) b.free)).ringAdd guest b ws = some u) : s.balance guest thresh a b = u := by
  have hf : State.balance = State.balance := rfl
  conv at hf => rhs; delta State.balance
  rw [hf]
  clear hf
  -- as variables, for the kernel would count up to the 2 ^ 32 in `used`
  generalize InRing.used = used, InRing.free = free at hd hws hu ⊢
  beta_reduce
  have h1 : ¬used a < used b := by omega
  have h2 : ¬used a - used b ≤ thresh := by omega
  rw [if_neg h1]
  dsimp only
  rw [if_neg h2, hws]
  dsimp only
  rw [hu]

theorem stagesBalance (s : State) : StagesBalance s := by
  intro pipe stage cluster p a b ws dp hata hatb htime hca hcb hwf hdeep m hws hdp hapart hab hdd hda
  have hlen : ws.length = m := (length_of_mapM hws).trans (List.length_range)
  obtain ⟨u, hu, hmem⟩ := ringAdd_mem (t := s.ringTake a m) (guest := p.guest) (b := b) (ws := ws) (dp := dp)
    (fun i hi => (ringPlace_ringTake hwf hapart _).trans (hdp i (hlen ▸ hi)))
  have hbal := balance_deeper hdeep hws hu
  refine ⟨u.stageTouch.refresh, ?_, ?_⟩
  · change execStageBalance pipe stage cluster s = _
    simp only [execStageBalance, State.event, nextCluster, hata, hatb, htime, hca, hcb, hbal, decide_true, Bool.and_self, if_true]
  · dsimp only
    rw [State.refresh_mem, mem_stageTouch, hmem, hlen, mem_ringTake]
    clear hbal hu hws hdeep
    clear_value m
    have hwa := wf_wrLE hwf (a.pa + 16) 4 ((a.cons + m) % 2 ^ 32)
    set xs := ((List.range m).map dp).zip ws with hxs
    have hlx : xs.length = m := by simp [hxs, hlen]
    have hx (i : Nat) (hi : i < m) (hi' : i < xs.length) : xs[i] = (dp i, ws.getD i 0) := by
      simp [hxs, List.getD_eq_getElem?_getD, hlen, hi]
    have hxm (x : Nat × Word) (h : x ∈ xs) : ∃ i < m, x = (dp i, ws.getD i 0) := by
      obtain ⟨i, hi, rfl⟩ := List.getElem_of_mem h
      exact ⟨i, hlx ▸ hi, hx i (hlx ▸ hi) hi⟩
    have hwx := wf_putWords hwa xs
    refine ⟨?_, ?_, fun i hi => ?_⟩
    · rw [rdLE_wrLE_other hwx _ _ _ _ _ (by omega), rdLE_putWords_other hwa xs, rdLE_wrLE hwf]
      · omega
      · intro x h
        obtain ⟨i, hi, rfl⟩ := hxm x h
        have := (hda i hi).1
        dsimp only
        omega
    · rw [rdLE_wrLE hwx]
      omega
    · have hpair : xs.Pairwise (fun x y => x.1 + 4 ≤ y.1 ∨ y.1 + 4 ≤ x.1) := by
        rw [List.pairwise_iff_getElem]
        intro j k hj hk hjk
        rw [hx j (hlx ▸ hj) hj, hx k (hlx ▸ hk) hk]
        exact hdd j k (hlx ▸ hj) (hlx ▸ hk) (by omega)
      rw [rdLE_wrLE_other hwx _ _ _ _ _ (by have := (hda i hi).2; omega)]
      exact rdLE_putWords hwa xs hpair (x := (dp i, ws.getD i 0)) (hx i hi (hlx ▸ hi) ▸ List.getElem_mem _)

end Sys2Proof.Claims


/-! # Placement (O50) -/

namespace Sys2Proof.Machine

/-- A group as it starts: the split that waits from now, its granules, no register written. -/
def starting (s : State) (l : Launch) (id core ws n w2 j : Nat) (live : Mask) (pb : Addr) : Group :=
  { (Group.fresh (l.hdr.widOf (l.hdr.fields n w2 j)) id l.guest ws live l.hdr.code pb l.hdr.plinth l.hdr.fgran).modSplit 0
      (fun p => { p with queued := s.cc }) with
    grans := s.pickGranules core l.hdr.fgran, frame := [] }

theorem placeGroup_some {s : State} {l : Launch} {core slot : Nat} {pb : Addr} (hslot : s.pickSlot core = some slot)
    (hroom : l.hdr.fgran ≤ s.freeGranules core) (hfree : s.blockFree l.guest pb l.hdr.plinth = true) (id ws n w2 j : Nat) (live : Mask) :
    s.placeGroup l id core ws n w2 j live [] pb = some ((s.setGroup core slot (starting s l id core ws n w2 j live pb)).modWG core ws
      (fun w => { w with groups := mset w.groups j slot })) := by
  have h : ¬(s.freeGranules core < l.hdr.fgran || !s.blockFree l.guest pb l.hdr.plinth) = true := by
    rw [hfree]
    simpa using hroom
  simp only [State.placeGroup, hslot]
  rw [if_neg h]
  rfl

/-- A core with a workgroup in a slot and its scratchpad granules zeroed. -/
def withWG (s : State) (l : Launch) (id core ws base n w2 : Nat) : State :=
  { s with wgroups := mset s.wgroups (wkey core ws) (l.hdr.wgroup id l.guest n w2 base)
           scratch := mset s.scratch core (zeroBytes (s.scratchOf core) (1024 * base) (1024 * l.hdr.sgran)) }

/-- That core with the workgroup's first group in a slot. -/
def withGroup (s : State) (l : Launch) (id core ws base slot n w2 : Nat) (live : Mask) (pb : Addr) : State :=
  ((withWG s l id core ws base n w2).setGroup core slot (starting s l id core ws n w2 0 live pb)).modWG core ws
    (fun w => { w with groups := mset w.groups 0 slot })

/-- That core where the workgroup is its span. -/
def placed (s : State) (l : Launch) (id core ws base slot n : Nat) (live : Mask) (pb : Addr) : State :=
  (withGroup s l id core ws base slot n 0 live pb).modWG (wkey core ws / 16) (wkey core ws % 16) (fun w => { w with span := [wkey core ws] })

/-- The span counted in its launch and kept as a unit. -/
def asUnit (s : State) (l : Launch) (id key : Nat) : State :=
  { s.newId.1 with
    units := mset s.units s.nextId ⟨l.guest, id, [key], false, [], none⟩
    launches := mmod s.launches id (fun k => { k with
      nextSpan := k.nextSpan + 1, groups := k.groups + 1, seqs := k.seqs + (if l.hdr.seq = 0 then 0 else 1) }) }

section

variable {s : State} {l : Launch} {id core ws base slot n : Nat} {live : Mask} {pb : Addr}

theorem group_placed : (placed s l id core ws base slot n live pb).group core slot =
    some (starting s l id core ws n 0 0 live pb) := mfind_mset_same ..

theorem wkey_split (core : Nat) {ws : Nat} (h : ws < 16) : wkey core ws / 16 = core ∧ wkey core ws % 16 = ws := by
  simp only [wkey]
  omega

theorem wkey_again (k : Nat) : wkey (k / 16) (k % 16) = k := by
  simp only [wkey]
  omega

theorem wgroups_placed : mfind (placed s l id core ws base slot n live pb).wgroups (wkey core ws) =
    some { l.hdr.wgroup id l.guest n 0 base with groups := [(0, slot)], span := [wkey core ws] } := by
  change mfind (mmod (mmod (mset s.wgroups _ _) _ _) (wkey (wkey core ws / 16) (wkey core ws % 16)) _) _ = _
  rw [wkey_again, mfind_mmod, if_pos rfl, mfind_mmod, if_pos rfl, mfind_mset_same]
  rfl

/-- A fold over steps that change nothing. -/
theorem foldl_same {α β : Type} {f : α → β → α} {a : α} {xs : List β} (h : ∀ x ∈ xs, f a x = a) : xs.foldl f a = a := by
  induction xs with
  | nil => rfl
  | cons x xs ih => rw [List.foldl_cons, h x List.mem_cons_self, ih (fun y hy => h y (List.mem_cons_of_mem _ hy))]

theorem traceStart_off {t : State} {g : Group} (hg : t.group core slot = some g) (h : (t.ctx g.guest).trctl.getLsbD 31 = false) :
    t.traceStart core slot = t := by
  simp only [State.traceStart, hg]
  exact if_pos h

theorem slotsOf_placed {k : Nat} (hw : ws < 16)
    (h : k ∈ (placed s l id core ws base slot n live pb).slotsOf [wkey core ws]) : k = gkey core slot := by
  simp only [State.slotsOf, List.mem_flatMap, List.mem_filter, wgroups_placed, List.flatMap_cons, List.flatMap_nil,
    List.append_nil, (wkey_split core hw).1] at h
  obtain ⟨-, -, h, -⟩ := h
  simpa using h

/-- No START packet where the trace is off (R394). -/
theorem traceStarts_placed (hs : slot < 64) (hw : ws < 16) (htr : (s.ctx l.guest).trctl.getLsbD 31 = false) :
    (placed s l id core ws base slot n live pb).traceStarts [wkey core ws] = placed s l id core ws base slot n live pb := by
  have hk : gkey core slot / 64 = core ∧ gkey core slot % 64 = slot := by simp only [gkey]; omega
  refine foldl_same (fun k hk' => ?_)
  rw [slotsOf_placed hw hk', hk.1, hk.2]
  exact traceStart_off group_placed htr

end

section

variable {s : State} {l : Launch} {core ws base slot : Nat} {pb : Addr} (he1 : l.hdr.ext 1 = 1) (he2 : l.hdr.ext 2 = 1)
  (hws : s.pickWslot core = some ws) (hslot : s.pickSlot core = some slot) (hbase : s.pickScratch core l.hdr.sgran = some base)
  (hroom : l.hdr.fgran ≤ s.freeGranules core) (hfree : s.blockFree l.guest pb l.hdr.plinth = true)
  (hc : s.clusterOk l.guest l.hdr.half (clusterOf core) = true) (hh : core % 4 ∈ halfCores l.hdr.half)

include he1 hws hslot hbase hroom hfree

theorem placeWG_one (id n w2 : Nat) (live : Mask) :
    s.placeWG l id core n w2 live [] [pb] = some (withGroup s l id core ws base slot n w2 live pb, wkey core ws) := by
  have hg := placeGroup_some (s := withWG s l id core ws base n w2) hslot hroom hfree id ws n w2 0 live
  simp only [State.placeWG, hws, hbase, he1]
  change Option.map _ (((withWG s l id core ws base n w2).placeGroup l id core ws n w2 0 live [] pb).bind some) = _
  rw [hg]
  rfl

include he2 hc hh

theorem placeSpan_one (id n : Nat) (live : Mask) :
    s.placeSpan l id n [core] live [] [pb] = some (placed s l id core ws base slot n live pb, [wkey core ws]) := by
  have hw := placeWG_one he1 hws hslot hbase hroom hfree id n 0 live
  have hg : ¬([core].length ≠ l.hdr.ext 2 || !decide [core].Nodup || !s.clusterOk l.guest l.hdr.half (clusterOf ([core].getD 0 0))
      || !([core].all (fun c => clusterOf c == clusterOf ([core].getD 0 0) && (halfCores l.hdr.half).contains (c % 4)))) = true := by
    simp [he2, hc, hh]
  simp only [State.placeSpan]
  rw [if_neg hg, he2, he1]
  change Option.map _ (((s.placeWG l id core n 0 live [] [pb]).map _).bind some) = _
  rw [hw]
  rfl

/-- A span of one workgroup of one group becomes a unit; nothing is traced where the trace is off (R351, R394). -/
theorem placeUnit_one (id n : Nat) (live : Mask) (hs : slot < 64) (hw : ws < 16) (htr : (s.ctx l.guest).trctl.getLsbD 31 = false) :
    s.placeUnit id l n 1 [core] live [] [pb] = some (asUnit (placed s l id core ws base slot n live pb) l id (wkey core ws)) := by
  have hp := placeSpan_one he1 he2 hws hslot hbase hroom hfree hc hh id n live
  have ht := traceStarts_placed (s := s) (l := l) (id := id) (core := core) (ws := ws) (base := base) (slot := slot) (n := n) (live := live) (pb := pb) hs hw htr
  have hg : ¬([core].length ≠ 1 * l.hdr.ext 2 || [pb].length ≠ 1 * (l.hdr.ext 2 * l.hdr.ext 1)) = true := by
    simp [he1, he2]
  simp only [State.placeUnit]
  rw [if_neg hg, he2, he1]
  change Option.map _ (((s.placeSpan l id n [core] live [] [pb]).map _).bind some) = _
  rw [hp]
  simp only [Option.map_some, Option.bind_some, List.nil_append, ht]
  rfl

end

end Sys2Proof.Machine

namespace Sys2Proof.Claims

open Sys2Proof.Machine

/-- A byte that has been zeroed. -/
theorem rdByte_zeroBytes {m : Memory} {a n x : Nat} (h1 : a ≤ x) (h2 : x < a + n) : rdByte (zeroBytes m a n) x = 0 := by
  induction m with
  | nil => rfl
  | cons c m ih =>
    obtain ⟨y, b⟩ := c
    by_cases hy : a ≤ y ∧ y < a + n
    · simpa [zeroBytes, hy] using ih
    · have hne : x ≠ y := by rintro rfl; exact hy ⟨h1, h2⟩
      have : zeroBytes ((y, b) :: m) a n = (y, b) :: zeroBytes m a n := by
        simp only [zeroBytes, List.filter_cons]
        rw [if_pos]
        simp only [Bool.not_eq_true', Bool.and_eq_false_iff, decide_eq_false_iff_not]
        exact not_and_or.1 hy
      rw [this, rdByte, if_neg hne, ih]
      exact ite_id _

theorem exec_spanPlacement_one {s u : State} {n core : Nat} {l : Launch} {pb : Addr} (hl : mfind s.launches n = some l)
    (hst : s.stageOf l = none) (hcoop : l.hdr.coop = false) (hmay : s.mayPlace n l (clusterOf core) = true)
    (hu : s.placeUnit n l l.nextSpan 1 [core] (lowLanes (2 ^ l.hdr.width 0)) [] [pb] = some u) :
    exec (.spanPlacement n (clusterOf core) [core] [pb]) s = .next u.refresh := by
  have hone : l.hdr.atOnce = 1 := by simp [Hdr.atOnce, hcoop]
  change execSpanPlacement n (clusterOf core) [core] [pb] s = _
  simp [execSpanPlacement, State.event, hl, hst, hmay, hone, hu]

section

variable {s : State} {l : Launch} {id core ws base slot n key : Nat} {live : Mask} {pb : Addr}

theorem mem_asUnit : (asUnit (placed s l id core ws base slot n live pb) l id key).refresh.mem = s.mem := by
  simp only [State.refresh_mem, asUnit, placed, withGroup, withWG, State.newId, State.modWG, State.setGroup]

theorem launch_asUnit (h : mfind s.launches id = some l) : mfind (asUnit (placed s l id core ws base slot n live pb) l id key).refresh.launches id =
    some { l with nextSpan := l.nextSpan + 1, groups := l.groups + 1, seqs := l.seqs + (if l.hdr.seq = 0 then 0 else 1) } := by
  rw [State.refresh_launches]
  change mfind (mmod s.launches id _) id = _
  rw [mfind_mmod, if_pos rfl, h]
  rfl

theorem scratch_asUnit : (asUnit (placed s l id core ws base slot n live pb) l id key).refresh.scratchOf core =
    zeroBytes (s.scratchOf core) (1024 * base) (1024 * l.hdr.sgran) := by
  rw [State.scratchOf, State.refresh_scratch]
  exact mget_mset_same ..

theorem tokenStep_eq (t : State) (k : Nat) (w : WGroup) : ∃ x, t.tokenStep k w = { w with token := x } := by
  unfold State.tokenStep
  split
  · split
    · exact ⟨_, rfl⟩
    · exact ⟨_, rfl⟩
  · exact ⟨_, rfl⟩

theorem wgroup_asUnit : ∃ x, (asUnit (placed s l id core ws base slot n live pb) l id key).refresh.wgroup core ws =
    some { l.hdr.wgroup id l.guest n 0 base with groups := [(0, slot)], span := [wkey core ws], token := x } := by
  obtain ⟨x, hx⟩ := tokenStep_eq (asUnit (placed s l id core ws base slot n live pb) l id key) (wkey core ws)
    { l.hdr.wgroup id l.guest n 0 base with groups := [(0, slot)], span := [wkey core ws] }
  refine ⟨x, ?_⟩
  change mfind ((placed s l id core ws base slot n live pb).wgroups.map _) _ = _
  rw [mfind_map (f := (asUnit (placed s l id core ws base slot n live pb) l id key).tokenStep), wgroups_placed]
  exact congrArg some hx

theorem group_asUnit : (asUnit (placed s l id core ws base slot n live pb) l id key).group core slot =
    some (starting s l id core ws n 0 0 live pb) := group_placed

end

/-- A split that the upkeep has touched stands where it stood. -/
theorem touchSplit_stands (t : State) (core slot : Nat) (g : Group) (k : Nat) (p : Part) :
    (t.touchSplit core slot g k p).pc = p.pc ∧ (t.touchSplit core slot g k p).mask = p.mask ∧
      (t.touchSplit core slot g k p).depth = p.depth ∧ (t.touchSplit core slot g k p).res = p.res := by
  unfold State.touchSplit
  split <;> exact ⟨rfl, rfl, rfl, rfl⟩

theorem places (s : State) : Places s := by
  rintro n core _ ws slot base l pb hl hst he1 he2 hcoop hmay rfl hc hh htr hws hslot hs64 hw16 hbase hroom hfree
  have hu := placeUnit_one (s := s) (l := l) he1 he2 hws hslot hbase hroom hfree hc hh n l.nextSpan (lowLanes (2 ^ l.hdr.width 0)) hs64 hw16 htr
  refine ⟨_, exec_spanPlacement_one hl hst hcoop hmay hu, mem_asUnit, ⟨_, launch_asUnit hl, rfl, rfl, rfl⟩, ?_, ?_, ?_⟩
  · obtain ⟨x, hx⟩ := wgroup_asUnit (s := s) (l := l) (id := n) (core := core) (ws := ws) (base := base) (slot := slot) (n := l.nextSpan)
      (key := wkey core ws) (live := lowLanes (2 ^ l.hdr.width 0)) (pb := pb)
    refine ⟨_, hx, rfl, rfl, rfl, rfl, rfl, rfl, rfl, rfl, rfl, ?_, ?_⟩
    · intro q hq
      change (if l.hdr.seq = 0 then none else some (Seq.start l.hdr.seq)) = some q at hq
      split at hq
      · cases hq
      · cases hq
        exact ⟨rfl, rfl⟩
    · change (if l.hdr.seq = 0 then none else some (Seq.start l.hdr.seq)) = none ↔ _
      split <;> simp_all
  · intro a h1 h2
    rw [scratch_asUnit]
    exact rdByte_zeroBytes h1 (by rw [← Nat.mul_add]; exact h2)
  · refine groupIs_refresh group_asUnit ?_
    refine ⟨rfl, rfl, rfl, rfl, rfl, rfl, rfl, rfl, rfl, rfl, rfl, rfl, rfl, rfl, rfl, rfl, rfl, rfl, rfl, rfl, rfl, rfl, rfl,
      (asUnit (placed s l n core ws base slot l.nextSpan (lowLanes (2 ^ l.hdr.width 0)) pb) l n (wkey core ws)).touchSplit core slot
        (starting s l n core ws l.nextSpan 0 0 (lowLanes (2 ^ l.hdr.width 0)) pb) 0
        ⟨l.hdr.code, lowLanes (2 ^ l.hdr.width 0), 0, 0, none, s.cc, 0, none, false, .nothing, 0, none, none, [], false, false⟩, ?_, ?_⟩
    · rw [splits_touchGroup _ _ _ _ hs64]
      rfl
    · exact touchSplit_stands ..

end Sys2Proof.Claims


/-! # Kernel boundaries (O50) -/

namespace Sys2Proof.Machine

/-! ## Lines written back -/

/-- What writing lines back may change: memory, and what goes out to other packages. -/
def OnlySends (s t : State) : Prop := ∃ mem dev far fresh, t = { s with mem := mem, dev := dev, far := far, fresh := fresh }

theorem OnlySends.refl (s : State) : OnlySends s s := ⟨s.mem, s.dev, s.far, s.fresh, rfl⟩

theorem OnlySends.trans {s t u : State} (h : OnlySends s t) (k : OnlySends t u) : OnlySends s u := by
  obtain ⟨m, d, f, n, rfl⟩ := h
  obtain ⟨m', d', f', n', rfl⟩ := k
  exact ⟨m', d', f', n', rfl⟩

theorem OnlySends.ctx {s t : State} (h : OnlySends s t) (g : Nat) : t.ctx g = s.ctx g := by
  obtain ⟨m, d, f, n, rfl⟩ := h
  rfl

theorem onlySends_putRequest (s : State) (pkg : Nat) (r : Config.LinkRequest) : OnlySends s (s.putRequest pkg r).1 := by
  unfold State.putRequest
  split
  · split
    · exact ⟨_, _, _, _, rfl⟩
    · exact .refl s
  · exact .refl s

theorem onlySends_farGo (s : State) (f : Far) : OnlySends s (s.farGo f) := by
  unfold State.farGo
  split
  · exact .refl s
  · exact (onlySends_putRequest ..).trans ⟨_, _, _, _, rfl⟩

theorem onlySends_farAdd (s : State) (who : FarUser) (guest : Nat) (va : Addr) (addr : Nat) (bs : List Byte) :
    OnlySends s (s.farAdd who guest va addr bs) :=
  OnlySends.trans (t := { s.nextNum.1 with far := s.nextNum.1.far ++ [⟨s.nextNum.2, who, guest, va, addr, bs, none, none⟩] })
    ⟨_, _, _, _, rfl⟩ (onlySends_farGo ..)

theorem onlySends_farStore (s : State) (who : FarUser) (guest : Nat) (va : Addr) (addr : Nat) (bs : List Byte) :
    OnlySends s (s.farStore who guest va addr bs) :=
  foldl_keeps (OnlySends s) _ (fun _ _ h => h.trans (onlySends_farAdd ..)) _ (.refl s)

theorem onlySends_writeBack (s : State) (x : L1Line) : OnlySends s (s.writeBack x) := by
  unfold State.writeBack
  split
  · split
    · exact onlySends_farStore ..
    · exact ⟨_, _, _, _, rfl⟩
  · exact ⟨_, _, _, _, rfl⟩
  · exact .refl s

theorem onlySends_writeBacks (xs : List L1Line) (s : State) : OnlySends s (xs.foldl State.writeBack s) :=
  foldl_keeps (OnlySends s) _ (fun _ _ h => h.trans (onlySends_writeBack ..)) _ (.refl s)

/-- A dirty per-thread line that goes back to another package. -/
def L1Line.goesAway (x : L1Line) : Bool := match x.kind with
  | .priv _ true _ => isRemote (x.line * 128)
  | _ => false

/-- A line whose bytes go back. -/
def L1Line.goesBack (x : L1Line) : Bool := match x.kind with
  | .priv _ true _ => true
  | .held _ _ _ => true
  | _ => false

/-- A line that stays on the package goes to memory. -/
theorem writeBack_here {x : L1Line} (h : x.goesAway = false) (s : State) :
    s.writeBack x = if x.goesBack then { s with mem := wrBytes s.mem (x.line * 128) x.data } else s := by
  cases hk : x.kind with
  | clean u g c => simp [State.writeBack, L1Line.goesBack, hk]
  | held w u g => simp [State.writeBack, L1Line.goesBack, hk]
  | priv g dirty va =>
    cases dirty with
    | false => simp [State.writeBack, L1Line.goesBack, hk]
    | true =>
      have hhere : isRemote (x.line * 128) = false := by simpa [L1Line.goesAway, hk] using h
      simp [State.writeBack, L1Line.goesBack, hk, hhere]

/-- Its bytes stand in memory or memory is as it was. -/
theorem mem_writeBack (s : State) (x : L1Line) : (s.writeBack x).mem = s.mem ∨ (s.writeBack x).mem = wrBytes s.mem (x.line * 128) x.data := by
  unfold State.writeBack
  split
  · split
    · exact .inl (State.farStore_mem ..)
    · exact .inr rfl
  · exact .inr rfl
  · exact .inl rfl

theorem rdLE_wrBytes_other {m : Memory} (h : Memory.wf m = true) (a : Nat) (bs : List Byte) (c k : Nat)
    (hd : c + k ≤ a ∨ a + bs.length ≤ c) : rdLE (wrBytes m a bs) c k = rdLE m c k := by
  have e : rdBytes (wrBytes m a bs) c k = rdBytes m c k := by
    refine List.map_congr_left (fun i hi => ?_)
    have hi := List.mem_range.1 hi
    rw [rdByte_wrBytes h, if_neg (by omega)]
  rw [rdLE, rdLE, e]

/-- A line of a context that logs no pages is written back without more. -/
theorem writeBackLog_unlogged {s : State} {x : L1Line} (h : Claims.Unlogged s x.kind.guest) : s.writeBackLog x = some (s.writeBack x) := by
  have hlog : s.logPage x.kind.guest (x.line * 128) = some s := by
    have h' : (!(s.ctx x.kind.guest).valid || decide (s.cmdField x.kind.guest 48 4 = 0) || decide (physSpan ≤ x.line * 128)) = true := by
      rcases h with h | h <;> simp [h]
    unfold State.logPage
    exact if_pos h'
  unfold State.writeBackLog
  split
  · rename_i hk
    simp [State.writeBack, hk]
  · rename_i hk
    simp [State.writeBack, hk]
  · rw [hlog]
    rfl

/-- A line beside the command page leaves what the context logs. -/
theorem unlogged_writeBack {s : State} {g : Nat} {x : L1Line} (hwf : Memory.wf s.mem = true) (h : Claims.Unlogged s g) (hlen : x.data.length = 128)
    (hx : x.line * 128 + 128 ≤ (s.ctx g).cmdPage.toNat ∨ (s.ctx g).cmdPage.toNat + 4096 ≤ x.line * 128) :
    Claims.Unlogged (s.writeBack x) g := by
  have hctx := (onlySends_writeBack s x).ctx g
  unfold Claims.Unlogged State.cmdField
  rw [hctx]
  refine h.imp id (fun h => ?_)
  rcases mem_writeBack s x with e | e
  · rw [e]
    exact h
  · rw [e, rdLE_wrBytes_other hwf _ _ _ _ (by omega)]
    exact h

/-- Lines of a context that logs no pages, all beside its command page, go back one after another. -/
theorem foldlM_writeBackLog {g : Nat} {xs : List L1Line} {s : State} (hwf : Memory.wf s.mem = true) (h : Claims.Unlogged s g)
    (hxs : ∀ x ∈ xs, x.kind.guest = g ∧ x.data.length = 128 ∧
      (x.line * 128 + 128 ≤ (s.ctx g).cmdPage.toNat ∨ (s.ctx g).cmdPage.toNat + 4096 ≤ x.line * 128)) :
    xs.foldlM (fun s x => State.writeBackLog s x) s = some (xs.foldl State.writeBack s) := by
  induction xs generalizing s with
  | nil => rfl
  | cons x xs ih =>
    obtain ⟨hg, hlen, hpage⟩ := hxs x List.mem_cons_self
    rw [List.foldlM_cons, writeBackLog_unlogged (hg ▸ h)]
    refine ih (wf_writeBack hwf x) (unlogged_writeBack hwf h hlen hpage) (fun y hy => ?_)
    rw [(onlySends_writeBack s x).ctx g]
    exact hxs y (List.mem_cons_of_mem _ hy)

/-! ## Lines that stay on the package -/

/-- Where no line goes away, what the requests to other packages are stays. -/
theorem far_writeBacks {xs : List L1Line} (h : ∀ x ∈ xs, x.goesAway = false) (s : State) : (xs.foldl State.writeBack s).far = s.far := by
  induction xs generalizing s with
  | nil => rfl
  | cons x xs ih =>
    rw [List.foldl_cons, ih (fun y hy => h y (List.mem_cons_of_mem _ hy)), writeBack_here (h x List.mem_cons_self)]
    split <;> rfl

/-- A byte outside every line written back. -/
theorem rdBytes_writeBacks_other {xs : List L1Line} {s : State} {k : Nat} (hwf : Memory.wf s.mem = true) (hlen : ∀ x ∈ xs, x.data.length = 128)
    (hk : ∀ x ∈ xs, x.line ≠ k) : rdBytes (xs.foldl State.writeBack s).mem (k * 128) 128 = rdBytes s.mem (k * 128) 128 := by
  induction xs generalizing s with
  | nil => rfl
  | cons x xs ih =>
    rw [List.foldl_cons, ih (wf_writeBack hwf x) (fun y hy => hlen y (List.mem_cons_of_mem _ hy))
      (fun y hy => hk y (List.mem_cons_of_mem _ hy))]
    have hx := hk x List.mem_cons_self
    have hl := hlen x List.mem_cons_self
    rcases mem_writeBack s x with e | e
    · rw [e]
    · rw [e]
      refine List.map_congr_left (fun i hi => ?_)
      have hi := List.mem_range.1 hi
      rw [rdByte_wrBytes hwf, if_neg (by omega)]

/-- Lines that stay, each on its own address, stand in memory. -/
theorem rdBytes_writeBacks {xs : List L1Line} {s : State} {x : L1Line} (hwf : Memory.wf s.mem = true) (hlen : ∀ x ∈ xs, x.data.length = 128)
    (hnd : (xs.map (·.line)).Nodup) (hx : x ∈ xs) (haway : x.goesAway = false) (hback : x.goesBack = true) :
    rdBytes (xs.foldl State.writeBack s).mem (x.line * 128) 128 = x.data := by
  induction xs generalizing s with
  | nil => cases hx
  | cons y ys ih =>
    have hl := fun z hz => hlen z (List.mem_cons_of_mem y hz)
    obtain ⟨hy, hys⟩ := List.nodup_cons.1 hnd
    rw [List.foldl_cons]
    rcases List.mem_cons.1 hx with rfl | hx
    · rw [rdBytes_writeBacks_other (wf_writeBack hwf x) hl (fun z hz e => hy (List.mem_map.2 ⟨z, hz, e⟩)), writeBack_here haway, if_pos hback]
      have := rdBytes_wrBytes hwf (x.line * 128) x.data
      rwa [hlen x List.mem_cons_self] at this
    · exact ih (wf_writeBack hwf y) hl hys hx

/-! ## Lines that go to another package -/

/-- A write for a context that is on its way to another package, not a fetch of code. -/
def Far.Carries (g : Nat) (f : Far) : Prop := f.guest = g ∧ f.bytes ≠ [] ∧ f.isCode = false

/-- Such a write is there. -/
def State.Sends (s : State) (g : Nat) : Prop := ∃ f ∈ s.far, f.Carries g

theorem far_putRequest (s : State) (pkg : Nat) (r : Config.LinkRequest) : (s.putRequest pkg r).1.far = s.far := by
  unfold State.putRequest
  split
  · split <;> rfl
  · rfl

theorem sends_farGo {s : State} {g : Nat} (f : Far) (h : s.Sends g) : (s.farGo f).Sends g := by
  unfold State.farGo
  split
  · exact h
  · obtain ⟨y, hy, hg, hb, hc⟩ := h
    dsimp only [State.Sends]
    rw [far_putRequest]
    refine ⟨_, List.mem_map_of_mem hy, ?_⟩
    split
    · exact ⟨hg, hb, hc⟩
    · exact ⟨hg, hb, hc⟩

theorem sends_farAdd {s : State} {g guest : Nat} {who : FarUser} {va : Addr} {addr : Nat} {bs : List Byte}
    (h : s.Sends g ∨ (Far.mk s.nextNum.2 who guest va addr bs none none).Carries g) : (s.farAdd who guest va addr bs).Sends g := by
  refine sends_farGo _ ?_
  rcases h with ⟨y, hy, hc⟩ | h
  · exact ⟨y, List.mem_append_left _ hy, hc⟩
  · exact ⟨_, List.mem_append_right _ List.mem_cons_self, h⟩

theorem sends_farStore {s : State} {g guest : Nat} {who : FarUser} {va : Addr} {addr : Nat} {bs : List Byte} (h : s.Sends g) :
    (s.farStore who guest va addr bs).Sends g :=
  foldl_keeps (fun t => t.Sends g) _ (fun _ _ h => sends_farAdd (.inl h)) _ h

theorem sends_writeBack {s : State} {g : Nat} (x : L1Line) (h : s.Sends g) : (s.writeBack x).Sends g := by
  unfold State.writeBack
  split
  · split
    · exact sends_farStore h
    · exact h
  · exact h
  · exact h

/-- A fold in which one step makes a fact that all keep. -/
theorem foldl_makes {α β : Type} {p : α → Prop} {f : α → β → α} (hkeep : ∀ a x, p a → p (f a x)) {xs : List β} {x : β} (hx : x ∈ xs)
    (hmake : ∀ a, p (f a x)) (a : α) : p (xs.foldl f a) := by
  induction xs generalizing a with
  | nil => cases hx
  | cons y ys ih =>
    rcases List.mem_cons.1 hx with rfl | hx
    · exact List.foldlRecOn ys f (hmake a) (fun b hb z _ => hkeep b z hb)
    · exact ih hx _

/-- The first store of what goes to another package sets out. -/
theorem sends_of_farStore (s : State) {who : FarUser} {guest : Nat} {va : Addr} {addr : Nat} {bs : List Byte} (hbs : bs ≠ [])
    (hw : ∀ n va addr b a p, (Far.mk n who guest va addr b a p).isCode = false) : (s.farStore who guest va addr bs).Sends guest := by
  have hlen : 0 < bs.length := List.length_pos_iff.2 hbs
  unfold State.farStore
  refine foldl_makes (p := fun t => t.Sends guest) ?_ (x := 0) (List.mem_range.2 (show 0 < (bs.length + 15) / 16 by omega)) ?_ s
  · exact fun _ _ h => sends_farAdd (.inl h)
  · refine fun t => sends_farAdd (.inr ⟨rfl, fun e => hbs ?_, hw ..⟩)
    simpa using congrArg List.length e

/-- A dirty per-thread line of another package sets out in stores. -/
theorem sends_away {s : State} {x : L1Line} (h : x.goesAway = true) (hlen : x.data.length = 128) : (s.writeBack x).Sends x.kind.guest := by
  have hbs : x.data ≠ [] := fun e => by rw [e] at hlen; cases hlen
  unfold L1Line.goesAway at h
  split at h
  · rename_i g va hk
    simp only [State.writeBack, hk, h, if_true, LineKind.guest]
    exact sends_of_farStore s hbs (fun _ _ _ _ _ _ => rfl)
  · cases h

theorem sends_writeBacks {xs : List L1Line} {s : State} {g : Nat} (hlen : ∀ x ∈ xs, x.data.length = 128)
    (h : s.Sends g ∨ ∃ x ∈ xs, x.goesAway = true ∧ x.kind.guest = g) : (xs.foldl State.writeBack s).Sends g := by
  induction xs generalizing s with
  | nil =>
    rcases h with h | ⟨x, hx, -⟩
    · exact h
    · cases hx
  | cons y ys ih =>
    refine ih (fun z hz => hlen z (List.mem_cons_of_mem _ hz)) ?_
    rcases h with h | ⟨x, hx, haway, hg⟩
    · exact .inl (sends_writeBack y h)
    · rcases List.mem_cons.1 hx with rfl | hx
      · exact .inl (hg ▸ sends_away haway (hlen x List.mem_cons_self))
      · exact .inr ⟨x, hx, haway, hg⟩

end Sys2Proof.Machine

namespace Sys2Proof.Machine

/-! ## The completion ring (R411) -/

/-- Free bytes come one after another; nothing but what is free next changes. -/
theorem freeBytes_fold {α : Type} (xs : List α) (s : State) (bs : List Byte) : ∃ f b, b.length = xs.length ∧
    xs.foldl (fun (acc : State × List Byte) _ => let r := acc.1.freeByte; (r.1, acc.2 ++ [r.2])) (s, bs) = ({ s with fresh := f }, bs ++ b) := by
  induction xs generalizing s bs with
  | nil => exact ⟨s.fresh, [], rfl, by simp⟩
  | cons x xs ih =>
    obtain ⟨f, b, hb, h⟩ := ih s.freeByte.1 (bs ++ [s.freeByte.2])
    refine ⟨f, s.freeByte.2 :: b, by simp [hb], ?_⟩
    rw [List.foldl_cons]
    refine h.trans ?_
    simp [State.freeByte]

/-- A completion entry before it is written: kind, seven free bytes, tag, address. -/
def entryBytes (kind : Nat) (pad : List Byte) (tag : DWord) (addr : Nat) : List Byte :=
  BitVec.ofNat 8 kind :: pad ++ leBytes 8 tag.toNat ++ leBytes 8 addr

/-- The state with an entry waiting, and one byte less free. -/
def awaiting (s : State) (guest f : Nat) (e : List Byte) : State :=
  ({ s with fresh := f } : State).modCtx guest (fun x => { x with cqWait := x.cqWait ++ [e] })

theorem completion_eq (s : State) (guest kind : Nat) (tag : DWord) : ∃ f pad addr, pad.length = 7 ∧
    s.completion guest kind tag none = State.flushCq guest
      ((awaiting s guest f (entryBytes kind pad tag addr)).ctx guest).cqWait.length (awaiting s guest f (entryBytes kind pad tag addr)) := by
  obtain ⟨f, b, hb, h⟩ := freeBytes_fold (List.range 7) s []
  have hblock : ∃ f' a, ({ s with fresh := f } : State).freeBlock = ({ s with fresh := f' }, a) := ⟨_, _, rfl⟩
  obtain ⟨f', a, ha⟩ := hblock
  refine ⟨f', b, a.toNat, hb.trans (List.length_range), ?_⟩
  unfold State.completion
  simp only [h, List.nil_append, ha]
  rfl

/-- Where the next entry of the completion ring goes. -/
def State.cqPlace (s : State) (guest : Nat) : Nat := s.cmdField guest 20 8 + 32 * (s.cmdField guest 32 4 % s.cmdField guest 28 4)

/-- The bytes of an entry that is written: it ends with DTIME, CTXERR and a free byte. -/
def State.cqBytes (s : State) (guest : Nat) (e : List Byte) (b : Byte) : List Byte :=
  e ++ leBytes 6 s.dtime.toNat ++ [if (s.ctx guest).ctxerr then 1 else 0, b]

/-- The state with the one entry that waited written, and CQTAIL advanced. -/
def cqWritten (s : State) (guest : Nat) (e : List Byte) : State :=
  (({ s.freeByte.1 with mem := wrBytes s.mem (s.cqPlace guest) (s.cqBytes guest e s.freeByte.2) } : State).setCmd guest 32 4
    ((s.cmdField guest 32 4 + 1) % 2 ^ 32)).modCtx guest (fun x => { x with cqWait := [] })

theorem flushCq_one {s : State} {guest : Nat} {e : List Byte} (he : (s.ctx guest).cqWait = [e])
    (hroom : (s.cmdField guest 32 4 + 2 ^ 32 - s.cmdField guest 36 4) % 2 ^ 32 < s.cmdField guest 28 4) :
    State.flushCq guest 1 s = cqWritten s guest e := by
  simp only [State.flushCq, he]
  exact if_neg (Nat.not_le.2 hroom)

/-- A byte of a list that has been written. -/
theorem rdByte_within {m : Memory} (h : Memory.wf m = true) (a : Nat) (xs zs : List Byte) (b : Byte) :
    rdByte (wrBytes m a (xs ++ b :: zs)) (a + xs.length) = b := by
  rw [rdByte_wrBytes h, if_pos (by simp)]
  simp [List.getD_eq_getElem?_getD]

/-- A number whose bytes are part of a list that has been written. -/
theorem rdLE_within {m : Memory} (h : Memory.wf m = true) (a : Nat) (xs ys zs : List Byte) :
    rdLE (wrBytes m a (xs ++ ys ++ zs)) (a + xs.length) ys.length = leNat ys := by
  have e : rdBytes (wrBytes m a (xs ++ ys ++ zs)) (a + xs.length) ys.length = ys := by
    apply List.ext_getElem
    · simp [rdBytes]
    · intro i h1 h2
      have hlt : a ≤ a + xs.length + i ∧ a + xs.length + i < a + (xs ++ ys ++ zs).length := by
        simp only [List.length_append]
        omega
      have hsub : a + xs.length + i - a = xs.length + i := by omega
      simp only [rdBytes, List.getElem_map, List.getElem_range]
      rw [rdByte_wrBytes h, if_pos hlt, hsub]
      rw [List.getD_eq_getElem?_getD, List.append_assoc, List.getElem?_append_right (by omega), Nat.add_sub_cancel_left,
        List.getElem?_append_left h2, List.getElem?_eq_getElem h2]
      rfl
  rw [rdLE, e]

theorem rdLE_leBytes_within {m : Memory} (h : Memory.wf m = true) (a : Nat) (xs zs : List Byte) {n v : Nat} (hv : v < 256 ^ n) :
    rdLE (wrBytes m a (xs ++ leBytes n v ++ zs)) (a + xs.length) n = v := by
  have := rdLE_within h a xs (leBytes n v) zs
  rwa [length_leBytes, leNat_leBytes, Nat.mod_eq_of_lt hv] at this

theorem rdByte_wrLE_other {m : Memory} (h : Memory.wf m = true) (a n v c : Nat) (hc : c < a ∨ a + n ≤ c) :
    rdByte (wrLE m a n v) c = rdByte m c := by
  rw [wrLE, rdByte_wrBytes h, if_neg (by rw [length_leBytes]; omega)]

end Sys2Proof.Machine

namespace Sys2Proof.Claims

open Sys2Proof.Machine

theorem length_cqBytes (s : State) (guest kind : Nat) {pad : List Byte} (hpad : pad.length = 7) (tag : DWord) (addr : Nat) (b : Byte) :
    (s.cqBytes guest (entryBytes kind pad tag addr) b).length = 32 := by
  simp [State.cqBytes, entryBytes, hpad]

section

variable {v : State} {guest : Nat} {e : List Byte} (hwf : Memory.wf v.mem = true) (hlen : (v.cqBytes guest e v.freeByte.2).length = 32)
  (happ : v.cqPlace guest + 32 ≤ (v.ctx guest).cmdPage.toNat ∨ (v.ctx guest).cmdPage.toNat + 4096 ≤ v.cqPlace guest)

theorem mem_cqWritten : (cqWritten v guest e).mem = wrLE (wrBytes v.mem (v.cqPlace guest) (v.cqBytes guest e v.freeByte.2))
    ((v.ctx guest).cmdPage.toNat + 32) 4 ((v.cmdField guest 32 4 + 1) % 2 ^ 32) := rfl

theorem ctx_cqWritten : (cqWritten v guest e).ctx guest = { v.ctx guest with cqWait := [] } := ctx_setCtx_same ..

include hwf hlen happ

/-- A byte of the entry stands in the ring. -/
theorem byte_cqWritten {xs zs : List Byte} {b : Byte} (hb : v.cqBytes guest e v.freeByte.2 = xs ++ b :: zs) :
    rdByte (cqWritten v guest e).mem (v.cqPlace guest + xs.length) = b := by
  have hi : xs.length < 32 := by
    rw [← hlen, hb]
    simp
  rw [mem_cqWritten, rdByte_wrLE_other (wf_wrBytes hwf ..) _ _ _ _ (by omega), hb]
  exact rdByte_within hwf ..

/-- A number of the entry stands in the ring. -/
theorem num_cqWritten {xs zs : List Byte} {n x : Nat} (hb : v.cqBytes guest e v.freeByte.2 = xs ++ leBytes n x ++ zs) (hx : x < 256 ^ n) :
    rdLE (cqWritten v guest e).mem (v.cqPlace guest + xs.length) n = x := by
  have hi : xs.length + n ≤ 32 := by
    rw [← hlen, hb]
    simp
  rw [mem_cqWritten, rdLE_wrLE_other (wf_wrBytes hwf ..) _ _ _ _ _ (by omega), hb]
  exact rdLE_leBytes_within hwf _ _ _ hx

omit hlen happ

theorem tail_cqWritten : (cqWritten v guest e).cmdField guest 32 4 = (v.cmdField guest 32 4 + 1) % 2 ^ 32 := by
  rw [State.cmdField, ctx_cqWritten, mem_cqWritten]
  refine (rdLE_wrLE (wf_wrBytes hwf ..) _ _ _).trans ?_
  omega

end

/-- The entry that was waiting stands in the ring once it is written. -/
theorem cqEntry_written {v : State} {guest kind : Nat} {pad : List Byte} {tag : DWord} {addr : Nat} (hpad : pad.length = 7) (hkind : kind < 256)
    (hwf : Memory.wf v.mem = true) (hsize : 0 < v.cmdField guest 28 4)
    (happ : v.cmdField guest 20 8 + 32 * v.cmdField guest 28 4 ≤ (v.ctx guest).cmdPage.toNat ∨
      (v.ctx guest).cmdPage.toNat + 4096 ≤ v.cmdField guest 20 8) :
    CqEntry v (cqWritten v guest (entryBytes kind pad tag addr)) guest kind tag := by
  have hlen := length_cqBytes v guest kind hpad tag addr v.freeByte.2
  have hslot := Nat.mod_lt (v.cmdField guest 32 4) hsize
  have hplace : v.cqPlace guest + 32 ≤ (v.ctx guest).cmdPage.toNat ∨ (v.ctx guest).cmdPage.toNat + 4096 ≤ v.cqPlace guest := by
    simp only [State.cqPlace]
    omega
  have hb := byte_cqWritten hwf hlen hplace (xs := []) rfl
  have ht := num_cqWritten hwf hlen hplace (xs := BitVec.ofNat 8 kind :: pad) (n := 8) (x := tag.toNat)
    (zs := leBytes 8 addr ++ leBytes 6 v.dtime.toNat ++ [if (v.ctx guest).ctxerr then 1 else 0, v.freeByte.2])
    (by simp [State.cqBytes, entryBytes]) tag.isLt
  have hd := num_cqWritten hwf hlen hplace (xs := entryBytes kind pad tag addr) (n := 6) (x := v.dtime.toNat)
    (zs := [if (v.ctx guest).ctxerr then 1 else 0, v.freeByte.2]) rfl v.dtime.isLt
  have he := byte_cqWritten hwf hlen hplace (xs := entryBytes kind pad tag addr ++ leBytes 6 v.dtime.toNat)
    (b := if (v.ctx guest).ctxerr then 1 else 0) (zs := [v.freeByte.2]) rfl
  have h24 : (entryBytes kind pad tag addr).length = 24 := by simp [entryBytes, hpad]
  have h30 : (entryBytes kind pad tag addr ++ leBytes 6 v.dtime.toNat).length = 30 := by simp [h24]
  have h8 : (BitVec.ofNat 8 kind :: pad).length = 8 := by simp [hpad]
  rw [List.length_nil, Nat.add_zero] at hb
  rw [h8] at ht
  rw [h24] at hd
  rw [h30] at he
  refine ⟨?_, ht, hd, ?_, tail_cqWritten hwf, congrArg Ctx.cqWait ctx_cqWritten⟩
  · change (rdByte _ (v.cqPlace guest)).toNat = kind
    rw [hb]
    exact Nat.mod_eq_of_lt hkind
  · change (rdByte _ (v.cqPlace guest + 30)).toNat = _
    rw [he, ctx_cqWritten]
    cases (v.ctx guest).ctxerr <;> rfl

theorem ctx_awaiting (s : State) (guest f : Nat) (e : List Byte) :
    (awaiting s guest f e).ctx guest = { s.ctx guest with cqWait := (s.ctx guest).cqWait ++ [e] } := ctx_setCtx_same ..

theorem cmdField_awaiting (s : State) (guest f : Nat) (e : List Byte) (o n : Nat) :
    (awaiting s guest f e).cmdField guest o n = s.cmdField guest o n := by
  rw [State.cmdField, ctx_awaiting]
  rfl

/-- A completion entry in a ring with room is written at once (R411). -/
theorem completion_written {s : State} {guest kind : Nat} (tag : DWord) (hroom : CqRoom s guest) (hkind : kind < 256) :
    ∃ f e, s.completion guest kind tag none = cqWritten (awaiting s guest f e) guest e ∧
      CqEntry s (cqWritten (awaiting s guest f e) guest e) guest kind tag := by
  obtain ⟨hnone, hwf, hroom, happ⟩ := hroom
  obtain ⟨f, pad, addr, hpad, h⟩ := completion_eq s guest kind tag
  have hwait : ((awaiting s guest f (entryBytes kind pad tag addr)).ctx guest).cqWait = [entryBytes kind pad tag addr] := by
    rw [ctx_awaiting, hnone]
    rfl
  refine ⟨f, entryBytes kind pad tag addr, ?_, ?_⟩
  · rw [h, hwait]
    exact flushCq_one hwait (by simpa only [cmdField_awaiting] using hroom)
  · have hent := cqEntry_written (v := awaiting s guest f (entryBytes kind pad tag addr)) (guest := guest) (kind := kind) (tag := tag)
      (addr := addr) hpad hkind hwf (by rw [cmdField_awaiting]; exact Nat.zero_lt_of_lt hroom)
      (by rw [cmdField_awaiting, cmdField_awaiting, ctx_awaiting]; exact happ)
    simp only [CqEntry, cmdField_awaiting] at hent
    exact hent

/-! ## The boundary -/

/-- A line of the context, held or per-thread. -/
def ownLine (g : Nat) (x : L1Line) : Bool := match x.kind with
  | .clean _ _ _ => false
  | .held _ _ h => h == g
  | .priv h _ _ => h == g

/-- A held or per-thread line of another context. -/
def otherLine (g : Nat) (x : L1Line) : Bool := match x.kind with
  | .clean _ _ _ => false
  | _ => !ownLine g x

/-- The L1s, the instruction caches and the scope records after a boundary. -/
def sweep (g : Nat) (s : State) : State :=
  { s with l1 := s.l1.filter (otherLine g), icache := [], far := s.far.filter (fun f => !f.isCode)
           scopes := s.scopes.filter (fun x => x.2.guest != g) }

theorem boundaryFlush_eq (s : State) (g : Nat) :
    s.boundaryFlush g = ((s.l1.filter (ownLine g)).foldlM (fun (s : State) x => s.writeBackLog x) s).map (sweep g) := rfl

theorem ownLine_iff (g : Nat) (x : L1Line) : ownLine g x = true ↔ x.kind.guest = g ∧ ∀ u h c, x.kind ≠ .clean u h c := by
  unfold ownLine
  split <;> rename_i hk <;> simp [hk, LineKind.guest]

theorem otherLine_iff (g : Nat) (x : L1Line) : otherLine g x = true ↔ x.kind.guest ≠ g ∧ ∀ u h c, x.kind ≠ .clean u h c := by
  unfold otherLine
  split
  · rename_i hk
    simp [hk]
  · rename_i hk
    rw [Bool.not_eq_true', ← Bool.not_eq_true, ownLine_iff]
    exact ⟨fun h => ⟨fun e => h ⟨e, hk⟩, hk⟩, fun h e => h.1 e.1⟩

/-- What is left of the lines and scope records after a boundary of a context. -/
def Swept (s t : State) (g : Nat) : Prop :=
  (∀ x ∈ t.l1, x ∈ s.l1 ∧ (∀ u g c, x.kind ≠ .clean u g c) ∧ x.kind.guest ≠ g) ∧ t.icache = [] ∧ ∀ x ∈ t.scopes, x.2.guest ≠ g

theorem swept_of {s t : State} {g : Nat} (h1 : t.l1 = s.l1.filter (otherLine g)) (h2 : t.icache = [])
    (h3 : t.scopes = s.scopes.filter (fun x => x.2.guest != g)) : Swept s t g := by
  refine ⟨fun x hx => ?_, h2, fun x hx => ?_⟩
  · rw [h1, List.mem_filter, otherLine_iff] at hx
    exact ⟨hx.1, hx.2.2, hx.2.1⟩
  · rw [h3, List.mem_filter] at hx
    simpa using hx.2

/-- The lines that a boundary of a context writes back. -/
def ownLines (s : State) (g : Nat) : List L1Line := s.l1.filter (ownLine g)

/-- The state after the write-backs of a boundary and what leaves the caches with them. -/
def flushed (s : State) (g : Nat) : State := sweep g ((ownLines s g).foldl State.writeBack s)

section

variable {s : State} {g : Nat} (hwf : Memory.wf s.mem = true) (hlog : Unlogged s g) (hlen : ∀ x ∈ s.l1, x.data.length = 128)
  (hpage : ∀ x ∈ s.l1, x.line * 128 + 128 ≤ (s.ctx g).cmdPage.toNat ∨ (s.ctx g).cmdPage.toNat + 4096 ≤ x.line * 128)

theorem mem_ownLines {x : L1Line} : x ∈ ownLines s g ↔ x ∈ s.l1 ∧ x.kind.guest = g ∧ ∀ u h c, x.kind ≠ .clean u h c := by
  rw [ownLines, List.mem_filter, ownLine_iff]

include hwf hlog hlen hpage in
theorem boundaryFlush_flushed : s.boundaryFlush g = some (flushed s g) := by
  rw [boundaryFlush_eq, foldlM_writeBackLog hwf hlog]
  · rfl
  · intro x hx
    obtain ⟨hx, hg, -⟩ := mem_ownLines.1 hx
    exact ⟨hg, hlen x hx, hpage x hx⟩

/-- Only memory, the caches and what goes to other packages change. -/
theorem flushed_frame (s : State) (g : Nat) : ∃ mem dev far fresh, flushed s g =
    { s with mem := mem, dev := dev, far := far, fresh := fresh, l1 := s.l1.filter (otherLine g), icache := []
             scopes := s.scopes.filter (fun x => x.2.guest != g) } := by
  obtain ⟨m, d, f, n, h⟩ := onlySends_writeBacks (ownLines s g) s
  refine ⟨m, d, f.filter (fun f => !f.isCode), n, ?_⟩
  unfold flushed
  rw [h]
  rfl

/-- A line that goes away leaves a write on its way. -/
theorem farOut_of_away (hlen : ∀ x ∈ s.l1, x.data.length = 128) (h : ∃ x ∈ ownLines s g, x.goesAway = true) :
    ∃ f ∈ (flushed s g).far, f.guest = g ∧ f.bytes ≠ [] := by
  obtain ⟨x, hx, haway⟩ := h
  obtain ⟨f, hf, hg, hb, hc⟩ := sends_writeBacks (s := s) (g := g) (xs := ownLines s g)
    (fun y hy => hlen y (mem_ownLines.1 hy).1) (.inr ⟨x, hx, haway, (mem_ownLines.1 hx).2.1⟩)
  exact ⟨f, List.mem_filter.2 ⟨hf, by rw [hc]; rfl⟩, hg, hb⟩

/-- Where the context's writes have been applied and no line goes away, nothing is waited for. -/
theorem farOut_of_here (hw : s.writesApplied g = true) (h : ∀ x ∈ ownLines s g, x.goesAway = false) :
    (flushed s g).farOut (fun f => f.guest == g) = false := by
  have hfar : (flushed s g).far = s.far.filter (fun f => !f.isCode) := congrArg (List.filter _) (far_writeBacks h s)
  simp only [State.writesApplied, Bool.and_eq_true] at hw
  obtain ⟨-, hw⟩ := hw
  simp only [State.farOut, hfar, List.any_eq_false, List.mem_filter]
  rintro f ⟨hf, -⟩ hout
  simp only [Bool.and_eq_true, beq_iff_eq, Bool.not_eq_true'] at hout
  have := List.all_eq_true.1 hw f hf
  simp [hout.1, hout.2] at this

end

/-- A launch whose turn has come stands at the head of its context's queue, with none current (R350). -/
def launchBegins (s : State) (n : Nat) (l : Launch) : Bool :=
  l.phase == .queued && (s.ctx l.guest).valid && (s.ctx l.guest).current.isNone && (s.ctx l.guest).queue.head? == some n

theorem begins_iff {s : State} {n : Nat} {l : Launch} : launchBegins s n l = true ↔
    l.phase = .queued ∧ (s.ctx l.guest).valid = true ∧ (s.ctx l.guest).current = none ∧ (s.ctx l.guest).queue.head? = some n := by
  simp [launchBegins, and_assoc]

/-- What a boundary comes to (R262, R350, R420). -/
theorem exec_kernelBoundary {s : State} {n : Nat} {l : Launch} (hl : mfind s.launches n = some l) (hhost : l.host = true)
    (hb : (launchBegins s n l || s.launchOver n l) = true) (hw : s.writesApplied l.guest = true)
    (hf : s.boundaryFlush l.guest = some (flushed s l.guest)) :
    exec (.kernelBoundary n) s = .next (State.refresh (
      if (flushed s l.guest).farOut (fun f => f.guest == l.guest) then flushed s l.guest
      else if launchBegins s n l then (flushed s l.guest).startLaunch n l else (flushed s l.guest).finishLaunch n l)) := by
  change execKernelBoundary n s = _
  simp only [execKernelBoundary, State.event, hl]
  rw [if_neg, hf]
  · rfl
  · change ¬(!l.host || !(launchBegins s n l || s.launchOver n l) || !s.writesApplied l.guest) = true
    simp [hhost, hb, hw]

theorem swept_flushed {s t : State} {g : Nat} (h1 : t.l1 = (flushed s g).l1) (h2 : t.icache = (flushed s g).icache)
    (h3 : t.scopes = (flushed s g).scopes) : Swept s t g := by
  obtain ⟨m, d, f, n, h⟩ := flushed_frame s g
  rw [h] at h1 h2 h3
  exact swept_of h1 h2 h3

theorem ctx_flushed (s : State) (g k : Nat) : (flushed s g).ctx k = s.ctx k := by
  obtain ⟨m, d, f, n, h⟩ := flushed_frame s g
  rw [h]
  rfl

theorem launches_flushed (s : State) (g : Nat) : (flushed s g).launches = s.launches := by
  obtain ⟨m, d, f, n, h⟩ := flushed_frame s g
  rw [h]

theorem dtime_flushed (s : State) (g : Nat) : (flushed s g).dtime = s.dtime := by
  obtain ⟨m, d, f, n, h⟩ := flushed_frame s g
  rw [h]

/-- A launch as its root's start leaves it (R350). -/
def startedAt (n : Nat) (d : DTime) (l : Launch) : Launch :=
  if l.root = n && l.phase == .queued then { l with phase := .running, lstart := d } else l

theorem mfind_started {m : AMap Launch} {n : Nat} {l : Launch} (d : DTime) (hl : mfind m n = some l) (hq : l.phase = .queued) (hroot : l.root = n) :
    mfind (m.map (fun (x : Nat × Launch) => if x.2.root = n && x.2.phase == .queued then (x.1, { x.2 with phase := .running, lstart := d }) else x)) n =
      some { l with phase := .running, lstart := d } := by
  have hmap : m.map (fun (x : Nat × Launch) => if x.2.root = n && x.2.phase == .queued then (x.1, { x.2 with phase := .running, lstart := d }) else x) =
      m.map (fun x => (x.1, startedAt n d x.2)) := by
    refine List.map_congr_left (fun x _ => ?_)
    unfold startedAt
    split <;> rfl
  rw [hmap, mfind_map (f := fun _ => startedAt n d), hl]
  simp [startedAt, hq, hroot]

/-- The launch of a plain start (R350). -/
theorem startLaunch_spec {t : State} {n : Nat} {l : Launch} (hl : mfind t.launches n = some l) (hq : l.phase = .queued) (hroot : l.root = n)
    (hst : l.stage = none) :
    mfind (t.startLaunch n l).launches n = some { l with phase := .running, lstart := t.dtime } ∧
    ((t.startLaunch n l).ctx l.guest).current = some n ∧ ((t.startLaunch n l).ctx l.guest).queue = (t.ctx l.guest).queue.drop 1 ∧
    (t.startLaunch n l).mem = t.mem ∧ (t.startLaunch n l).l1 = t.l1 ∧ (t.startLaunch n l).icache = t.icache ∧
    (t.startLaunch n l).scopes = t.scopes := by
  have hx : (t.startLaunch n l).ctx l.guest =
      { t.ctx l.guest with current := some n, queue := (t.ctx l.guest).queue.drop 1, lstart := t.dtime } := by
    simp only [State.startLaunch, hst]
    exact ctx_setCtx_same ..
  have hlaunch : (t.startLaunch n l).launches = t.launches.map (fun (x : Nat × Launch) =>
      if x.2.root = n && x.2.phase == .queued then (x.1, { x.2 with phase := .running, lstart := t.dtime }) else x) := by
    simp only [State.startLaunch, hst]
    rfl
  rw [hx, hlaunch]
  refine ⟨mfind_started t.dtime hl hq hroot, rfl, rfl, ?_⟩
  simp only [State.startLaunch, hst]
  exact ⟨rfl, rfl, rfl, rfl⟩

theorem goesAway_iff (x : L1Line) : x.goesAway = true ↔ ∃ va, x.kind = .priv x.kind.guest true va ∧ isRemote (x.line * 128) = true := by
  unfold L1Line.goesAway
  split
  · rename_i hk
    simp [hk, LineKind.guest]
  · rename_i hk
    simp only [Bool.false_eq_true, false_iff]
    rintro ⟨va, h, -⟩
    exact hk _ _ h

theorem goesBack_of {x : L1Line} (hc : ∀ u g c, x.kind ≠ .clean u g c) (hp : ∀ g va, x.kind ≠ .priv g false va) : x.goesBack = true := by
  unfold L1Line.goesBack
  split
  · rfl
  · rfl
  · rename_i h1 h2
    cases hk : x.kind with
    | clean u g c => exact absurd hk (hc u g c)
    | held w u g => exact absurd hk (h2 w u g)
    | priv g dirty va => cases dirty with
      | false => exact absurd hk (hp g va)
      | true => exact absurd hk (h1 g va)

/-- Where no line of the context is to go back, a boundary leaves memory. -/
theorem flushed_clean {s : State} {g : Nat} (h : ∀ x ∈ s.l1, x.kind.guest = g → ∃ u h c, x.kind = .clean u h c) :
    ownLines s g = [] ∧ flushed s g = sweep g s := by
  have hnil : ownLines s g = [] := by
    refine List.eq_nil_iff_forall_not_mem.2 (fun x hx => ?_)
    obtain ⟨hx, hg, hc⟩ := mem_ownLines.1 hx
    obtain ⟨u, k, c, e⟩ := h x hx hg
    exact hc u k c e
  refine ⟨hnil, ?_⟩
  rw [flushed, hnil]
  rfl

/-- The end of a launch in a context whose completion ring has room (R350, R411). -/
theorem finishLaunch_spec {t : State} {n : Nat} {l : Launch} (hroom : CqRoom t l.guest) :
    ((t.finishLaunch n l).ctx l.guest).current = none ∧ CqEntry t (t.finishLaunch n l) l.guest 1 l.tag ∧
    (∀ x ∈ (t.finishLaunch n l).launches, x.2.root ≠ n) ∧ (t.finishLaunch n l).l1 = t.l1 ∧ (t.finishLaunch n l).icache = t.icache ∧
    (t.finishLaunch n l).scopes = t.scopes := by
  have hx : (t.modCtx l.guest (fun x => { x with current := none })).ctx l.guest = { t.ctx l.guest with current := none } := ctx_setCtx_same ..
  have hf (o n : Nat) : (t.modCtx l.guest (fun x => { x with current := none })).cmdField l.guest o n = t.cmdField l.guest o n := by
    rw [State.cmdField, hx]
    rfl
  have hroom' : CqRoom (t.modCtx l.guest (fun x => { x with current := none })) l.guest := by
    simp only [CqRoom, hf, hx]
    exact hroom
  obtain ⟨f, e, hcomp, hent⟩ := completion_written l.tag hroom' (kind := 1) (by decide)
  simp only [State.finishLaunch, hcomp]
  refine ⟨?_, ?_, fun x hx => by simpa using (List.mem_filter.1 hx).2, rfl, rfl, rfl⟩
  · exact (congrArg Ctx.current ctx_cqWritten).trans ((congrArg Ctx.current (ctx_awaiting ..)).trans (congrArg Ctx.current hx))
  · simp only [CqEntry, hf] at hent
    exact hent

theorem kernelBoundaries (s : State) : KernelBoundaries s := by
  intro n l hl hhost hw hlog hwf hlen hnd hst hpage swept away
  have hflush := boundaryFlush_flushed hwf hlog hlen hpage
  have haway : away ↔ ∃ x ∈ ownLines s l.guest, x.goesAway = true := by
    constructor
    · rintro ⟨x, hx, va, hk, hr⟩
      exact ⟨x, mem_ownLines.2 ⟨hx, by rw [hk]; rfl, by simp [hk]⟩, (goesAway_iff x).2 ⟨va, by rw [hk]; rfl, hr⟩⟩
    · rintro ⟨x, hx, h⟩
      obtain ⟨hx, hg, -⟩ := mem_ownLines.1 hx
      obtain ⟨va, hk, hr⟩ := (goesAway_iff x).1 h
      exact ⟨x, hx, va, hg ▸ hk, hr⟩
  refine ⟨fun hout hb => ?_, fun hq hv hc hh hroot hin => ?_, fun hover hroom hclean => ?_⟩
  · have hb' : (launchBegins s n l || s.launchOver n l) = true := by
      rw [Bool.or_eq_true, begins_iff]
      exact hb
    obtain ⟨f, hf, hg, hbytes⟩ := farOut_of_away hlen (haway.1 hout)
    have hfar : (flushed s l.guest).farOut (fun f => f.guest == l.guest) = true :=
      List.any_eq_true.2 ⟨f, hf, by simp [hg, hbytes]⟩
    have hx := exec_kernelBoundary hl hhost hb' hw hflush
    rw [if_pos hfar] at hx
    exact ⟨_, hx, swept_flushed rfl rfl rfl, launches_flushed s _, congrArg Ctx.current (ctx_flushed s _ _), f, hf, hg, hbytes⟩
  · have hbeg := begins_iff.2 ⟨hq, hv, hc, hh⟩
    have hhere : ∀ x ∈ ownLines s l.guest, x.goesAway = false := by
      intro x hx
      by_contra h
      exact hin (haway.2 ⟨x, hx, by simpa using h⟩)
    have hx := exec_kernelBoundary hl hhost (by rw [hbeg]; rfl) hw hflush
    rw [if_neg (by rw [farOut_of_here hw hhere]; decide), if_pos hbeg] at hx
    obtain ⟨h1, h2, h3, h4, h5, h6, h7⟩ := startLaunch_spec (t := flushed s l.guest) ((congrArg (mfind · n) (launches_flushed s _)).trans hl)
      hq hroot hst
    rw [dtime_flushed] at h1
    rw [ctx_flushed] at h3
    refine ⟨_, hx, swept_flushed h5 h6 h7, h2, h3, h1, fun x hx hg hnc hnp => ?_⟩
    have hown : x ∈ ownLines s l.guest := mem_ownLines.2 ⟨hx, hg, hnc⟩
    rw [State.refresh_mem, h4]
    exact rdBytes_writeBacks hwf (fun y hy => hlen y (mem_ownLines.1 hy).1) (hnd.sublist (List.filter_sublist.map _)) hown
      (hhere x hown) (goesBack_of hnc hnp)
  · obtain ⟨hnil, hfl⟩ := flushed_clean hclean
    have hrun : launchBegins s n l = false := by
      have hphase : l.phase = .running := by
        simp only [State.launchOver, Bool.and_eq_true, beq_iff_eq] at hover
        obtain ⟨⟨⟨⟨hphase, -⟩, -⟩, -⟩, -⟩ := hover
        exact hphase
      rw [← Bool.not_eq_true, begins_iff, hphase]
      rintro ⟨h, -⟩
      cases h
    have hx := exec_kernelBoundary hl hhost (by rw [hover, Bool.or_true]) hw hflush
    rw [if_neg (by rw [farOut_of_here hw (by simp [hnil])]; decide), if_neg (by simp [hrun])] at hx
    have hroom' : CqRoom (flushed s l.guest) l.guest := by
      rw [hfl]
      exact hroom
    obtain ⟨h1, h2, h3, h4, h5, h6⟩ := finishLaunch_spec (n := n) (l := l) hroom'
    rw [hfl] at h2
    exact ⟨_, hx, swept_flushed h4 h5 h6, h1, hfl ▸ h2, h3⟩

/-- Settles O50: each kind of event is taken through its model function to the state it leaves. -/
theorem launchesAndStages : Obligations.LaunchesAndStages :=
  ⟨fun s => ⟨kernelBoundaries s, places s, childLaunches s, childLaunchesEnd s, messagesArrive s⟩,
    fun s => ⟨stagesGather s, stagesBalance s⟩⟩

end Sys2Proof.Claims

/-! # Float results, conversions, comparison, reductions, draws and witnesses in a run that holds (O15, O17, O18, O20, O22, O26) -/

namespace Sys2Proof.Claims

open Sys2Proof.Machine

/-! ## The instructions complete -/

section
variable {s : State} {c : Cur} (hc : s.cur = some c)
include hc

/-- An instruction that is lane by lane completes, whatever it computes. -/
theorem completes_of_laneInstr {i : Instr} {gd : Guard} {a b lat : Nat} {f : LaneFn} (hi : exec i s = s.laneInstr gd a b lat f) :
    Completes i s c := completes_of_ok hc hi rfl

theorem completes_fadd (gd : Guard) (m : RMode) : Completes (.fadd gd m) s c := completes_of_laneInstr hc rfl

theorem completes_cvt (gd : Guard) (cv : CvtSpec) : Completes (.cvt gd cv) s c := completes_of_laneInstr hc rfl

theorem completes_fsetp (gd : Guard) (k : FCond) (p : BitVec 4) : Completes (.fsetp gd k p) s c :=
  ⟨_, _, show execFsetp gd k p s = _ from runInstr_ok hc rfl⟩

theorem completes_red_f32 (gd : Guard) (op : RedOp) : Completes (.red gd op .f32) s c :=
  ⟨_, _, show execRed gd op .f32 s = _ from runInstr_ok hc rfl⟩

theorem completes_draw (gd : Guard) (k : BitVec 6) (p : BitVec 4) : Completes (.draw gd k p) s c :=
  ⟨_, _, show execDraw gd k p s = _ from runInstr_ok hc rfl⟩

theorem completes_wnull (gd : Guard) : Completes (.wnull gd) s c := completes_of_laneInstr hc rfl

end

/-! ## The refutations -/

/-- Refutes O15: `fadd` in a run that holds leaves no hold mark, where `LaneWise` says that the mark stays. -/
theorem not_floatResults : ¬ Obligations.FloatResults := by
  rintro ⟨h, -⟩
  exact (completes_fadd rfl guardOff .rn).not_laneWise rfl rfl
    (h .rn (holdingState false) (holdingCur false) guardOff rfl _ List.mem_cons_self (by decide))

/-- Refutes O17: `cvt` in a run that holds leaves no hold mark, where `LaneWise` says that the mark stays. -/
theorem not_conversions : ¬ Obligations.Conversions := by
  intro h
  obtain ⟨f, hl, -⟩ := h (holdingState false) (holdingCur false) guardOff ⟨.f32, .i32, .rn⟩ rfl (by decide)
  exact (completes_cvt rfl _ _).not_laneWise rfl rfl hl

/-- Refutes O18 by its second half: `fsetp` in a run that holds leaves no hold mark, where the statement says that the mark
stays. -/
theorem not_roundingAndComparison : ¬ Obligations.RoundingAndComparison := by
  rintro ⟨-, h⟩
  obtain ⟨r', he, hm, -⟩ := h (holdingState false) (holdingCur false) guardOff 0 rfl (by decide) _ List.mem_cons_self
  exact (completes_fsetp rfl _ _ _).not_moved rfl rfl he hm rfl

/-- Refutes O20: `red` in a run that holds leaves no hold mark, where `LaneWise` says that the mark stays. -/
theorem not_floatAndArgReductions : ¬ Obligations.FloatAndArgReductions := by
  rintro ⟨h, -⟩
  obtain ⟨hr, -⟩ := h (holdingState false) (holdingCur false) guardOff .add rfl (by decide) (by decide) List.mem_cons_self
  exact (completes_red_f32 rfl _ _).not_laneWise rfl rfl hr

/-- Refutes O22: `draw` in a run that holds leaves no hold mark, where the statement says that the mark stays. -/
theorem not_draws : ¬ Obligations.Draws := by
  intro h
  obtain ⟨hd, -⟩ := h (holdingState false) (holdingCur false) guardOff rfl
  obtain ⟨r', ⟨he, hm, -⟩, -⟩ := hd (by decide) (by decide) 0 0
  exact (completes_draw rfl _ _ _).not_moved rfl rfl he hm rfl

/-- Refutes O26 by the witness instructions: `wnull` in a run that holds leaves no hold mark, where `LaneWise` says that the mark
stays. -/
theorem not_atomicsAndWitnesses : ¬ Obligations.AtomicsAndWitnesses := by
  rintro ⟨-, h⟩
  obtain ⟨hn, -⟩ := h (holdingState false) (holdingCur false) guardOff rfl
  exact (completes_wnull rfl _).not_laneWise rfl rfl hn

end Sys2Proof.Claims

/-! # Stack, register, integer and control instructions in a run that holds (O7, O8, O10, O11, O12) -/

namespace Sys2Proof.Claims

open Sys2Proof.Machine

section
variable {s : State} {c : Cur} (hc : s.cur = some c)
include hc

theorem completes_ldi (gd : Guard) (imm : BitVec 16) : Completes (.ldi gd imm) s c := completes_of_laneInstr hc rfl

theorem completes_dup (gd : Guard) : Completes (.dup gd) s c := completes_of_laneInstr hc rfl

theorem completes_div (gd : Guard) (t : IntTy) : Completes (.div gd t) s c := completes_of_laneInstr hc rfl

theorem completes_add (gd : Guard) (t : IntTy) : Completes (.add gd t) s c := completes_of_laneInstr hc rfl

theorem completes_br (gd : Guard) (off : BitVec 16) : Completes (.br gd off) s c :=
  ⟨_, _, show execBr gd off s = _ from runInstr_ok hc rfl⟩

/-- What `Transfers` says of a transfer that completes is not so in a run that held at it. -/
theorem Completes.not_transfers {i : Instr} {a : Nat} {x : Xfer} {link : Mask} {to_ : Nat → Option (Option Addr)}
    (h : Completes i s c) (hh : c.r.holding = true) : ¬Transfers i s c a x link to_ :=
  fun ⟨_, he, hm, _⟩ => h.not_moved hc hh he hm rfl

end

/-- Refutes O7: `ldi` in a run that holds leaves no hold mark, where `LaneWise` says that the mark stays. -/
theorem not_loadsOfRegisters : ¬ Obligations.LoadsOfRegisters := by
  intro h
  obtain ⟨hl, -⟩ := h (holdingState false) (holdingCur false) guardOff rfl
  exact (completes_ldi rfl _ 0).not_laneWise rfl rfl (hl 0)

/-- Refutes O8 by its first half: `dup` in a run that holds leaves no hold mark, where `LaneWise` says that the mark stays. -/
theorem not_stackInstructions : ¬ Obligations.StackInstructions := by
  rintro ⟨h, -⟩
  exact (completes_dup rfl guardOff).not_laneWise rfl rfl
    (h (holdingState false) (holdingCur false) guardOff rfl _ (List.mem_cons_of_mem _ List.mem_cons_self) (by decide))

/-- Refutes O10: `div` in a run that holds leaves no hold mark, where `LaneWise` says that the mark stays. -/
theorem not_division : ¬ Obligations.Division := by
  intro h
  obtain ⟨hd, -⟩ := h (holdingState false) (holdingCur false) guardOff .i32 rfl (by decide)
  exact (completes_div rfl _ _).not_laneWise rfl rfl hd

/-- Refutes O11 by the arithmetic of R151: `add` in a run that holds leaves no hold mark, where `LaneWise` says that the mark
stays. -/
theorem not_integerAndBitRows : ¬ Obligations.IntegerAndBitRows := by
  rintro ⟨⟨h, -⟩, -⟩
  exact (completes_add rfl guardOff .i32).not_laneWise rfl rfl
    (h .i32 (holdingState false) (holdingCur false) guardOff rfl _ List.mem_cons_self (by decide))

/-- Refutes O12: `br` in a run that holds leaves no hold mark, where `Transfers` says that the mark stays. -/
theorem not_controlTransfers : ¬ Obligations.ControlTransfers := by
  intro h
  obtain ⟨hb, -⟩ := h (holdingState false) (holdingCur false) guardOff 0 0 0 rfl
  exact (completes_br rfl _ _).not_transfers rfl rfl hb

end Sys2Proof.Claims


/-! # The words of a sequencer (O46) -/

namespace Sys2Proof.Machine

/-! ## The sequencer in focus -/

/-- The sequencer of a workgroup slot, taken apart. -/
theorem seqOf_eq_some {s : State} {core wslot : Nat} {c : SeqCur} : s.seqOf core wslot = some c ↔
    c.core = core ∧ c.wslot = wslot ∧ s.wgroup core wslot = some c.w ∧ c.w.seq = some c.q := by
  obtain ⟨core', wslot', w, q⟩ := c
  unfold State.seqOf
  cases s.wgroup core wslot with
  | none => simp
  | some w' =>
    simp only [Option.map_eq_some_iff, SeqCur.mk.injEq, Option.some.injEq]
    constructor
    · rintro ⟨q', hq, rfl, rfl, rfl, rfl⟩
      exact ⟨rfl, rfl, rfl, hq⟩
    · rintro ⟨rfl, rfl, rfl, hq⟩
      exact ⟨q, hq, rfl, rfl, rfl, rfl⟩

theorem wgroup_modWG (s : State) (core wslot : Nat) (f : WGroup → WGroup) :
    (s.modWG core wslot f).wgroup core wslot = (s.wgroup core wslot).map f := by
  simp [State.wgroup, State.modWG, mfind_mmod]

/-- A change of its sequencer, in a workgroup. -/
def WGroup.modSeq (w : WGroup) (f : Seq → Seq) : WGroup := { w with seq := w.seq.map f }

theorem wgroup_modSeq (s : State) (core wslot : Nat) (f : Seq → Seq) :
    (s.modSeq core wslot f).wgroup core wslot = (s.wgroup core wslot).map (fun w => w.modSeq f) := wgroup_modWG ..

/-- The upkeep moves a workgroup's critical token at most. -/
theorem wgroup_refresh {s : State} {core wslot : Nat} {w : WGroup} (h : s.wgroup core wslot = some w) :
    ∃ x, s.refresh.wgroup core wslot = some { w with token := x } := by
  obtain ⟨x, hx⟩ := Claims.tokenStep_eq s (wkey core wslot) w
  refine ⟨x, ?_⟩
  have hm := mfind_map s.wgroups s.tokenStep (wkey core wslot)
  rw [show mfind s.wgroups (wkey core wslot) = some w from h] at hm
  exact hm.trans (congrArg some hx)

/-- A sequencer word that may move is executed. -/
theorem seqInstr_atWord {s : State} {c : SeqCur} (h : Claims.AtWord s c) (f : SeqCur → State) :
    s.seqInstr f = .next (f c).refresh := by
  obtain ⟨hf, hc, hb, hh⟩ := h
  simp [State.seqInstr, hf, hc, hb, hh]

end Sys2Proof.Machine

namespace Sys2Proof.Claims

open Sys2Proof.Machine

/-! ## Words that take 1 cc (R344) -/

theorem AtWord.wgroup {s : State} {c : SeqCur} (h : AtWord s c) : s.wgroup c.core c.wslot = some c.w :=
  (seqOf_eq_some.1 h.2.1).2.2.1

theorem AtWord.seq {s : State} {c : SeqCur} (h : AtWord s c) : c.w.seq = some c.q :=
  (seqOf_eq_some.1 h.2.1).2.2.2

theorem AtWord.not_stopped {s : State} {c : SeqCur} (h : AtWord s c) : c.q.stopped = false := by
  have hb := h.2.2.1
  simp only [Seq.busy, Bool.or_eq_false_iff] at hb
  exact hb.1.1.1

/-- The sequencer of a workgroup before the upkeep, after it. -/
theorem seqIs_refresh {t : State} {core wslot : Nat} {w : WGroup} {q : Seq} {p : Seq → Prop} (hw : t.wgroup core wslot = some w)
    (hq : w.seq = some q) (hp : p q) : SeqIs t.refresh core wslot p := by
  obtain ⟨x, hx⟩ := wgroup_refresh hw
  exact ⟨⟨core, wslot, { w with token := x }, q⟩, seqOf_eq_some.2 ⟨rfl, rfl, hx, hq⟩, hp⟩

/-- A changed sequencer, after the upkeep. -/
theorem seqIs_modSeq {u : State} {core wslot : Nat} {w : WGroup} {q : Seq} {f : Seq → Seq} {p : Seq → Prop}
    (hw : u.wgroup core wslot = some w) (hq : w.seq = some q) (hp : p (f q)) : SeqIs (u.modSeq core wslot f).refresh core wslot p :=
  seqIs_refresh ((wgroup_modSeq ..).trans (congrArg _ hw)) (congrArg (Option.map f) hq) hp

/-- `u` is `s` with other workgroups. -/
def OnlyWorkgroups (s u : State) : Prop := ∃ ws, u = { s with wgroups := ws }

theorem OnlyWorkgroups.refl (s : State) : OnlyWorkgroups s s := ⟨_, rfl⟩

theorem OnlyWorkgroups.modWG {s u : State} (h : OnlyWorkgroups s u) (core wslot : Nat) (f : WGroup → WGroup) :
    OnlyWorkgroups s (u.modWG core wslot f) := by
  obtain ⟨ws, rfl⟩ := h
  exact ⟨_, rfl⟩

theorem OnlyWorkgroups.modSeq {s u : State} (h : OnlyWorkgroups s u) (core wslot : Nat) (f : Seq → Seq) :
    OnlyWorkgroups s (u.modSeq core wslot f) := h.modWG ..

/-- A cc after a change of workgroups a word is done. -/
theorem wordDone_pass {s u : State} {c : SeqCur} {w : WGroup} {q : Seq} {p : Seq → Prop} (h : OnlyWorkgroups s u)
    (hw : u.wgroup c.core c.wslot = some w) (hq : w.seq = some q) (hp : p q) : WordDone s (u.pass 1).refresh c p := by
  obtain ⟨ws, rfl⟩ := h
  exact ⟨rfl, rfl, rfl, rfl, rfl, seqIs_refresh (t := State.pass _ 1) hw hq hp⟩

/-- The sequencer is changed, and a cc passes. -/
theorem wordDone_modSeq {s u : State} {c : SeqCur} {w : WGroup} {q : Seq} {p : Seq → Prop} {f : Seq → Seq} (h : OnlyWorkgroups s u)
    (hw : u.wgroup c.core c.wslot = some w) (hq : w.seq = some q) (hp : p (f q)) :
    WordDone s ((u.modSeq c.core c.wslot f).pass 1).refresh c p :=
  wordDone_pass (h.modSeq ..) (by rw [wgroup_modSeq, hw]; rfl) (by simp [WGroup.modSeq, hq]) hp

end Sys2Proof.Claims

namespace Sys2Proof.Machine

/-! ## Barriers and workgroups (R169, R302) -/

theorem barStep_seq (w : WGroup) (n : Nat) (last : Bar → Nat) (f : Bar → Bar) : (w.barStep n last f).seq = w.seq := by
  unfold WGroup.barStep
  split
  · rfl
  · dsimp only
    split <;> rfl

theorem arrive_seq (w : WGroup) (n j : Nat) : (w.arrive n j).seq = w.seq := by
  unfold WGroup.arrive
  split
  · exact barStep_seq ..
  · rfl

theorem leave_seq (w : WGroup) (j : Nat) : (w.leave j).seq = w.seq := by
  have h : ((List.range 16).foldl (fun (w' : WGroup) n =>
      if w.member n j then w'.barStep n (fun b => b.last) (fun b => b.leave j) else w') w).seq = w.seq := by
    refine List.foldlRecOn (motive := fun (x : WGroup) => x.seq = w.seq) _ _ rfl fun w' hw n _ => ?_
    split
    · rw [barStep_seq, hw]
    · exact hw
  unfold WGroup.leave
  dsimp only
  split <;> exact h

/-- The barrier with one arrival more, that of the member `j`. -/
def Bar.counting (b : Bar) (j : Nat) : Bar := { b with arr := mset b.arr j b.pn, an := b.an + 1, last := j }

/-- A barrier that lacks an arrival besides counts the one made. -/
theorem bar_arrive_counts {b : Bar} {j : Nat} (ha : mfind b.arr j ≠ some b.pn) (hn : b.an + 1 < b.en) : b.arrive j = b.counting j := by
  rw [Bar.arrive, if_neg ha]
  exact if_neg (fun h => absurd h.2 (Nat.ne_of_lt hn))

/-- So does its workgroup, and no token passes. -/
theorem arrive_counts {w : WGroup} {n j : Nat} {b : Bar} (hm : w.member n j = true) (hb : mfind w.bars n = some b)
    (ha : mfind b.arr j ≠ some b.pn) (hn : b.an + 1 < b.en) : w.arrive n j = { w with bars := mset w.bars n (b.counting j) } := by
  simp [WGroup.arrive, hm, WGroup.barStep, hb, bar_arrive_counts ha hn, Bar.counting]

/-! ## Arrivals of the sequencer (R340) -/

/-- An arrival, or a leave, that takes effect in its workgroup. -/
def WGroup.makes (w : WGroup) (x : Nat × Nat) : WGroup := if x.1 = 16 then w.leave memSeq else w.arrive x.1 memSeq

theorem makes_seq (w : WGroup) (x : Nat × Nat) : (w.makes x).seq = w.seq := by
  unfold WGroup.makes
  split
  exacts [leave_seq .., arrive_seq ..]

theorem makes_foldl_seq (xs : List (Nat × Nat)) (w : WGroup) : (xs.foldl WGroup.makes w).seq = w.seq :=
  List.foldlRecOn (motive := fun (x : WGroup) => x.seq = w.seq) _ _ rfl fun w' hw' x _ => by rw [makes_seq, hw']

/-- A held arrival still waits: an operation granted before it stands in the table. -/
def State.arrivalWaits (s : State) (core wslot : Nat) (x : Nat × Nat) : Bool :=
  s.eops.any (fun e => e.core == core && e.wslot == wslot && e.granted.isSome && decide (e.id < x.2))

/-- The held arrivals that wait no longer. -/
def State.arrivalsDue (s : State) (core wslot : Nat) (xs : List (Nat × Nat)) : List (Nat × Nat) :=
  xs.takeWhile (fun x => !s.arrivalWaits core wslot x)

theorem seqFlush_eq {s : State} {core wslot : Nat} {w : WGroup} {q : Seq} (hw : s.wgroup core wslot = some w) (hq : w.seq = some q) :
    s.seqFlush core wslot =
      (s.modSeq core wslot (fun q' => { q' with held := q'.held.drop (s.arrivalsDue core wslot q.held).length })).modWG core wslot
        (fun w => (s.arrivalsDue core wslot q.held).foldl WGroup.makes w) := by
  have hc : s.seqOf core wslot = some ⟨core, wslot, w, q⟩ := seqOf_eq_some.2 ⟨rfl, rfl, hw, hq⟩
  simp only [State.seqFlush, hc]
  rfl

/-- What an arrival of the sequencer leaves: its workgroup with the arrivals made that wait for nothing. -/
theorem seqArrive_wgroup {s : State} {core wslot : Nat} {w : WGroup} {q : Seq} (hw : s.wgroup core wslot = some w)
    (hq : w.seq = some q) {n : Nat} {xs due : List (Nat × Nat)} (hx : xs = q.held ++ [(n, s.nextId)])
    (hd : due = s.arrivalsDue core wslot xs) :
    (s.seqArrive core wslot n).wgroup core wslot =
      some (due.foldl WGroup.makes { w with seq := some { q with held := xs.drop due.length } }) := by
  subst hx hd
  have hw' : (s.modSeq core wslot (fun q => { q with held := q.held ++ [(n, s.nextId)] })).wgroup core wslot =
      some { w with seq := some { q with held := q.held ++ [(n, s.nextId)] } } := by
    rw [wgroup_modSeq, hw]
    simp [WGroup.modSeq, hq]
  rw [State.seqArrive, seqFlush_eq hw' rfl, wgroup_modWG, wgroup_modSeq, hw']
  rfl

theorem seqArrive_frame (s : State) (core wslot n : Nat) : Claims.OnlyWorkgroups s (s.seqArrive core wslot n) := by
  unfold State.seqArrive State.seqFlush
  split
  · exact (Claims.OnlyWorkgroups.refl s).modSeq ..
  · exact (((Claims.OnlyWorkgroups.refl s).modSeq ..).modSeq ..).modWG ..

/-- The sequencer stands after an arrival with its held arrivals alone changed. -/
theorem seqArrive_seq {s : State} {core wslot : Nat} {w : WGroup} {q : Seq} (hw : s.wgroup core wslot = some w)
    (hq : w.seq = some q) (n : Nat) :
    ∃ w' h, (s.seqArrive core wslot n).wgroup core wslot = some w' ∧ w'.seq = some { q with held := h } := by
  exact ⟨_, _, seqArrive_wgroup hw hq rfl rfl, makes_foldl_seq ..⟩

/-- While a granted operation stands in the table, a first arrival is held. -/
theorem seqArrive_held {s : State} {core wslot n : Nat} {w : WGroup} {q : Seq} (hw : s.wgroup core wslot = some w)
    (hq : w.seq = some q) (hh : q.held = [])
    (he : ∃ e ∈ s.eops, e.core = core ∧ e.wslot = wslot ∧ e.granted.isSome ∧ e.id < s.nextId) :
    (s.seqArrive core wslot n).wgroup core wslot = some { w with seq := some { q with held := [(n, s.nextId)] } } := by
  have hwait : s.arrivalWaits core wslot (n, s.nextId) = true := by
    obtain ⟨e, hm, hc, hs, hg, hlt⟩ := he
    exact List.any_eq_true.2 ⟨e, hm, by simp [hc, hs, hg, hlt]⟩
  have hdue : s.arrivalsDue core wslot [(n, s.nextId)] = [] := by simp [State.arrivalsDue, hwait]
  exact seqArrive_wgroup hw hq (by rw [hh]; rfl) hdue.symm

/-- With no operation of the sequencer in the table it takes effect at once. -/
theorem seqArrive_made {s : State} {core wslot n : Nat} {w : WGroup} {q : Seq} (hw : s.wgroup core wslot = some w)
    (hq : w.seq = some q) (hh : q.held = []) (he : ∀ e ∈ s.eops, ¬(e.core = core ∧ e.wslot = wslot)) (hn : n ≠ 16) :
    (s.seqArrive core wslot n).wgroup core wslot = some ({ w with seq := some { q with held := [] } }.arrive n memSeq) := by
  have hwait : s.arrivalWaits core wslot (n, s.nextId) = false := by
    refine List.any_eq_false.2 fun e hm => ?_
    have := he e hm
    simp only [Bool.and_eq_true, beq_iff_eq, decide_eq_true_eq]
    tauto
  have hdue : s.arrivalsDue core wslot [(n, s.nextId)] = [(n, s.nextId)] := by simp [State.arrivalsDue, hwait]
  rw [seqArrive_wgroup hw hq (by rw [hh]; rfl) hdue.symm]
  simp [WGroup.makes, hn]

end Sys2Proof.Machine

namespace Sys2Proof.Machine

/-! ## The end of a sequencer (R343) -/


/-- `t` is `s` with other counters of its clusters. -/
structure OnlyCounters (s t : State) : Prop where
  state : ∃ cs, t = { s with clusters := cs }
  cluster : ∀ n, ∃ p, t.cluster n = { s.cluster n with perf := p }

theorem OnlyCounters.trans {s t u : State} (h : OnlyCounters s t) (k : OnlyCounters t u) : OnlyCounters s u where
  state := by
    obtain ⟨a, rfl⟩ := h.state
    obtain ⟨b, rfl⟩ := k.state
    exact ⟨b, rfl⟩
  cluster n := by
    obtain ⟨a, ha⟩ := h.cluster n
    obtain ⟨b, hb⟩ := k.cluster n
    exact ⟨b, by rw [hb, ha]⟩

theorem onlyCounters_modCluster (s : State) (n : Nat) (f : Cluster → AMap DWord) :
    OnlyCounters s (s.modCluster n (fun k => { k with perf := f k })) where
  state := ⟨_, rfl⟩
  cluster m := by
    rw [cluster_modCluster]
    split
    · rename_i h
      exact ⟨f (s.cluster n), by rw [h]⟩
    · exact ⟨_, rfl⟩

theorem onlyCounters_perfAdd (s : State) (k u n v : Nat) : OnlyCounters s (s.perfAdd k u n v) := onlyCounters_modCluster ..

theorem onlyCounters_perfWait (s : State) (k u : Nat) : OnlyCounters s (s.perfWait k u) := by
  unfold State.perfWait
  dsimp only
  split
  · exact (onlyCounters_perfAdd ..).trans (onlyCounters_modCluster ..)
  · exact onlyCounters_modCluster ..

theorem OnlyCounters.tenantOf {s t : State} (h : OnlyCounters s t) (core : Nat) : t.tenantOf core = s.tenantOf core := by
  obtain ⟨p, hp⟩ := h.cluster (clusterOf core)
  simp [State.tenantOf, hp]

theorem OnlyCounters.faults {s t : State} (h : OnlyCounters s t) (n : Nat) : (t.cluster n).faults = (s.cluster n).faults := by
  obtain ⟨p, hp⟩ := h.cluster n
  rw [hp]

/-- An error entry changes memory and contexts alone. -/
theorem errorEntry_frame (s : State) (guest : Nat) (addr : Addr) (owner : DWord) (cause : Cause) (source core : Nat) :
    ∃ m cs, s.errorEntry guest addr owner cause source core = { s with mem := m, ctxs := cs } := by
  unfold State.errorEntry
  extract_lets c base errw clr now s1
  split
  · exact ⟨_, _, rfl⟩
  · exact ⟨_, _, rfl⟩

/-- A fault domain after a stop is entered in it. -/
theorem faults_domainFault (s : State) (core : Nat) (k : Cause) (pc : Addr) :
    mget ((s.domainFault core k pc).cluster (clusterOf core)).faults (s.tenantOf core) [] =
      (k, pc) :: mget (s.cluster (clusterOf core)).faults (s.tenantOf core) [] := by
  rw [State.domainFault, cluster_modCluster_same, mget_mset_same]

/-- The sequencer `c` of `s` has stopped in `t`, with an error or without (R343). -/
structure SeqEnded (s t : State) (c : SeqCur) (err : Bool) : Prop where
  seq : ∃ w q, t.wgroup c.core c.wslot = some w ∧ w.seq = some q ∧ q.stopped = true
  scratch : t.scratch = s.scratch
  eops : ∀ e ∈ t.eops, e ∈ s.eops ∧ (e.core = c.core → e.wslot = c.wslot → e.granted.isSome)
  ctxerr : (t.ctx c.w.guest).ctxerr = ((s.ctx c.w.guest).ctxerr || err)
  fault : err = true → ∃ k, mget (t.cluster (clusterOf c.core)).faults (s.tenantOf c.core) [] =
    (k, c.q.pc) :: mget (s.cluster (clusterOf c.core)).faults (s.tenantOf c.core) []

/-- The sequencer as its stop leaves it, but for its held arrivals. -/
def Seq.halt (q : Seq) : Seq := { q with stopped := true, posted := none, gathering := none, heldRec := false, bwait := none }

/-- The state as a sequencer stops, before it leaves its barriers. -/
def State.halting (s : State) (c : SeqCur) : State :=
  { (s.perfWait (clusterOf c.core) (s.tenantOf c.core)).modSeq c.core c.wslot Seq.halt with
    eops := s.eops.filter (fun e => !(e.core == c.core && e.wslot == c.wslot && e.granted.isNone))
    launches := mmod s.launches c.w.launch (fun l => { l with seqs := l.seqs - 1 }) }

/-- The state once it has left them, or will. -/
def State.halted (s : State) (c : SeqCur) : State := (s.halting c).seqArrive c.core c.wslot 16

theorem perfWait_eops (s : State) (k u : Nat) : (s.perfWait k u).eops = s.eops := by
  obtain ⟨⟨cs, h⟩, -⟩ := onlyCounters_perfWait s k u
  rw [h]

theorem perfWait_launches (s : State) (k u : Nat) : (s.perfWait k u).launches = s.launches := by
  obtain ⟨⟨cs, h⟩, -⟩ := onlyCounters_perfWait s k u
  rw [h]

theorem perfWait_wgroup (s : State) (k u core wslot : Nat) : (s.perfWait k u).wgroup core wslot = s.wgroup core wslot := by
  obtain ⟨⟨cs, h⟩, -⟩ := onlyCounters_perfWait s k u
  rw [h]; rfl

section
variable {s : State} {c : SeqCur} (hc : s.seqOf c.core c.wslot = some c)

theorem halting_frame (s : State) (c : SeqCur) : ∃ cs ws ls, s.halting c = { s with
    clusters := cs, wgroups := ws, launches := ls
    eops := s.eops.filter (fun e => !(e.core == c.core && e.wslot == c.wslot && e.granted.isNone)) } := by
  obtain ⟨⟨cs, h⟩, -⟩ := onlyCounters_perfWait s (clusterOf c.core) (s.tenantOf c.core)
  rw [State.halting, h]
  exact ⟨_, _, _, rfl⟩

theorem halted_frame (s : State) (c : SeqCur) : ∃ cs ws ls, s.halted c = { s with
    clusters := cs, wgroups := ws, launches := ls
    eops := s.eops.filter (fun e => !(e.core == c.core && e.wslot == c.wslot && e.granted.isNone)) } := by
  obtain ⟨cs, ws, ls, h⟩ := halting_frame s c
  obtain ⟨ws', h'⟩ := seqArrive_frame (s.halting c) c.core c.wslot 16
  exact ⟨cs, ws', ls, by rw [State.halted, h', h]⟩

/-- Of the clusters, only counters have changed. -/
theorem halted_cluster (s : State) (c : SeqCur) (n : Nat) : ∃ p, (s.halted c).cluster n = { s.cluster n with perf := p } := by
  have hk : (s.halted c).clusters = (s.perfWait (clusterOf c.core) (s.tenantOf c.core)).clusters := by
    obtain ⟨ws, h⟩ := seqArrive_frame (s.halting c) c.core c.wslot 16
    rw [State.halted, h]
    rfl
  obtain ⟨p, hp⟩ := (onlyCounters_perfWait s (clusterOf c.core) (s.tenantOf c.core)).cluster n
  exact ⟨p, by rw [← hp, State.cluster, State.cluster, hk]⟩

theorem halted_tenantOf (s : State) (c : SeqCur) (core : Nat) : (s.halted c).tenantOf core = s.tenantOf core := by
  obtain ⟨p, hp⟩ := halted_cluster s c (clusterOf core)
  simp [State.tenantOf, hp]

include hc in
theorem halted_seq : ∃ w q, (s.halted c).wgroup c.core c.wslot = some w ∧ w.seq = some q ∧ q.stopped = true := by
  obtain ⟨-, -, hw, hq⟩ := seqOf_eq_some.1 hc
  have hh : (s.halting c).wgroup c.core c.wslot = some (c.w.modSeq Seq.halt) := by
    refine (wgroup_modSeq (s.perfWait (clusterOf c.core) (s.tenantOf c.core)) ..).trans ?_
    rw [perfWait_wgroup, hw]
    rfl
  obtain ⟨w, h, hw', hq'⟩ := seqArrive_seq (q := c.q.halt) hh (by simp [WGroup.modSeq, hq]) 16
  exact ⟨w, _, hw', hq', rfl⟩

include hc in
theorem halted_ended : SeqEnded s (s.halted c) c false := by
  obtain ⟨cs, ws, ls, h⟩ := halted_frame s c
  refine ⟨halted_seq hc, by rw [h], fun e he => ?_, by rw [h]; simp [State.ctx], fun he => by cases he⟩
  rw [h] at he
  obtain ⟨hm, hp⟩ := List.mem_filter.1 he
  refine ⟨hm, fun h1 h2 => ?_⟩
  simpa [h1, h2] using hp

theorem SeqEnded.refresh {t : State} {err : Bool} (h : SeqEnded s t c err) : SeqEnded s t.refresh c err := by
  obtain ⟨⟨w, q, hw, hq, hst⟩, h1, h2, h3, h4⟩ := h
  obtain ⟨x, hx⟩ := wgroup_refresh hw
  exact ⟨⟨_, q, hx, hq, hst⟩, h1, h2, h3, h4⟩

theorem SeqEnded.pass {t : State} {err : Bool} (h : SeqEnded s t c err) (n : Nat) : SeqEnded s (t.pass n) c err :=
  ⟨h.seq, h.scratch, h.eops, h.ctxerr, h.fault⟩

/-- With a cause, CTXERR is set and the fault domain has an entry more. -/
theorem SeqEnded.records {t : State} {n : Nat} (h : SeqEnded s t c false) (k : Cause)
    (hf : (t.cluster (clusterOf c.core)).faults = (s.cluster (clusterOf c.core)).faults) (ht : t.tenantOf c.core = s.tenantOf c.core) :
    SeqEnded s (((t.errorEntry c.w.guest c.q.pc c.w.wid k 2 c.core).domainFault c.core k c.q.pc).perfAdd
      (clusterOf c.core) n 5 1) c true := by
  have hmark := marked_errorEntry t c.w.guest c.q.pc c.w.wid k 2 c.core
  obtain ⟨m, cs, he⟩ := errorEntry_frame t c.w.guest c.q.pc c.w.wid k 2 c.core
  rw [he] at hmark ⊢
  refine ⟨h.seq, h.scratch, h.eops, hmark.trans (Bool.or_true _).symm, fun _ => ⟨k, ?_⟩⟩
  rw [(onlyCounters_perfAdd ..).faults, ← ht, ← hf]
  exact faults_domainFault { t with mem := m, ctxs := cs } ..

variable (hs : c.q.stopped = false)

include hc hs in
theorem stopSeq_none : s.stopSeq c.core c.wslot none = s.halted c := by
  simp only [State.stopSeq, hc, hs, State.halted, State.halting, ← perfWait_eops s (clusterOf c.core) (s.tenantOf c.core),
    ← perfWait_launches s (clusterOf c.core) (s.tenantOf c.core)]
  rfl

include hc hs in
theorem stopSeq_some (k : Cause) : s.stopSeq c.core c.wslot (some k) =
    (((s.halted c).errorEntry c.w.guest c.q.pc c.w.wid k 2 c.core).domainFault c.core k c.q.pc).perfAdd
      (clusterOf c.core) ((s.halted c).tenantOf c.core) 5 1 := by
  simp only [← stopSeq_none hc hs, State.stopSeq, hc, hs]
  rfl

include hc hs in
/-- A stop ends its sequencer (R343). -/
theorem stopSeq_ended (cause : Option Cause) : SeqEnded s (s.stopSeq c.core c.wslot cause) c cause.isSome := by
  cases cause with
  | none =>
    rw [stopSeq_none hc hs]
    exact halted_ended hc
  | some k =>
    obtain ⟨p, hp⟩ := halted_cluster s c (clusterOf c.core)
    rw [stopSeq_some hc hs]
    exact (halted_ended hc).records k (by rw [hp]) (halted_tenantOf ..)

end

end Sys2Proof.Machine

namespace Sys2Proof.Claims

open Sys2Proof.Machine

/-! ## Control words (R323, R343, R344) -/

/-- A word that leads to a state in which its sequencer has ended stops it. -/
theorem seqStops_of_ended {i : Instr} {s t : State} {c : SeqCur} {err : Bool} (h : SeqEnded s t c err) (hx : exec i s = .next t) :
    SeqStops i s c err := by
  obtain ⟨⟨w, q, hw, hq, hst⟩, h1, h2, h3, h4⟩ := h
  exact ⟨t, hx, ⟨⟨c.core, c.wslot, w, q⟩, seqOf_eq_some.2 ⟨rfl, rfl, hw, hq⟩, hst⟩, h1, h2, h3, h4⟩

section
variable {s : State} {c : SeqCur} (h : AtWord s c)
include h

/-- A word that stops its sequencer with a cause. -/
theorem seqStops_of_cause {i : Instr} {k : Cause} (hx : exec i s = .next (s.stopSeq c.core c.wslot (some k)).refresh) :
    SeqStops i s c true := seqStops_of_ended (stopSeq_ended h.2.1 h.not_stopped (some k)).refresh hx

theorem mLoop_stops (k : BitVec 2) (cm : BitVec 16) (r : BitVec 2) (stride : BitVec 16) : SeqStops (.mLoop k cm r stride 0) s c true :=
  seqStops_of_cause h ((seqInstr_atWord h _).trans (by rw [if_pos rfl]))

theorem mJmp_stops : SeqStops (.mJmp 0) s c true :=
  seqStops_of_cause h ((seqInstr_atWord h _).trans (by rw [if_pos rfl]))

theorem mStop_stops : SeqStops .mStop s c false :=
  seqStops_of_ended ((stopSeq_ended h.2.1 h.not_stopped none).pass 1).refresh (seqInstr_atWord h _)

theorem mLoop_done (k : BitVec 2) (cm : BitVec 16) (r : BitVec 2) (stride : BitVec 16) {off : BitVec 16} (ho : off ≠ 0) :
    let old := (c.q.lc.getD k.toNat 0).toNat
    let lc := (if old = 0 then cm.toNat + 1 else old) - 1
    Leads (.mLoop k cm r stride off) s (fun t => WordDone s t c (fun q =>
      q.pc = (if lc = 0 then c.q.pc + 8 else c.q.pc + off.signExtend 64 * 8) ∧
      (lc ≠ 0 → q.block = none) ∧ q.lc = c.q.lc.set k.toNat (BitVec.ofNat 16 lc) ∧
      q.o = c.q.o.set r.toNat (BitVec.ofInt 19 ((c.q.o.getD r.toNat 0).toNat + 16 * stride.toInt)))) := by
  intro old lc
  refine ⟨_, (seqInstr_atWord h _).trans (by rw [if_neg ho]), wordDone_modSeq (.refl s) h.wgroup h.seq ?_⟩
  have hofs : c.q.o.getD r.toNat 0 + BitVec.ofInt 19 (16 * stride.toInt) =
      BitVec.ofInt 19 ((c.q.o.getD r.toNat 0).toNat + 16 * stride.toInt) := by
    rw [BitVec.ofInt_add, BitVec.ofInt_natCast, BitVec.ofNat_toNat, BitVec.setWidth_eq]
  by_cases hl : lc = 0
  · rw [if_pos hl]
    exact ⟨(if_pos hl).symm, fun hn => absurd hl hn, rfl, congrArg _ hofs⟩
  · rw [if_neg hl]
    exact ⟨(if_neg hl).symm, fun _ => rfl, rfl, congrArg _ hofs⟩

theorem mJmp_done {off : BitVec 16} (ho : off ≠ 0) : Leads (.mJmp off) s (fun t => WordDone s t c (fun q =>
    q = { c.q with pc := c.q.pc + off.signExtend 64 * 8, block := none, waived := 0 })) :=
  ⟨_, (seqInstr_atWord h _).trans (by rw [if_neg ho]), wordDone_modSeq (.refl s) h.wgroup h.seq rfl⟩

/-- A word that changes registers of its sequencer, and goes on. -/
theorem seqNext_done {i : Instr} {f : Seq → Seq} {p : Seq → Prop}
    (hx : exec i s = .next ((s.modSeq c.core c.wslot f).seqNext c).refresh) (hp : p (f c.q).next) :
    Leads i s (fun t => WordDone s t c p) :=
  ⟨_, hx, wordDone_modSeq ((OnlyWorkgroups.refl s).modSeq ..) (by rw [wgroup_modSeq, h.wgroup]; rfl)
    (by simp [WGroup.modSeq, h.seq]) hp⟩

theorem mFmt_offset (v : BitVec 19) (n : BitVec 2) : Leads (.mFmt (n.setWidth 3 + 4) v) s (fun t => WordDone s t c (fun q =>
    q.pc = c.q.pc + 8 ∧ q.o = c.q.o.set n.toNat v ∧ q.wpitch = c.q.wpitch ∧ q.apitch = c.q.apitch ∧ q.ascale = c.q.ascale ∧
      q.gindex = c.q.gindex)) := by
  refine seqNext_done h (seqInstr_atWord h _) ?_
  obtain rfl | rfl | rfl | rfl : n = 0 ∨ n = 1 ∨ n = 2 ∨ n = 3 := by revert n; decide
  all_goals exact ⟨rfl, rfl, rfl, rfl, rfl, rfl⟩

theorem controlWords : ControlWords s c := by
  refine ⟨fun k cm r stride off _ _ => ⟨fun ho => ho ▸ mLoop_stops h k cm r stride, mLoop_done h k cm r stride⟩,
    fun _ => ⟨fun ho => ho ▸ mJmp_stops h, mJmp_done h⟩, mStop_stops h, fun v => ⟨?_, ?_, ?_, ?_, mFmt_offset h v⟩, fun w a => ?_⟩
  all_goals exact seqNext_done h (seqInstr_atWord h _) ⟨rfl, rfl, rfl, rfl, rfl, rfl⟩

end

end Sys2Proof.Claims

namespace Sys2Proof.Machine

/-! ## The wait of `m.bar` (R169, R340) -/

/-- Without a registration the wait has no effect. -/
theorem seqWait_stranger {s : State} {c : SeqCur} {n : Nat} (hk : c.q.mark = none) (hb : c.q.bwait = none)
    (hm : c.w.member n memSeq = false) : s.seqWait c n = s.seqNext c := by
  simp [State.seqWait, hk, hb, hm]

/-- The wait begins: the sequencer has arrived in the phase. -/
theorem seqWait_begins {s : State} {c : SeqCur} {n : Nat} {b : Bar} (hk : c.q.mark = none) (hb : c.q.bwait = none)
    (hm : c.w.member n memSeq = true) (hn : mfind c.w.bars n = some b) (ha : mfind b.arr memSeq = some b.pn) (he : 0 < b.en) :
    s.seqWait c n = (s.modSeq c.core c.wslot (fun q => { q with bwait := some (n, b.pn) })).pass 1 := by
  simp [State.seqWait, SeqCur.waitsAt, hk, hb, hm, hn, ha, he]

/-- There is nothing to wait for: the phase the sequencer arrived in is over, and no accumulator write is left. -/
theorem seqWait_over {s : State} {c : SeqCur} {n : Nat} {b : Bar} (hk : c.q.mark = none) (hb : c.q.bwait = none)
    (hm : c.w.member n memSeq = true) (hn : mfind c.w.bars n = some b) (ha : mfind b.arr memSeq ≠ some b.pn ∨ b.en = 0)
    (ho : ∀ x ∈ s.ops, x.2.kind ≠ .accWrite) : s.seqWait c n = s.seqNext c := by
  have hw : c.waitsAt n = none := by
    rcases ha with ha | ha <;> simp [SeqCur.waitsAt, hn, ha]
  have hout : s.accOut c s.nextId = false := by
    refine List.any_eq_false.2 fun x hx => ?_
    simp [ho x hx]
  simp [State.seqWait, State.seqPhaseSeen, hk, hb, hm, hw, hout]

end Sys2Proof.Machine

namespace Sys2Proof.Claims

open Sys2Proof.Machine

/-! ## Barrier words (R169, R302, R340) -/

/-- The barriers of a workgroup before the upkeep, after it. -/
theorem bars_refresh {t : State} {core wslot : Nat} {w : WGroup} (h : t.wgroup core wslot = some w) :
    ∃ w', t.refresh.wgroup core wslot = some w' ∧ w'.bars = w.bars := by
  obtain ⟨x, hx⟩ := wgroup_refresh h
  exact ⟨_, hx, rfl⟩

theorem barsAt_refresh {t : State} {core wslot : Nat} {w : WGroup} (h : t.wgroup core wslot = some w) (n : Nat) :
    (t.refresh.wgroup core wslot).map (fun w => mfind w.bars n) = some (mfind w.bars n) := by
  obtain ⟨w', hw', hb⟩ := bars_refresh h
  rw [hw', Option.map_some, hb]

section
variable {s : State} {c : SeqCur} (h : AtWord s c)
include h

/-- The sequencer is changed, a cc passes, and the barriers stand as they were. -/
theorem keepsBars_modSeq (f : Seq → Seq) (n : Nat) :
    (((s.modSeq c.core c.wslot f).pass 1).refresh.wgroup c.core c.wslot).map (fun w => mfind w.bars n) = some (mfind c.w.bars n) := by
  refine (barsAt_refresh (w := c.w.modSeq f) ?_ n).trans rfl
  exact (wgroup_modSeq ..).trans (by rw [h.wgroup]; rfl)

theorem exec_mBarArrive_stranger {n : BitVec 4} (hm : c.w.member n.toNat memSeq = false) :
    exec (.mBarArrive n) s = .next (s.seqNext c).refresh :=
  (seqInstr_atWord h _).trans (by simp [hm])

theorem exec_mBarArrive_member {n : BitVec 4} (hm : c.w.member n.toNat memSeq = true) :
    exec (.mBarArrive n) s = .next ((s.seqArrive c.core c.wslot n.toNat).seqNext c).refresh :=
  (seqInstr_atWord h _).trans (by simp [hm])

theorem exec_mBarWait (n : BitVec 4) : exec (.mBarWait n) s = .next (s.seqWait c n.toNat).refresh := seqInstr_atWord h _

theorem exec_mBarSync_stranger {n : BitVec 4} (hm : c.w.member n.toNat memSeq = false) :
    exec (.mBarSync n) s = .next (s.seqWait c n.toNat).refresh :=
  (seqInstr_atWord h _).trans (by simp [hm])

/-- The state after the arrival of an `m.bar.sync`. -/
def syncArrived (s : State) (c : SeqCur) (n : Nat) : State :=
  (s.modSeq c.core c.wslot (fun q => { q with arrived := true })).seqArrive c.core c.wslot n

theorem exec_mBarSync_member {n : BitVec 4} (hm : c.w.member n.toNat memSeq = true) (ha : c.q.arrived = false) {w : WGroup} {q : Seq}
    (hw : (syncArrived s c n.toNat).wgroup c.core c.wslot = some w) (hq : w.seq = some q) :
    exec (.mBarSync n) s = .next (if q.held.isEmpty then (syncArrived s c n.toNat).seqWait ⟨c.core, c.wslot, w, q⟩ n.toNat
      else (syncArrived s c n.toNat).pass 1).refresh := by
  have hc : (syncArrived s c n.toNat).seqOf c.core c.wslot = some ⟨c.core, c.wslot, w, q⟩ := seqOf_eq_some.2 ⟨rfl, rfl, hw, hq⟩
  refine (seqInstr_atWord h _).trans ?_
  simp only [hm, ha, Bool.not_true, Bool.false_eq_true, if_false]
  rw [show (s.modSeq c.core c.wslot (fun q => { q with arrived := true })).seqArrive c.core c.wslot n.toNat = syncArrived s c n.toNat
    from rfl, hc]

/-- An `m.bar.sync` whose arrival is held stays. -/
theorem exec_mBarSync_held {n : BitVec 4} (hm : c.w.member n.toNat memSeq = true) (ha : c.q.arrived = false) {w : WGroup} {q : Seq}
    (hw : (syncArrived s c n.toNat).wgroup c.core c.wslot = some w) (hq : w.seq = some q) (hh : q.held ≠ []) :
    exec (.mBarSync n) s = .next ((syncArrived s c n.toNat).pass 1).refresh := by
  rw [exec_mBarSync_member h hm ha hw hq, if_neg (by simpa using hh)]

/-- One whose arrival has taken effect waits. -/
theorem exec_mBarSync_made {n : BitVec 4} (hm : c.w.member n.toNat memSeq = true) (ha : c.q.arrived = false) {w : WGroup} {q : Seq}
    (hw : (syncArrived s c n.toNat).wgroup c.core c.wslot = some w) (hq : w.seq = some q) (hh : q.held = []) :
    exec (.mBarSync n) s = .next ((syncArrived s c n.toNat).seqWait ⟨c.core, c.wslot, w, q⟩ n.toNat).refresh := by
  rw [exec_mBarSync_member h hm ha hw hq, if_pos (by simp [hh])]

omit h in
theorem syncArrived_frame (s : State) (c : SeqCur) (n : Nat) : OnlyWorkgroups s (syncArrived s c n) := by
  obtain ⟨ws, hws⟩ := seqArrive_frame (s.modSeq c.core c.wslot (fun q => { q with arrived := true })) c.core c.wslot n
  exact ⟨ws, hws⟩

theorem barrierWord_stranger {n : BitVec 4} (hb : c.q.bwait = none) (hk : c.q.mark = none) (hm : c.w.member n.toNat memSeq = false)
    {i : Instr} (hi : i ∈ [Instr.mBarArrive n, .mBarWait n, .mBarSync n]) :
    Leads i s (fun t => WordDone s t c (fun q => q.pc = c.q.pc + 8) ∧
      ∀ b, (t.wgroup c.core c.wslot).map (fun w => mfind w.bars b) = some (mfind c.w.bars b)) := by
  have hx : exec i s = .next (s.seqNext c).refresh := by
    have hw := seqWait_stranger (s := s) hk hb hm
    simp only [List.mem_cons, List.not_mem_nil, or_false] at hi
    rcases hi with rfl | rfl | rfl
    · exact exec_mBarArrive_stranger h hm
    · rw [exec_mBarWait h, hw]
    · rw [exec_mBarSync_stranger h hm, hw]
  exact ⟨_, hx, wordDone_modSeq (.refl s) h.wgroup h.seq rfl, keepsBars_modSeq h Seq.next⟩

/-- The workgroup whose sequencer has marked the arrival of an `m.bar.sync`. -/
theorem wgroup_arrived : (s.modSeq c.core c.wslot (fun q => { q with arrived := true })).wgroup c.core c.wslot =
    some { c.w with seq := some { c.q with arrived := true } } := by
  rw [wgroup_modSeq, h.wgroup]
  simp [WGroup.modSeq, h.seq]

/-- While a granted operation stands in the table, the arrival is held: `m.bar.arrive` goes on, and `m.bar.sync` stays. -/
theorem barrierWord_held {n : BitVec 4} (hh : c.q.held = []) (ha : c.q.arrived = false) {b : Bar}
    (hm : c.w.member n.toNat memSeq = true) (hn : mfind c.w.bars n.toNat = some b)
    (he : ∃ e ∈ s.eops, e.core = c.core ∧ e.wslot = c.wslot ∧ e.granted.isSome ∧ e.id < s.nextId)
    {i : Instr} (hi : i ∈ [Instr.mBarArrive n, .mBarSync n]) :
    Leads i s (fun t => WordDone s t c (fun q => q.held = [(n.toNat, s.nextId)] ∧ q.pc = if i = .mBarArrive n then c.q.pc + 8 else c.q.pc) ∧
      (t.wgroup c.core c.wslot).map (fun w => mfind w.bars n.toNat) = some (some b)) := by
  simp only [List.mem_cons, List.not_mem_nil, or_false] at hi
  rcases hi with rfl | rfl
  · have hw := seqArrive_held (n := n.toNat) h.wgroup h.seq hh he
    refine ⟨_, exec_mBarArrive_member h hm, wordDone_modSeq (seqArrive_frame ..) hw rfl ⟨rfl, (if_pos rfl).symm⟩, ?_⟩
    rw [← hn]
    exact (barsAt_refresh ((wgroup_modSeq ..).trans (congrArg _ hw)) _).trans rfl
  · have hw : (syncArrived s c n.toNat).wgroup c.core c.wslot = _ := seqArrive_held (n := n.toNat) (wgroup_arrived h) rfl hh he
    refine ⟨_, exec_mBarSync_held h hm ha hw rfl (List.cons_ne_nil _ _), wordDone_pass (syncArrived_frame ..) hw rfl
      ⟨rfl, (if_neg (by simp)).symm⟩, ?_⟩
    rw [← hn]
    exact (barsAt_refresh (t := State.pass _ 1) hw _).trans rfl

/-- With no operation of the sequencer left, the arrival takes effect at once. -/
theorem mBarArrive_made {n : BitVec 4} (hh : c.q.held = []) {b : Bar} (hm : c.w.member n.toNat memSeq = true)
    (hn : mfind c.w.bars n.toNat = some b) (he : ∀ e ∈ s.eops, ¬(e.core = c.core ∧ e.wslot = c.wslot))
    (hb : mfind b.arr memSeq ≠ some b.pn) (hlt : b.an + 1 < b.en) :
    Leads (.mBarArrive n) s (fun t => WordDone s t c (fun q => q.pc = c.q.pc + 8) ∧ ∃ w b', t.wgroup c.core c.wslot = some w ∧
      mfind w.bars n.toNat = some b' ∧ b'.an = b.an + 1 ∧ b'.pn = b.pn ∧ mfind b'.arr memSeq = some b.pn) := by
  have hw := seqArrive_made h.wgroup h.seq hh he (n := n.toNat) (by have := n.isLt; omega)
  rw [arrive_counts (w := { c.w with seq := some { c.q with held := [] } }) hm hn hb hlt] at hw
  refine ⟨_, exec_mBarArrive_member h hm, wordDone_modSeq (seqArrive_frame ..) hw rfl rfl, ?_⟩
  obtain ⟨w', hw', hbars⟩ := bars_refresh ((wgroup_modSeq ..).trans (congrArg (Option.map _) hw))
  exact ⟨w', b.counting memSeq, hw', by rw [hbars]; exact mfind_mset_same .., rfl, rfl, mfind_mset_same ..⟩

/-- Then the wait of `m.bar.sync` begins. -/
theorem mBarSync_made {n : BitVec 4} (hbw : c.q.bwait = none) (hk : c.q.mark = none) (hh : c.q.held = []) (ha : c.q.arrived = false)
    {b : Bar} (hm : c.w.member n.toNat memSeq = true) (hn : mfind c.w.bars n.toNat = some b)
    (he : ∀ e ∈ s.eops, ¬(e.core = c.core ∧ e.wslot = c.wslot)) (hb : mfind b.arr memSeq ≠ some b.pn) (hlt : b.an + 1 < b.en) :
    Leads (.mBarSync n) s (fun t => WordDone s t c (fun q => q.pc = c.q.pc ∧ q.bwait = some (n.toNat, b.pn))) := by
  have hw : (syncArrived s c n.toNat).wgroup c.core c.wslot = _ :=
    seqArrive_made (wgroup_arrived h) rfl hh he (n := n.toNat) (by have := n.isLt; omega)
  rw [arrive_counts (w := { c.w with seq := some { c.q with arrived := true, held := [] } }) hm hn hb hlt] at hw
  refine ⟨_, exec_mBarSync_made h hm ha hw rfl rfl, ?_⟩
  rw [seqWait_begins (b := b.counting memSeq)]
  exacts [wordDone_modSeq (syncArrived_frame ..) hw rfl ⟨rfl, rfl⟩, hk, hbw, hm, mfind_mset_same .., mfind_mset_same ..,
    Nat.zero_lt_of_lt hlt]

theorem barrierWords : BarrierWords s c := by
  intro n hbw hk hh ha
  refine ⟨fun hm i hi => barrierWord_stranger h hbw hk hm hi, fun b hm hn => ⟨fun he i hi => barrierWord_held h hh ha hm hn he hi,
    fun he hb hlt => ⟨mBarArrive_made h hh hm hn he hb hlt, mBarSync_made h hbw hk hh ha hm hn he hb hlt⟩, fun hb he => ?_, fun hb ho => ?_⟩⟩
  · refine ⟨_, exec_mBarWait h n, ?_⟩
    rw [seqWait_begins hk hbw hm hn hb he]
    exact wordDone_modSeq (.refl s) h.wgroup h.seq ⟨rfl, rfl⟩
  · refine ⟨_, exec_mBarWait h n, ?_⟩
    rw [seqWait_over hk hbw hm hn hb ho]
    exact wordDone_modSeq (.refl s) h.wgroup h.seq rfl

end

end Sys2Proof.Claims

namespace Sys2Proof.Machine

/-! ## Checks before posting (R342, R399) -/

/-- Where no watch unit covers a span or an entry, none is hit. -/
theorem seqWatch_none {s : State} {c : SeqCur} {spans accs : List (Nat × Nat)} {rd wr memWr : Bool}
    (hs : ∀ p ∈ spans, s.watchHits c.w.guest c.q.waived 0 (!memWr) memWr (0xFF00000000000000 + p.1) p.2 = 0)
    (ha : ∀ p ∈ accs, s.watchHits c.w.guest c.q.waived 1 rd wr p.1 p.2 = 0) :
    (s.seqWatch c spans accs rd wr memWr).1 = 0 := by
  unfold State.seqWatch
  extract_lets one x
  have hx : x.1 = 0 := by
    refine List.foldlRecOn (motive := fun (y : BitVec 4 × Nat) => y.1 = 0) spans _ rfl fun y hy p hp => ?_
    simp only [one, hy, hs p hp, BitVec.or_self]
  refine List.foldlRecOn (motive := fun (y : BitVec 4 × Nat) => y.1 = 0) accs _ hx fun y hy p hp => ?_
  simp only [one, hy, ha p hp, BitVec.or_self]

/-- Checks 4 and 5 pass. -/
theorem rangeWatch_ok {s : State} {c : SeqCur} {spans accs : List (Nat × Nat)} {rd wr memWr : Bool}
    (hin : ∀ p ∈ spans, p.1 + p.2 ≤ c.alloc)
    (hs : ∀ p ∈ spans, s.watchHits c.w.guest c.q.waived 0 (!memWr) memWr (0xFF00000000000000 + p.1) p.2 = 0)
    (ha : ∀ p ∈ accs, s.watchHits c.w.guest c.q.waived 1 rd wr p.1 p.2 = 0) :
    s.rangeWatch c spans accs rd wr memWr = .ok := by
  have ho : c.outside spans = false := List.any_eq_false.2 fun p hp => by simpa using hin p hp
  simp [State.rangeWatch, ho, seqWatch_none hs ha]

/-- A span that leaves the allocation stops the word. -/
theorem rangeWatch_outside {s : State} {c : SeqCur} {spans accs : List (Nat × Nat)} {rd wr memWr : Bool} {p : Nat × Nat} (hp : p ∈ spans)
    (hout : c.alloc < p.1 + p.2) : s.rangeWatch c spans accs rd wr memWr = .stop cScratchBounds := by
  have ho : c.outside spans = true := List.any_eq_true.2 ⟨p, hp, by simpa using hout⟩
  simp [State.rangeWatch, ho]

theorem checkEntries_inside {s : State} {c : SeqCur} {r : Region} {e0 n : Nat} {spans : List (Nat × Nat)} {rd wr memWr : Bool}
    (hr : s.regionOk c r = true) (he : e0 + n ≤ 511) : s.checkEntries c r e0 (n + 1) spans rd wr memWr =
      s.rangeWatch c spans (accSpans (clusterOf c.core) r e0 (n + 1)) rd wr memWr := by
  simp [State.checkEntries, hr, Nat.not_lt.2 he]

theorem checkEntries_beyond {s : State} {c : SeqCur} {r : Region} {e0 n : Nat} {spans : List (Nat × Nat)} {rd wr memWr : Bool}
    (he : 511 < e0 + n) : s.checkEntries c r e0 (n + 1) spans rd wr memWr = .stop cSeqIllegal := by
  simp [State.checkEntries, he]

/-- Weights of unaligned bytes or pitch, f32 ones without a slice, and foreign rows stop the word (R322, R326, R342). -/
theorem checkWload_illegal {s : State} {c : SeqCur} {f : MFmt} {r : Region} {t ax : Bool} {o : BitVec 2} {code scale : BitVec 19}
    (h : (c.q.weightOp f r t o code scale).base % 16 ≠ 0 ∨ (c.q.weightOp f r t o code scale).pitch % 16 ≠ 0 ∨
      (f = .f32 ∧ c.q.wsl = .none) ∨ s.regionOk c r = false) : s.checkWload c f r t ax o code scale = .stop cSeqIllegal := by
  refine if_pos ?_
  rcases h with h | h | ⟨rfl, h⟩ | h <;> simp [h]

/-- Blocks that do not lie along K stop it too (R342). -/
theorem checkWload_blockAxis {s : State} {c : SeqCur} {r : Region} {t ax : Bool} {o : BitVec 2} {code scale : BitVec 19} (h : ax ≠ t) :
    ∃ k, s.checkWload c .b4 r t ax o code scale = .stop k := by
  unfold State.checkWload
  extract_lets op
  split
  · exact ⟨_, rfl⟩
  · exact ⟨_, if_pos (by simp [h])⟩

/-- A pass without latched weights, a gathered transposed one and one of entries that do not exist stop their sequencer
(R328, R331, R342). -/
theorem checkPass_illegal {s : State} {c : SeqCur} {f : MFmt} {r : Region} {t ax : Bool} {o : BitVec 2} {g : Bool} {code : BitVec 19}
    {e0 n : Nat} {z : Bool} (h : s.latchOf (clusterOf c.core) c.w.guest r = none ∨ (g = true ∧ t = true) ∨ 511 < e0 + n) :
    s.checkPass c f r t ax o g code e0 (n + 1) z = .stop cSeqIllegal := by
  unfold State.checkPass
  split
  · rfl
  · rename_i wf hl
    have h : (g = true ∧ t = true) ∨ 511 < e0 + n := by
      rcases h with h | h | h
      · rw [hl] at h; cases h
      · exact .inl h
      · exact .inr h
    refine if_pos ?_
    rcases h with ⟨rfl, rfl⟩ | h
    · simp
    · simp [h]

end Sys2Proof.Machine

namespace Sys2Proof.Claims

open Sys2Proof.Machine

/-! ## Posting (R333) -/

/-- With room in the queue and no throttle, the word is added to the table (R333). -/
theorem postOp_room {s : State} {c : SeqCur} (i : Instr) (hr : InQueue s c < 16) (ht : (s.ctx c.w.guest).throttled = false) :
    ∃ cs prio wf, s.postOp c i none = State.modSeq { s with
      clusters := cs, nextId := s.nextId + 1
      eops := s.eops ++ [⟨s.nextId, clusterOf c.core, c.core, c.wslot, c.w.guest, prio, i, c.q, none, wf, s.cc, none, false, [], 0, [], 0⟩] }
      c.core c.wslot (fun q => { q with posted := some s.nextId, gathering := none }) := by
  have hg : ¬(decide (16 ≤ s.tableUsed (clusterOf c.core) (s.tenantOf c.core)) || (s.ctx c.w.guest).throttled) = true := by
    rw [ht, Bool.or_false, decide_eq_true_eq]
    exact Nat.not_le.2 hr
  obtain ⟨⟨cs, h⟩, -⟩ := onlyCounters_perfWait s (clusterOf c.core) (s.tenantOf c.core)
  unfold State.postOp
  dsimp only
  rw [if_neg hg, h]
  exact ⟨_, _, _, rfl⟩

/-- A full queue, or a throttle, holds the sequencer for a cc (R333, R419). -/
theorem postOp_full {s : State} {c : SeqCur} (i : Instr) (h : 16 ≤ InQueue s c ∨ (s.ctx c.w.guest).throttled = true) :
    s.postOp c i none = s.pass 1 := by
  refine if_pos ?_
  rw [Bool.or_eq_true, decide_eq_true_eq]
  exact h

section
variable {s : State} {c : SeqCur} (h : AtWord s c)
include h

theorem posts_of_postOp {i : Instr} (hx : exec i s = .next (s.postOp c i none).refresh) : Posts i s c := by
  refine ⟨fun hr ht => ?_, fun hf => ?_⟩
  · obtain ⟨cs, prio, wf, hp⟩ := postOp_room i hr ht
    rw [hp] at hx
    refine ⟨_, hx, rfl, rfl, rfl, _, rfl, rfl, rfl, rfl, rfl, rfl, rfl, rfl, rfl, ?_⟩
    exact seqIs_modSeq h.wgroup h.seq ⟨rfl, rfl⟩
  · rw [postOp_full i hf] at hx
    exact ⟨_, hx, wordDone_pass (.refl s) h.wgroup h.seq rfl⟩

theorem posts_of_check {i : Instr} {x : SeqCheck} (hx : exec i s = .next (s.afterCheck c x (s.postOp c i none)).refresh) (hk : x = .ok) :
    Posts i s c := posts_of_postOp h (by rw [hx, hk]; rfl)

theorem seqStops_of_check {i : Instr} {x : SeqCheck} {go : State} {k : Cause} (hx : exec i s = .next (s.afterCheck c x go).refresh)
    (hk : x = .stop k) : SeqStops i s c true := seqStops_of_cause h (k := k) (by rw [hx, hk]; rfl)

/-! ## Engine words (R326, R328, R330, R331, R333, R342) -/

theorem exec_mDrain (r : Region) (e0 : BitVec 9) (nm : BitVec 4) (z : Bool) : exec (.mDrain r e0 nm z) s =
    .next (s.afterCheck c (s.checkEntries c r e0.toNat (nm.toNat + 1) [] true z false) (s.postOp c (.mDrain r e0 nm z) none)).refresh :=
  seqInstr_atWord h _

theorem exec_mZero (r : Region) (e0 nm : BitVec 9) : exec (.mZero r e0 nm) s =
    .next (s.afterCheck c (s.checkEntries c r e0.toNat (nm.toNat + 1) [] false true false) (s.postOp c (.mZero r e0 nm) none)).refresh :=
  seqInstr_atWord h _

/-- The scratchpad bytes of `m.save` and `m.restore` (R345). -/
def savedSpan (c : SeqCur) (r : Region) (o : BitVec 2) (code : BitVec 19) (nm : BitVec 9) : Nat × Nat :=
  (c.q.off o code, 4 * (nm.toNat + 1) * r.count)

theorem exec_mSave (r : Region) (o : BitVec 2) (code : BitVec 19) (e0 nm : BitVec 9) : exec (.mSave r o code e0 nm) s =
    .next (s.afterCheck c (s.checkEntries c r e0.toNat (nm.toNat + 1) [savedSpan c r o code nm] true false true)
      (s.postOp c (.mSave r o code e0 nm) none)).refresh := seqInstr_atWord h _

theorem exec_mRestore (r : Region) (o : BitVec 2) (code : BitVec 19) (e0 nm : BitVec 9) : exec (.mRestore r o code e0 nm) s =
    .next (s.afterCheck c (s.checkEntries c r e0.toNat (nm.toNat + 1) [savedSpan c r o code nm] false true false)
      (s.postOp c (.mRestore r o code e0 nm) none)).refresh := seqInstr_atWord h _

theorem exec_mWload (f : MFmt) (r : Region) (t ax : Bool) (o : BitVec 2) (code scale : BitVec 19) : exec (.mWload f r t ax o code scale) s =
    .next (s.afterCheck c (s.checkWload c f r t ax o code scale) (s.postOp c (.mWload f r t ax o code scale) none)).refresh :=
  seqInstr_atWord h _

theorem exec_mPass (f : MFmt) (r : Region) (t ax : Bool) (o : BitVec 2) (g : Bool) (code : BitVec 19) (e0 nm : BitVec 9) (z : Bool) :
    exec (.mPass f r t ax o g code e0 nm z) s =
    .next (s.afterCheck c (s.checkPass c f r t ax o g code e0.toNat (nm.toNat + 1) z)
      (if g then s.modSeq c.core c.wslot (fun q => { q with gathering := some s.cc })
       else s.postOp c (.mPass f r t ax o g code e0 nm z) none)).refresh := seqInstr_atWord h _

end

/-- Entries that a word may touch pass its checks, and so do bytes inside the allocation that no watch unit covers. -/
theorem checkEntries_ok {s : State} {c : SeqCur} {r : Region} {e0 nm : BitVec 9} {rd wr memWr : Bool} (he : EntriesOk s c r e0 nm rd wr)
    {spans : List (Nat × Nat)} (hin : ∀ p ∈ spans, p.1 + p.2 ≤ c.alloc)
    (hs : ∀ p ∈ spans, s.watchHits c.w.guest c.q.waived 0 (!memWr) memWr (0xFF00000000000000 + p.1) p.2 = 0) :
    s.checkEntries c r e0.toNat (nm.toNat + 1) spans rd wr memWr = .ok := by
  obtain ⟨hr, hle, ha⟩ := he
  rw [checkEntries_inside hr hle]
  refine rangeWatch_ok hin hs fun p hp => ?_
  obtain ⟨i, hi, rfl⟩ := List.mem_map.1 hp
  exact ha i (List.mem_range.1 hi)

section
variable {s : State} {c : SeqCur} (h : AtWord s c)
include h

/-- The words on accumulator entries: `m.drain`, `m.zero`, `m.save` and `m.restore`. -/
theorem entryWords (r : Region) (e0 nm : BitVec 9) (n4 : BitVec 4) (z : Bool) (o : BitVec 2) (code : BitVec 19) :
    let at_ := (code + c.q.o.getD o.toNat 0).toNat
    let size := 4 * (nm.toNat + 1) * r.count
    (EntriesOk s c r e0 (n4.setWidth 9) true z → Posts (.mDrain r e0 n4 z) s c) ∧
    (EntriesOk s c r e0 nm false true → Posts (.mZero r e0 nm) s c) ∧
    (at_ + size ≤ 1024 * c.w.sgran → EntriesOk s c r e0 nm true false →
      s.watchHits c.w.guest c.q.waived 0 false true (0xFF00000000000000 + at_) size = 0 → Posts (.mSave r o code e0 nm) s c) ∧
    (at_ + size ≤ 1024 * c.w.sgran → EntriesOk s c r e0 nm false true →
      s.watchHits c.w.guest c.q.waived 0 true false (0xFF00000000000000 + at_) size = 0 → Posts (.mRestore r o code e0 nm) s c) ∧
    (511 < e0.toNat + nm.toNat → ∀ i ∈ [Instr.mZero r e0 nm, .mSave r o code e0 nm, .mRestore r o code e0 nm], SeqStops i s c true) ∧
    (s.regionOk c r = true → e0.toNat + nm.toNat ≤ 511 → 1024 * c.w.sgran < at_ + size →
      ∀ i ∈ [Instr.mSave r o code e0 nm, .mRestore r o code e0 nm], SeqStops i s c true) := by
  intro at_ size
  have hn : n4.toNat = (n4.setWidth 9).toNat := by rw [BitVec.toNat_setWidth_of_le (by omega)]
  refine ⟨fun he => posts_of_check h (exec_mDrain h ..) ?_, fun he => posts_of_check h (exec_mZero h ..) ?_,
    fun hin he hw => posts_of_check h (exec_mSave h ..) ?_, fun hin he hw => posts_of_check h (exec_mRestore h ..) ?_,
    fun hb i hi => ?_, fun hr he hout i hi => ?_⟩
  · rw [hn]
    exact checkEntries_ok he (by simp) (by simp)
  · exact checkEntries_ok he (by simp) (by simp)
  · exact checkEntries_ok he (List.forall_mem_singleton.2 hin) (List.forall_mem_singleton.2 hw)
  · exact checkEntries_ok he (List.forall_mem_singleton.2 hin) (List.forall_mem_singleton.2 hw)
  · simp only [List.mem_cons, List.not_mem_nil, or_false] at hi
    rcases hi with rfl | rfl | rfl
    · exact seqStops_of_check h (exec_mZero h ..) (checkEntries_beyond hb)
    · exact seqStops_of_check h (exec_mSave h ..) (checkEntries_beyond hb)
    · exact seqStops_of_check h (exec_mRestore h ..) (checkEntries_beyond hb)
  · have hx {rd wr memWr : Bool} : s.checkEntries c r e0.toNat (nm.toNat + 1) [savedSpan c r o code nm] rd wr memWr =
        .stop cScratchBounds := (checkEntries_inside hr he).trans (rangeWatch_outside (List.mem_singleton_self _) hout)
    simp only [List.mem_cons, List.not_mem_nil, or_false] at hi
    rcases hi with rfl | rfl
    · exact seqStops_of_check h (exec_mSave h ..) hx
    · exact seqStops_of_check h (exec_mRestore h ..) hx

/-- A gathered pass whose checks pass begins to gather (R331). -/
theorem mPass_gathers {f : MFmt} {r : Region} {t ax : Bool} {o : BitVec 2} {code : BitVec 19} {e0 nm : BitVec 9} {z : Bool}
    (hk : s.checkPass c f r t ax o true code e0.toNat (nm.toNat + 1) z = .ok) :
    Leads (.mPass f r t ax o true code e0 nm z) s (fun t => t.mem = s.mem ∧ t.eops = s.eops ∧
      SeqIs t c.core c.wslot (fun q => q = { c.q with gathering := some s.cc })) := by
  have hx := exec_mPass h f r t ax o true code e0 nm z
  rw [hk] at hx
  exact ⟨_, hx, rfl, rfl, seqIs_modSeq h.wgroup h.seq rfl⟩

theorem engineWords : EngineWords s c := by
  refine ⟨entryWords h, fun f r t ax o code scale => ⟨posts_of_check h (exec_mWload h ..),
      fun hi => seqStops_of_check h (exec_mWload h ..) (checkWload_illegal hi), ?_⟩,
    fun f r t ax o g code e0 nm z => ⟨fun hk => ⟨?_, ?_⟩, fun hi => seqStops_of_check h (exec_mPass h ..) (checkPass_illegal hi)⟩⟩
  · rintro rfl ha
    obtain ⟨k, hk⟩ := checkWload_blockAxis (s := s) (c := c) (r := r) (o := o) (code := code) (scale := scale) ha
    exact seqStops_of_check h (exec_mWload h ..) hk
  · rintro rfl
    exact posts_of_check h (exec_mPass h ..) hk
  · rintro rfl
    exact mPass_gathers h hk

end

/-! ## O46 -/

/-- Settles O46: each word of a sequencer's stream does what its rule says. -/
theorem sequencerWords : Obligations.SequencerWords :=
  fun _ _ h => ⟨controlWords h, barrierWords h, engineWords h⟩

end Sys2Proof.Claims


/-! # Samples, the trace's clock, the debugger's commands and its window (O54) -/

namespace Sys2Proof.Machine

/-! ## What the upkeep keeps of a group -/

/-- The upkeep changes ready times and the group's place in E alone: its parts stand where they stood. -/
theorem touchGroup_frame (s : State) (key : Nat) (g : Group) : ∃ ps e st, s.touchGroup key g = { g with splits := ps, inE := e, starved := st } ∧
    ps.map (Option.map Claims.stands) = (List.range 4).map (fun n => (g.splits.getD n none).map Claims.stands) := by
  refine ⟨_, _, _, rfl, ?_⟩
  simp only [List.map_map]
  refine List.map_congr_left fun n _ => ?_
  dsimp only [Function.comp]
  rw [Option.map_map]
  congr 1
  funext p
  dsimp only [Function.comp]
  split
  · rfl
  · obtain ⟨h1, h2, h3, -⟩ := Claims.touchSplit_stands s (key / 64) (key % 64) g n p
    rw [Claims.stands, h1, h2, h3]
    rfl

end Sys2Proof.Machine

namespace Sys2Proof.Claims

open Sys2Proof.Machine

theorem sameState_refl (g : Group) : SameState g g := ⟨rfl, rfl, rfl, rfl, rfl, rfl, rfl, rfl, rfl, rfl, rfl, rfl, rfl, fun _ => rfl, rfl, rfl⟩

/-- Registers, stack and parts are what they were after the upkeep. -/
theorem sameState_touchGroup {g g' : Group} (h : SameState g g') (s : State) (key : Nat) : SameState g (s.touchGroup key g') := by
  obtain ⟨ps, e, st, ht, hps⟩ := touchGroup_frame s key g'
  obtain ⟨h1, h2, h3, h4, h5, h6, h7, h8, h9, h10, h11, h12, h13, hsp, h15, h16⟩ := h
  rw [ht]
  refine ⟨h1, h2, h3, h4, h5, h6, h7, h8, h9, h10, h11, h12, h13, fun hl => ?_, h15, h16⟩
  rw [← hsp hl]
  refine hps.trans ?_
  have hl' : g'.splits.length = 4 := by
    have := congrArg List.length (hsp hl)
    simpa [hl] using this
  refine List.ext_getElem (by simp [hl']) fun n h1 h2 => ?_
  simp at h2
  simp [h2]

end Sys2Proof.Claims

namespace Sys2Proof.Machine

/-! ## Groups after an event on them (R386, R402) -/

theorem group_setSync (s : State) (guest : Nat) (p : Nat → Bool) (core slot : Nat) : (s.setSync guest p).group core slot =
    (s.group core slot).map (fun g => if g.guest = guest && p (gkey core slot / 64) then { g with sync := true } else g) := by
  refine Eq.trans ?_ (mfind_map s.groups (fun key g => if g.guest = guest && p (key / 64) then { g with sync := true } else g) (gkey core slot))
  refine congrArg (fun m => mfind m (gkey core slot)) (List.map_congr_left fun x _ => ?_)
  dsimp only
  split <;> rfl

theorem group_onAll (s : State) (guest : Nat) (f : Group → Group) (core slot : Nat) : (s.onAll guest f).group core slot =
    (s.group core slot).map (fun g => if g.guest = guest then f g else g) :=
  mfind_map s.groups (fun _ g => if g.guest = guest then f g else g) (gkey core slot)

/-- DBGSEL of a context that names a group. -/
theorem dbgsel_fields {core slot : Nat} (hc : core < 1024) (hs : slot < 64) :
    nbits (BitVec.ofNat 32 (64 * core + slot)).toNat 15 6 = core ∧ nbits (BitVec.ofNat 32 (64 * core + slot)).toNat 5 0 = slot := by
  rw [BitVec.toNat_ofNat, Nat.mod_eq_of_lt (by omega)]
  simp only [nbits]
  omega

theorem selected_of_selected {s : State} {guest core slot : Nat} {g : Group} (h : Claims.Selected s guest core slot g) :
    s.selected guest = some (core, slot, g) := by
  obtain ⟨hc, hs, hd, hg, hq, he⟩ := h
  obtain ⟨h1, h2⟩ := dbgsel_fields hc hs
  simp only [State.selected, hd, h1, h2, hg, hq, he, and_self, if_true]

/-- Where DBGSEL names no group of the context, none is selected. -/
theorem selected_none {s : State} {guest : Nat} (hd : (s.ctx guest).dbgsel.toNat < 2 ^ 16)
    (h : ∀ core slot g, ¬Claims.Selected s guest core slot g) : s.selected guest = none := by
  unfold State.selected
  extract_lets t
  split
  · rename_i g hg
    refine if_neg fun hq => h _ _ g ⟨?_, ?_, ?_, hg, hq.1, hq.2⟩
    · simp only [nbits]; omega
    · simp only [nbits]; omega
    · refine BitVec.eq_of_toNat_eq ?_
      rw [BitVec.toNat_ofNat]
      simp only [nbits, t]
      omega
  · rfl

theorem onSelected_some {s : State} {guest core slot : Nat} {g : Group} (h : Claims.Selected s guest core slot g) (f : Group → Group) :
    s.onSelected guest f = s.modGroup core slot f := by simp only [State.onSelected, selected_of_selected h]

theorem onSelected_none {s : State} {guest : Nat} (h : s.selected guest = none) (f : Group → Group) : s.onSelected guest f = s := by
  simp only [State.onSelected, h]

/-! ## What the upkeep keeps for the debugger -/

@[simp] theorem touchGroup_dbg (s : State) (k : Nat) (g : Group) : (s.touchGroup k g).dbg = g.dbg := rfl
@[simp] theorem touchGroup_step (s : State) (k : Nat) (g : Group) : (s.touchGroup k g).step = g.step := rfl
@[simp] theorem touchGroup_stepAsk (s : State) (k : Nat) (g : Group) : (s.touchGroup k g).stepAsk = g.stepAsk := rfl
@[simp] theorem touchGroup_stopAsk (s : State) (k : Nat) (g : Group) : (s.touchGroup k g).stopAsk = g.stopAsk := rfl
@[simp] theorem touchGroup_sync (s : State) (k : Nat) (g : Group) : (s.touchGroup k g).sync = g.sync := rfl
@[simp] theorem touchGroup_run (s : State) (k : Nat) (g : Group) : (s.touchGroup k g).run = g.run := rfl

/-! ## Commands on a group (R401, R402) -/

theorem askStop_dbg (g : Group) : g.askStop.dbg = if g.dbg = .running then .requested else g.dbg := by
  unfold Group.askStop
  split
  · rename_i h; simp [h]
  · rename_i h; simp [h]
  · rename_i h; split <;> simp [h]

theorem askStop_stopAsk {g : Group} {c : Cause} (h : g.dbg = .stopped c) (hr : g.run.isSome = true) : g.askStop.stopAsk = true := by
  simp [Group.askStop, h, hr]

theorem sameState_askStop (g : Group) : Claims.SameState g g.askStop := by
  unfold Group.askStop
  split
  · exact Claims.sameState_refl g
  · exact Claims.sameState_refl g
  · split <;> exact Claims.sameState_refl g

theorem sameState_letGo (g : Group) : Claims.SameState g g.letGo := Claims.sameState_refl g

theorem askStep_between {g : Group} (h : g.run = none) (on : Bool) : g.askStep on = { g with step := on, stepAsk := none } := by
  simp [Group.askStep, h]

theorem askStep_inside {g : Group} (h : g.run.isSome = true) (on : Bool) : g.askStep on = { g with stepAsk := some on } := by
  obtain ⟨r, hr⟩ := Option.isSome_iff_exists.1 h
  simp [Group.askStep, hr]

end Sys2Proof.Machine

namespace Sys2Proof.Claims

open Sys2Proof.Machine

/-- A change made to the selected group, and the upkeep. -/
theorem leads_onSelected {i : Instr} {s : State} {guest core slot : Nat} {g : Group} {f : Group → Group} {p : Group → Prop}
    (h : Selected s guest core slot g) (hx : exec i s = .next (s.onSelected guest f).refresh) (hs : SameState g (f g))
    (hp : ∀ t k, p (State.touchGroup t k (f g))) :
    Leads i s (fun t => t.mem = s.mem ∧ GroupIs t core slot (fun g' => SameState g g' ∧ p g')) := by
  rw [onSelected_some h] at hx
  obtain ⟨-, -, -, hg, -⟩ := h
  refine ⟨_, hx, rfl, groupIs_refresh (g := f g) ?_ ⟨sameState_touchGroup hs .., hp ..⟩⟩
  rw [group_modGroup, if_pos rfl, hg]
  rfl

/-- With no group selected a command leaves every group as it was. -/
theorem leads_onNone {i : Instr} {s : State} {guest core slot : Nat} {g : Group} {f : Group → Group} {p : Group → Prop}
    (h : s.selected guest = none) (hx : exec i s = .next (s.onSelected guest f).refresh) (hg : s.group core slot = some g)
    (hp : ∀ t k, p (State.touchGroup t k g)) :
    Leads i s (fun t => t.mem = s.mem ∧ GroupIs t core slot (fun g' => SameState g g' ∧ p g')) := by
  rw [onSelected_none h] at hx
  exact ⟨_, hx, rfl, groupIs_refresh hg ⟨sameState_touchGroup (sameState_refl g) .., hp ..⟩⟩

theorem selectedCommands (s : State) : SelectedCommands s := by
  intro guest core slot g
  refine ⟨fun h => ⟨?stop, ?resume, fun hr => ⟨?_, ?_⟩, fun hr => ⟨?_, ?_⟩⟩, fun hd hn hg i hi => ?none⟩
  case stop =>
    exact leads_onSelected h rfl (sameState_askStop g) fun t k => ⟨askStop_dbg g, fun c hc hr => askStop_stopAsk hc hr⟩
  case resume => exact leads_onSelected h rfl (sameState_letGo g) fun t k => ⟨rfl, rfl⟩
  case none =>
    have hno := selected_none hd fun c n x => hn c n x
    simp only [List.mem_cons, List.not_mem_nil, or_false] at hi
    rcases hi with rfl | rfl | rfl | rfl <;> exact leads_onNone hno rfl hg fun t k => rfl
  all_goals
    refine leads_onSelected h rfl ?_ fun t k => ?_
  · rw [askStep_between hr]; exact sameState_refl g
  · rw [askStep_between hr]; rfl
  · rw [askStep_between hr]; exact sameState_refl g
  · rw [askStep_between hr]; rfl
  · rw [askStep_inside hr]; exact sameState_refl g
  · rw [askStep_inside hr]; exact ⟨rfl, rfl⟩
  · rw [askStep_inside hr]; exact sameState_refl g
  · rw [askStep_inside hr]; exact ⟨rfl, rfl⟩

theorem leads_onAll {i : Instr} {s : State} {guest core slot : Nat} {g : Group} {f : Group → Group} {p : Group → Prop}
    (hg : s.group core slot = some g) (hx : exec i s = .next (s.onAll guest f).refresh) (hs : SameState g (f g))
    (hp : ∀ t k, p (State.touchGroup t k (if g.guest = guest then f g else g))) :
    Leads i s (fun t => t.mem = s.mem ∧ GroupIs t core slot (fun g' => SameState g g' ∧ p g')) := by
  refine ⟨_, hx, rfl, groupIs_refresh (g := if g.guest = guest then f g else g) ?_ ⟨sameState_touchGroup ?_ .., hp ..⟩⟩
  · rw [group_onAll, hg]
    rfl
  · split
    exacts [hs, sameState_refl g]

theorem contextCommands (s : State) : ContextCommands s := by
  intro guest core slot g hg
  refine ⟨leads_onAll hg rfl (sameState_askStop g) fun t k => ?_, leads_onAll hg rfl (sameState_letGo g) fun t k => ?_⟩
  · by_cases hq : g.guest = guest
    · simpa [hq, askStop_dbg] using fun c hc hr => askStop_stopAsk hc hr
    · simp [hq]
  · by_cases hq : g.guest = guest <;> simp [hq, Group.letGo]

/-! ## The trace's clock (R386, R393, R396) -/

/-- An interval register is active in this cc where it has an exponent in force whose interval ends. -/
theorem ticks_iff {s : State} {ctl : Word} : Ticks s ctl ↔ ∃ k, activeExp ctl = some k ∧ s.tick k = true := by
  have he (k : Nat) : activeExp ctl = some k ↔ (ctl.getLsbD 31 = true ∧ 6 ≤ ctl.toNat % 32 ∧ ctl.toNat % 32 ≤ 20) ∧ ctl.toNat % 32 = k := by
    simp [activeExp, nbits, and_assoc]
  simp only [he, State.tick, decide_eq_true_eq]
  constructor
  · rintro ⟨h1, h2, h3, h4⟩
    exact ⟨_, ⟨⟨h1, h2, h3⟩, rfl⟩, h4⟩
  · rintro ⟨k, ⟨⟨h1, h2, h3⟩, rfl⟩, h4⟩
    exact ⟨h1, h2, h3, h4⟩

/-- The SYNC flag of every group of a context is set, and nothing else changes of a group. -/
theorem groupIs_setSync {s u : State} {guest core slot : Nat} {g : Group} {on : Bool} (hu : u.groups = s.groups) (hg : s.group core slot = some g) :
    GroupIs (if on then u.setSync guest (fun _ => true) else u).refresh core slot (fun g' => SameState g g' ∧
      g'.sync = (g.sync || (on && decide (g.guest = guest)))) := by
  have hg' : u.group core slot = some g := by rw [State.group, hu]; exact hg
  cases on with
  | false => exact groupIs_refresh hg' ⟨sameState_touchGroup (sameState_refl g) .., by simp⟩
  | true =>
    refine groupIs_refresh (g := if g.guest = guest then { g with sync := true } else g) ?_ ⟨sameState_touchGroup ?_ .., ?_⟩
    · rw [if_pos rfl, group_setSync, hg']
      simp
    · split <;> exact sameState_refl g
    · by_cases hq : g.guest = guest <;> simp [hq]

theorem exec_traceSyncTick_ticks {s : State} {guest : Nat} (h : Ticks s (s.ctx guest).trctl) :
    exec (.traceSyncTick guest) s = .next (s.setSync guest (fun _ => true)).refresh := by
  obtain ⟨k, hk, ht⟩ := ticks_iff.1 h
  show execTraceSyncTick guest s = _
  simp only [execTraceSyncTick, State.event, hk, ht, if_true]

theorem exec_traceSyncTick_idle {s : State} {guest : Nat} (h : ¬Ticks s (s.ctx guest).trctl) :
    exec (.traceSyncTick guest) s = .next s.refresh := by
  show execTraceSyncTick guest s = _
  cases hk : activeExp (s.ctx guest).trctl with
  | none => simp only [execTraceSyncTick, State.event, hk]
  | some k =>
    have ht : s.tick k = false := Bool.eq_false_iff.2 fun ht => h (ticks_iff.2 ⟨k, hk, ht⟩)
    simp only [execTraceSyncTick, State.event, hk, ht, Bool.false_eq_true, if_false]

/-- The state as a write of TRCTL leaves it before any SYNC flag is set: where the write turns the trace on, the context's rings
have no previous packet. -/
def traceSet (s : State) (guest : Nat) (v : Word) (on : Bool) : State :=
  { s.modCtx guest (fun x => { x with trctl := ctlBits v }) with
    lastTrace := s.lastTrace.filter (fun x => !(on && x.1 / 1024 == guest)) }

theorem exec_trctlWrite {s : State} {guest : Nat} {v : Word} {on : Bool} (h : on = (!(s.ctx guest).trctl.getLsbD 31 && v.getLsbD 31)) :
    exec (.trctlWrite guest v) s =
      .next (if on then (traceSet s guest v on).setSync guest (fun _ => true) else traceSet s guest v on).refresh := by
  show execTrctlWrite guest v s = _
  cases on with
  | false => simp only [execTrctlWrite, State.event, ← h, traceSet, Bool.false_and, Bool.not_false, List.filter_true]; rfl
  | true => simp only [execTrctlWrite, State.event, ← h, traceSet, Bool.true_and]; rfl

/-- A ring of a context no packet of which is noted has no previous packet. -/
theorem mfind_traceKey_none {α : Type} {m : AMap α} {guest core : Nat} (h : core < 1024) (hm : ∀ x ∈ m, x.1 / 1024 ≠ guest) :
    mfind m (traceKey guest core) = none := by
  rw [← Option.not_isSome_iff_eq_none]
  intro hs
  obtain ⟨v, hv⟩ := Option.isSome_iff_exists.1 hs
  exact hm _ (mem_of_mfind hv) (by simp only [traceKey]; omega)

theorem traceClock (s : State) : TraceClock s := by
  intro guest
  refine ⟨fun h => ⟨_, exec_traceSyncTick_ticks h, rfl, fun core slot g hg => ?_⟩,
    fun h => ⟨_, exec_traceSyncTick_idle h, rfl, fun core slot g hg => ?_⟩, fun v => ?_⟩
  · simpa using groupIs_setSync (guest := guest) (on := true) rfl hg
  · simpa using groupIs_setSync (guest := guest) (on := false) rfl hg
  · intro on
    have hon : on = (!(s.ctx guest).trctl.getLsbD 31 && v.getLsbD 31) := rfl
    clear_value on
    refine ⟨_, exec_trctlWrite hon, ?_, ?_, fun core slot g hg => groupIs_setSync rfl hg, fun ho core hc => mfind_traceKey_none hc ?_⟩
    · split <;> rfl
    · rw [apply_ite State.refresh]
      split <;> exact congrArg Ctx.trctl (ctx_setCtx_same ..)
    · intro x hx
      rw [if_pos ho] at hx
      have hm := (List.mem_filter.1 (List.mem_filter.1 hx).1).2
      simpa [ho] using hm

end Sys2Proof.Claims

namespace Sys2Proof.Machine

/-! ## Bytes at scattered addresses (R387) -/

theorem wrAt_cons (m : Memory) (a : Nat) (as : List Nat) (b : Byte) (bs : List Byte) :
    wrAt m (a :: as) (b :: bs) = wrAt (wrByte m a b) as bs := rfl

/-- A byte beside the addresses of a write. -/
theorem rdByte_wrAt_other {m : Memory} (h : Memory.wf m = true) {as : List Nat} {bs : List Byte} {c : Nat} (hc : c ∉ as) :
    rdByte (wrAt m as bs) c = rdByte m c := by
  induction as generalizing m bs with
  | nil => rfl
  | cons a as ih =>
    cases bs with
    | nil => rfl
    | cons b bs =>
      rw [List.mem_cons, not_or] at hc
      rw [wrAt_cons, ih (wf_wrByte h a b) hc.2, rdByte_wrByte h, if_neg hc.1]

theorem rdAt_wrAt_other {m : Memory} (h : Memory.wf m = true) {as cs : List Nat} {bs : List Byte} (hc : ∀ c ∈ cs, c ∉ as) :
    rdAt (wrAt m as bs) cs = rdAt m cs := List.map_congr_left fun c hm => rdByte_wrAt_other h (hc c hm)

/-- Bytes read where they have been written, at addresses all different. -/
theorem rdAt_wrAt {m : Memory} (h : Memory.wf m = true) {as : List Nat} {bs : List Byte} (hn : as.Nodup) (hl : as.length = bs.length) :
    rdAt (wrAt m as bs) as = bs := by
  induction as generalizing m bs with
  | nil => exact (List.eq_nil_of_length_eq_zero hl.symm).symm
  | cons a as ih =>
    cases bs with
    | nil => cases hl
    | cons b bs =>
      rw [List.nodup_cons] at hn
      have hw := wf_wrByte h a b
      rw [wrAt_cons, rdAt, List.map_cons, rdByte_wrAt_other hw hn.1, rdByte_wrByte h, if_pos rfl]
      exact congrArg (b :: ·) (ih hw hn.2 (Nat.succ.inj hl))

/-- A number of four bytes read where it has been written. -/
theorem leNat_rdAt_wrAt {m : Memory} (h : Memory.wf m = true) {as : List Nat} (hn : as.Nodup) (hl : as.length = 4) (v : Nat) :
    leNat (rdAt (wrAt m as (leBytes 4 v)) as) = v % 2 ^ 32 := by
  rw [rdAt_wrAt h hn (by simp [hl])]
  exact leNat_leBytes 4 v

/-! ## Rings (R387) -/

theorem length_desc {s : State} {guest va : Nat} {r : Ring} (h : s.ringAt guest va = some r) : r.desc.length = 32 := by
  unfold State.ringAt at h
  split at h
  · cases h
  · rename_i as ha
    dsimp only at h
    split at h
    · cases h
      simpa using Claims.length_of_mapM ha
    · cases h

theorem length_ringRoom {s : State} {guest n : Nat} {r : Ring} {as : List Nat} (h : s.ringRoom guest r n = some as) : as.length = n := by
  simpa using Claims.length_of_mapM h

/-- The addresses of a word of a ring's descriptor. -/
def Ring.word (r : Ring) (o : Nat) : List Nat := (r.desc.drop o).take 4

theorem length_word {r : Ring} {o : Nat} (h : r.desc.length = 32) (ho : o ≤ 28) : (r.word o).length = 4 := by
  simp only [Ring.word, List.length_take, List.length_drop, h]
  omega

theorem nodup_word {r : Ring} (h : r.desc.Nodup) (o : Nat) : (r.word o).Nodup := (h.drop).take

theorem mem_of_mem_word {r : Ring} {o a : Nat} (h : a ∈ r.word o) : a ∈ r.desc := List.mem_of_mem_drop (List.mem_of_mem_take h)

@[simp] theorem ringField_mem (s : State) (r : Ring) (o v : Nat) : (s.ringField r o v).mem = wrAt s.mem (r.word o) (leBytes 4 v) :=
  State.putAt_mem ..

theorem onlySends_putAt (s : State) (guest : Nat) (as : List Nat) (bs : List Byte) : OnlySends s (s.putAt guest as bs) :=
  OnlySends.trans (t := { s with mem := wrAt s.mem as bs }) ⟨_, _, _, _, rfl⟩
    (foldl_keeps (OnlySends _) _ (fun _ _ h => h.trans (onlySends_farStore ..)) _ (.refl _))

/-! ## The reason of a sample (R390) -/

/-- A group that executes bears no code of a hold. -/
theorem heldAt_executing {s : State} {g : Group} {r : Run} (hr : g.run = some r) (hh : r.holding = false)
    (ht : holdsTimed (opOf r.lastOp) = false ∨ r.ready ≤ s.cc + 1) : s.heldAt g = none := by
  have h : ¬(r.holding || (holdsTimed (opOf r.lastOp) && decide (s.cc + 1 < r.ready))) = true := by
    rcases ht with ht | ht
    · simp [hh, ht]
    · simp [hh, Nat.not_lt.2 ht]
  simp only [State.heldAt, hr, if_neg h]

theorem heldAt_between {s : State} {g : Group} (hr : g.run = none) : s.heldAt g = none := by simp only [State.heldAt, hr]

/-- REASON is 0 for a run that executes. -/
theorem reason_executing {s : State} {core slot : Nat} {g : Group} {n : Option Nat} {p : Part} (hr : g.run.isSome = true)
    (hh : s.heldAt g = none) (hd : ∀ c, g.dbg ≠ .stopped c) : s.reason core slot g n p = 0 := by
  simp [State.reason, State.groupReasons, hr, hh]

/-- REASON is 6 for a group that stands stopped between two runs. -/
theorem reason_stopped {s : State} {core slot : Nat} {g : Group} {n : Option Nat} {p : Part} {c : Cause} (hr : g.run = none)
    (hd : g.dbg = .stopped c) : s.reason core slot g n p = 6 := by
  simp [State.reason, State.groupReasons, hr, heldAt_between hr, hd]

/-- REASON is 9 for one that has yielded. -/
theorem reason_yielded {s : State} {core slot u : Nat} {g : Group} {n : Option Nat} {p : Part} (hr : g.run = none) (hd : g.dbg = .running)
    (he : g.inE = none) (hy : g.yieldAt = some u) : s.reason core slot g n p = 9 := by
  simp [State.reason, State.groupReasons, hr, heldAt_between hr, hd, he, hy]

/-- REASON is a code of five bits. -/
theorem reason_lt (s : State) (core slot : Nat) (g : Group) (n : Option Nat) (p : Part) : s.reason core slot g n p < 32 := by
  have hall : ∀ x ∈ s.groupReasons core slot g p ++ s.partReasons core slot g n p, x.1 < 32 := by
    simp [State.groupReasons, State.partReasons]
  unfold State.reason
  split
  · rename_i x hx
    exact hall x (List.mem_of_find?_eq_some hx)
  · omega

/-! ## The bytes of a sample (R389) -/

/-- What the 16 bytes of a sample say. -/
structure SampleSays (s : State) (core slot : Nat) (g : Group) (n : Option Nat) (p : Part) (b : List Byte) : Prop where
  place : leNat (b.take 8) = p.pc.toNat % 2 ^ 57 + slot * 2 ^ 57 + (if g.run.isSome then 2 ^ 63 else 0)
  unit : leNat ((b.drop 8).take 2) % 2 ^ 10 = core
  why : leNat ((b.drop 8).take 2) / 2 ^ 10 % 2 ^ 5 = s.reason core slot g n p
  mark : leNat ((b.drop 10).take 2) = g.pmark.toNat
  time : leNat ((b.drop 12).take 4) = s.dtime.toNat % 2 ^ 32

@[simp] theorem length_sampleBytes (s : State) (core slot : Nat) (g : Group) (n : Option Nat) (p : Part) :
    (s.sampleBytes core slot g n p).length = 16 := by simp [State.sampleBytes]

/-- The four fields of 16 bytes. -/
theorem fields_of_append (a b c d : Nat) :
    fieldLE (leBytes 8 a ++ leBytes 2 b ++ leBytes 2 c ++ leBytes 4 d) 0 8 = a % 256 ^ 8 ∧
    fieldLE (leBytes 8 a ++ leBytes 2 b ++ leBytes 2 c ++ leBytes 4 d) 8 2 = b % 256 ^ 2 ∧
    fieldLE (leBytes 8 a ++ leBytes 2 b ++ leBytes 2 c ++ leBytes 4 d) 10 2 = c % 256 ^ 2 ∧
    fieldLE (leBytes 8 a ++ leBytes 2 b ++ leBytes 2 c ++ leBytes 4 d) 12 4 = d % 256 ^ 4 := by
  have ha := fieldLE_append [] (leBytes 8 a) (leBytes 2 b ++ leBytes 2 c ++ leBytes 4 d)
  have hb := fieldLE_append (leBytes 8 a) (leBytes 2 b) (leBytes 2 c ++ leBytes 4 d)
  have hc := fieldLE_append (leBytes 8 a ++ leBytes 2 b) (leBytes 2 c) (leBytes 4 d)
  have hd := fieldLE_append (leBytes 8 a ++ leBytes 2 b ++ leBytes 2 c) (leBytes 4 d) []
  simp only [List.nil_append, List.append_nil, List.length_append, List.length_nil, length_leBytes, leNat_leBytes,
    ← List.append_assoc] at ha hb hc hd
  exact ⟨ha, hb, hc, hd⟩

theorem sampleSays_sampleBytes (s : State) {core slot : Nat} (g : Group) (n : Option Nat) (p : Part) (hc : core < 1024) (hs : slot < 48) :
    SampleSays s core slot g n p (s.sampleBytes core slot g n p) := by
  have hr := reason_lt s core slot g n p
  have hm : g.pmark.toNat < 2 ^ 16 := g.pmark.isLt
  unfold State.sampleBytes
  extract_lets crit
  obtain ⟨h1, h2, h3, h4⟩ := fields_of_append (p.pc.toNat % 2 ^ 57 + slot * 2 ^ 57 + (if g.run.isSome then 2 ^ 63 else 0))
    (core % 1024 + s.reason core slot g n p * 2 ^ 10 + (if crit then 2 ^ 15 else 0)) g.pmark.toNat (s.dtime.toNat % 2 ^ 32)
  refine ⟨h1.trans ?_, (congrArg (· % 2 ^ 10) h2).trans ?_, (congrArg (· / 2 ^ 10 % 2 ^ 5) h2).trans ?_, h3.trans ?_, h4.trans ?_⟩
  · refine Nat.mod_eq_of_lt ?_
    split <;> omega
  · split <;> omega
  · split <;> omega
  · exact Nat.mod_eq_of_lt (by omega)
  · exact Nat.mod_eq_of_lt (by omega)

/-! ## What is sampled (R387, R388) -/

/-- A fold in which one element alone has an effect. -/
theorem foldl_only {α β : Type} {f : α → β → α} {xs : List β} {x : β} {a : α} (hx : x ∈ xs) (hn : xs.Nodup)
    (h : ∀ y ∈ xs, y ≠ x → f a y = a ∧ f (f a x) y = f a x) : xs.foldl f a = f a x := by
  have idle {b : α} {ys : List β} (hy : ∀ y ∈ ys, f b y = b) : ys.foldl f b = b :=
    List.foldlRecOn (motive := fun c => c = b) ys f rfl fun c hc y hm => by rw [hc, hy y hm]
  obtain ⟨l, r, rfl⟩ := List.append_of_mem hx
  have hd := (List.nodup_append.1 hn).2.2
  have hr := (List.nodup_cons.1 (List.nodup_append.1 hn).2.1).1
  rw [List.foldl_append, List.foldl_cons, idle (b := a) fun y hy => (h y (by simp [hy]) (hd y hy x (by simp))).1]
  exact idle fun y hy => (h y (by simp [hy]) (fun e => hr (e ▸ hy))).2

/-- The only element of a list with a property is the one that a search finds. -/
theorem find?_only {α : Type} {xs : List α} {p : α → Bool} {x : α} (hx : x ∈ xs) (hp : p x = true) (h : ∀ y ∈ xs, p y = true → y = x) :
    xs.find? p = some x := by
  cases hf : xs.find? p with
  | none => exact absurd hp (List.find?_eq_none.1 hf x hx)
  | some y => rw [h y (List.mem_of_find?_eq_some hf) (List.find?_some hf)]

/-- A sample in a ring of which `o` is the room, or dropped. (The room is a variable: were it written out, the kernel would evaluate
the ring's free space to compare the two sides.) -/
theorem sampleIn_eq (s : State) (guest : Nat) (bs : List Byte) (r : Ring) (o : Option (List Nat)) :
    (match o with
      | some as => (s.putAt guest as bs).ringField r 12 ((r.wr + 16) % 2 ^ 32)
      | none => s.ringField r 20 (r.lost + 1)) =
    o.elim (s.ringField r 20 (r.lost + 1)) (fun as => (s.putAt guest as bs).ringField r 12 ((r.wr + 16) % 2 ^ 32)) := by
  cases o <;> rfl

theorem match_ring (o : Option Ring) (s : State) (f : Ring → State) : (match o with | none => s | some r => f r) = o.elim s f := by
  cases o <;> rfl

theorem sampleOut_eq_match (s : State) (guest core : Nat) (bs : List Byte) : s.sampleOut guest core bs =
    match s.ringAt guest ((s.ctx guest).dbgbase.toNat + 32 * core) with
    | none => s
    | some r => match (if 16 ≤ r.free then s.ringRoom guest r 16 else none) with
      | some as => (s.putAt guest as bs).ringField r 12 ((r.wr + 16) % 2 ^ 32)
      | none => s.ringField r 20 (r.lost + 1) := by
  with_unfolding_all rfl

theorem sampleOut_eq (s : State) (guest core : Nat) (bs : List Byte) : s.sampleOut guest core bs =
    (s.ringAt guest ((s.ctx guest).dbgbase.toNat + 32 * core)).elim s (fun r =>
      (if 16 ≤ r.free then s.ringRoom guest r 16 else none).elim (s.ringField r 20 (r.lost + 1)) (fun as =>
        (s.putAt guest as bs).ringField r 12 ((r.wr + 16) % 2 ^ 32))) := by
  rw [sampleOut_eq_match, match_ring]
  exact congrArg _ (funext fun r => sampleIn_eq s guest bs r _)

/-- A sample that finds room. -/
theorem sampleOut_room {s : State} {guest core : Nat} {r : Ring} {as : List Nat} {bs : List Byte}
    (hr : s.ringAt guest ((s.ctx guest).dbgbase.toNat + 32 * core) = some r) (hf : 16 ≤ r.free) (ha : s.ringRoom guest r 16 = some as) :
    s.sampleOut guest core bs = (s.putAt guest as bs).ringField r 12 ((r.wr + 16) % 2 ^ 32) := by
  rw [sampleOut_eq, hr, Option.elim_some, if_pos hf, ha, Option.elim_some]

/-- A sample that finds none. -/
theorem sampleOut_full {s : State} {guest core : Nat} {r : Ring} {bs : List Byte}
    (hr : s.ringAt guest ((s.ctx guest).dbgbase.toNat + 32 * core) = some r) (hf : r.free < 16) :
    s.sampleOut guest core bs = s.ringField r 20 (r.lost + 1) := by
  rw [sampleOut_eq, hr, Option.elim_some, if_neg (Nat.not_le.2 hf), Option.elim_none]

theorem onlySends_sampleOut (s : State) (guest core : Nat) (bs : List Byte) : OnlySends s (s.sampleOut guest core bs) := by
  rw [sampleOut_eq]
  cases s.ringAt guest ((s.ctx guest).dbgbase.toNat + 32 * core) with
  | none => exact .refl s
  | some r =>
    rw [Option.elim_some]
    cases (if 16 ≤ r.free then s.ringRoom guest r 16 else none) with
    | none => exact onlySends_putAt ..
    | some as => exact (onlySends_putAt ..).trans (onlySends_putAt ..)

/-- A group that may be sampled for a context (R388). -/
def Group.sampled (guest : Nat) (g : Group) : Bool := g.guest == guest && !g.ended && g.esc.isNone

/-- The slots of a scheduler in the order of R388. -/
def State.sampleOrder (s : State) (guest core sched : Nat) : List Nat :=
  (List.range 12).map (fun k => 12 * sched + ((match mfind s.lastSlot (sampleKey guest core sched) with
    | some n => n % 12 + 1
    | none => 0) + k) % 12)

theorem nextSampled_eq (s : State) (guest core sched : Nat) : s.nextSampled guest core sched =
    (s.sampleOrder guest core sched).find? (fun n => (s.group core n).any (Group.sampled guest)) := by
  unfold State.nextSampled State.sampleOrder
  refine congrArg (fun p => List.find? p _) (funext fun n => ?_)
  cases s.group core n <;> rfl

theorem mem_sampleOrder (s : State) (guest core sched n : Nat) : n ∈ s.sampleOrder guest core sched ↔ n / 12 = sched := by
  unfold State.sampleOrder
  generalize (match mfind s.lastSlot (sampleKey guest core sched) with | some n => n % 12 + 1 | none => 0) = first
  simp only [List.mem_map, List.mem_range]
  constructor
  · rintro ⟨k, hk, rfl⟩
    omega
  · rintro rfl
    exact ⟨(n + 12 - first % 12) % 12, by omega, by omega⟩

/-- The state of a sample: the scheduler remembers the slot. -/
def State.noteSlot (s : State) (guest core sched slot : Nat) : State :=
  { s with lastSlot := mset s.lastSlot (sampleKey guest core sched) slot }

theorem sample_none {s : State} {guest core sched : Nat} (h : s.nextSampled guest core sched = none) : s.sample guest core sched = s := by
  unfold State.sample
  rw [h]

theorem sample_some {s : State} {guest core sched slot : Nat} {g : Group} {n : Option Nat} {p : Part}
    (h : s.nextSampled guest core sched = some slot) (hg : s.group core slot = some g) (ho : g.observed = some (n, p)) :
    s.sample guest core sched =
      (s.noteSlot guest core sched slot).sampleOut guest core ((s.noteSlot guest core sched slot).sampleBytes core slot g n p) := by
  have hg' : (s.noteSlot guest core sched slot).group core slot = some g := hg
  simp only [State.noteSlot] at hg' ⊢
  simp only [State.sample, h, hg', ho]

theorem activeExp_off {ctl : Word} (h : ctl.getLsbD 31 = false) : activeExp ctl = none := by
  simp only [activeExp, h, Bool.false_and, Bool.false_eq_true, if_false]

end Sys2Proof.Machine

namespace Sys2Proof.Claims

open Sys2Proof.Machine

/-- Of a group that is alone, no scheduler but its own finds anything to sample, and its own finds it. -/
theorem nextSampled_alone {s : State} {core slot : Nat} {g : Group} (hg : s.group core slot = some g) (he : g.ended = false)
    (hesc : g.esc = none) (ha : Alone s core slot g) {sched : Nat} (hd : sched < 4) :
    s.nextSampled g.guest core sched = if sched = slot / 12 then some slot else none := by
  have honly (n : Nat) (hn : n / 12 = sched) (hp : (s.group core n).any (Group.sampled g.guest) = true) : n = slot := by
    cases hx : s.group core n with
    | none => simp [hx] at hp
    | some x =>
      simp only [hx, Option.any_some, Group.sampled, Bool.and_eq_true, beq_iff_eq, Bool.not_eq_true'] at hp
      obtain ⟨⟨hgu, hen⟩, -⟩ := hp
      exact ha n x (by omega) hx hgu hen
  rw [nextSampled_eq]
  split
  · rename_i h
    refine find?_only ((mem_sampleOrder ..).2 h.symm) ?_ fun n hn => honly n ((mem_sampleOrder ..).1 hn)
    simp [hg, Group.sampled, he, hesc]
  · rename_i h
    refine List.find?_eq_none.2 fun n hn hp => h ?_
    have hn := (mem_sampleOrder ..).1 hn
    rw [← honly n hn hp, hn]

section
variable {s : State} {core slot : Nat} {g : Group} {n : Option Nat} {p : Part}

/-- One scheduler of the core samples, and the others find nothing. -/
theorem foldl_sample (hs : slot < 48) (hg : s.group core slot = some g) (he : g.ended = false) (hesc : g.esc = none) (ha : Alone s core slot g)
    (ho : g.observed = some (n, p)) :
    (List.range 4).foldl (fun (s : State) m => s.sample g.guest core m) s = s.sample g.guest core (slot / 12) := by
  have hgr : (s.sample g.guest core (slot / 12)).group core = s.group core := by
    rw [sample_some ((nextSampled_alone hg he hesc ha (by omega)).trans (if_pos rfl)) hg ho]
    obtain ⟨m, d, f, w, hw⟩ := onlySends_sampleOut (s.noteSlot g.guest core (slot / 12) slot) g.guest core
      ((s.noteSlot g.guest core (slot / 12) slot).sampleBytes core slot g n p)
    rw [hw]
    rfl
  have ha' : Alone (s.sample g.guest core (slot / 12)) core slot g := by
    unfold Alone
    rw [hgr]
    exact ha
  exact foldl_only (f := fun (s : State) m => s.sample g.guest core m) (List.mem_range.2 (by omega)) List.nodup_range fun y hy hne =>
    ⟨sample_none ((nextSampled_alone hg he hesc ha (List.mem_range.1 hy)).trans (if_neg hne)),
     sample_none ((nextSampled_alone (hgr ▸ hg) he hesc ha' (List.mem_range.1 hy)).trans (if_neg hne))⟩

theorem exec_sampleTick (hs : slot < 48) (hg : s.group core slot = some g) (he : g.ended = false) (hesc : g.esc = none) (ha : Alone s core slot g)
    (hd : (s.ctxs.map (·.1)).Nodup) (ht : Ticks s (s.ctx g.guest).smpctl) (hoff : ∀ y ∈ s.ctxs, y.1 ≠ g.guest → y.2.smpctl.getLsbD 31 = false)
    (ho : g.observed = some (n, p)) : exec (.sampleTick core) s =
      .next ((s.noteSlot g.guest core (slot / 12) slot).sampleOut g.guest core
        ((s.noteSlot g.guest core (slot / 12) slot).sampleBytes core slot g n p)).refresh := by
  rw [← sample_some ((nextSampled_alone hg he hesc ha (by omega)).trans (if_pos rfl)) hg ho, ← foldl_sample hs hg he hesc ha ho]
  obtain ⟨k, hk, htk⟩ := ticks_iff.1 ht
  cases hc : mfind s.ctxs g.guest with
  | none =>
    rw [State.ctx, mget, hc] at hk
    cases hk
  | some c =>
    have hcc : s.ctx g.guest = c := by rw [State.ctx, mget, hc]; rfl
    rw [hcc] at hk
    have hm := mem_of_mfind hc
    refine congrArg (fun t : State => Host.Outcome.next t.refresh) ((foldl_only hm (List.Nodup.of_map _ hd) fun y hy hne => ?_).trans ?_)
    · have hne' : y.1 ≠ g.guest := fun h => hne (List.inj_on_of_nodup_map hd hy hm h)
      simp only [activeExp_off (hoff y hy hne')]
      exact ⟨trivial, trivial⟩
    · simp only [hk, htk, if_true]

/-- What a sample writes into a ring that has room, and that WR advances behind it. -/
theorem sampled_room (hc : core < 1024) (hs : slot < 48) (hw : Memory.wf s.mem = true) {r : Ring}
    (hr : s.ringAt g.guest ((s.ctx g.guest).dbgbase.toNat + 32 * core) = some r) (hn : r.desc.Nodup) {as : List Nat} (hf : 16 ≤ r.free)
    (hroom : s.ringRoom g.guest r 16 = some as) (has : as.Nodup) (hdis : ∀ a ∈ as, a ∉ r.desc) :
    SampleSays s core slot g n p (rdAt (s.sampleOut g.guest core (s.sampleBytes core slot g n p)).mem as) ∧
    leNat (rdAt (s.sampleOut g.guest core (s.sampleBytes core slot g n p)).mem (r.word 12)) = (r.wr + 16) % 2 ^ 32 := by
  have hla : as.length = (s.sampleBytes core slot g n p).length := by rw [length_ringRoom hroom, length_sampleBytes]
  have hw' := wf_wrAt hw as (s.sampleBytes core slot g n p)
  rw [sampleOut_room hr hf hroom, ringField_mem, State.putAt_mem]
  constructor
  · rw [rdAt_wrAt_other hw' fun a ha hm => hdis a ha (mem_of_mem_word hm), rdAt_wrAt hw has hla]
    exact sampleSays_sampleBytes s g n p hc hs
  · rw [leNat_rdAt_wrAt hw' (nodup_word hn 12) (length_word (length_desc hr) (by omega)), Nat.mod_mod]

/-- A sample that finds no room adds one to LOST and writes nothing else. -/
theorem sampled_full (hw : Memory.wf s.mem = true) {r : Ring} {bs : List Byte}
    (hr : s.ringAt g.guest ((s.ctx g.guest).dbgbase.toNat + 32 * core) = some r) (hn : r.desc.Nodup) (hf : r.free < 16) :
    leNat (rdAt (s.sampleOut g.guest core bs).mem (r.word 20)) = (r.lost + 1) % 2 ^ 32 ∧
    ∀ a, a ∉ r.word 20 → rdByte (s.sampleOut g.guest core bs).mem a = rdByte s.mem a := by
  rw [sampleOut_full hr hf, ringField_mem]
  exact ⟨leNat_rdAt_wrAt hw (nodup_word hn 20) (length_word (length_desc hr) (by omega)) _, fun a ha => rdByte_wrAt_other hw ha⟩

end

theorem samples (s : State) : Samples s := by
  intro core slot g n p r hc hs hg he hesc ha hd ht hoff ho hw hr hn
  have hx := exec_sampleTick hs hg he hesc ha hd ht hoff ho
  refine ⟨fun as hf hroom has hdis => ⟨_, hx, ?_⟩, fun hf => ⟨_, hx, ?_⟩⟩
  · obtain ⟨⟨h1, h2, h3, h4, h5⟩, hwr⟩ :=
      sampled_room (s := s.noteSlot g.guest core (slot / 12) slot) (n := n) (p := p) hc hs hw hr hn hf hroom has hdis
    refine ⟨h1, h2, h4, h5, ⟨fun x hrun hh htm hdb => h3.trans ?_, fun c hrun hdb => h3.trans ?_, fun u hrun hdb hin hy => h3.trans ?_⟩, hwr⟩
    · exact reason_executing (by rw [hrun]; rfl) (heldAt_executing hrun hh htm) hdb
    · exact reason_stopped hrun hdb
    · exact reason_yielded hrun hdb hin hy
  · exact sampled_full (s := s.noteSlot g.guest core (slot / 12) slot) hw hr hn hf

end Sys2Proof.Claims

namespace Sys2Proof.Machine

/-! ## Lanes of a word written by the debugger -/

theorem laneOn_bit (l k : Nat) (hk : k < 32) : laneOn (BitVec.ofNat 32 (2 ^ l)) k = decide (k = l) := by
  rw [laneOn, BitVec.getLsbD_ofNat, Nat.testBit_two_pow, decide_eq_true hk, Bool.true_and]
  exact decide_eq_decide.2 eq_comm

theorem laneAt_putLane (l : Nat) (v : Word) (old : Lanes) {k : Nat} (hk : k < 32) :
    laneAt (putLane l v old) k = if k = l then v else laneAt old k := by
  simp only [putLane, laneAt_mergeLanes _ _ _ hk, laneOn_bit l k hk, laneAt_mkLanes _ hk, decide_eq_true_eq]

/-- A lane of a value over which a write of some lanes lies. -/
def overlay (o : Option (Mask × Lanes)) (base : Lanes) (l : Nat) : Word :=
  match o with
  | some (m, v) => if laneOn m l then laneAt v l else laneAt base l
  | none => laneAt base l

/-- A lane added to the write that lies over a value. -/
theorem overlay_putLane (o : Option (Mask × Lanes)) (d base : Lanes) (l : Nat) (v : Word) {k : Nat} (hk : k < 32) :
    overlay (some ((o.getD (0, d)).1 ||| BitVec.ofNat 32 (2 ^ l), putLane l v (o.getD (0, d)).2)) base k =
      if k = l then v else overlay o base k := by
  have hor (m : Mask) : laneOn (m ||| BitVec.ofNat 32 (2 ^ l)) k = (laneOn m k || decide (k = l)) := by
    rw [← laneOn_bit l k hk]
    exact BitVec.getLsbD_or
  have hz : laneOn 0#32 k = false := BitVec.getLsbD_zero
  simp only [overlay, hor, laneAt_putLane l v _ hk]
  by_cases h : k = l
  · simp [h]
  · cases o <;> simp [h, hz]

/-! ## The places of the window (R403) -/

/-- A lane of a run's temporary, a lane of a window register, a uniform register, a predicate, a lane of a frame register. -/
inductive WindowPlace where
  | tmp (n l : Nat)
  | win (n l : Nat)
  | uni (n : Nat)
  | prd (n : Nat)
  | frame (n l : Nat)

/-- The place that an offset of the window shows, beside its first words. -/
def windowPlace (fgran off : Nat) : Option WindowPlace :=
  if 0x400 ≤ off ∧ off < 0x600 then some (.tmp ((off - 0x400) / 128) (off % 128 / 4))
  else if 0x800 ≤ off ∧ off < 0xC00 then some (.win ((off - 0x800) / 128) (off % 128 / 4))
  else if 0x1000 ≤ off ∧ off < 0x1100 then some (.uni ((off - 0x1000) / 4))
  else if 0x1100 ≤ off ∧ off < 0x1140 then some (.prd ((off - 0x1100) / 4))
  else if 0x2000 ≤ off ∧ (off - 0x2000) / 128 < 8 * fgran then some (.frame ((off - 0x2000) / 128) (off % 128 / 4))
  else none

/-- The offset of a place. -/
def WindowPlace.offset : WindowPlace → Nat
  | .tmp n l => 0x400 + 128 * n + 4 * l
  | .win n l => 0x800 + 128 * n + 4 * l
  | .uni n => 0x1000 + 4 * n
  | .prd n => 0x1100 + 4 * n
  | .frame n l => 0x2000 + 128 * n + 4 * l

/-- The lane of a place is one of the 32. -/
def WindowPlace.LaneOk : WindowPlace → Prop
  | .tmp _ l => l < 32
  | .win _ l => l < 32
  | .frame _ l => l < 32
  | _ => True

theorem windowPlace_spec {fgran off : Nat} {p : WindowPlace} (h : windowPlace fgran off = some p) (h4 : off % 4 = 0) :
    p.offset = off ∧ p.LaneOk := by
  unfold windowPlace at h
  split_ifs at h <;> cases h <;> simp only [WindowPlace.offset, WindowPlace.LaneOk, and_true] <;> omega

/-- Different offsets show different places. -/
theorem windowPlace_ne {fgran off o : Nat} {p q : WindowPlace} (hp : windowPlace fgran off = some p) (hq : windowPlace fgran o = some q)
    (h4 : off % 4 = 0) (h4' : o % 4 = 0) (h : o ≠ off) : q ≠ p := by
  rintro rfl
  exact h ((windowPlace_spec hq h4').1.symm.trans (windowPlace_spec hp h4).1)

/-- The first words of the window show no place. -/
theorem windowPlace_head {fgran off : Nat} {p : WindowPlace} (h : windowPlace fgran off = some p) : 0x400 ≤ off := by
  unfold windowPlace at h
  split_ifs at h <;> omega

/-! ## What a place shows, and a write to it -/

/-- The word of a place as the debugger reads it. -/
def Group.see (g : Group) : WindowPlace → Word
  | .tmp n l => match g.run with | some r => laneAt (mget r.tmp n []) l | none => 0
  | .win n l => g.seeWin n l
  | .uni n => g.seeUni n
  | .prd n => g.seePrd n
  | .frame n l => g.seeFrame n l

/-- A word of the window of a group stopped for `cause`. -/
def Group.windowWord (g : Group) (cause : Cause) (off : Nat) : Word :=
  if off < 0x400 then g.windowHead cause off else (windowPlace g.fgran off).elim 0 g.see

theorem windowRead_eq {s : State} {guest core slot : Nat} {g : Group} {c : Cause} (h : Claims.Selected s guest core slot g)
    (hd : g.dbg = .stopped c) (off : Nat) : s.windowRead guest off = g.windowWord c off := by
  simp only [State.windowRead, selected_of_selected h, hd, Group.windowWord]
  by_cases h4 : off < 0x400
  · rw [if_pos h4, if_pos h4]
  · rw [if_neg h4, if_neg h4]
    simp only [windowPlace, apply_ite (Option.elim · (0 : Word) g.see), Option.elim_some, Option.elim_none, Nat.not_lt.1 h4, true_and]
    rfl

/-- A write to a place between two runs. -/
def Group.put (g : Group) (v : Word) : WindowPlace → Group
  | .tmp _ _ => g
  | .win n l => { g with win := mset g.win n (putLane l v (mget g.win n [])) }
  | .uni n => { g with uni := mset g.uni n v }
  | .prd n => { g with prd := mset g.prd n v }
  | .frame n l => { g with frame := mset g.frame n (putLane l v (mget g.frame n [])) }

theorem poke_eq (g : Group) (off : Nat) (v : Word) : g.poke off v = (windowPlace g.fgran off).elim g (g.put v) := by
  simp only [Group.poke, windowPlace, apply_ite (Option.elim · g (g.put v)), Option.elim_some, Option.elim_none, Group.put]
  by_cases h : 0x400 ≤ off ∧ off < 0x600
  · rw [if_pos h, if_neg (by omega), if_neg (by omega), if_neg (by omega), if_neg (by omega)]
  · rw [if_neg h]

/-- The run in which a write has changed a window register. -/
def Run.putWin (r : Run) (n l : Nat) (v : Word) : Run :=
  match (if laneOn r.mask l then r.winPlace n else none) with
  | some k => { r with stk := r.stk.modify k (fun e => { e with v := putLane l v e.v }) }
  | none => { r with wpoke := r.pokeWin n l v }

/-- The run in which a write has changed a place. -/
def Run.put (r : Run) (g : Group) (v : Word) : WindowPlace → Run
  | .tmp n l => { r with tmp := mset r.tmp n (putLane l v (mget r.tmp n [])) }
  | .win n l => r.putWin n l v
  | .uni n => { r with uni := mset r.uni n v }
  | .prd n => { r with prd := mset r.prd n (0xFFFFFFFF, v) }
  | .frame n l => r.pokeFrame g n l v

/-- A write to a place while the group stands inside a run. -/
def Group.putRun (g : Group) (r : Run) (v : Word) (p : WindowPlace) : Group := { g with run := some (r.put g v p) }

theorem pokeRun_eq (g : Group) (r : Run) (off : Nat) (v : Word) :
    g.pokeRun r off v = (windowPlace g.fgran off).elim g (g.putRun r v) := by
  simp only [Group.pokeRun, windowPlace, apply_ite (Option.elim · g (g.putRun r v)), Option.elim_some, Option.elim_none, Group.putRun, Run.put]
  by_cases h : 0x800 ≤ off ∧ off < 0xC00
  · have h6 : ¬(0x400 ≤ off ∧ off < 0x600) := by omega
    rw [if_neg h6, if_neg h6, if_pos h, if_pos h]
    unfold Run.putWin
    cases (if laneOn r.mask (off % 128 / 4) then r.winPlace ((off - 0x800) / 128) else none) <;> rfl
  · simp only [if_neg h]

end Sys2Proof.Machine

namespace Sys2Proof.Machine

/-! ## A map of lanes after a write to one of them -/

theorem laneAt_mget_putLane (m : AMap Lanes) (n l : Nat) (v : Word) (j : Nat) {k : Nat} (hk : k < 32) :
    laneAt (mget (mset m n (putLane l v (mget m n []))) j []) k = if j = n ∧ k = l then v else laneAt (mget m j []) k := by
  by_cases hj : j = n
  · subst hj
    rw [mget_mset_same, laneAt_putLane l v _ hk]
    simp only [true_and]
  · rw [mget_mset_other _ _ _ hj, if_neg fun h => hj h.1]

/-- The writes `m` with lane `l` of register `n` added. -/
def addLane (m : AMap (Mask × Lanes)) (n l : Nat) (v : Word) (d : Lanes) : AMap (Mask × Lanes) :=
  mset m n (((mfind m n).getD (0, d)).1 ||| BitVec.ofNat 32 (2 ^ l), putLane l v ((mfind m n).getD (0, d)).2)

theorem overlay_addLane (m : AMap (Mask × Lanes)) (n l : Nat) (v : Word) (d base : Lanes) (j : Nat) {k : Nat} (hk : k < 32) :
    overlay (mfind (addLane m n l v d) j) base k = if j = n ∧ k = l then v else overlay (mfind m j) base k := by
  by_cases hj : j = n
  · subst hj
    rw [addLane, mfind_mset_same, overlay_putLane _ _ _ _ _ hk]
    simp only [true_and]
  · rw [addLane, mfind_mset_other _ _ hj, if_neg fun h => hj h.1]

theorem pokeFrame_eq (r : Run) (g : Group) (n l : Nat) (v : Word) :
    r.pokeFrame g n l v = { r with frm := addLane r.frm n l v (mget g.frame n []) } := by
  unfold Run.pokeFrame addLane
  cases mfind r.frm n <;> rfl

/-! ## What the debugger sees between two runs -/

section
variable {g : Group} (hr : g.run = none)
include hr

theorem seeWin_between (n l : Nat) : g.seeWin n l = laneAt (mget g.win n []) l := by simp only [Group.seeWin, hr, Option.bind_none]
theorem seeFrame_between (n l : Nat) : g.seeFrame n l = laneAt (mget g.frame n []) l := by simp only [Group.seeFrame, hr, Option.bind_none]
theorem seeUni_between (n : Nat) : g.seeUni n = mget g.uni n 0 := by simp only [Group.seeUni, hr, Option.bind_none, Option.getD_none]
theorem seePrd_between (n : Nat) : g.seePrd n = mget g.prd n 0 := by simp only [Group.seePrd, hr, Option.bind_none]

theorem seeWin_put (n l : Nat) (v : Word) (m : Nat) {k : Nat} (hk : k < 32) :
    (g.put v (.win n l)).seeWin m k = if m = n ∧ k = l then v else g.seeWin m k := by
  have h : (g.put v (.win n l)).run = none := hr
  rw [seeWin_between h, seeWin_between hr]
  exact laneAt_mget_putLane _ _ _ _ _ hk

theorem seeFrame_put (n l : Nat) (v : Word) (m : Nat) {k : Nat} (hk : k < 32) :
    (g.put v (.frame n l)).seeFrame m k = if m = n ∧ k = l then v else g.seeFrame m k := by
  have h : (g.put v (.frame n l)).run = none := hr
  rw [seeFrame_between h, seeFrame_between hr]
  exact laneAt_mget_putLane _ _ _ _ _ hk

theorem seeUni_put (n : Nat) (v : Word) (m : Nat) : (g.put v (.uni n)).seeUni m = if m = n then v else g.seeUni m := by
  have h : (g.put v (.uni n)).run = none := hr
  rw [seeUni_between h, seeUni_between hr, Group.put, mget, mfind_mset]
  split <;> rfl

theorem seePrd_put (n : Nat) (v : Word) (m : Nat) : (g.put v (.prd n)).seePrd m = if m = n then v else g.seePrd m := by
  have h : (g.put v (.prd n)).run = none := hr
  rw [seePrd_between h, seePrd_between hr, Group.put, mget, mfind_mset]
  split <;> rfl

end

/-! ## What the debugger sees inside a run -/

/-- The entry of a run's working stack that lane `l` of window word `n` shows. -/
def Run.winEntry (r : Run) (n l : Nat) : Option Entry :=
  if laneOn r.mask l then (r.winPlace n).bind (fun k => r.stk[k]?) else none

theorem winPlace_spec {r : Run} {n k : Nat} (h : r.winPlace n = some k) : k < r.stk.length ∧ (r.workDepth - 1 - k) % 8 = n := by
  have hm := List.mem_of_find?_eq_some h
  have hp := List.find?_some h
  exact ⟨List.mem_range.1 hm, beq_iff_eq.1 hp⟩

theorem putWin_place {r : Run} {n l k : Nat} (v : Word) (hl : laneOn r.mask l = true) (h : r.winPlace n = some k) :
    r.putWin n l v = { r with stk := r.stk.modify k (fun e => { e with v := putLane l v e.v }) } := by
  simp only [Run.putWin, hl, if_true, h]

theorem putWin_beside {r : Run} {n l : Nat} (v : Word) (h : ¬(laneOn r.mask l = true ∧ ∃ k, r.winPlace n = some k)) :
    r.putWin n l v = { r with wpoke := addLane r.wpoke n l v [] } := by
  have ho : (if laneOn r.mask l then r.winPlace n else none) = none := by
    refine ite_eq_right_iff.2 fun hl => ?_
    cases hw : r.winPlace n with
    | none => rfl
    | some k => exact absurd ⟨hl, k, hw⟩ h
  simp only [Run.putWin, ho]
  rfl

section
variable {g : Group} {r : Run} (hr : g.run = some r)
include hr

theorem seeWin_inside (n l : Nat) : g.seeWin n l =
    ((r.winEntry n l).map (fun e => laneAt e.v l)).getD (overlay (mfind r.wpoke n) (mget g.win n []) l) := by
  simp only [Group.seeWin, hr, Option.bind_some, Run.winEntry]
  cases (if laneOn r.mask l then (r.winPlace n).bind (fun k => r.stk[k]?) else none) <;> rfl
theorem seeFrame_inside (n l : Nat) : g.seeFrame n l = overlay (mfind r.frm n) (mget g.frame n []) l := by
  simp only [Group.seeFrame, hr, Option.bind_some]
  rfl
theorem seeUni_inside (n : Nat) : g.seeUni n = (mfind r.uni n).getD (mget g.uni n 0) := by simp only [Group.seeUni, hr, Option.bind_some]

end

end Sys2Proof.Machine

namespace Sys2Proof.Machine

/-- The window words that a run shows after an entry has changed: those of one window word alone. -/
theorem winEntry_modify {r : Run} {n k : Nat} (h : r.winPlace n = some k) (f : Entry → Entry) (m j : Nat) :
    Run.winEntry { r with stk := r.stk.modify k f } m j = (r.winEntry m j).map (fun e => if m = n then f e else e) := by
  have hd : Run.workDepth { r with stk := r.stk.modify k f } = r.workDepth := by simp [Run.workDepth]
  have hp : Run.winPlace { r with stk := r.stk.modify k f } m = r.winPlace m := by simp only [Run.winPlace, hd, List.length_modify]
  by_cases hl : laneOn r.mask j
  · simp only [Run.winEntry, hp, hl, if_true]
    cases hm : r.winPlace m with
    | none => rfl
    | some i =>
      have hi : k = i ↔ m = n := by
        constructor
        · rintro rfl
          rw [← (winPlace_spec hm).2, (winPlace_spec h).2]
        · rintro rfl
          exact Option.some.inj (h.symm.trans hm)
      simp only [Option.bind_some, List.getElem?_modify, hi]
      rfl
  · simp only [Run.winEntry, hl]
    rfl

section
variable {g : Group} {r : Run} (hr : g.run = some r)
include hr

theorem seeWin_putRun (n l : Nat) (v : Word) (m : Nat) {j : Nat} (hj : j < 32) :
    (g.putRun r v (.win n l)).seeWin m j = if m = n ∧ j = l then v else g.seeWin m j := by
  have hr' : (g.putRun r v (.win n l)).run = some (r.putWin n l v) := rfl
  have hw : (g.putRun r v (.win n l)).win = g.win := rfl
  rw [seeWin_inside hr', seeWin_inside hr, hw]
  by_cases h : laneOn r.mask l = true ∧ ∃ k, r.winPlace n = some k
  · obtain ⟨hl, k, hk⟩ := h
    rw [putWin_place v hl hk, winEntry_modify hk, Option.map_map]
    cases he : r.winEntry m j with
    | none =>
      refine (if_neg ?_).symm
      rintro ⟨rfl, rfl⟩
      simp [Run.winEntry, hl, hk, (winPlace_spec hk).1] at he
    | some e =>
      simp only [Option.map_some, Option.getD_some, Function.comp]
      by_cases hm : m = n
      · simp [hm, laneAt_putLane l v e.v hj]
      · simp [hm]
  · rw [putWin_beside v h]
    have hwe : Run.winEntry { r with wpoke := addLane r.wpoke n l v [] } m j = r.winEntry m j := rfl
    rw [hwe, overlay_addLane _ _ _ _ _ _ _ hj]
    cases he : r.winEntry m j with
    | none => rfl
    | some e =>
      refine (if_neg ?_).symm
      rintro ⟨rfl, rfl⟩
      refine h ?_
      unfold Run.winEntry at he
      split at he
      · rename_i hl
        obtain ⟨k, hk, -⟩ := Option.bind_eq_some_iff.1 he
        exact ⟨hl, k, hk⟩
      · cases he

theorem seeFrame_putRun (n l : Nat) (v : Word) (m : Nat) {k : Nat} (hk : k < 32) :
    (g.putRun r v (.frame n l)).seeFrame m k = if m = n ∧ k = l then v else g.seeFrame m k := by
  have h : (g.putRun r v (.frame n l)).run = some (r.pokeFrame g n l v) := rfl
  rw [seeFrame_inside h, seeFrame_inside hr, pokeFrame_eq]
  exact overlay_addLane _ _ _ _ _ _ _ hk

theorem seeUni_putRun (n : Nat) (v : Word) (m : Nat) : (g.putRun r v (.uni n)).seeUni m = if m = n then v else g.seeUni m := by
  have h : (g.putRun r v (.uni n)).run = some { r with uni := mset r.uni n v } := rfl
  rw [seeUni_inside h, seeUni_inside hr, mfind_mset]
  split <;> rfl

theorem seePrd_putRun (n : Nat) (v : Word) (m : Nat) : (g.putRun r v (.prd n)).seePrd m = if m = n then v else g.seePrd m := by
  have hp : (g.putRun r v (.prd n)).prd = g.prd := rfl
  have h : (g.putRun r v (.prd n)).run = some { r with prd := mset r.prd n (0xFFFFFFFF, v) } := rfl
  simp only [Group.seePrd, h, hr, hp, Option.bind_some, mfind_mset]
  by_cases hm : m = n
  · simp only [hm, if_true]
    show (v &&& BitVec.allOnes 32) ||| (mget g.prd n 0 &&& ~~~BitVec.allOnes 32) = v
    rw [BitVec.and_allOnes, BitVec.not_allOnes, BitVec.and_zero, BitVec.or_zero]
  · simp only [hm, if_false]

end

/-! ## A written place reads back, and every other reads as before -/

theorem see_put_same {g : Group} {p : WindowPlace} (hr : g.run = none) (ht : ∀ n l, p ≠ .tmp n l) (hl : p.LaneOk) (v : Word) :
    (g.put v p).see p = v := by
  cases p with
  | tmp n l => exact absurd rfl (ht n l)
  | win n l => exact (seeWin_put hr n l v n hl).trans (if_pos ⟨rfl, rfl⟩)
  | uni n => exact (seeUni_put hr n v n).trans (if_pos rfl)
  | prd n => exact (seePrd_put hr n v n).trans (if_pos rfl)
  | frame n l => exact (seeFrame_put hr n l v n hl).trans (if_pos ⟨rfl, rfl⟩)

theorem see_putRun_same {g : Group} {r : Run} {p : WindowPlace} (hr : g.run = some r) (hl : p.LaneOk) (v : Word) :
    (g.putRun r v p).see p = v := by
  cases p with
  | tmp n l => exact (laneAt_mget_putLane r.tmp n l v n hl).trans (if_pos ⟨rfl, rfl⟩)
  | win n l => exact (seeWin_putRun hr n l v n hl).trans (if_pos ⟨rfl, rfl⟩)
  | uni n => exact (seeUni_putRun hr n v n).trans (if_pos rfl)
  | prd n => exact (seePrd_putRun hr n v n).trans (if_pos rfl)
  | frame n l => exact (seeFrame_putRun hr n l v n hl).trans (if_pos ⟨rfl, rfl⟩)

theorem see_put_other {g : Group} {p q : WindowPlace} (hr : g.run = none) (h : q ≠ p) (hl : q.LaneOk) (v : Word) :
    (g.put v p).see q = g.see q := by
  cases p <;> cases q
  case win.win n l m k => exact (seeWin_put hr n l v m hl).trans (if_neg fun e => h (by rw [e.1, e.2]))
  case uni.uni n m => exact (seeUni_put hr n v m).trans (if_neg fun e => h (by rw [e]))
  case prd.prd n m => exact (seePrd_put hr n v m).trans (if_neg fun e => h (by rw [e]))
  case frame.frame n l m k => exact (seeFrame_put hr n l v m hl).trans (if_neg fun e => h (by rw [e.1, e.2]))
  all_goals rfl

theorem putWin_frame (r : Run) (n l : Nat) (v : Word) : ∃ stk wpoke, r.putWin n l v = { r with stk := stk, wpoke := wpoke } := by
  unfold Run.putWin
  cases (if laneOn r.mask l then r.winPlace n else none) with
  | none => exact ⟨r.stk, _, rfl⟩
  | some k => exact ⟨_, r.wpoke, rfl⟩

theorem see_putRun_other {g : Group} {r : Run} {p q : WindowPlace} (hr : g.run = some r) (h : q ≠ p) (hl : q.LaneOk) (v : Word) :
    (g.putRun r v p).see q = g.see q := by
  have hg : g.see q = Group.see { g with run := some r } q := by rw [← hr]
  cases p with
  | tmp n l =>
    cases q with
    | tmp m k => exact ((laneAt_mget_putLane r.tmp n l v m hl).trans (if_neg fun e => h (by rw [e.1, e.2]))).trans hg.symm
    | _ => exact hg.symm
  | win n l =>
    obtain ⟨stk, wp, hw⟩ := putWin_frame r n l v
    cases q with
    | win m k => exact (seeWin_putRun hr n l v m hl).trans (if_neg fun e => h (by rw [e.1, e.2]))
    | _ =>
      rw [hg, Group.putRun, Run.put, hw]
      rfl
  | uni n =>
    cases q with
    | uni m => exact (seeUni_putRun hr n v m).trans (if_neg fun e => h (by rw [e]))
    | _ => exact hg.symm
  | prd n =>
    cases q with
    | prd m => exact (seePrd_putRun hr n v m).trans (if_neg fun e => h (by rw [e]))
    | _ => exact hg.symm
  | frame n l =>
    cases q with
    | frame m k => exact (seeFrame_putRun hr n l v m hl).trans (if_neg fun e => h (by rw [e.1, e.2]))
    | _ => exact hg.symm

/-! ## The first words of the window -/

/-- What the first words of the window show of the observed part. -/
def Group.look (g : Group) : Option (Addr × Mask × Nat) := g.observed.map (fun x => Claims.stands x.2)

/-- What they show of the run in progress: the instructions executed and the depth of its working stack. -/
def Group.progress (g : Group) : Option (Nat × Nat) := g.run.map (fun r => (executed 25 r.code.length r.image.code, r.workDepth))

theorem windowHead_congr {g g' : Group} (hl : g'.look = g.look) (hp : g'.progress = g.progress) (c : Cause) (off : Nat) :
    g'.windowHead c off = g.windowHead c off := by
  unfold Group.windowHead
  unfold Group.look at hl
  unfold Group.progress at hp
  cases ho : g.observed with
  | none =>
    rw [ho] at hl
    rw [Option.map_eq_none_iff.1 hl]
  | some x =>
    obtain ⟨n, p⟩ := x
    rw [ho] at hl
    obtain ⟨⟨n', p'⟩, ho', hs⟩ := Option.map_eq_some_iff.1 hl
    obtain ⟨h1, h2, h3⟩ : p'.pc = p.pc ∧ p'.mask = p.mask ∧ p'.depth = p.depth := by simpa [Claims.stands] using hs
    rw [ho']
    cases hr : g.run with
    | none =>
      rw [hr] at hp
      simp only [Option.map_eq_none_iff.1 hp, h1, h2, h3]
    | some r =>
      rw [hr] at hp
      obtain ⟨r', hr', he⟩ := Option.map_eq_some_iff.1 hp
      obtain ⟨h4, h5⟩ := Prod.mk.inj he
      simp only [hr', h1, h2, h3, h4, h5, Option.isSome_some]

end Sys2Proof.Machine

namespace Sys2Proof.Machine

/-! ## Groups that show the same words -/

theorem foldl_pick_map {α β : Type} {p : α → α → Bool} {q : β → β → Bool} {h : α → β} (hpq : ∀ x y, p x y = q (h x) (h y)) (xs : List α) (x : α) :
    h (xs.foldl (fun b y => if p y b then y else b) x) = (xs.map h).foldl (fun b y => if q y b then y else b) (h x) := by
  induction xs generalizing x with
  | nil => rfl
  | cons y ys ih => rw [List.foldl_cons, ih, List.map_cons, List.foldl_cons, apply_ite h, hpq]

/-- The best of a list, by an order that looks at `h` alone. -/
theorem pickBy_map {α β : Type} {p : α → α → Bool} {q : β → β → Bool} {h : α → β} (hpq : ∀ x y, p x y = q (h x) (h y)) (xs : List α) :
    (pickBy p xs).map h = pickBy q (xs.map h) := by
  cases xs with
  | nil => rfl
  | cons x xs => exact congrArg some (foldl_pick_map hpq xs x)

/-- Parts that stand where the parts of a group stand look the same. -/
theorem look_congr {g g' : Group} (hr : g'.run.map Run.split = g.run.map Run.split) (hp : g'.pend = g.pend) (ho : g'.ovf = g.ovf)
    (h : ∀ n, (g'.splits.getD n none).map Claims.stands = (g.splits.getD n none).map Claims.stands) : g'.look = g.look := by
  have hslots : g'.slots.map (fun x => Claims.stands x.2) = g.slots.map (fun x => Claims.stands x.2) := by
    unfold Group.slots
    rw [List.map_filterMap, List.map_filterMap]
    refine congrArg (List.filterMap · _) (funext fun n => ?_)
    rw [Option.map_map, Option.map_map]
    exact h n
  unfold Group.look Group.observed
  cases hg : g.run with
  | none =>
    rw [hg] at hr
    rw [Option.map_eq_none_iff.1 hr]
    have hpick (xs : List (Option Nat × Part)) : (pickBy (fun x y => decide (x.2.pc.toNat < y.2.pc.toNat)) xs).map (fun x => Claims.stands x.2) =
        pickBy (fun a b : Addr × Mask × Nat => decide (a.1.toNat < b.1.toNat)) (xs.map (fun x => Claims.stands x.2)) :=
      pickBy_map (h := fun x => Claims.stands x.2) (q := fun a b => decide (a.1.toNat < b.1.toNat)) (fun _ _ => rfl) xs
    simp only [hpick, List.map_append, List.map_map, Function.comp_def, hslots, hp, ho]
  | some r =>
    rw [hg] at hr
    obtain ⟨r', hr', hs⟩ := Option.map_eq_some_iff.1 hr
    simp only [hr', hs, Option.map_map, Function.comp_def]
    exact h r.split

theorem windowWord_congr {g g' : Group} (hf : g'.fgran = g.fgran) (hl : g'.look = g.look) (hp : g'.progress = g.progress)
    (hs : ∀ q, g'.see q = g.see q) (c : Cause) (off : Nat) : g'.windowWord c off = g.windowWord c off := by
  rw [Group.windowWord, Group.windowWord, windowHead_congr hl hp, hf, funext hs]

theorem look_touchGroup (s : State) (key : Nat) {g : Group} (h : g.splits.length = 4) : (s.touchGroup key g).look = g.look := by
  obtain ⟨ps, e, st, ht, hps⟩ := touchGroup_frame s key g
  rw [ht]
  refine look_congr rfl rfl rfl fun n => ?_
  show (ps.getD n none).map Claims.stands = _
  rw [← List.getD_map (f := Option.map Claims.stands), hps]
  by_cases hn : n < 4
  · simp [List.getD_eq_getElem?_getD, hn]
  · simp [List.getD_eq_getElem?_getD, hn, h]

theorem windowWord_touchGroup (s : State) (key : Nat) {g : Group} (h : g.splits.length = 4) (c : Cause) (off : Nat) :
    (s.touchGroup key g).windowWord c off = g.windowWord c off :=
  windowWord_congr (g := g) (g' := s.touchGroup key g) rfl (look_touchGroup s key h) rfl (fun q => by cases q <;> rfl) c off

/-! ## A write to the window of a stopped group -/

/-- A write to a place. -/
def Group.write (g : Group) (v : Word) (p : WindowPlace) : Group :=
  match g.run with
  | some r => g.putRun r v p
  | none => g.put v p

/-- A place that a write changes: no temporary between two runs. -/
def Group.Open (g : Group) (p : WindowPlace) : Prop := ∀ n l, p = .tmp n l → g.run.isSome = true

theorem see_write_same {g : Group} {p : WindowPlace} (ho : g.Open p) (hl : p.LaneOk) (v : Word) : (g.write v p).see p = v := by
  unfold Group.write
  cases hr : g.run with
  | some r => exact see_putRun_same hr hl v
  | none =>
    refine see_put_same hr (fun n l hp => ?_) hl v
    have := ho n l hp
    rw [hr] at this
    cases this

theorem see_write_other {g : Group} {p q : WindowPlace} (h : q ≠ p) (hl : q.LaneOk) (v : Word) : (g.write v p).see q = g.see q := by
  unfold Group.write
  cases hr : g.run with
  | some r => exact see_putRun_other hr h hl v
  | none => exact see_put_other hr h hl v

theorem write_closed {g : Group} {p : WindowPlace} (h : ¬g.Open p) (v : Word) : g.write v p = g := by
  unfold Group.Open at h
  push Not at h
  obtain ⟨n, l, rfl, hr⟩ := h
  rw [Group.write, Option.not_isSome_iff_eq_none.1 hr]
  rfl

/-- What a write to a place leaves as it is. -/
structure Beside (g g' : Group) : Prop where
  guest : g'.guest = g.guest
  ended : g'.ended = g.ended
  dbg : g'.dbg = g.dbg
  splits : g'.splits = g.splits
  fgran : g'.fgran = g.fgran
  look : g'.look = g.look
  progress : g'.progress = g.progress

theorem beside_putRun {g : Group} {r : Run} (hr : g.run = some r) (v : Word) (p : WindowPlace) : Beside g (g.putRun r v p) := by
  have hsame : (r.put g v p).split = r.split ∧ (r.put g v p).image = r.image ∧ (r.put g v p).code = r.code ∧
      (r.put g v p).workDepth = r.workDepth := by
    cases p with
    | win n l =>
      simp only [Run.put, Run.putWin]
      cases (if laneOn r.mask l then r.winPlace n else none) with
      | none => exact ⟨rfl, rfl, rfl, rfl⟩
      | some k => exact ⟨rfl, rfl, rfl, by simp [Run.workDepth]⟩
    | _ => exact ⟨rfl, rfl, rfl, rfl⟩
  obtain ⟨h1, h2, h3, h4⟩ := hsame
  refine ⟨rfl, rfl, rfl, rfl, rfl, look_congr ?_ rfl rfl fun _ => rfl, ?_⟩
  · rw [hr]
    exact congrArg some h1
  · rw [Group.progress, Group.progress, hr]
    simp only [Group.putRun, Option.map_some, h2, h3, h4]

theorem beside_put (g : Group) (v : Word) (p : WindowPlace) : Beside g (g.put v p) := by
  cases p <;> exact ⟨rfl, rfl, rfl, rfl, rfl, look_congr rfl rfl rfl fun _ => rfl, rfl⟩

theorem beside_write (g : Group) (v : Word) (p : WindowPlace) : Beside g (g.write v p) := by
  unfold Group.write
  cases hr : g.run with
  | some r => exact beside_putRun hr v p
  | none => exact beside_put g v p

/-- The word written reads back. -/
theorem windowWord_write_same {g : Group} {p : WindowPlace} {off : Nat} (hp : windowPlace g.fgran off = some p) (h4 : off % 4 = 0)
    (ho : g.Open p) (v : Word) (c : Cause) : (g.write v p).windowWord c off = v := by
  rw [Group.windowWord, if_neg (Nat.not_lt.2 (windowPlace_head hp)), (beside_write g v p).fgran, hp]
  exact see_write_same ho (windowPlace_spec hp h4).2 v

/-- Every other word reads as before. -/
theorem windowWord_write_other {g : Group} {p : WindowPlace} {off o : Nat} (hp : windowPlace g.fgran off = some p) (h4 : off % 4 = 0)
    (h4' : o % 4 = 0) (h : o ≠ off) (v : Word) (c : Cause) : (g.write v p).windowWord c o = g.windowWord c o := by
  have hb := beside_write g v p
  rw [Group.windowWord, Group.windowWord, windowHead_congr hb.look hb.progress, hb.fgran]
  cases hq : windowPlace g.fgran o with
  | none => rfl
  | some q => rw [Option.elim_some, Option.elim_some, see_write_other (windowPlace_ne hp hq h4 h4' h) (windowPlace_spec hq h4').2]

/-- What the debugger may write are the places that a write changes. -/
theorem writable_iff (g : Group) (off : Nat) : Claims.Writable g off ↔ ∃ p, windowPlace g.fgran off = some p ∧ g.Open p := by
  have hopen {p : WindowPlace} (hp : ∀ n l, p ≠ .tmp n l) : g.Open p := fun n l h => absurd h (hp n l)
  unfold Claims.Writable windowPlace
  split_ifs with h1 h2 h3 h4 h5
  · constructor
    · rintro (⟨-, -, hr⟩ | h | h | h)
      · exact ⟨_, rfl, fun _ _ _ => hr⟩
      all_goals omega
    · rintro ⟨p, hp, ho⟩
      exact .inl ⟨h1.1, h1.2, ho _ _ (Option.some.inj hp).symm⟩
  · exact ⟨fun _ => ⟨_, rfl, hopen fun _ _ h => by cases h⟩, fun _ => .inr (.inl h2)⟩
  · exact ⟨fun _ => ⟨_, rfl, hopen fun _ _ h => by cases h⟩, fun _ => .inr (.inr (.inl (by omega)))⟩
  · exact ⟨fun _ => ⟨_, rfl, hopen fun _ _ h => by cases h⟩, fun _ => .inr (.inr (.inl (by omega)))⟩
  · exact ⟨fun _ => ⟨_, rfl, hopen fun _ _ h => by cases h⟩, fun _ => .inr (.inr (.inr h5))⟩
  · exact ⟨fun h => by omega, fun ⟨p, hp, _⟩ => by cases hp⟩

/-- The change that a write to the window makes of a group. -/
def Group.windowPut (g : Group) (off : Nat) (v : Word) : Group :=
  match g.dbg, g.run with
  | .stopped _, some r => g.pokeRun r off v
  | .stopped _, none => g.poke off v
  | _, _ => g

theorem windowPut_stopped {g : Group} {c : Cause} (hd : g.dbg = .stopped c) (off : Nat) (v : Word) :
    g.windowPut off v = (windowPlace g.fgran off).elim g (g.write v) := by
  cases hr : g.run with
  | some r =>
    have hw : g.write v = g.putRun r v := funext fun p => by simp only [Group.write, hr]
    simp only [Group.windowPut, hd, hr, pokeRun_eq, hw]
  | none =>
    have hw : g.write v = g.put v := funext fun p => by simp only [Group.write, hr]
    simp only [Group.windowPut, hd, hr, poke_eq, hw]

theorem windowPut_running {g : Group} (hd : ∀ c, g.dbg ≠ .stopped c) (off : Nat) (v : Word) : g.windowPut off v = g := by
  unfold Group.windowPut
  split
  · rename_i h _
    exact absurd h (hd _)
  · rename_i h _
    exact absurd h (hd _)
  · rfl

end Sys2Proof.Machine

namespace Sys2Proof.Claims

open Sys2Proof.Machine

theorem exec_debugWindowWrite {s : State} {guest off : Nat} {v : Word} (h4 : off % 4 = 0) :
    exec (.debugWindowWrite guest off v) s = .next (s.onSelected guest (fun g => g.windowPut off v)).refresh :=
  congrArg (fun t : State => Host.Outcome.next t.refresh) (if_neg (not_not.2 h4))

/-- The group that DBGSEL names after a change to it and the upkeep. -/
theorem selected_refresh {s : State} {guest core slot : Nat} {g : Group} {f : Group → Group} (h : Selected s guest core slot g)
    (hg : (f g).guest = g.guest) (he : (f g).ended = g.ended) :
    ∃ t : State, ∃ k, (s.onSelected guest f).refresh.mem = s.mem ∧ Selected (s.onSelected guest f).refresh guest core slot (t.touchGroup k (f g)) := by
  rw [onSelected_some h]
  obtain ⟨hc, hs, hd, hgr, hq, hend⟩ := h
  refine ⟨s.modGroup core slot f, gkey core slot, rfl, hc, hs, hd, ?_, hg.trans hq, he.trans hend⟩
  rw [group_refresh, group_modGroup, if_pos rfl, hgr]
  rfl

theorem windowRead_running {s : State} {guest core slot : Nat} {g : Group} (h : Selected s guest core slot g) (hd : ∀ c, g.dbg ≠ .stopped c)
    (off : Nat) : s.windowRead guest off = 0 := by
  unfold State.windowRead
  rw [selected_of_selected h]
  cases hg : g.dbg with
  | stopped c => exact absurd hg (hd c)
  | running => simp only [hg]
  | requested => simp only [hg]

/-- A write to the window that changes nothing of the group. -/
theorem leads_ignored {s : State} {guest core slot off : Nat} {g : Group} {v : Word} (h : Selected s guest core slot g) (h4 : off % 4 = 0)
    (hf : g.windowPut off v = g) : Leads (.debugWindowWrite guest off v) s (fun t => t.mem = s.mem ∧
      GroupIs t core slot (fun g' => SameState g g' ∧ g'.run = g.run)) :=
  leads_onSelected (f := fun g => g.windowPut off v) (p := fun g' => g'.run = g.run) h (exec_debugWindowWrite h4)
    (by rw [hf]; exact sameState_refl g) (fun t k => by rw [hf]; rfl)

theorem window (s : State) : Window s := by
  intro guest core slot off g v h hlen h4
  refine ⟨fun c hd _ => ⟨fun hw => ?_, fun hw => ?_⟩, fun hd => ?_⟩
  · obtain ⟨p, hp, ho⟩ := (writable_iff g off).1 hw
    have hf : g.windowPut off v = g.write v p := by rw [windowPut_stopped hd, hp, Option.elim_some]
    have hb := beside_write g v p
    obtain ⟨t, k, hm, ht⟩ := selected_refresh (f := fun g => g.windowPut off v) h (hf ▸ hb.guest) (hf ▸ hb.ended)
    have hread (o : Nat) : State.windowRead (s.onSelected guest (fun g => g.windowPut off v)).refresh guest o = (g.write v p).windowWord c o := by
      rw [windowRead_eq ht (hf ▸ hb.dbg.trans hd), windowWord_touchGroup t k (by rw [hf, hb.splits, hlen]), hf]
    refine ⟨_, exec_debugWindowWrite h4, hm, ?_, fun o h4' hne => ?_⟩
    · rw [hread, windowWord_write_same hp h4 ho]
    · rw [hread, windowWord_write_other hp h4 h4' hne, windowRead_eq h hd]
  · refine leads_ignored h h4 ?_
    rw [windowPut_stopped hd]
    cases hp : windowPlace g.fgran off with
    | none => rfl
    | some p => exact write_closed (fun ho => hw ((writable_iff g off).2 ⟨p, hp, ho⟩)) v
  · have hf := windowPut_running hd off v
    obtain ⟨t, k, -, ht⟩ := selected_refresh (f := fun g => g.windowPut off v) h (by rw [hf]) (by rw [hf])
    obtain ⟨u, hx, hm, hgi⟩ := leads_ignored h h4 hf
    obtain rfl : (s.onSelected guest (fun g => g.windowPut off v)).refresh = u := by
      rw [exec_debugWindowWrite h4] at hx
      exact Host.Outcome.next.inj hx
    exact ⟨_, hx, hm, windowRead_running ht (by rw [hf]; exact hd) off, hgi⟩

/-- Settles O54: what a tick, a command and a write to the window make of a group, and that the upkeep after them keeps its parts,
its registers and the words of the window. -/
theorem debugger : Obligations.Debugger := fun s => ⟨samples s, traceClock s, selectedCommands s, contextCommands s, window s⟩

end Sys2Proof.Claims

/-! # Segment instructions, block quantisation and system registers in a run that holds (O19, O21, O30) -/

namespace Sys2Proof.Claims

open Sys2Proof.Machine

/-! ## The instructions complete -/

/-- The check of R266 and R267 passes for a register that is named and that the mode may use. -/
theorem sysCheck_pass (c : Cur) (s : State) {n : Nat} (hn : sysNamed n = true) (f : Unit → Res) : c.sysCheck s n true f = f () := by
  simp [Cur.sysCheck, hn]

/-- The run that holds is the one in focus of its machine. -/
theorem cur_holdingState (sup : Bool) : (holdingState sup).cur = some (holdingCur sup) := rfl

section
variable {s : State} {c : Cur} (hc : s.cur = some c)
include hc

theorem completes_shfl (gd : Guard) (m : ShflMode) : Completes (.shfl gd m) s c :=
  ⟨_, _, show execShfl gd m s = _ from runInstr_ok hc rfl⟩

theorem completes_qblk (gd : Guard) (ty : BlkTy) : Completes (.qblk gd ty) s c :=
  ⟨_, _, show execQblk gd ty s = _ from runInstr_ok hc rfl⟩

theorem completes_mfs (gd : Guard) {n : BitVec 12} (hn : sysNamed n.toNat = true) (hr : sysReadable c.g.sup n.toNat = true) :
    Completes (.mfs gd n) s c :=
  completes_of_ok hc rfl (by rw [hr]; exact sysCheck_pass c s hn _)

end

/-! ## The refutations -/

/-- Refutes O19: `shfl` in a run that holds leaves no hold mark, where `LaneWise` says that the mark stays. -/
theorem not_segmentInstructions : ¬ Obligations.SegmentInstructions := by
  intro h
  obtain ⟨hs, -⟩ := h (holdingState false) (holdingCur false) guardOff (cur_holdingState false) (by decide)
  exact (completes_shfl (cur_holdingState false) _ _).not_laneWise (cur_holdingState false) rfl (hs (by decide) .idx)

/-- Refutes O21: `qblk` in a run that holds leaves no hold mark, where `LaneWise` says that the mark stays. -/
theorem not_blockQuantisation : ¬ Obligations.BlockQuantisation := by
  intro h
  obtain ⟨hq, -⟩ := h (holdingState false) (holdingCur false) guardOff (cur_holdingState false)
  exact (completes_qblk (cur_holdingState false) _ _).not_laneWise (cur_holdingState false) rfl
    (hq (by decide) _ List.mem_cons_self)

/-- Refutes O30 by its reads: `mfs` of GSTAT in a run that holds leaves no hold mark, where `LaneWise` says that the mark
stays. -/
theorem not_systemRegisters : ¬ Obligations.SystemRegisters := by
  rintro ⟨hr, -⟩
  obtain ⟨hg, -⟩ := hr (holdingState false) (holdingCur false) guardOff 0x000 (cur_holdingState false)
  have hl := hg _ List.mem_cons_self rfl
  rw [if_neg (by simp)] at hl
  exact (completes_mfs (cur_holdingState false) _ rfl rfl).not_laneWise (cur_holdingState false) rfl hl

end Sys2Proof.Claims

/-! # The constants of the coin generator (O23) -/

namespace Sys2Proof.Claims

open Sys2Proof.Machine

/-! ## Nearest integers -/

/-- An integer is within one half of a number. -/
def Near (n : Int) (x : ℝ) : Prop := |(n : ℝ) - x| ≤ 1 / 2

theorem near_iff {n : Int} {x : ℝ} : Near n x ↔ (n : ℝ) - 1 / 2 ≤ x ∧ x ≤ n + 1 / 2 := by
  rw [Near, abs_sub_comm, abs_sub_le_iff]
  constructor <;> rintro ⟨h, h'⟩ <;> constructor <;> linarith

/-- An interval of rational numbers lies within one half of an integer. -/
abbrev Around (n : Int) (lo hi : ℚ) : Prop := (n : ℚ) - 1 / 2 ≤ lo ∧ hi ≤ n + 1 / 2

theorem Around.near {n : Int} {lo hi : ℚ} {x : ℝ} (h : Around n lo hi) (hlo : (lo : ℝ) ≤ x) (hhi : x ≤ hi) : Near n x := by
  have h₁ : (((n : ℚ) - 1 / 2 : ℚ) : ℝ) ≤ lo := Rat.cast_le.2 h.1
  have h₂ : (hi : ℝ) ≤ ((n : ℚ) + 1 / 2 : ℚ) := Rat.cast_le.2 h.2
  push_cast at h₁ h₂
  exact near_iff.2 ⟨h₁.trans hlo, hhi.trans h₂⟩

/-! ## Logarithms enclosed by the series of atanh -/

/-- The first `n` terms of atanh z = z + z^3/3 + z^5/5 + ... -/
def atanhSum (z : ℚ) : Nat → ℚ
  | 0 => 0
  | n + 1 => atanhSum z n + z ^ (2 * n + 1) / (2 * n + 1)

theorem cast_atanhSum (z : ℚ) (n : Nat) :
    (atanhSum z n : ℝ) = ∑ i ∈ Finset.range n, (z : ℝ) ^ (2 * i + 1) / (2 * i + 1) := by
  induction n with
  | zero => simp [atanhSum]
  | succ n ih =>
    rw [Finset.sum_range_succ, ← ih]
    push_cast [atanhSum]
    rfl

/-- The argument at which 2 atanh is the logarithm of `y`. -/
def atanhArg (y : ℚ) : ℚ := (y - 1) / (y + 1)

/-- The sum of `n` terms, which is below log y, and the bound above it. -/
def logLow (n : Nat) (y : ℚ) : ℚ := 2 * atanhSum (atanhArg y) n
def logHigh (n : Nat) (y : ℚ) : ℚ := logLow n y + 2 * (atanhArg y ^ (2 * n + 1) / (1 - atanhArg y ^ 2))

section
variable {y : ℚ} (hy : 1 ≤ y)
include hy

theorem atanhArg_nonneg : 0 ≤ (atanhArg y : ℝ) := by
  have h : 0 ≤ atanhArg y := div_nonneg (by linarith) (by linarith)
  exact_mod_cast h

theorem atanhArg_lt_one : (atanhArg y : ℝ) < 1 := by
  have h : atanhArg y < 1 := (div_lt_one (by linarith)).2 (by linarith)
  exact_mod_cast h

theorem log_atanhArg : Real.log ((1 + (atanhArg y : ℝ)) / (1 - atanhArg y)) = Real.log y := by
  have h : (1 + atanhArg y) / (1 - atanhArg y) = y := by
    have hp : y + 1 ≠ 0 := by linarith
    rw [atanhArg, one_add_div hp, one_sub_div hp, div_div_div_cancel_right₀ hp]
    ring
  congr 1
  exact_mod_cast h

theorem logLow_le_log (n : Nat) : (logLow n y : ℝ) ≤ Real.log y := by
  have h := Real.sum_range_le_log_div (atanhArg_nonneg hy) (atanhArg_lt_one hy) n
  rw [log_atanhArg hy, ← cast_atanhSum] at h
  push_cast [logLow]
  linarith

theorem log_le_logHigh (n : Nat) : Real.log y ≤ logHigh n y := by
  have h := Real.log_div_le_sum_range_add (atanhArg_nonneg hy) (atanhArg_lt_one hy) n
  rw [log_atanhArg hy, ← cast_atanhSum] at h
  push_cast [logHigh, logLow]
  linarith

end

/-- ln 2 to 15 decimals, from below and above. -/
def ln2Low : ℚ := 693147180559945 / 10 ^ 15
def ln2High : ℚ := 693147180559946 / 10 ^ 15

theorem ln2Low_le : (ln2Low : ℝ) ≤ Real.log 2 := by
  have h : ln2Low ≤ logLow 20 2 := by decide +kernel
  have h' : (ln2Low : ℝ) ≤ logLow 20 2 := by exact_mod_cast h
  exact_mod_cast h'.trans (logLow_le_log one_le_two 20)

theorem le_ln2High : Real.log 2 ≤ ln2High := by
  have h : logHigh 20 2 ≤ ln2High := by decide +kernel
  have h' : (logHigh 20 2 : ℝ) ≤ ln2High := by exact_mod_cast h
  exact_mod_cast (log_le_logHigh one_le_two 20).trans h'

theorem ln2Low_pos : (0 : ℝ) < ln2Low := by norm_num [ln2Low]

/-! ## The polynomials of Exp2Fix and Lse2i -/

theorem near_drawC1 : Near drawC1 (2 ^ 30 * Real.log 2) := by
  have h : Around drawC1 (2 ^ 30 * ln2Low) (2 ^ 30 * ln2High) := by decide +kernel
  refine h.near ?_ ?_ <;> push_cast <;> gcongr
  exacts [ln2Low_le, le_ln2High]

theorem near_drawC2 : Near drawC2 (2 ^ 29 * Real.log 2 ^ 2) := by
  have h : Around drawC2 (2 ^ 29 * ln2Low ^ 2) (2 ^ 29 * ln2High ^ 2) := by decide +kernel
  refine h.near ?_ ?_ <;> push_cast <;> gcongr
  exacts [ln2Low_pos.le, ln2Low_le, le_ln2High]

theorem near_drawC3 : Near drawC3 (2 ^ 30 * Real.log 2 ^ 3 / 6) := by
  have h : Around drawC3 (2 ^ 30 * ln2Low ^ 3 / 6) (2 ^ 30 * ln2High ^ 3 / 6) := by decide +kernel
  refine h.near ?_ ?_ <;> push_cast <;> gcongr
  exacts [ln2Low_pos.le, ln2Low_le, le_ln2High]

/-- A quotient by ln 2 is enclosed by the quotients of its numerator's bounds by those of ln 2. -/
theorem Around.near_div_ln2 {n : Int} {lo hi : ℚ} {x : ℝ} (h : Around n (lo / ln2High) (hi / ln2Low)) (h₀ : 0 ≤ lo)
    (hlo : (lo : ℝ) ≤ x) (hhi : x ≤ hi) : Near n (x / Real.log 2) := by
  have hx : 0 ≤ x := le_trans (by exact_mod_cast h₀) hlo
  have hl := ln2Low_pos
  refine h.near ?_ ?_ <;> push_cast <;> gcongr
  exacts [le_ln2High, hx.trans hhi, ln2Low_le]

theorem near_drawK1 : Near drawK1 (2 ^ 30 / Real.log 2) := by
  have h : Around drawK1 (2 ^ 30 / ln2High) (2 ^ 30 / ln2Low) := by decide +kernel
  exact h.near_div_ln2 (by norm_num) (by norm_num) (by norm_num)

theorem near_drawK2 : Near drawK2 (2 ^ 29 / Real.log 2) := by
  have h : Around drawK2 (2 ^ 29 / ln2High) (2 ^ 29 / ln2Low) := by decide +kernel
  exact h.near_div_ln2 (by norm_num) (by norm_num) (by norm_num)

theorem near_drawK3 : Near drawK3 (2 ^ 30 / (3 * Real.log 2)) := by
  have h : Around drawK3 (2 ^ 30 / 3 / ln2High) (2 ^ 30 / 3 / ln2Low) := by decide +kernel
  rw [← div_div]
  exact h.near_div_ln2 (by norm_num) (by norm_num) (by norm_num)

theorem near_drawK4 : Near drawK4 (2 ^ 28 / Real.log 2) := by
  have h : Around drawK4 (2 ^ 28 / ln2High) (2 ^ 28 / ln2Low) := by decide +kernel
  exact h.near_div_ln2 (by norm_num) (by norm_num) (by norm_num)

/-! ## The table T: a number is compared with 2^(-j/64) by its 64th power -/

theorem two_rpow_pow (j : Nat) : ((2 : ℝ) ^ (-(j : ℝ) / 64)) ^ 64 = 1 / 2 ^ j := by
  rw [← Real.rpow_natCast, ← Real.rpow_mul two_pos.le]
  norm_num [Real.rpow_neg]

section
variable {a : ℚ} (ha : 0 ≤ a) (j : Nat)
include ha

theorem le_two_rpow_iff : (a : ℝ) ≤ (2 : ℝ) ^ (-(j : ℝ) / 64) ↔ a ^ 64 * 2 ^ j ≤ 1 := by
  have ha' : (0 : ℝ) ≤ a := by exact_mod_cast ha
  rw [← pow_le_pow_iff_left₀ ha' (by positivity) (by norm_num : 64 ≠ 0), two_rpow_pow, le_div_iff₀ (by positivity)]
  exact_mod_cast Iff.rfl

theorem two_rpow_le_iff : (2 : ℝ) ^ (-(j : ℝ) / 64) ≤ a ↔ 1 ≤ a ^ 64 * 2 ^ j := by
  have ha' : (0 : ℝ) ≤ a := by exact_mod_cast ha
  rw [← pow_le_pow_iff_left₀ (by positivity) ha' (by norm_num : 64 ≠ 0), two_rpow_pow, div_le_iff₀ (by positivity)]
  exact_mod_cast Iff.rfl

end

/-- The numbers one half beside an entry of T, over 2^30. -/
def besideT (j : Nat) (x : ℚ) : ℚ := (drawT j + x) / 2 ^ 30

/-- The 64th powers of these numbers lie about that of 2^(-j/64). -/
theorem drawT_powers : ∀ j < 64, 0 ≤ besideT j (-1 / 2) ∧ besideT j (-1 / 2) ^ 64 * 2 ^ j ≤ 1 ∧
    0 ≤ besideT j (1 / 2) ∧ 1 ≤ besideT j (1 / 2) ^ 64 * 2 ^ j := by
  decide +kernel

theorem near_drawT {j : Nat} (hj : j < 64) : Near (drawT j) (2 ^ 30 * (2 : ℝ) ^ (-(j : ℝ) / 64)) := by
  obtain ⟨hl₀, hl, hh₀, hh⟩ := drawT_powers j hj
  have hlo := (le_two_rpow_iff hl₀ j).2 hl
  have hhi := (two_rpow_le_iff hh₀ j).2 hh
  push_cast [besideT] at hlo hhi
  exact near_iff.2 ⟨by linarith, by linarith⟩

/-! ## The tables Rc and Lt -/

/-- The nearest integer of a quotient, by the remainder of the division. -/
theorem near_div {q r d N : Nat} (hd : 0 < d) (hN : d * q + r = N) (hr : r < d) :
    (d ≤ 2 * r → Near (q + 1) (N / d)) ∧ (2 * r ≤ d → Near q (N / d)) := by
  have hd' : (0 : ℝ) < d := by exact_mod_cast hd
  have hN' : (d : ℝ) * q + r = N := by exact_mod_cast hN
  have hr' : (r : ℝ) < d := by exact_mod_cast hr
  constructor <;> intro h <;> rw [near_iff, le_div_iff₀ hd', div_le_iff₀ hd', ← hN'] <;> push_cast
  · have h' : (d : ℝ) ≤ 2 * r := by exact_mod_cast h
    constructor <;> linarith
  · have h' : (2 * r : ℝ) ≤ d := by exact_mod_cast h
    constructor <;> linarith

theorem near_drawRc (j : Nat) : Near (drawRc j) (2 ^ 36 / (64 + j)) := by
  obtain ⟨hup, hdown⟩ := near_div (by omega) (Nat.div_add_mod (2 ^ 36) (64 + j)) (Nat.mod_lt _ (by omega))
  simp only [Nat.cast_pow, Nat.cast_add, Nat.cast_ofNat] at hup hdown
  rw [drawRc]
  split
  · exact hup (by omega)
  · exact hdown (by omega)

/-- A logarithm to the base 2 is a quotient by ln 2. -/
theorem Around.near_logb {n : Int} {k : Nat} {y : ℚ} (h : Around n (2 ^ 30 * logLow k y / ln2High) (2 ^ 30 * logHigh k y / ln2Low))
    (hy : 1 ≤ y) (h₀ : 0 ≤ logLow k y) : Near n (2 ^ 30 * Real.logb 2 y) := by
  rw [Real.logb, ← mul_div_assoc]
  refine h.near_div_ln2 (mul_nonneg (by norm_num) h₀) ?_ ?_ <;> push_cast <;> gcongr
  exacts [logLow_le_log hy k, log_le_logHigh hy k]

/-- The entries of Rc and Lt by the sums of 12 terms. -/
theorem drawLt_around : ∀ j < 64, 1 ≤ 2 ^ 30 / (drawRc j : ℚ) ∧ 0 ≤ logLow 12 (2 ^ 30 / drawRc j) ∧
    Around (drawLt j) (2 ^ 30 * logLow 12 (2 ^ 30 / drawRc j) / ln2High) (2 ^ 30 * logHigh 12 (2 ^ 30 / drawRc j) / ln2Low) := by
  decide +kernel

theorem near_drawLt {j : Nat} (hj : j < 64) : Near (drawLt j) (-2 ^ 30 * Real.logb 2 (drawRc j / 2 ^ 30)) := by
  obtain ⟨hy, h₀, h⟩ := drawLt_around j hj
  have he : -2 ^ 30 * Real.logb 2 (drawRc j / 2 ^ 30) = 2 ^ 30 * Real.logb 2 ((2 ^ 30 / drawRc j : ℚ) : ℝ) := by
    push_cast
    rw [← inv_div (2 ^ 30 : ℝ), Real.logb_inv, neg_mul_neg]
  rw [he]
  exact h.near_logb hy h₀

/-- Settles O23: the polynomials' constants and Lt by bounds of logarithms from the series of atanh, T by 64th powers, Rc by the
remainder of its division. -/
theorem drawConstants : Obligations.DrawConstants :=
  ⟨fun j hj => ⟨near_drawT hj, near_drawRc j, near_drawLt hj⟩, near_drawC1, near_drawC2, near_drawC3,
    near_drawK1, near_drawK2, near_drawK3, near_drawK4⟩

end Sys2Proof.Claims
